-- ==== Sys2Proof/Word.lean ====
section
/-! DEFINITION. The word types of the KV3-A1 model. -/

namespace Sys2Proof

/-- One byte of memory. -/
abbrev Byte := BitVec 8

/-- A string of bytes, the lowest address first (R4). -/
abbrev Bytes := List (BitVec 8)

/-- A register word (R58): every register of the window is 64 bits wide. -/
abbrev Word := BitVec 64

/-- The 64 lanes of a vector register or of an accumulator row, 32 bits each (R177). -/
abbrev Lanes := Vector (BitVec 32) 64

end Sys2Proof
end

