-- ==== Sys2Proof/Syntax.lean ====
section
/-! DEFINITION. The commands of the KV3-A1: one constructor of Instr for each row of the table, with the operands that the
outside party (host, firmware, scan head, Caravan peer, tile) gives it, and for the device's own events what they found. -/

namespace Sys2Proof

/-- Who makes a register access (R514): the host port, firmware, the I3C management bus, JTAG. -/
inductive Src where
  | host | firmware | mgmt | jtag
  deriving DecidableEq, Repr

/-- A host access as the bus carries it: channel, bank, row, column (R34). In bank-group mode the bank field is BG then BA. -/
structure BusAddr where
  ch : BitVec 2
  bank : BitVec 4
  row : BitVec 16
  col : BitVec 11
  deriving DecidableEq, Repr

/-- A host read: a burst (BL16 or BL32) or a mode register read (R24, R32). -/
inductive HostRd where
  | burst (a : BusAddr) (bl32 : Bool)
  | mode (ch : BitVec 2) (mr : BitVec 7)
  deriving DecidableEq, Repr

/-- A host write burst: 32 bytes (BL16) or 64 bytes (BL32) as DQ carries them, and for each whether DMI is low. A high DMI masks the byte, or, with
write DBI on, says that DQ carries it inverted (R23). -/
structure Burst where
  addr : BusAddr
  data : Bytes
  mask : List Bool
  deriving DecidableEq, Repr

/-- The speed bins of R26, by data rate in MT/s. -/
inductive SpeedBin where
  | r3200 | r4267 | r5500 | r6400 | r7500 | r8533
  deriving DecidableEq, Repr

/-- Start or completion of a training step (R29, R31). -/
inductive Phase where
  | enter | complete
  deriving DecidableEq, Repr

/-- The refresh commands of R54. -/
inductive RefreshKind where
  | allBank | perBank | management
  deriving DecidableEq, Repr

/-- The idle modes of R55. -/
inductive IdleMode where
  | powerDown | selfRefresh | deepSleep
  deriving DecidableEq, Repr

/-- A write of one 8-byte register word: who writes, the data, the byte enables (R532). -/
structure RegWr where
  src : Src
  data : Word
  be : BitVec 8
  deriving DecidableEq, Repr

/-- A REGISTER_WRITE: a host burst on the window, or a single register word at an offset (R532). -/
inductive RegAccess where
  | host (b : Burst)
  | reg (off : BitVec 16) (w : RegWr)
  deriving DecidableEq, Repr

/-- A mailbox request record without MOP, which the row gives, and without GO (R66): the reserved fields, the tag and the
fourteen argument words from offset 0x10. -/
structure MboxRec where
  rsv0 : BitVec 56
  tag : BitVec 32
  rsvHi : BitVec 16
  rsvLo : BitVec 15
  args : List Word
  deriving DecidableEq, Repr

/-- A range of bytes: first byte and length. -/
structure Span where
  first : Nat
  len : Nat
  deriving DecidableEq, Repr

/-- One tile operation (R208). `gap` counts the issue cycles since the tile's previous operation; 0 places the operation in
the same bundle (log 14). `slot` is the slot number 0 to 15 of R207. -/
structure Op where
  tile : BitVec 6
  gap : Nat
  slot : BitVec 4
  pred : BitVec 3
  pneg : Bool
  dst : BitVec 8
  srcA : BitVec 8
  srcB : BitVec 8
  srcC : BitVec 8
  mod : BitVec 20
  imm : BitVec 64
  deriving DecidableEq, Repr

/-- A box in pixels, the right and bottom edges exclusive. -/
structure Box where
  x0 : BitVec 16
  y0 : BitVec 16
  x1 : BitVec 16
  y1 : BitVec 16
  deriving DecidableEq, Repr

/-- What structuring reports for one line: its text, confidence and reading-order index (R14, R82; log 11). -/
structure LineOut where
  line : BitVec 16
  order : BitVec 16
  conf : Byte
  text : Bytes
  deriving DecidableEq, Repr

/-- What the committing command of a stage found, where the spec leaves it to the routine (log 11). An encoder command reports the uncorrectable
errors that struck its packed rows (R164): page, row index and segment 1 to 255, or 0 for the row's header or the table's shared words. -/
inductive StageOut where
  | none
  | intakeStripe (pid : BitVec 32)
  | layout (pid : BitVec 32) (lines : List Box)
  | cutout (pid : BitVec 32) (corrupt : List (BitVec 16))
  | encoder (hits : List (BitVec 32 × BitVec 16 × Byte))
  | structuring (pid : BitVec 32) (lines : List LineOut) (badLines : List (BitVec 16)) (regionsLost : Bool)
  deriving DecidableEq, Repr

/-- A request to dispatch a command: the job's slot at the tile, the routine, its arguments, what it serves (R175, R176). -/
structure DispatchReq where
  tile : BitVec 6
  part : BitVec 4
  queue : Option (BitVec 16)
  decoder : Option (BitVec 4)
  stage : BitVec 3
  routine : BitVec 16
  args : List (BitVec 64)
  pages : List (BitVec 32)
  deriving DecidableEq, Repr

/-- The memories that scrubbing and errors name (R350). -/
inductive MemKind where
  | dram | stg0 | stg1 | aperture | spad | instr | midway | token | combining | pkg | control
  deriving DecidableEq, Repr

/-- A damaged word that a scrub step found (R350 to R352): depot or tile, word address in the memory, whether it is uncorrectable. In control
state the unit is the copy, 0 or 1, and the word a queue, or 0x10000 and up an entry of the active sequence table (R427). -/
structure ScrubHit where
  unit : Nat
  word : Nat
  ue : Bool
  deriving DecidableEq, Repr

/-- A unit that is tested or retired (R429): its class (R438) and index; a DRAM row is (channel · 128 + bank) · 8192 + row, a staging line of
depot 1 counts from 0x40000. -/
structure UnitId where
  cls : Byte
  idx : Nat
  deriving DecidableEq, Repr

/-- An error that fails the running command of a tile: the unit blamed, the row of R422 for a lost input (0 none, 1 the page buffer of a page
whose preparation has not committed, 2 a prepared page before its layout, 3 the job's committed persistent copy), the free spare that is chosen (R203). -/
structure FailReport where
  tile : BitVec 6
  unit : UnitId
  cause : Byte
  spare : Option (BitVec 7)
  deriving DecidableEq, Repr

/-- An IPv4 or IPv6 address. -/
inductive IpAddr where
  | v4 (a : BitVec 32)
  | v6 (a : BitVec 128)
  deriving DecidableEq, Repr

/-- A received Caravan frame: Ethernet source, VLAN tag, IP source and destination, UDP ports and the UDP payload (R395). -/
structure CvFrame where
  port : BitVec 1
  mac : BitVec 48
  vlan : Option (BitVec 12)
  srcIp : IpAddr
  dstIp : IpAddr
  sport : BitVec 16
  dport : BitVec 16
  payload : Bytes
  deriving DecidableEq, Repr

/-- The wake triggers of R484 that have no row of their own. -/
inductive WakeTrigger where
  | hostExit | i3cWrite | jtagLeaveReset | hour
  deriving DecidableEq, Repr

/-- The commands, one constructor for each row of the table. -/
inductive Instr where
  /-- MODE_REGISTER_WRITE (R32). -/
  | modeRegisterWrite (ch : BitVec 2) (mr : BitVec 7) (v : Byte)
  /-- HOST_PORT_RESET (R25). -/
  | hostPortReset
  /-- COMMAND_BUS_TRAINING (R29). -/
  | commandBusTraining (ch : BitVec 2) (ph : Phase)
  /-- WCK2CK_LEVELLING (R29). -/
  | wck2ckLevelling (ch : BitVec 2) (ph : Phase)
  /-- READ_DQ_CALIBRATION (R29). -/
  | readDqCalibration (ch : BitVec 2) (ph : Phase)
  /-- WRITE_DQ_FIFO_TRAINING (R29). -/
  | writeDqFifoTraining (ch : BitVec 2) (data : Bytes) (ph : Phase)
  /-- ZQ_CALIBRATION (R23). -/
  | zqCalibration (ch : BitVec 2) (latch : Bool)
  /-- REFRESH (R54). -/
  | refresh (ch : BitVec 2) (kind : RefreshKind)
  /-- HOST_IDLE_ENTRY (R55). -/
  | hostIdleEntry (mode : IdleMode)
  /-- HOST_IDLE_EXIT (R55). -/
  | hostIdleExit
  /-- HOST_READ (R26). -/
  | hostRead (a : HostRd) (bin : SpeedBin)
  /-- STAGED_WINDOW_WRITE (R43). -/
  | stagedWindowWrite (b : Burst)
  /-- REGISTER_WRITE (R532). -/
  | registerWrite (r : RegAccess)
  /-- RC_REGISTER_READ (R4). -/
  | rcRegisterRead (src : Src) (off : BitVec 16)
  /-- COMBINING_DRAIN (R42). -/
  | combiningDrain (blk : Nat) (ue : Bool)
  /-- STAGE_REQUEST (R49). -/
  | stageRequest (k : Nat) (w : RegWr)
  /-- STAGE_DONE (R52). -/
  | stageDone (k : Nat) (errs : List Span)
  /-- QUEUE_OPEN (R67). -/
  | queueOpen (r : MboxRec)
  /-- QUEUE_CLOSE (R68). -/
  | queueClose (r : MboxRec)
  /-- QUEUE_QUERY (R68). -/
  | queueQuery (r : MboxRec)
  /-- QUEUE_RESUME (R68). -/
  | queueResume (r : MboxRec)
  /-- QUEUE_CLOSED (R62). -/
  | queueClosed (q : BitVec 16)
  /-- COMMAND_DOORBELL (R72). -/
  | commandDoorbell (value : BitVec 32) (resv : BitVec 10) (g3 : BitVec 4) (id : BitVec 16)
  /-- RING_CONSUME (R80). -/
  | ringConsume (value : BitVec 32) (resv : BitVec 10) (g3 : BitVec 4) (id : BitVec 16)
  /-- COMMAND_FETCH (R74). -/
  | commandFetch (q : BitVec 16)
  /-- NOP (R76). -/
  | nop (q : BitVec 16)
  /-- PAGE (R134). -/
  | page (q : BitVec 16)
  /-- FENCE (R78). -/
  | fence (q : BitVec 16)
  /-- FENCE_COMPLETE (R78). -/
  | fenceComplete (q : BitVec 16)
  /-- PROFILE_LOAD (R154). -/
  | profileLoad (q : BitVec 16)
  /-- SCAN_ARM (R99). -/
  | scanArm (q : BitVec 16)
  /-- SCAN_DISARM (R99). -/
  | scanDisarm (q : BitVec 16)
  /-- KV_TABLE_SWAP (R315). -/
  | kvTableSwap (q : BitVec 16)
  /-- RECORD_WRITE (R79). -/
  | recordWrite (q : BitVec 16)
  /-- PAGE_RELEASE (R15). -/
  | pageRelease (pid : BitVec 32)
  /-- DRAIN_TIMEOUT (R88). -/
  | drainTimeout (q : BitVec 16)
  /-- QEVT_POP (R92). -/
  | qevtPop (src : Src)
  /-- GENERATOR_RUN (R104). -/
  | generatorRun (w : RegWr)
  /-- GENERATOR_STOP (R105). -/
  | generatorStop (w : RegWr)
  /-- PATTERN_RAM_WRITE (R105). -/
  | patternRamWrite (w : RegWr)
  /-- PATTERN_RUN (R102). -/
  | patternRun
  /-- SETHI (R102). -/
  | sethi
  /-- LOOP0 (R102). -/
  | loop0
  /-- LOOP1 (R102). -/
  | loop1
  /-- WAIT_LINE (R103). -/
  | waitLine
  /-- CAPTURE (R110). -/
  | capture
  /-- COLOUR (R110). -/
  | colour
  /-- PATTERN_END (R102). -/
  | patternEnd
  /-- LINE_PERIOD (R103). -/
  | linePeriod
  /-- ENCODER_EDGE (R103). -/
  | encoderEdge
  /-- LANE_TRAIN (R109). -/
  | laneTrain (w : RegWr)
  /-- LANE_LOCK (R109). -/
  | laneLock (lane : BitVec 4)
  /-- SCAN_LINE (R119). -/
  | scanLine (h : BitVec 2) (planes : List (BitVec 2 × List (BitVec 16)))
  /-- RESERVATION (R123). -/
  | reservation (door : Nat)
  /-- CALIBRATE_DARK (R113). -/
  | calibrateDark (h : BitVec 2) (w : RegWr)
  /-- CALIBRATE_WHITE (R113). -/
  | calibrateWhite (h : BitVec 2) (w : RegWr)
  /-- CALIBRATION_DONE (R113). -/
  | calibrationDone (h : BitVec 2)
  /-- CSI2_FRAME_START (R129). -/
  | csi2FrameStart (c : BitVec 1)
  /-- CSI2_FRAME_END (R129). -/
  | csi2FrameEnd (c : BitVec 1)
  /-- CSI2_LINE_PACKET (R128). -/
  | csi2LinePacket (c : BitVec 1) (vc : BitVec 2) (dt : Byte) (hdrOk : Bool) (crcOk : Bool) (px : List (BitVec 16))
  /-- CSI2_OTHER_PACKET (R126). -/
  | csi2OtherPacket (c : BitVec 1) (dt : Byte)
  /-- PREP_STRIPE_COMMIT (R133). -/
  | prepStripeCommit (pid : BitVec 32)
  /-- ENCODER_BATCH_FORM (R163). -/
  | encoderBatchForm (q : BitVec 16)
  /-- CNT_SEL_WRITE (R168). -/
  | cntSelWrite (w : RegWr)
  /-- DISPATCH (R176). -/
  | dispatch (r : DispatchReq)
  /-- ADD (R215). -/
  | add (o : Op)
  /-- SUB (R215). -/
  | sub (o : Op)
  /-- AND (R215). -/
  | sand (o : Op)
  /-- OR (R215). -/
  | sor (o : Op)
  /-- XOR (R215). -/
  | sxor (o : Op)
  /-- SHL (R215). -/
  | shl (o : Op)
  /-- SHR (R215). -/
  | shr (o : Op)
  /-- SAR (R215). -/
  | sar (o : Op)
  /-- MIN (R215). -/
  | smin (o : Op)
  /-- MAX (R215). -/
  | smax (o : Op)
  /-- SCALAR_MUL (R215). -/
  | scalarMul (o : Op)
  /-- MOVI (R215). -/
  | movi (o : Op)
  /-- CMP (R215). -/
  | cmp (o : Op)
  /-- SEL (R215). -/
  | sel (o : Op)
  /-- CYC (R215). -/
  | cyc (o : Op)
  /-- TIME (R215). -/
  | opTime (o : Op)
  /-- AMOV (R215). -/
  | amov (o : Op)
  /-- ADDA (R216). -/
  | adda (o : Op)
  /-- MOVA (R216). -/
  | mova (o : Op)
  /-- SETA (R216). -/
  | seta (o : Op)
  /-- WRAP (R216). -/
  | wrap (o : Op)
  /-- FADD (R217). -/
  | fadd (o : Op)
  /-- FSUB (R217). -/
  | fsub (o : Op)
  /-- FMUL (R217). -/
  | fmul (o : Op)
  /-- FMA (R217). -/
  | fma (o : Op)
  /-- FMIN (R217). -/
  | fmin (o : Op)
  /-- FMAX (R217). -/
  | fmax (o : Op)
  /-- FCMP (R217). -/
  | fcmp (o : Op)
  /-- IADD (R217). -/
  | iadd (o : Op)
  /-- ISUB (R217). -/
  | isub (o : Op)
  /-- VAND (R217). -/
  | vand (o : Op)
  /-- VOR (R217). -/
  | vor (o : Op)
  /-- VXOR (R217). -/
  | vxor (o : Op)
  /-- VSH (R217). -/
  | vsh (o : Op)
  /-- VSEL (R217). -/
  | vsel (o : Op)
  /-- PERM (R217). -/
  | perm (o : Op)
  /-- LSH (R217). -/
  | lsh (o : Op)
  /-- CVT (R258). -/
  | cvt (o : Op)
  /-- EXP2 (R217). -/
  | exp2 (o : Op)
  /-- LOG2 (R217). -/
  | log2 (o : Op)
  /-- RCP (R217). -/
  | rcp (o : Op)
  /-- RSQ (R217). -/
  | rsq (o : Op)
  /-- RSUM (R218). -/
  | rsum (o : Op)
  /-- RMAX (R218). -/
  | rmax (o : Op)
  /-- CUSTOM (R188). -/
  | custom (o : Op)
  /-- MX_MUL (R255). -/
  | mxMul (o : Op)
  /-- WFILL (R221). -/
  | wfill (o : Op)
  /-- SFILL (R219). -/
  | sfill (o : Op)
  /-- LDV (R179). -/
  | ldv (o : Op)
  /-- LDS (R222). -/
  | lds (o : Op)
  /-- STV (R180). -/
  | stv (o : Op)
  /-- STS (R222). -/
  | sts (o : Op)
  /-- PUT (R236). -/
  | put (o : Op)
  /-- PUT_ARRIVAL (R236). -/
  | putArrival (tile : BitVec 6)
  /-- XFER (R233). -/
  | xfer (o : Op)
  /-- XFER_DONE (R233). -/
  | xferDone (tile : BitVec 6) (lane : BitVec 3)
  /-- SXFER (R235). -/
  | sxfer (o : Op)
  /-- SXFER_DONE (R235). -/
  | sxferDone (tile : BitVec 6) (idx : Nat)
  /-- A2V (R223). -/
  | a2v (o : Op)
  /-- V2A (R223). -/
  | v2a (o : Op)
  /-- VMOV (R223). -/
  | vmov (o : Op)
  /-- V2S (R223). -/
  | v2s (o : Op)
  /-- S2V (R223). -/
  | s2v (o : Op)
  /-- POST (R193). -/
  | post (o : Op)
  /-- WAIT (R193). -/
  | wait (o : Op)
  /-- WAIT_SATISFIED (R195). -/
  | waitSatisfied (tile : BitVec 6)
  /-- TEST (R224). -/
  | tokTest (o : Op)
  /-- SY_FENCE (R224). -/
  | syFence (o : Op)
  /-- J (R226). -/
  | jump (o : Op)
  /-- LOOP (R228). -/
  | tileLoop (o : Op)
  /-- END (R229). -/
  | tileEnd (o : Op)
  /-- COMMAND_COMMIT (R413). -/
  | commandCommit (tile : BitVec 6) (out : StageOut)
  /-- NFLAG_CLR_COUNT (R261). -/
  | nflagClrCount (w : RegWr)
  /-- OPERATOR_COMMAND (R262, R263): argument words 0 to 13 are the operator descriptor `desc`, and the request names none beside them. -/
  | operatorCommand (r : DispatchReq) (desc : List (BitVec 64))
  /-- CODEC_PACK (R287). -/
  | codecPack (part : BitVec 4) (pages : List (BitVec 32)) (words : List (BitVec 64))
  /-- CODEC_UNPACK (R286). -/
  | codecUnpack (part : BitVec 4) (pages : List (BitVec 32)) (words : List (BitVec 64))
  /-- CODEC_DONE (R346). -/
  | codecDone (idx : Nat)
  /-- KV_OPEN (R303). -/
  | kvOpen (part : BitVec 4) (words : List (BitVec 64))
  /-- KV_ATTEND (R305). -/
  | kvAttend (part : BitVec 4) (words : List (BitVec 64))
  /-- KV_CLOSE (R306). -/
  | kvClose (part : BitVec 4) (words : List (BitVec 64))
  /-- SEQUENCE_ALLOC (R299). -/
  | sequenceAlloc (part : BitVec 4)
  /-- PT_DIRECT_WRITE (R313). -/
  | ptDirectWrite (w : RegWr)
  /-- PT_SWAP (R315). -/
  | ptSwap (w : RegWr)
  /-- CAROUSEL_PAGE_OUT (R321). -/
  | carouselPageOut (k : Nat)
  /-- CAROUSEL_RELEASE (R323). -/
  | carouselRelease (k : Nat)
  /-- CAROUSEL_RETURN (R324). -/
  | carouselReturn (k : Nat)
  /-- CAROUSEL_CHECK (R324). -/
  | carouselCheck (k : Nat)
  /-- CALENDAR_POSITION (R334). -/
  | calendarPosition
  /-- CALENDAR_APPLY (R338). -/
  | calendarApply
  /-- HAULER_COPY (R348). -/
  | haulerCopy (part : BitVec 4) (words : List (BitVec 64))
  /-- HAULER_FILL (R348). -/
  | haulerFill (part : BitVec 4) (words : List (BitVec 64))
  /-- HAULER_DONE (R348). -/
  | haulerDone (idx : Nat)
  /-- SCRUB_STEP (R350). -/
  | scrubStep (m : MemKind) (hits : List ScrubHit)
  /-- CE_WRITE_BACK (R351). -/
  | ceWriteBack (m : MemKind)
  /-- SI_LOAD (R358). -/
  | siLoad (w : RegWr)
  /-- SI_APPLY (R367). -/
  | siApply
  /-- SI_LOAD_DONE (R369). -/
  | siLoadDone
  /-- SLICE_END (R375). -/
  | sliceEnd (tile : BitVec 6)
  /-- SWITCH_DONE (R376). -/
  | switchDone (tile : BitVec 6)
  /-- SHARED_ENGINE_GRANT (R384). -/
  | sharedEngineGrant (e : BitVec 4)
  /-- SWEVT_POP (R394). -/
  | swevtPop (src : Src)
  /-- DECL_WRITE (R388). -/
  | declWrite (c : Byte) (w : RegWr)
  /-- READMISSION (R390). -/
  | readmission (part : BitVec 4) (fewer : Bool)
  /-- HELLO (R399). -/
  | hello (f : CvFrame)
  /-- BYE (R400). -/
  | bye (f : CvFrame)
  /-- CARAVAN_PAGE_START (R404). -/
  | caravanPageStart (f : CvFrame)
  /-- CARAVAN_PAGE_DATA (R406). -/
  | caravanPageData (f : CvFrame)
  /-- CARAVAN_PAGE_END (R406). -/
  | caravanPageEnd (f : CvFrame)
  /-- CARAVAN_COMMAND (R407). -/
  | caravanCommand (f : CvFrame)
  /-- CARAVAN_CREDIT (R409). -/
  | caravanCredit (f : CvFrame)
  /-- RESULT_SEND (R409). -/
  | resultSend (flow : Byte)
  /-- RTO_EXPIRY (R410). -/
  | rtoExpiry (flow : Byte)
  /-- PAGE_IDLE_TIMEOUT (R406). -/
  | pageIdleTimeout (flow : Byte)
  /-- SESSION_IDLE_TIMEOUT (R400). -/
  | sessionIdleTimeout (flow : Byte)
  /-- CREDIT_KEEPALIVE (R400). -/
  | creditKeepalive (flow : Byte)
  /-- FOREIGN_FRAME (R395). -/
  | foreignFrame (port : BitVec 1)
  /-- ARP_REQUEST (R395). -/
  | arpRequest (port : BitVec 1) (target : IpAddr) (mac : BitVec 48)
  /-- PAUSE_FRAME (R395). -/
  | pauseFrame (port : BitVec 1) (quanta : BitVec 16)
  /-- LINK_STATE_CHANGE (R395). -/
  | linkStateChange (port : BitVec 1) (up : Bool)
  /-- COMMAND_FAIL (R418). -/
  | commandFail (f : FailReport)
  /-- REMAP_DONE (R202). -/
  | remapDone (tile : BitVec 6)
  /-- MIDWAY_PARITY_CHECK (R191). -/
  | midwayParityCheck (tile : BitVec 6) (frame : BitVec 9) (bad : Bool)
  /-- SELF_TEST_DONE (R429). -/
  | selfTestDone (u : UnitId) (pass : Bool)
  /-- REPAIR_MAP_WRITE (R431). -/
  | repairMapWrite
  /-- RECORD_REWRITE (R423). -/
  | recordRewrite (addr : BitVec 32)
  /-- WATCHDOG_EXPIRY (R470). -/
  | watchdogExpiry
  /-- SLACK_SAMPLE (R436). -/
  | slackSample (ps : Int) (others : Int) (tj : Byte)
  /-- AGEING_SAMPLE (R437). -/
  | ageingSample
  /-- SPARE_DAILY_TEST (R433). -/
  | spareDailyTest
  /-- POWER_ON_RESET (R496). -/
  | powerOnReset
  /-- RAIL_UNDERVOLTAGE (R494). -/
  | railUndervoltage (rail : BitVec 4)
  /-- PORST_RELEASE (R451). -/
  | porstRelease
  /-- PM_LOADED (R445). -/
  | pmLoaded
  /-- KEYED (R447). -/
  | keyed
  /-- FW_RUNNING (R459). -/
  | fwRunning
  /-- DRAM_UP (R451). -/
  | dramUp
  /-- CONFIGURED (R453). -/
  | configured
  /-- LOCKED (R454). -/
  | locked
  /-- ENROLL (R461). -/
  | enroll (w : RegWr)
  /-- TRANSFER (R461). -/
  | ownerTransfer (w : RegWr)
  /-- RAISE_FLOOR (R461). -/
  | raiseFloor (w : RegWr)
  /-- LOCK (R461). -/
  | ownerLock (w : RegWr)
  /-- RELEASE (R461). -/
  | ownerRelease (w : RegWr)
  /-- FW_SWAP (R468). -/
  | fwSwap (w : RegWr)
  /-- HANDOVER (R468). -/
  | handover
  /-- ATTESTATION_REQUEST (R465). -/
  | attestationRequest (w : RegWr)
  /-- REPORT_DONE (R466). -/
  | reportDone
  /-- PLL_S_PROGRAM (R475). -/
  | pllSProgram (w : RegWr)
  /-- PLL_LOCK (R473). -/
  | pllLock (pll : BitVec 2)
  /-- LOSS_OF_LOCK (R480). -/
  | lossOfLock (pll : BitVec 2)
  /-- REFCLK_LOSS (R480). -/
  | refclkLoss
  /-- SPREAD_SPECTRUM_WRITE (R476). -/
  | spreadSpectrumWrite (w : RegWr)
  /-- CLOCK_SELECT (R479). -/
  | clockSelect (w : RegWr)
  /-- GATE_ENABLE_WRITE (R478). -/
  | gateEnableWrite (dom : BitVec 4) (w : RegWr)
  /-- PW_CTL_WRITE (R487). -/
  | pwCtlWrite (w : RegWr)
  /-- SLEEP_ENTRY (R482). -/
  | sleepEntry
  /-- SLEEP_EXIT (R482). -/
  | sleepExit
  /-- DEEP_SLEEP_ENTRY (R483). -/
  | deepSleepEntry
  /-- WAKE (R484). -/
  | wake (t : WakeTrigger)
  /-- HOURLY_WAKE (R484). -/
  | hourlyWake
  /-- LEAVING_DONE (R484). -/
  | leavingDone
  /-- AVS_TRANSITION_DONE (R500). -/
  | avsTransitionDone
  /-- AVS_TIMEOUT (R501). -/
  | avsTimeout
  /-- THERM_WARN (R503). -/
  | thermWarn (tj : Byte)
  /-- THERMTRIP (R503). -/
  | thermtrip (tj : Byte)
  /-- ENTDAA (R510). -/
  | entdaa (rivals : List (BitVec 64)) (addrs : Bytes)
  /-- RSTDAA (R510). -/
  | rstdaa
  /-- SETNEWDA (R508). -/
  | setnewda (da : Byte)
  /-- GETPID (R509). -/
  | getpid
  /-- GETBCR (R508). -/
  | getbcr
  /-- GETDCR (R508). -/
  | getdcr
  /-- GETSTATUS (R508). -/
  | getstatus
  /-- GETMWL (R508). -/
  | getmwl
  /-- GETMRL (R508). -/
  | getmrl
  /-- ENEC (R516). -/
  | enec (bits : Byte)
  /-- DISEC (R516). -/
  | disec (bits : Byte)
  /-- UNSUPPORTED_CCC (R508). -/
  | unsupportedCcc (code : Byte)
  /-- I3C_REGISTER_WRITE (R512). -/
  | i3cRegisterWrite (data : Bytes)
  /-- SET_READ_POINTER (R512). -/
  | setReadPointer (data : Bytes)
  /-- I3C_REGISTER_READ (R513). -/
  | i3cRegisterRead (n : Nat)
  /-- HOT_JOIN (R511). -/
  | hotJoin
  /-- IBI_REQUEST (R516). -/
  | ibiRequest (acked : Bool)
  /-- IBI_RETRY (R516). -/
  | ibiRetry (acked : Bool)
  /-- FLASH_READ (R518). -/
  | flashRead (w : RegWr)
  /-- FLASH_PROGRAM (R518). -/
  | flashProgram (w : RegWr)
  /-- FLASH_ERASE_4K (R518). -/
  | flashErase4k (w : RegWr)
  /-- FLASH_ERASE_64K (R518). -/
  | flashErase64k (w : RegWr)
  /-- FLASH_DONE (R518). -/
  | flashDone
  /-- BOOT_RETRY (R519). -/
  | bootRetry (w : RegWr)
  /-- TAP_RESET (R520). -/
  | tapReset
  /-- EXTEST (R521). -/
  | extest (bsr : Bytes)
  /-- SAMPLE_PRELOAD (R520). -/
  | samplePreload (bsr : Bytes)
  /-- IDCODE (R520). -/
  | idcode
  /-- HIGHZ (R521). -/
  | highz
  /-- CLAMP (R521). -/
  | clamp
  /-- EXTEST_PULSE (R521). -/
  | extestPulse (bsr : Bytes)
  /-- EXTEST_TRAIN (R521). -/
  | extestTrain (bsr : Bytes)
  /-- BYPASS (R520). -/
  | bypass (code : Byte)
  /-- MGACC_READ (R523). -/
  | mgaccRead (dr : BitVec 80)
  /-- MGACC_WRITE (R523). -/
  | mgaccWrite (dr : BitVec 80)
  /-- RAIL_RECOVERY (R494). -/
  | railRecovery (rail : BitVec 4)
  /-- REFCLK_RETURN (R480). -/
  | refclkReturn
  /-- SPI_RESET_RELEASE (R498). -/
  | spiResetRelease
  /-- SYNC_FABRIC_ANSWER (R225). -/
  | syncFabricAnswer (tile : BitVec 6)
  deriving DecidableEq, Repr

end Sys2Proof
end

