-- ==== Sys2Proof/Config.lean ====
section
/-! DEFINITION. What the spec leaves open, as constants without a body: no proof can see their values. Each is named by an
entry of the assumption log. -/

namespace Sys2Proof.Config

/-- A fresh 64-bit value for each draw (log 7): undefined read data (R27). -/
opaque freeWord : Nat → BitVec 64

/-- Choice among the results that lie within 1 ulp of the exact value of EXP2, LOG2, RCP, RSQ (R218) and kv_exp (R311), by
operation and operand (log 15). -/
opaque ulpPick : Nat → BitVec 32 → Fin 3

/-- Runs of a routine for one page of a class: the work (0 W_L, 1 W_F, 2 W_E, 3 W_S), class, QUOTA, LINES and routine (R391, log 16). -/
opaque pageRuns : Nat → Nat → Nat → Nat → Nat → Nat

/-- Runs of a routine in a decoder step: 0 in the chain a for one sequence, 1 for each further sequence (b_t), by class and routine (R391, log
16). -/
opaque stepRuns : Nat → Nat → Nat → Nat

/-- Bytes per second that the pipeline program assigns to a gate lane (R393, log 16). -/
opaque gateTraffic : Nat → Nat

/-- The 32 bytes of randomness with which a report is signed, by seed and message: FIPS 204 leaves them to the signer (R467, log 13). -/
opaque signRandom : List (BitVec 8) → List (BitVec 8) → BitVec 256

/-- The root secret S that one reading of the PUF yields with the helper data (R446, log 13). -/
opaque pufSecret : Nat → List (BitVec 8) → List (BitVec 8)

/-- Otwalia's firmware public key, held by the boot ROM (R459, log 13). -/
opaque firmwareKey : List (BitVec 8)

/-- The bytes of the boot ROM and its release number (R463, log 13). -/
opaque romImage : List (BitVec 8)

/-- The release number of the boot ROM (R463, log 13). -/
opaque romRelease : BitVec 32

/-- The state version that a running firmware hands over, by its release (R459 check 6, log 13). -/
opaque stateVersion : BitVec 32 → BitVec 16

/-- The Midway operation of a column of a tile: the 384 frames, the column, the operation, the operand lanes that it reads, the scalar operand
and its 192 × 2 flip-flops give its result and its new flip-flops (R187, R188, log 18). -/
opaque midway : List (BitVec 8) → Nat → Nat → List (BitVec 32) → BitVec 64 → BitVec 384 → BitVec 32 × BitVec 384

/-- Into how many strips beyond the first the columns of a band fall: its scratchpad allowance is not given (R277, log 72). -/
opaque strips : List (BitVec 64) → Nat

/-- Whether the pipeline program places an unlaned hauler command in a class: the bytes of its section and the class (R349, log 27). -/
opaque unlaned : List (BitVec 8) → Nat → Bool

/-- Where in DRAM region 2 the device keeps what belongs to a page, as an offset by page id: 0 the page buffer, 1 the prepared page (R333, R422,
log 70). -/
opaque region2 : Nat → BitVec 32 → Nat

/-- Where in DRAM region 0 the device keeps a thing, as an offset: 0 the Barker log, 1 the copy of an image by its count (R357, R438, log 70). -/
opaque region0 : Nat → Nat → Nat

/-- Height of the feature map that starts at a DRAM offset of a partition: one that no operator command has named (R283, R287, log 21). -/
opaque mapHeight : Nat → Nat → Nat

/-- Hours until the setpoint is forecast to reach VMAX, or 0xFFFF, from the monthly summaries' mean slack, least slack and highest setpoint: the
spec gives no formula (R437, log 26). -/
opaque forecast : List (Int × Int × Nat) → BitVec 16

/-- A value that the trim region of package memory holds at a place the spec does not give: 0 SETPOINT, 1 VMAX, 2 VMIN, 3 TARGET, 4 RET_MV
(R436, R443, R500, log 12). -/
opaque trimValue : Nat → List (BitVec 8) → Nat

/-- The bytes of an owner record apart from its tag, whose layout the spec does not give: the bits, floors and counter as numbers, the key
digest (R455, log 12). -/
opaque ownerBytes : List Nat → List (BitVec 8) → List (BitVec 8)

/-- The fields of a section of a structure image whose byte layout the spec does not give, by section type, none where its size does not
match: 0x0002 base and size of regions 3 and 4 (R333); 0x0005 for each partition L, DRAM_RUNS, STG0, STG1, BASE, COUNT (R292, R297); 0x0006 for
each decoder number, LAYERS, KVH, QROWS, SCALE, LIST_MAX (R289) (log 27). -/
opaque siSection : Nat → List (BitVec 8) → Option (List Nat)

/-- Whether a reserved field of such a section is nonzero (log 27). -/
opaque siReserved : Nat → List (BitVec 8) → Bool

/-- The owner codes of the codec, hauler and gate lanes that the pipeline program names, of which the spec gives no field (R337, log 27). -/
opaque lanesNamed : List (List (BitVec 8)) → List Nat

/-- MiB of the boot flash that the board carries, beyond the least density of 16 MiB; the most is 256 MiB (R448, log 12). -/
opaque flashMore : Fin 241

/-- Bytes of the boot flash (R448). -/
def flashSize : Nat := 0x100000 * (16 + flashMore.val)

/-- The result that the spec does not state for an operation on an operand (log 7): RSQ of -0, an operand field that names no register. -/
opaque unstated : Nat → BitVec 64 → BitVec 64

end Sys2Proof.Config
end

