-- ==== Sys2Proof/Machine/Bits.lean ====
section
/-! DEFINITION. Bit fields, byte order, rounding, serial numbers and small tables: what every block uses. -/

namespace Sys2Proof.Machine

/-- Field [lo + n - 1 : lo] of a register word as a number (R3). -/
def fld (w : Word) (lo n : Nat) : Nat := (w.toNat >>> lo) % 2 ^ n

/-- Bit `i` of a register word (R3). -/
def bitOf (w : Word) (i : Nat) : Bool := w.getLsbD i

/-- The word whose bits [lo + n - 1 : lo] are ones. -/
def maskOf (lo n : Nat) : Word := BitVec.ofNat 64 ((2 ^ n - 1) <<< lo)

/-- The word with field [lo + n - 1 : lo] set to `v`, its other bits kept (R3). -/
def setFld (w : Word) (lo n v : Nat) : Word := (w &&& ~~~ maskOf lo n) ||| BitVec.ofNat 64 ((v % 2 ^ n) <<< lo)

/-- A number placed at bit `lo` of a word. -/
def place (v lo n : Nat) : Word := BitVec.ofNat 64 ((v % 2 ^ n) <<< lo)

/-- The bits that eight byte enables select (R532). -/
def enMask (be : BitVec 8) : Word :=
  (List.range 8).foldl (fun m i => if be.getLsbD i then m ||| maskOf (8 * i) 8 else m) 0

/-- A register write limited to the writable bits `rw` and the enabled bits `en` (R6, R532). -/
def putBits (old new rw en : Word) : Word := (old &&& ~~~ (rw &&& en)) ||| (new &&& rw &&& en)

/-- Little-endian value of a byte string (R4). -/
def leNat : Bytes → Nat
  | [] => 0
  | b :: bs => b.toNat + 256 * leNat bs

/-- The `n` low bytes of a number, least significant first (R4). -/
def leBytes : Nat → Nat → Bytes
  | 0, _ => []
  | n + 1, v => BitVec.ofNat 8 v :: leBytes n (v / 256)

/-- `n` bytes from offset `o` of a byte string, as a number; bytes beyond its end count as zero (R4). -/
def leAt (bs : Bytes) (o n : Nat) : Nat := leNat ((bs.drop o).take n)

/-- Addition that stops at 0xFFFF_FFFF (the RC counters). -/
def satAdd (c : BitVec 32) (n : Nat) : BitVec 32 := if c.toNat + n ≥ 2 ^ 32 then BitVec.ofNat 32 (2 ^ 32 - 1) else BitVec.ofNat 32 (c.toNat + n)

/-- `a` is later than `b` (R69). -/
def seqLater (a b : BitVec 32) : Bool := (0 : Int) < (a - b).toInt

/-- Modular distance from `b` to `a` (R69). -/
def seqDist (a b : BitVec 32) : Nat := (a - b).toNat

/-- Round a quotient of naturals to nearest, ties to even. -/
def rneNat (n d : Nat) : Nat :=
  let q := n / d
  let r := n % d
  if 2 * r < d then q else if 2 * r > d then q + 1 else if q % 2 = 0 then q else q + 1

/-- Round a quotient of an integer by a positive natural to nearest, ties to even. -/
def rneInt (n : Int) (d : Nat) : Int :=
  let q := Int.fdiv n d
  let r := (n - q * d).toNat
  if 2 * r < d then q else if 2 * r > d then q + 1 else if q % 2 = 0 then q else q + 1

/-- Quotient rounded up. -/
def ceilDiv (n d : Nat) : Nat := (n + d - 1) / d

/-- An integer limited to 0 .. `hi`, as a natural. -/
def clampNat (v : Int) (hi : Nat) : Nat := min v.toNat hi

/-- Entry `k` of a sparse table, `d` where the table lists none. -/
def tabGet {α : Type} (t : List (Nat × α)) (k : Nat) (d : α) : α :=
  match t with
  | [] => d
  | (i, v) :: r => if i = k then v else tabGet r k d

/-- A sparse table with entry `k` set, its keys kept in rising order. -/
def tabSet {α : Type} (t : List (Nat × α)) (k : Nat) (v : α) : List (Nat × α) :=
  match t with
  | [] => [(k, v)]
  | (i, w) :: r => if i = k then (k, v) :: r else if k < i then (k, v) :: (i, w) :: r else (i, w) :: tabSet r k v

/-- A sparse table without entry `k`. -/
def tabDel {α : Type} (t : List (Nat × α)) (k : Nat) : List (Nat × α) := t.filter (fun e => e.1 != k)

/-- Element `i` of a list, `d` beyond its end. -/
def nth {α : Type} (l : List α) (i : Nat) (d : α) : α := (l[i]?).getD d

/-- The list with element `i` replaced, unchanged beyond its end. -/
def upd {α : Type} (l : List α) (i : Nat) (v : α) : List α := l.set i v

/-- The list with element `i` mapped by `f`. -/
def updWith {α : Type} (l : List α) (i : Nat) (f : α → α) : List α := l.modify i f

/-- Insert before the first element that comes after. -/
def insBy {α : Type} (lt : α → α → Bool) (x : α) : List α → List α
  | [] => [x]
  | y :: r => if lt x y then x :: y :: r else y :: insBy lt x r

/-- A list in the order of `lt`, elements that it does not order in their old order. -/
def sortBy {α : Type} (lt : α → α → Bool) (l : List α) : List α := l.foldl (fun r x => insBy lt x r) []

/-- Bits that are set among the low `n` bits of a mask, in rising order. -/
def bitsOf (m : Nat) (n : Nat) : List Nat := (List.range n).filter (fun i => m.testBit i)

end Sys2Proof.Machine
end

