-- ==== Sys2Proof/Machine/Mem.lean ====
section
/-! DEFINITION. Addressed memories: lists of (address, byte) cells in one canonical form, rising addresses and no cell equal
to 0x00, which is what an unlisted address reads as (log 6). -/

namespace Sys2Proof.Machine

/-- A memory: its bytes that differ from 0x00, in rising address order. -/
abbrev Memory := List Host.Cell

namespace Memory

/-- Every address of the list is at least `lo`, addresses rise strictly and no byte is 0x00. -/
def wfFrom : Nat → Memory → Bool
  | _, [] => true
  | lo, (a, b) :: r => decide (lo ≤ a) && (b != 0) && wfFrom (a + 1) r

/-- The canonical form. -/
def wf (m : Memory) : Bool := wfFrom 0 m

/-- The byte at an address; an unlisted address reads 0x00 (log 6). -/
def read : Memory → Nat → Byte
  | [], _ => 0
  | (a, b) :: r, k => if a = k then b else read r k

/-- Cells below an address. -/
def below (m : Memory) (k : Nat) : Memory := m.filter (fun c => decide (c.1 < k))

/-- Cells from an address up. -/
def from' (m : Memory) (k : Nat) : Memory := m.filter (fun c => decide (k ≤ c.1))

/-- The cells of bytes laid out from an address; zero bytes give no cell. -/
def cells : Nat → Bytes → Memory
  | _, [] => []
  | a, b :: bs => if b = 0 then cells (a + 1) bs else (a, b) :: cells (a + 1) bs

/-- Store a byte string at an address; bytes of a range are replaced together. -/
def writeBytes (m : Memory) (a : Nat) (bs : Bytes) : Memory :=
  below m a ++ cells a bs ++ from' m (a + bs.length)

/-- Store one byte. -/
def write (m : Memory) (a : Nat) (b : Byte) : Memory := writeBytes m a [b]

/-- `n` bytes from an address. -/
def readBytes (m : Memory) (a n : Nat) : Bytes := (List.range n).map (fun i => read m (a + i))

/-- The cells of a range, their addresses counted from the range's start. -/
def slice (m : Memory) (a n : Nat) : Memory :=
  (m.filter (fun c => decide (a ≤ c.1 ∧ c.1 < a + n))).map (fun c => (c.1 - a, c.2))

/-- Replace a whole range by the cells of a slice of the same length. -/
def blit (m : Memory) (a n : Nat) (sl : Memory) : Memory :=
  below m a ++ (slice sl 0 n).map (fun c => (c.1 + a, c.2)) ++ from' m (a + n)

/-- Store the bytes whose mask bit is set. -/
def writeMasked : Memory → Nat → Bytes → List Bool → Memory
  | m, a, b :: bs, e :: es => writeMasked (if e then write m a b else m) (a + 1) bs es
  | m, _, _, _ => m

/-- Store each cell of a list, zero bytes included. -/
def writeCells (m : Memory) (cs : List Host.Cell) : Memory := cs.foldl (fun m c => write m c.1 c.2) m

/-- The 8-byte word at an address (R4). -/
def readWord (m : Memory) (a : Nat) : Word := BitVec.ofNat 64 (leNat (readBytes m a 8))

/-- Store an 8-byte word (R4). -/
def writeWord (m : Memory) (a : Nat) (w : Word) : Memory := writeBytes m a (leBytes 8 w.toNat)

/-- `n` bytes from an address as a number (R4). -/
def readNat (m : Memory) (a n : Nat) : Nat := leNat (readBytes m a n)

end Memory

end Sys2Proof.Machine
end

