-- ==== Sys2Proof/Machine/StateHost.lean ====
section
/-! DEFINITION. State of the host port (02) and of the Dechel queues, mailbox and rings (03). -/

namespace Sys2Proof.Machine

/-- One 1 KiB entry of the write-combining buffer (R42, R341): block number of the window address, the bytes that are valid
(offset and byte, zero bytes kept), the units that its bursts consumed, and which 1 KiB of the buffer it takes. -/
structure CombEntry where
  block : Nat
  slot : Nat
  bytes : List Host.Cell
  units : Nat
  deriving DecidableEq, Repr

/-- A stage control record (R48) with the copy in progress: its bytes, its length, the moment of taking, the bound that held
then (R52, R343), the combining-buffer blocks to drain first (R342), and damage found meanwhile (R423). -/
structure StageSlot where
  src : Word
  ctl : Word
  stat : Word
  done : Word
  snap : Memory
  len : Nat
  taken : BitVec 64
  bound : Nat
  flush : List Nat
  hurt : Bool
  deriving DecidableEq, Repr

/-- The slot at reset: every field 0 (R48). -/
def StageSlot.init : StageSlot := ⟨0, 0, 0, 0, [], 0, 0, 0, [], false⟩

/-- What the device drove last on the DQ pins: the bytes, whether each is driven inverted with DMI high (read DBI, R23), and the read latency
in CK (R26). -/
structure DqReply where
  data : Bytes
  dmi : List Bool
  rl : Nat
  deriving DecidableEq, Repr

/-- The host port. `trainOf` is the step that a channel in training has entered, `stageQ` the stage slots in the order taken (R342). -/
structure HostPort where
  cfg : Word
  limit : Word
  wcred : BitVec 32
  used : BitVec 32
  wdrop : BitVec 32
  dropLast : Word
  wdisc : BitVec 32
  rzero : BitVec 32
  train : Word
  mrwIgn : BitVec 32
  stageBound : Word
  alertStat : Word
  alertEn : Word
  ext : List (Nat × Word)
  mrs : List (Nat × Byte)
  fifo : List (Nat × Bytes)
  training : BitVec 4
  trainOf : List (Nat × Nat)
  zq : BitVec 4
  idle : Option IdleMode
  dq : Option DqReply
  comb : List CombEntry
  slots : List (Nat × StageSlot)
  stageQ : List Nat
  deriving DecidableEq, Repr

/-- The host port after power-on reset (R42, R58); it is in power-down, for bit 9 of PW_STAT.BLOCK reads 0 at reset (DEDUCED, R483, R487, log 29). -/
def HostPort.init : HostPort :=
  { cfg := 0, limit := 4096, wcred := 0x00010000, used := 0, wdrop := 0, dropLast := 0, wdisc := 0, rzero := 0, train := 0,
    mrwIgn := 0, stageBound := 0x2710, alertStat := 0, alertEn := 0, ext := [], mrs := [], fifo := [], training := 0, trainOf := [], zq := 0,
    idle := some .powerDown, dq := none, comb := [], slots := [], stageQ := [] }

/-- The queue states of R61, their values and codes in Dechel.lean. -/
inductive QState where
  | closed | opened | hold | stalled | creditViol | notAdmitted | closing
  deriving DecidableEq, Repr

/-- A record before its ring index, RSEQ and time are known (R82). -/
structure Rec where
  status : Byte
  pageEnd : Bool
  profileHit : Bool
  nocmd : Bool
  cmd : Bool
  conf : Byte
  cseq : BitVec 32
  pageId : BitVec 32
  line : BitVec 16
  order : BitVec 16
  field : BitVec 16
  box : Box
  text : Bytes
  deriving DecidableEq, Repr

/-- One command or page of a queue that still has records to write (R78, R15): whether it is a command and whether a page, its
records in order, whether they may go out, how many are out; `fence` marks a FENCE
that waits. -/
structure OutItem where
  isCmd : Bool
  isPage : Bool
  cseq : BitVec 32
  page : Option (BitVec 32)
  recs : List Rec
  ready : Bool
  written : Nat
  fence : Bool := false
  deriving DecidableEq, Repr

/-- A reservation of DRAM region 2 as it was taken (R534): bytes for the page buffer, the prepared page, the records with their text. -/
structure Resv where
  buf : Nat
  prep : Nat
  recs : Nat
  deriving DecidableEq, Repr

/-- No reservation. -/
def Resv.none : Resv := ⟨0, 0, 0⟩

/-- Bytes of a reservation. -/
def Resv.total (r : Resv) : Nat := r.buf + r.prep + r.recs

/-- A command that is taken and not done: its 128 bytes, the table image read when it was taken (R314), its sequence number, the deadline's start event (R17), its
attachment when it came over Caravan (R407), and the reservation made for a PAGE (R534). -/
structure Cmd where
  desc : Bytes
  image : Option Bytes
  seq : BitVec 32
  start : BitVec 64
  attach : Option Bytes
  resv : Resv
  deriving DecidableEq, Repr

/-- What the next page of a queue needs of a page whose layout has committed (R157): its id, profile and version, prepared size, the region
boxes that matched, and whether the result stands. -/
structure PrevPage where
  page : BitVec 32
  prof : Option (Nat × Nat)
  w : Nat
  h : Nat
  regions : List (Option (Nat × Nat × Nat × Nat))
  valid : Bool
  deriving DecidableEq, Repr

/-- One queue that has been opened since reset (R60 to R74). `lines` is the LINES that RM_DECL declared when the queue was last judged
(R388). -/
structure Queue where
  st : QState
  gen : Nat
  door : Nat
  part : Nat
  sel : Nat
  ring : Nat
  cls : Nat
  crBase : Nat
  crLog : Nat
  seq0 : BitVec 32
  drainMs : Nat
  quota : Nat
  lines : Nat
  c : BitVec 32
  t : BitVec 32
  marks : List (BitVec 32 × BitVec 64)
  stopped : Bool
  retryAt : BitVec 64
  rseq : BitVec 32
  holdSince : BitVec 64
  cur : Option Cmd
  items : List OutItem
  missed : Nat
  lastPage : Option (BitVec 32)
  prev : List PrevPage
  deriving DecidableEq, Repr

/-- An unconsumed record of a ring as the reservation keeps it (R422): ring index, the record's 64 bytes, its text and where
it stands, the bytes of text area it holds, and the page. -/
structure Kept where
  idx : BitVec 32
  bytes : Bytes
  text : Bytes
  off : Nat
  held : Nat
  page : Option (BitVec 32)
  deriving DecidableEq, Repr

/-- A result ring (R79 to R85): P, C, the RW bits of DQ_RING, the next text byte, the queue whose run is open, the records not
yet consumed. -/
structure Ring where
  p : BitVec 32
  c : BitVec 32
  thresh : Word
  pos : Nat
  run : Option Nat
  kept : List Kept
  deriving DecidableEq, Repr

/-- A ring at reset. -/
def Ring.init : Ring := ⟨0, 0, 0, 0, none, []⟩

/-- A mailbox request in progress: a close that awaits CLOSED, or a request that awaits the end of a load (R368). -/
inductive MboxWait where
  | close (q : Nat)
  | load
  deriving DecidableEq, Repr

/-- Queues, mailbox and rings. `taken` is the request record as the last GO found it (R66). -/
structure Dechel where
  queues : List (Nat × Queue)
  req : List (Nat × Word)
  taken : List (Nat × Word)
  reply : List (Nat × Word)
  busy : Option MboxWait
  rings : List (Nat × Ring)
  dbCount : BitVec 32
  dbBad : BitVec 32
  seqMiss : BitVec 32
  qevt : List Word
  qevtLost : BitVec 32
  deriving DecidableEq, Repr

/-- Queues, mailbox and rings at reset: every queue CLOSED (R61, R79, R92). -/
def Dechel.init : Dechel :=
  { queues := [], req := [], taken := [], reply := [], busy := none, rings := [], dbCount := 0, dbBad := 0, seqMiss := 0, qevt := [],
    qevtLost := 0 }

end Sys2Proof.Machine
end

