-- ==== Sys2Proof/Machine/StateCaravan.lean ====
section
/-! DEFINITION. State of the Caravan fabric port (14). -/

namespace Sys2Proof.Machine

/-- A part of a result stream (R408): bytes of a text or a whole record, and whether the record ends a page or is a command record, with the
page it belongs to. -/
structure Chunk where
  bytes : Bytes
  isRec : Bool
  final : Bool
  page : Option (BitVec 32)
  deriving DecidableEq, Repr

/-- A RESULT frame that the peer has not acknowledged (R410): its sequence number, its parts, when it was last sent. -/
structure SentFrame where
  seq : BitVec 32
  parts : List Chunk
  at' : BitVec 64
  deriving DecidableEq, Repr

/-- What a flow takes a PAGE frame for (R402 to R406): nothing in progress, a page, a refused page, a page beyond the limit. -/
inductive InPage where
  | none
  | page (pid : BitVec 32)
  | refused
  | beyond
  deriving DecidableEq, Repr

/-- What the device handed to the MAC last on a port: destination and VLAN tag as the flow gives them, and the UDP payload; or the answer to
an address request (R395). -/
inductive TxFrame where
  | caravan (port : Nat) (mac : BitVec 48) (tag : Option (BitVec 16)) (dst : IpAddr) (sport dport : BitVec 16) (payload : Bytes)
  | address (port : Nat) (target : IpAddr) (mac : BitVec 48) (own : BitVec 48)
  deriving DecidableEq, Repr

/-- A flow (R398 to R412). `cfg`, `peer0` and `peer1` are its registers, `inForce` their values at the last HELLO taken; `hello` and `first` the first numbers of the session's two directions; `resv` the unused
reservations in bytes; `out` what is to be sent again after a session ended; `textSent` the bytes of the next entry's text already sent;
`owed` the frames that commits have spent and that are not sent yet; `ackDue` a HELLO_ACK that waits for the port; `wait` the payload of a
COMMAND frame whose command has not been taken yet (R400, R407). -/
structure Flow where
  cfg : Word
  peer0 : Word
  peer1 : Word
  inForce : Word × Word × Word
  up : Bool
  m : Nat
  mac : BitVec 48
  hello : BitVec 32
  e : BitVec 32
  first : BitVec 32
  tx : BitVec 32
  rlimit : BitVec 32
  plimit : BitVec 32
  resv : List Resv
  cur : InPage
  out : List Chunk
  textSent : Nat
  unack : List SentFrame
  owed : Nat
  heard : BitVec 64
  spoke : BitVec 64
  ackDue : Bool
  wait : Option Bytes
  deriving DecidableEq, Repr

/-- A flow at reset (R412). -/
def Flow.init : Flow :=
  { cfg := 0x0000010000002398, peer0 := 0, peer1 := 0, inForce := (0, 0, 0), up := false, m := 0, mac := 0, hello := 0, e := 0, first := 0, tx := 0,
    rlimit := 0, plimit := 0, resv := [], cur := .none, out := [], textSent := 0, unack := [], owed := 0, heard := 0, spoke := 0, ackDue := false, wait := none }

/-- The fabric port (R412). `pause` is the time until which each port honours a PAUSE. -/
structure Caravan where
  port : List (Nat × Word)
  addr : List (Nat × Word)
  ip6 : List (Nat × Word)
  timer : Word
  sel : Word
  flows : List (Nat × Flow)
  cnt : List (Nat × BitVec 32)
  pause : List (Nat × Nat)
  last : Option TxFrame
  deriving DecidableEq, Repr

/-- The fabric port at reset (R412). -/
def Caravan.init : Caravan :=
  { port := [], addr := [], ip6 := [], timer := 0x03E8006400000000, sel := 0, flows := [], cnt := [], pause := [], last := none }

end Sys2Proof.Machine
end

