-- ==== Sys2Proof/Machine/StateConf.lean ====
section
/-! DEFINITION. State of the structure image (12), the Ringmaster (13), the KV cache (10) and the memory tiers (11). -/

namespace Sys2Proof.Machine

/-- One valid entry of the partition table (R360). -/
structure PartDef where
  tiles : BitVec 64
  pixq : Nat
  slice : Nat
  share : Nat
  dramBase : Nat
  dramSize : Nat
  stgBase : Nat × Nat
  stgSize : Nat × Nat
  deriving DecidableEq, Repr

/-- A routine of the image (R363): declarations, the wait list (bundle, bound), and the bundles. -/
structure Routine where
  part : Nat
  id : Nat
  entry : Nat
  nb : Nat
  tiles : BitVec 64
  bspad : Nat
  live : Nat
  d : Nat
  toks : List Nat
  lanes : List (Nat × Nat)
  waits : List (Nat × Nat)
  proof : Bytes
  code : Bytes
  deriving DecidableEq, Repr

/-- A Midway section (R364): tiles, latency and cells of each operation, and the frames. -/
structure MidwayDef where
  part : Nat
  tiles : BitVec 64
  lat : List Nat
  cells : List Nat
  frames : Memory
  deriving DecidableEq, Repr

/-- A stage route (R365). -/
structure StageRoute where
  part : Nat
  cls : Nat
  stage : Nat
  pos : Nat
  routine : Nat
  tiles : BitVec 64
  deriving DecidableEq, Repr

/-- A chain route (R365). -/
structure ChainRoute where
  part : Nat
  cls : Nat
  prod : Nat
  cons : Nat
  inTok : Nat
  freeTok : Nat
  ringB : Nat
  kh : Nat
  deriving DecidableEq, Repr

/-- A class of the pipeline program (R366). -/
structure ClassDef where
  cls : Nat
  part : Nat
  prio : Nat
  deadline : Nat
  batch : Nat
  dec : Nat
  reach : Nat
  fallback : Nat
  dramShare : Nat
  ppA : Word
  ppB : Word
  tpls : List Bytes
  deriving DecidableEq, Repr

/-- A decoder declaration (R289). -/
structure DecDef where
  part : Nat
  num : Nat
  layers : Nat
  kvh : Nat
  qrows : Nat
  scale : BitVec 32
  listMax : Nat
  deriving DecidableEq, Repr

/-- KV pool and active-sequence range of a partition (R292, R297). -/
structure PoolDef where
  l : Nat
  dramRuns : Nat
  stg : Nat × Nat
  base : Nat
  count : Nat
  deriving DecidableEq, Repr

/-- A configuration: what a structure image sets (R354 to R366). `cal` lists calendar positions whose owner is not 0x0000. -/
structure ImgConf where
  parts : List (Nat × PartDef)
  region3 : Nat × Nat
  region4 : Nat × Nat
  cal : List (Nat × Nat)
  claims : List (Nat × Nat)
  pools : List (Nat × PoolDef)
  decs : List DecDef
  routines : List Routine
  midways : List MidwayDef
  routes : List StageRoute
  chains : List ChainRoute
  classes : List ClassDef
  deriving DecidableEq, Repr

/-- No partition is defined before an image is loaded (R451). -/
def ImgConf.none : ImgConf :=
  { parts := [], region3 := (0, 0), region4 := (0, 0), cal := [], claims := [], pools := [], decs := [], routines := [],
    midways := [], routes := [], chains := [], classes := [] }

/-- An accepted image on its way to DONE (R367): its scope, partition, identifiers, bytes and configuration. -/
structure LoadJob where
  whole : Bool
  part : Nat
  imageId : BitVec 32
  imageVer : BitVec 32
  bytes : Bytes
  conf : ImgConf
  deriving DecidableEq, Repr

/-- The structure image block (R371). -/
structure StructImg where
  load : Word
  stat : Word
  conflict : BitVec 32
  bound : Word
  image : Word
  part : List (Nat × Word)
  loads : Word
  conf : ImgConf
  job : Option LoadJob
  copy : List (Nat × Bytes)
  retryJudge : List (Nat × Bool)
  deriving DecidableEq, Repr

/-- The structure image block at reset (R371). -/
def StructImg.init : StructImg :=
  { load := 0, stat := 0, conflict := 0, bound := 0, image := 0, part := [], loads := 0, conf := ImgConf.none, job := none,
    copy := [], retryJudge := [] }

/-- A job of a partition on a logical tile (R372, R373): its slot, queue or decoder, route entry, context (persistent bytes, live banks,
held tokens with the order in which they were taken), debit in ns, Caravan credits held, those given back at its last switch-out (R382), commit parity, and the context saved while
another job has the tile. -/
structure Job where
  part : Nat
  slot : Nat
  tile : Nat
  queue : Option Nat
  decoder : Option Nat
  stage : Nat
  pos : Nat
  bspad : Nat
  live : Nat
  held : List (Nat × Nat)
  debit : Nat
  credits : Nat
  want : Nat
  parity : Bool
  save : Memory
  accs : List (Nat × Lanes)
  deriving DecidableEq, Repr

/-- A commit group of a fused chain that has begun (R419): the chain's place in the route table, the commands of its members in the order
dispatched with their posts held, the runs so far, and what its commits report. -/
structure Group where
  chain : Nat
  reqs : List DispatchReq
  runs : Nat
  posts : List (BitVec 16 × Nat × Nat)
  outs : List (List (BitVec 32) × StageOut)
  deriving DecidableEq, Repr

/-- A donation in force (R379, R380): the blocked job and its tile, the token, the holder and its tile, the depth counted from the first
blocked job, and when the holder took its tile under it. -/
structure Donation where
  tile : Nat
  blocked : Nat × Nat
  token : Nat
  holder : Nat × Nat
  onTile : Nat
  depth : Nat
  since : Option (BitVec 64)
  deriving DecidableEq, Repr

/-- The run order of one logical tile (R375, R376): ring of ready jobs (partition and slot) behind the one whose turn it is, the job that
last ran, the job whose turn it is, its slice's length, the slice's end, whether the end has passed, a switch in progress (start,
bound in 1/256 ns). -/
structure TileSched where
  ring : List (Nat × Nat)
  last : Option (Nat × Nat)
  run : Option (Nat × Nat)
  len : Nat
  sliceEnd : BitVec 64
  late : Bool
  sw : Option (BitVec 64 × Nat)
  deriving DecidableEq, Repr

/-- A tile on which nothing has run. -/
def TileSched.init : TileSched := ⟨[], none, none, 0, 0, false, none⟩

/-- A shared engine (R383, R384): its position in the cycle, the partition last served out of turn. -/
structure Engine where
  pos : Nat
  lastRr : Nat
  deriving DecidableEq, Repr

/-- An idle engine; position and last partition served are model choices (log 3). -/
def Engine.init : Engine := ⟨0, 15⟩

/-- What Tightrope last computed for a queue, and what the Ringmaster counts for it (R386, R394). -/
structure QStat where
  wait : Word
  preempt : BitVec 32
  bound : Word
  terms : List Word
  deriving DecidableEq, Repr

/-- A queue never judged. -/
def QStat.init : QStat := ⟨0, 0, 0, [0, 0, 0, 0]⟩

/-- The Ringmaster. `ready` holds the commands that wait for dispatch with their runs so far. `figs` holds tile-work figures of R391 that are known (log 16); the others
are Config functions. `opers` holds the operator commands that have not committed, `maps` the heights of the feature
maps that operator commands have named, by partition and DRAM offset (R283). `ended` holds the status code of the last completion, by kind of command (0 operator, 1 codec, 2 hauler, 3 walker) and
partition (R266, R301, R302, R347). -/
structure Ringmaster where
  decl : List (Nat × Word)
  qsel : Word
  qstat : List (Nat × QStat)
  swevt : List Word
  swLost : BitVec 32
  swOver : BitVec 32
  swCount : BitVec 32
  depthFail : BitVec 32
  donated : BitVec 32
  jobs : List Job
  ready : List (DispatchReq × Nat)
  groups : List Group
  scheds : List (Nat × TileSched)
  donations : List Donation
  engines : List (Nat × Engine)
  figs : List (List Nat × Nat)
  opers : List DispatchReq
  maps : List (Nat × Nat)
  ended : List (Nat × Nat)
  deriving DecidableEq, Repr

/-- The Ringmaster at reset (R394). -/
def Ringmaster.init : Ringmaster :=
  { decl := [], qsel := 0, qstat := [], swevt := [], swLost := 0, swOver := 0, swCount := 0, depthFail := 0, donated := 0,
    jobs := [], ready := [], groups := [], scheds := [], donations := [], engines := [], figs := [], opers := [], maps := [], ended := [] }

/-- The states of an active sequence table entry (R298). -/
inductive SeqState where
  | free | ready | step | outPend | out | inPend | done
  deriving DecidableEq, Repr

/-- An entry of the active sequence table (R297), with the run held outside the table (R318), the
mark of a return from the Carousel (R320) and the pages of a swap still to move. -/
structure SeqEntry where
  st : SeqState
  part : Nat
  queue : Nat
  page : BitVec 32
  line : Nat
  dec : Nat
  prio : Nat
  created : BitVec 64
  n : Nat
  table : Nat
  ver : BitVec 16
  epoch : Byte
  rowEmpty : Bool
  lost : Bool
  held : Option (BitVec 32)
  returned : Bool
  moving : List (Nat × Nat)
  deriving DecidableEq, Repr

/-- A free entry; the swap epoch at reset is a model choice (log 3). -/
def SeqEntry.init : SeqEntry :=
  { st := .free, part := 0, queue := 0, page := 0, line := 0, dec := 0, prio := 0, created := 0, n := 0, table := 0, ver := 0,
    epoch := 0, rowEmpty := false, lost := false, held := none, returned := false, moving := [] }

/-- A page table in a slot of the table store (R294, R295): its entries that are not none, its in-walk count, and whether a swap has
replaced it (R316). -/
structure PageTab where
  ents : List (Nat × BitVec 32)
  walk : Nat
  old : Bool
  deriving DecidableEq, Repr

/-- An open step of a decoder (R303): the listed sequences with their snapshot tables, in list order. -/
structure StepRec where
  part : Nat
  dec : Nat
  opened : Bool
  list : List (Nat × Nat)
  last : Option Nat
  deriving DecidableEq, Repr

/-- An attend command in progress (R301, R305): its fields, the blocks each walker has still to complete, whether each has one of its blocks
in progress, how often it has run. -/
structure Attend where
  part : Nat
  dec : Nat
  layer : Nat
  first : Nat
  count : Nat
  inStg : Nat
  outStg : Nat
  tok : Word
  left : Nat × Nat
  busy : Bool × Bool
  runs : Nat
  deriving DecidableEq, Repr

/-- A Carousel slot (R323): KV_CSLOT, KV_CCRC, and the sequence whose page it holds or wants. -/
structure CarSlot where
  word : Word
  crc : BitVec 32
  seq : Nat
  deriving DecidableEq, Repr

/-- A free Carousel slot. -/
def CarSlot.init : CarSlot := ⟨0, 0, 0⟩

/-- KV cache and attention engine (R326). `segs` are the segments that wait for an entry (R299), as partition, page and line; `resv` the runs
reserved for a sequence that returns (R325); `outq` the victims whose pages are being copied, in order; `owed` the sequences to which runs
freed by a swap-out go first (R318), by partition. -/
structure KvCache where
  seqs : List (Nat × SeqEntry)
  tabs : List (Nat × PageTab)
  resv : List (Nat × List (BitVec 32))
  steps : List StepRec
  attends : List Attend
  segs : List (Nat × BitVec 32 × Nat)
  outq : List Nat
  owed : List (Nat × Nat)
  seqSel : Word
  ptWr : Word
  ptSwap : Word
  ptStat : Word
  cnt : List (Nat × BitVec 32)
  slots : List (Nat × CarSlot)
  deriving DecidableEq, Repr

/-- The KV cache at reset (R326). -/
def KvCache.init : KvCache :=
  { seqs := [], tabs := [], resv := [], steps := [], attends := [], segs := [], outq := [], owed := [], seqSel := 0, ptWr := 0,
    ptSwap := 0, ptStat := 0, cnt := [], slots := [] }

/-- A damaged word of a memory (R350 to R352): memory, depot or tile, word address, whether it is uncorrectable. -/
structure Damage where
  mem : MemKind
  unit : Nat
  word : Nat
  ue : Bool
  deriving DecidableEq, Repr

/-- A codec or hauler command taken (R287, R347): which, the engine that runs it, none while it waits, its
partition, the pages whose data it serves, its words, how often it has run. -/
structure EngineCmd where
  hauler : Bool
  engine : Option Nat
  part : Nat
  pages : List (BitVec 32)
  words : List Word
  runs : Nat
  deriving DecidableEq, Repr

/-- Memory tiers and the calendar (R353). `cal` lists the positions whose owner is not `calDef`; `calOn` says that a calendar has applied. -/
structure Depot where
  calSel : Word
  gen : BitVec 16
  cal : List (Nat × Nat)
  calDef : Nat
  calOn : Bool
  next : Option (List (Nat × Nat))
  regions : List (Nat × Word)
  ce : List (Nat × BitVec 32)
  ue : List (Nat × BitVec 32)
  dramPass : BitVec 32
  stgPass : BitVec 32
  scrub : List (Nat × Nat)
  damage : List Damage
  back : List Damage
  cmds : List EngineCmd
  refreshRow : Nat
  zrCnt : List (Nat × BitVec 32)
  zrRem : Nat
  zrLast : Word
  deriving DecidableEq, Repr

/-- Memory tiers at reset (R353). -/
def Depot.init : Depot :=
  { calSel := 0, gen := 0, cal := [], calDef := 0, calOn := false, next := none, regions := [], ce := [], ue := [], dramPass := 0,
    stgPass := 0, scrub := [], damage := [], back := [], cmds := [],
    refreshRow := 0, zrCnt := [], zrRem := 0, zrLast := 0 }

/-- The addressed memories: DRAM by device address, the aperture by window address, staging SRAM of each depot, scratchpads by
tile-space address (R200), package memory, boot flash. -/
structure Mems where
  dram : Memory
  ap : Memory
  stg0 : Memory
  stg1 : Memory
  spad : Memory
  pm : Memory
  flash : Memory
  deriving DecidableEq, Repr

/-- Every memory lists nothing at reset (log 6). -/
def Mems.init : Mems := ⟨[], [], [], [], [], [], []⟩

end Sys2Proof.Machine
end

