-- ==== Sys2Proof/Machine/StateIntake.lean ====
section
/-! DEFINITION. State of the Isawell scan front (04) and of page preparation (05): doors, pages and profiles. -/

namespace Sys2Proof.Machine

/-- A SCAN_ARM in force or ended with pages to come (R98, R99). -/
structure Arming where
  left : BitVec 32
  profile : Nat
  xavg : Nat
  yavg : Nat
  planes : Bool
  dpiX : Nat
  dpiY : Nat
  cseq : BitVec 32
  first : Bool
  ended : Bool
  deriving DecidableEq, Repr

/-- One raw line: for each tag (0 R, 1 G, 2 B, 3 mono) its samples in raw index order (R110). -/
abbrev RawLine := List (BitVec 2 × List (BitVec 16))

/-- The page frame of R122. -/
structure Frame where
  pid : BitVec 32
  width : Nat
  lines : Nat
  lead : Nat
  trail : Nat
  left : Nat
  right : Nat
  skew : Int
  resid : Nat
  long : Bool
  unsure : Bool
  repaired : Bool
  door : Nat
  planes : Bool
  dpiX : Nat
  dpiY : Nat
  deriving DecidableEq, Repr

/-- A grey image: width, height, rows of bytes. -/
structure Image where
  w : Nat
  h : Nat
  rows : List Bytes
  deriving DecidableEq, Repr

/-- A door of the scan front (R95): its armings (the last one governs), the reservation not yet bound to a page with its bytes
and its arming, whether a boundary's decision is open (R123), the page in progress, a lost page, the lines kept for delay and
preroll, edge detection, the camera window and its planes, calibration, armings that ended. `seen` says that a paper line has been seen for the
reservation (R99), `lastAt` when the last line of a camera's window was captured (R17). -/
structure Door where
  arms : List Arming
  free : Bool
  freeBytes : Resv
  freeArm : BitVec 32
  seen : Bool
  expect : Bool
  page : Option (BitVec 32)
  lost : Bool
  skip : Bool
  count : Nat
  run : Nat
  nonRun : Nat
  past : List RawLine
  pre : List RawLine
  lead : Nat
  lastPaper : Nat
  bands : List (Nat × Nat)
  span : Option (Nat × Nat)
  edge : Option (Nat × Nat)
  window : Bool
  await : Bool
  half : List (BitVec 2 × List (BitVec 16))
  lastPl : List (BitVec 2 × List (BitVec 16))
  repaired : Bool
  lastAt : BitVec 64
  cal : Nat
  calOn : Bool
  calLines : List RawLine
  armDone : List (BitVec 32)
  deriving DecidableEq, Repr

/-- A door at reset. -/
def Door.init : Door :=
  { arms := [], free := false, freeBytes := Resv.none, freeArm := 0, seen := false, expect := true, page := none, lost := false, skip := false, count := 0,
    run := 0, nonRun := 0, past := [], pre := [], lead := 0, lastPaper := 0, bands := [], span := none, edge := none,
    window := false, await := false, half := [], lastPl := [], repaired := false, lastAt := 0, cal := 0, calOn := false, calLines := [],
    armDone := [] }

/-- The scan front. `regs` and `defer` are keyed by register offset: the value in force and a written value that waits
(R131). `caps` holds the captures that are open: the line trigger they follow, the head, the tag (R110); `trigs` counts the line triggers
that WAIT_LINE has consumed. -/
structure ScanFront where
  slots : List (Nat × Word)
  pgCtl : Word
  len : BitVec 32
  code : Byte
  step : Nat
  running : Bool
  stopAsked : Bool
  acc : Nat
  ram : List (Nat × BitVec 32)
  loops : List (Nat × Nat)
  outs : BitVec 32
  tag : BitVec 2
  trig : Bool
  edges : Nat
  caps : List (Nat × Nat × BitVec 2)
  trigs : Nat
  holdPin : Bool
  regs : List (Nat × Word)
  defer : List (Nat × Word)
  lanes : BitVec 16
  cnt : List (Nat × BitVec 32)
  doors : List (Nat × Door)
  deriving DecidableEq, Repr

/-- The scan front at reset (R130). DESIGN CHOICE: the colour tag in force before the first COLOUR step is 3, mono; the spec gives none (log 69). -/
def ScanFront.init : ScanFront :=
  { slots := [], pgCtl := 0, len := 0, code := 0, step := 0, running := false, stopAsked := false, acc := 0, ram := [],
    loops := [], outs := 0, tag := 3, trig := false, edges := 0, caps := [], trigs := 0, holdPin := false, regs := [],
    defer := [], lanes := 0, cnt := [], doors := [] }

/-- One version of a form profile (R154 to R156). -/
structure Profile where
  part : Nat
  pid : Nat
  ver : Nat
  inForce : Bool
  image : Bytes
  deriving DecidableEq, Repr

/-- One found line of a page (R158, R159): its box, field, PROFILE_HIT, and whether its segment is corrupt (R164). -/
structure Found where
  box : Box
  field : BitVec 16
  hit : Bool
  corrupt : Bool
  deriving DecidableEq, Repr

/-- One packed row (R161, R162): its page, row index, its bytes in the layout of R162, its segments (line, first column, wl, squeezed,
corrupt), and whether it is in a batch. -/
structure Packed where
  page : BitVec 32
  idx : Nat
  bytes : Bytes
  segs : List (Nat × Nat × Nat × Bool × Bool)
  batched : Bool
  deriving DecidableEq, Repr

/-- A batch of packed rows (R163): its queue, the encoder job that formed it, its rows as page and row index, and whether its command has been
dispatched. -/
structure Batch where
  queue : Nat
  job : Nat × Nat
  rows : List (BitVec 32 × Nat)
  sent : Bool
  deriving DecidableEq, Repr

/-- A prepared page as it stands in DRAM (R152): its size, BG, and one entry for each stripe of 64 rows: the bytes of its row of tiles, or none
where the stripe is mapped to the background stripe of BG (R145). -/
structure Prepared where
  w : Nat
  h : Nat
  bg : Byte
  stripes : List (Option Bytes)
  deriving DecidableEq, Repr

/-- Where a page stands (R11). -/
inductive PStage where
  | intake | prep | layout | cut | recog | structure | output | released
  deriving DecidableEq, Repr

/-- What a page was submitted with (R77, R98, R403). For a scan-front page `src` is the sequence number of its arming. -/
structure Claim where
  fmt : Nat
  src : Nat
  len : Nat
  width : Nat
  height : Nat
  stride : Nat
  dpi : Nat
  deriving DecidableEq, Repr

/-- An admitted page (R13 to R18, R86, R153, R534). `before` is the queue's page admitted before it (R157); `sfRegs` holds the scan front's
registers in force for it (R131); `buf` the bytes of a scan-front page's buffer in the layout of R122 and R142; `data` those of a fabric page's;
`prep` the prepared page. -/
structure Page where
  id : BitVec 32
  queue : Nat
  door : Nat
  cseq : BitVec 32
  cls : Nat
  part : Nat
  ppA : Word
  ppB : Word
  deadline : Nat
  start : Option (BitVec 64)
  prof : Option (Nat × Nat)
  batchStart : Bool
  before : Option (BitVec 32)
  sfRegs : List (Nat × Word)
  claim : Claim
  frame : Option Frame
  raw : List RawLine
  buf : Bytes
  data : Bytes
  dataEnd : Bool
  pair : Option Nat
  trunc : Bool
  retried : Bool
  stripes : Nat
  bgStripes : Nat
  prep : Option Prepared
  found : List Found
  regions : List (Option (Nat × Nat × Nat × Nat))
  fellBack : Bool
  rows : Nat
  segsLeft : Nat
  segEnds : List (Nat × Byte)
  stage : PStage
  resvBuf : Nat
  resvPrep : Nat
  resvRec : Nat
  drawn : Nat
  deriving DecidableEq, Repr

/-- Page preparation and the pages of the device. `owing` holds parts of reservations that ended pages give back once no running command reads
them (R20); `nextVer` numbers the profile versions (R156). -/
structure Prep where
  cntSel : Word
  cnt : List (Nat × BitVec 32)
  profiles : List Profile
  pages : List (Nat × Page)
  nextPid : BitVec 32
  used : Nat
  owing : List (BitVec 32 × Nat)
  packed : List Packed
  batches : List Batch
  nextVer : Nat
  deriving DecidableEq, Repr

/-- Page preparation at reset (R167). -/
def Prep.init : Prep :=
  { cntSel := 0x100, cnt := [], profiles := [], pages := [], nextPid := 0, used := 0, owing := [], packed := [], batches := [], nextVer := 0 }

end Sys2Proof.Machine
end

