-- ==== Sys2Proof/Machine/StateSafe.lean ====
section
/-! DEFINITION. State of the Safety net and Barker (15), of trust and boot (16), clocks and power (17, 18), management (19). -/

namespace Sys2Proof.Machine

/-- A unit under test (R429): class and index; what covers it (the physical tile, the spare bank, line, row or lane), if anything does. -/
structure UnitTest where
  cls : Nat
  idx : Nat
  cover : Option Nat
  deriving DecidableEq, Repr

/-- The Safety net and the Barker (R438, R441). Each log entry is its four words. `due` holds the physical tiles in error that wait for
another spare to cover them, `dueLines` the lines whose covering spare line waits so, `dueTests` the units whose test waits for the end of a firmware swap, `passes` and `ces` the times of
passed tests and of corrected errors of a unit, `retired` the retired units, `toMap` those not yet in the repair map; `hurt` the damaged
ring records and text that wait to be rewritten (R423). `low` and `lowOther` count successive slack
samples of the arena and of the other dies below TARGET, `otherSlack` is the latter's last, `high` is when slack
last rose above TARGET + 30 ps; `plan` are setpoint changes that wait (R501); then the sums of the current hour and month (R437). -/
structure Safety where
  cnt : List (Nat × BitVec 32)
  log : List (Nat × List Word)
  head : BitVec 14
  wrapped : Bool
  lost : BitVec 32
  eseq : BitVec 32
  logSel : Word
  age : Word
  ageLim : Word
  tests : List UnitTest
  due : List Nat
  dueLines : List (Nat × Nat)
  dueTests : List (Nat × Nat)
  passes : List (Nat × Nat × BitVec 64)
  ces : List (Nat × Nat × BitVec 64)
  retired : List (Nat × Nat)
  toMap : List (Nat × Nat)
  low : Nat
  lowOther : Nat
  otherSlack : Int
  high : Option (BitVec 64)
  plan : List Nat
  hourRetired : Nat
  monthSum : Int
  monthN : Nat
  monthLeast : Int
  monthSet : Nat
  monthRetired : Nat
  deriving DecidableEq, Repr

/-- The Safety net at reset (R441). -/
def Safety.init : Safety :=
  { cnt := [], log := [], head := 0, wrapped := false, lost := 0, eseq := 0, logSel := 0,
    age := 0xFFFF032000000000, ageLim := 0, tests := [], due := [], dueLines := [], dueTests := [], passes := [], ces := [], retired := [], toMap := [],
    low := 0, lowOther := 0, otherSlack := 0, high := none, plan := [], hourRetired := 0, monthSum := 0, monthN := 0, monthLeast := 0, monthSet := 0, monthRetired := 0 }

/-- The owner record (R455) with the sequence word of its copy (R445). -/
structure OwnerRec where
  seq : BitVec 32
  ok : Bool
  enrolled : Bool
  lock : Bool
  outerLock : Bool
  key : Bytes
  siFloor : BitVec 16
  fwFloor : BitVec 16
  counter : BitVec 32
  tag : Bytes
  deriving DecidableEq, Repr

/-- The blank record of a factory-fresh unit (R455), untagged. -/
def OwnerRec.init : OwnerRec :=
  { seq := 0, ok := true, enrolled := false, lock := false, outerLock := false, key := [], siFloor := 0, fwFloor := 0, counter := 0, tag := [] }

/-- One of the two copies of the repair map (units retired) or of the boot count: its sequence word, and whether its digest matches (R443,
R445). -/
structure RepairCopy where
  units : List (Nat × Nat)
  seq : BitVec 32
  ok : Bool
  deriving DecidableEq, Repr
structure BootCopy where
  count : BitVec 32
  seq : BitVec 32
  ok : Bool
  deriving DecidableEq, Repr

/-- The records of package memory whose byte layout the spec does not give (R443, R445, R457, R437; log 12): the two copies of the repair map,
of the owner record and of the boot count, hours since first power-on, monthly summaries as mean and least slack, highest setpoint,
retirements, and whether the ageing region passes R445. They outlive a reset (R496). -/
structure Package where
  repair0 : RepairCopy
  repair1 : RepairCopy
  owner0 : OwnerRec
  owner1 : OwnerRec
  boot0 : BootCopy
  boot1 : BootCopy
  ageOk : Bool
  hours : Nat
  months : List (Int × Int × Nat × Nat)
  deriving DecidableEq, Repr

/-- Blank package memory (log 12). -/
def Package.init : Package :=
  { repair0 := ⟨[], 0, true⟩, repair1 := ⟨[], 0, true⟩, owner0 := OwnerRec.init, owner1 := OwnerRec.init, boot0 := ⟨0, 0, true⟩,
    boot1 := ⟨0, 0, true⟩, ageOk := true, hours := 0, months := [] }

/-- An attestation request in progress (R465): nonce, time, the entries and fold it reports, the stage slot. -/
structure AttJob where
  nonce : Bytes
  time : BitVec 64
  ents : List Bytes
  folds : BitVec 32
  fdig : Bytes
  slot : Option Nat
  deriving DecidableEq, Repr

/-- A request that waits for a structure-image load or for a firmware swap (R469), with the word that holds SRC_T and SRC. -/
inductive SecReq where
  | owner (w : Word)
  | swap (w : Word)
  | load (w : Word)
  deriving DecidableEq, Repr

/-- Trust and boot (R471). `secret` is S while the device key is sound (R446), `ownerKey` the enrolled owner key handed to firmware,
`record` the owner record that stands, `fw` the running image, `prevFw` the image before it, `swapImage` the checked image of a swap in
progress, `swapDone` when the last swap was done; `bootFw`, `cfg` and `bootSi` what the taken bank holds. -/
structure Trust where
  boot : Word
  bootCtl : Word
  owner : Word
  ownCtl : Word
  ownStat : Word
  fw : Word
  fwSwap : Word
  fwStat : Word
  nonce : List (Nat × Word)
  attCtl : Word
  attStat : Word
  repSel : Word
  report : Bytes
  mlog : List Bytes
  mnext : BitVec 32
  folds : BitVec 32
  fdig : Bytes
  puf : Word
  secret : Option Bytes
  ownerKey : Option Bytes
  record : OwnerRec
  fwImage : Bytes
  prevFw : Option Bytes
  swapImage : Option Bytes
  swapDone : Option (BitVec 64)
  att : Option AttJob
  waiting : List SecReq
  deriving DecidableEq, Repr

/-- Trust at reset: stage 0x00, F zero (R451, R464, R471). -/
def Trust.init : Trust :=
  { boot := 0, bootCtl := 0, owner := 0, ownCtl := 0, ownStat := 0, fw := 0, fwSwap := 0, fwStat := 0, nonce := [], attCtl := 0,
    attStat := 0, repSel := 0, report := [], mlog := [], mnext := 0, folds := 0, fdig := List.replicate 32 0, puf := 0, secret := none,
    ownerKey := none, record := OwnerRec.init, fwImage := [], prevFw := none, swapImage := none, swapDone := none, att := none,
    waiting := [] }

/-- Clocks (R486). -/
structure Clocks where
  ready : Word
  sel : Word
  stat : Word
  pllS : Word
  ss : Word
  gate : List (Nat × Word)
  deriving DecidableEq, Repr

/-- Clocks at reset: every domain on REFCLK (R479, R486). -/
def Clocks.init : Clocks :=
  { ready := 0, sel := 0, stat := 0, pllS := 0x0000001800000008, ss := 0x200A, gate := [] }

/-- Power modes, the arena rail, heat and reset (R481 to R507). `acc` are ns spent in SLEEP and in DEEP_SLEEP not yet read, `since` when the mode was
entered, `selBefore` the clock selection before DEEP_SLEEP, `avs` the setpoint written and not yet reached, `porst` whether PORST_N is
asserted, `rails` the monitored rails below their limits, `spiReset` whether SPI_RESET_N holds the flash. -/
structure Power where
  tripped : Bool
  porst : Bool
  rails : List Nat
  spiReset : Bool
  ctl : Word
  wake : Nat
  mode : Nat
  sleeps : BitVec 32
  deeps : BitVec 32
  acc : List (Nat × Nat)
  since : BitVec 64
  selBefore : Word
  ret : Nat
  req : Nat
  meas : Nat
  err : BitVec 16
  avs : Option Nat
  inForce : Nat
  therm : Word
  deriving DecidableEq, Repr

/-- Power at reset: RUN (R487, R507). -/
def Power.init : Power :=
  { tripped := false, porst := false, rails := [], spiReset := true, ctl := 0x000003E800000064, wake := 0, mode := 1, sleeps := 0, deeps := 0,
    acc := [], since := 0, selBefore := 0, ret := 0, req := 800, meas := 0, err := 0, avs := none, inForce := 800,
    therm := 0x7864000000000000 }

/-- A flash operation in progress (R518): what it is and where. -/
structure FlashJob where
  op : Nat
  addr : Nat
  deriving DecidableEq, Repr

/-- Management bus and JTAG (R508 to R524). `ibiServed` says that the controller accepted an interrupt since (MG_IBI_STAT AND MG_IBI_EN) was
last zero, `ibiNacked` that it turned the present one down; `out` are the bytes that the target drove last on the bus; `dr` what MGACC captures. -/
structure Mgmt where
  pid : BitVec 48
  da : Option Byte
  ibiStat : Word
  ibiEn : Word
  enint : Bool
  enhj : Bool
  ibiServed : Bool
  ibiNacked : Bool
  ptr : Nat
  out : Bytes
  err : BitVec 32
  flashCtl : Word
  flashStat : Word
  flashBuf : List (Nat × Word)
  flash : Option FlashJob
  tlr : Bool
  ir : Byte
  dr : BitVec 80
  bsr : Bytes
  pins : Bool
  deriving DecidableEq, Repr

/-- Management at reset (R516, R520, R524); Hot-Join is enabled until DISEC (R511). -/
def Mgmt.init : Mgmt :=
  { pid := 0, da := none, ibiStat := 0, ibiEn := 0, enint := false, enhj := true, ibiServed := false, ibiNacked := false, ptr := 0, out := [], err := 0,
    flashCtl := 0, flashStat := 0, flashBuf := [], flash := none, tlr := true, ir := 0x02, dr := 0, bsr := [], pins := false }

end Sys2Proof.Machine
end

