-- ==== Sys2Proof/Machine/StateTile.lean ====
section
/-! DEFINITION. State of the tiles (06, 07, 08): registers, accumulators, weights, pending landings, transfers, sync tokens, the map of
logical to physical tiles. -/

namespace Sys2Proof.Machine

/-- What an operation will write when it lands (R211): a register, lanes of a vector register, an accumulator row (a V2A value, or a
multiply's P, Q and clear flag), or bytes of the scratchpad (R180). -/
inductive Effect where
  | sreg (r : Nat) (v : BitVec 64)
  | areg (r : Nat) (v : BitVec 48)
  | vreg (r : Nat) (v : Lanes) (mask : BitVec 64)
  | preg (r : Nat) (v : BitVec 64)
  | accw (row : Nat) (v : Lanes)
  | mul (row : Nat) (p : Lanes) (q : Option Lanes) (clear : Bool)
  | store (addr : Nat) (bytes : Bytes) (mask : BitVec 64)
  deriving DecidableEq, Repr

/-- A pending landing: the issue cycle at whose start it lands, the cycle and slot that issued it (R211, R212). -/
structure Land where
  at' : Nat
  issued : Nat
  slot : Nat
  eff : Effect
  deriving DecidableEq, Repr

/-- A weight or Stilts fill in progress (R171, R221): buffer 0, 1 or 2 for the Stilts block, issue cycle, first line address, group
scales, Q4 codes, flags raised so far, the Q4 line read last. -/
structure Fill where
  buf : Nat
  start : Nat
  base : Nat
  scales : List (BitVec 16)
  q4 : Bool
  sat : Bool
  nan : Bool
  line : Bytes
  deriving DecidableEq, Repr

/-- An XFER or SXFER in flight (R233, R235): lane (8 for staging), whether it writes to DRAM or staging, tile-space address, offset in
the partition's window, bytes, depot, token at done, source bytes of a write as issued, issue time in ns, its slot's start. -/
structure Xfer where
  lane : Nat
  out : Bool
  addr : Nat
  off : Nat
  len : Nat
  depot : Nat
  tok : Option Nat
  data : Bytes
  issue : BitVec 64
  slotAt : Option (BitVec 64)
  deriving DecidableEq, Repr

/-- Why a tile is frozen beyond the issuing cycle (R213): a token not satisfied (number, count, arrival order), the sync fabric's answer to
a WAIT or TEST, a full lane, staging queue or port queue with what waits for it, a FENCE. -/
inductive Freeze where
  | token (t k order : Nat)
  | askWait (t k : Nat)
  | askTest (t dst : Nat)
  | lane (x : Xfer)
  | staging (x : Xfer)
  | port
  | fence
  deriving DecidableEq, Repr

/-- What leaves a tile by its mesh port, in order: a PUT line with its tile-space address, or a POST that follows it (R195, R236). -/
inductive PutItem where
  | line (addr : Nat) (v : Lanes)
  | post (t k : Nat)
  deriving DecidableEq, Repr

/-- What a running command did to a token (R418): counts it added at once, counts it took, the owner when it first touched it. -/
structure TokUse where
  t : Nat
  added : Nat
  taken : Nat
  owner : BitVec 16
  deriving DecidableEq, Repr

/-- The command of a tile (R175, R176, R413): what it serves, its run number, arrival time, bound in ACLK, and the ranges of staging SRAM that it
has begun to write, as depot, address and length (R304). -/
structure TileCmd where
  part : Nat
  slot : Nat
  queue : Option Nat
  decoder : Option Nat
  stage : Nat
  routine : Nat
  args : List (BitVec 64)
  pages : List (BitVec 32)
  runs : Nat
  arrived : BitVec 64
  bound : Nat
  ended : Bool
  failed : Bool
  tokBad : Bool
  group : Option Nat
  req : DispatchReq
  stgOut : List (Nat × Nat × Nat)
  deriving DecidableEq, Repr

/-- A logical tile. Registers and rows that are not listed hold zero; accumulator row r of bank b is 64 b + r. -/
structure Tile where
  cmd : Option TileCmd
  cyc : Nat
  pc : Nat
  jump : Option Nat
  s : List (Nat × BitVec 64)
  a : List (Nat × BitVec 48)
  v : List (Nat × Lanes)
  p : List (Nat × BitVec 64)
  acc : List (Nat × Lanes)
  shadow : List (Nat × Lanes)
  wbuf : List (Nat × Lanes)
  stilts : List (Nat × Lanes)
  fills : List Fill
  land : List Land
  banks : List Nat
  ff : List (Nat × BitVec 384)
  loops : List (Nat × Nat)
  freeze : List Freeze
  xfers : List Xfer
  sxfers : List Xfer
  puts : List PutItem
  toks : List TokUse
  posts : List (Nat × Nat)
  deriving DecidableEq, Repr

/-- A tile on which nothing has run. -/
def Tile.init : Tile :=
  { cmd := none, cyc := 0, pc := 0, jump := none, s := [], a := [], v := [], p := [], acc := [], shadow := [], wbuf := [], stilts := [],
    fills := [], land := [], banks := [], ff := [], loops := [], freeze := [], xfers := [], sxfers := [], puts := [], toks := [],
    posts := [] }

/-- A sync token (R192, R196): count, owner, the tile last granted on it. -/
structure Tok where
  count : BitVec 32
  owner : BitVec 16
  last : Nat
  deriving DecidableEq, Repr

/-- A token at reset (R192); the tile last granted is a model choice (log 3). -/
def Tok.init : Tok := ⟨0, 0xFFFF, 63⟩

/-- The tiles. `map` lists the logical tiles whose physical tile differs from that of an empty repair map (R201); `pstate` the physical
tiles whose STATE differs; `remaps` the remaps in progress as (logical, old physical if any, new physical); `leaving` the tiles that go out of
service when their command ends, each with the unit blamed and the spare chosen (R202); `held` the POSTs held for a
tile under remap (source tile, job owner code, token, count); `nflagAt` when each flag of TL_NFLAG was last raised (R260). -/
structure Tiles where
  vacant : BitVec 64
  map : List (Nat × Nat)
  pstate : List (Nat × Nat)
  bankOut : List (Nat × Nat)
  remaps : List (Nat × Option Nat × Nat)
  leaving : List (Nat × Nat × Nat × Option Nat)
  held : List (BitVec 16 × Nat × Nat)
  tiles : List (Nat × Tile)
  toks : List (Nat × Tok)
  order : Nat
  eccCe : BitVec 32
  frozen : BitVec 32
  tokErr : BitVec 32
  tokErrAt : Nat
  tokSel : Word
  clamp : BitVec 32
  clampAt : Nat
  overrun : BitVec 32
  overrunAt : Nat
  xpart : BitVec 32
  xpartAt : Nat
  nflag : Word
  nflagAt : List (Nat × BitVec 64)
  deriving DecidableEq, Repr

/-- The tiles at reset with an empty repair map (R201, R206, R241, R261). -/
def Tiles.init : Tiles :=
  { vacant := 0, map := [], pstate := [], bankOut := [], remaps := [], leaving := [], held := [], tiles := [], toks := [], order := 0, eccCe := 0,
    frozen := 0, tokErr := 0, tokErrAt := 0, tokSel := 0, clamp := 0, clampAt := 0, overrun := 0, overrunAt := 0, xpart := 0,
    xpartAt := 0, nflag := 0, nflagAt := [] }

end Sys2Proof.Machine
end

