-- ==== Sys2Proof/Machine/State.lean ====
section
/-! DEFINITION. The state of the KV3-A1: everything the spec gives the machine, and the queue of waiting commands. -/

namespace Sys2Proof.Machine

/-- A request that waits for RUN (R485, R515): who made it, the window address, the word, its byte enables, and for a stage GO the
combining buffer as the request found it (R51). -/
structure HeldReq where
  src : Src
  addr : Nat
  data : Word
  be : BitVec 8
  comb : List CombEntry := []
  deriving DecidableEq, Repr

/-- The state of the device. `rd` is what the last read of a single register word returned to its source. -/
structure State where
  hp : HostPort
  dq : Dechel
  sf : ScanFront
  pp : Prep
  si : StructImg
  rm : Ringmaster
  kv : KvCache
  dm : Depot
  mem : Mems
  tl : Tiles
  cv : Caravan
  sn : Safety
  tr : Trust
  pk : Package
  ck : Clocks
  pw : Power
  mg : Mgmt
  now : BitVec 64
  freeTick : Nat
  held : List HeldReq
  rd : Word
  pending : List Instr
  deriving DecidableEq, Repr

/-- What stops the machine. No command of ordinary data raises one. -/
inductive Fault where
  /-- Raised by every command but a reset after THERMTRIP_N (R503): the device is outside its rules until PORST_N. Safe. -/
  | thermtrip
  deriving DecidableEq, Repr

/-- Why a command has no meaning. -/
inductive Refusal where
  /-- Raised by the dispatch of a command that has no meaning yet. Safe. -/
  | notModelled (mnemonic : String)
  deriving DecidableEq, Repr

/-- The machine right after power-on reset (R496), PORST_N just released, no command waiting. -/
def State.reset : State :=
  { hp := HostPort.init, dq := Dechel.init, sf := ScanFront.init, pp := Prep.init, si := StructImg.init,
    rm := Ringmaster.init, kv := KvCache.init, dm := Depot.init, mem := Mems.init, tl := Tiles.init, cv := Caravan.init, sn := Safety.init, tr := Trust.init,
    pk := Package.init, ck := Clocks.init, pw := Power.init, mg := Mgmt.init, now := 0, freeTick := 0, held := [], rd := 0, pending := [] }

end Sys2Proof.Machine
end

