-- ==== Sys2Proof/Machine/Ops.lean ====
section
/-! DEFINITION. Operations that every block shares: status codes, counters, alerts, the Barker log, free values, addresses. -/

namespace Sys2Proof.Machine

/-- Status codes (R7). -/
def cOk : Nat := 0x00
def cEmpty : Nat := 0x01
def cTruncated : Nat := 0x02
def cCorrupt : Nat := 0x03
def cInputLost : Nat := 0x04
def cDimLimit : Nat := 0x05
def cZrMismatch : Nat := 0x06
def cLengthLimit : Nat := 0x07
def cTableBusy : Nat := 0x08
def cStalled : Nat := 0x09
def cNotAdmissible : Nat := 0x0A
def cReserved : Nat := 0x0B
def cVersion : Nat := 0x0C
def cRowEmpty : Nat := 0x0D
def cClaim : Nat := 0x0E
def cTooLong : Nat := 0x0F
def cCredit : Nat := 0x10
def cDonation : Nat := 0x11
def cQuota : Nat := 0x12
def cDeadline : Nat := 0x13
def cRetried : Nat := 0x14
def cSignature : Nat := 0x15

/-- Strength of a code's class, the strongest first: Refused 4, Failed 3, Partial 2, Noted 1, Done 0 (R7, R9). -/
def codeRank (c : Nat) : Nat :=
  if c ∈ [0x05, 0x08, 0x0A, 0x0B, 0x0C, 0x0E, 0x0F, 0x12, 0x15] then 4
  else if c ∈ [0x04, 0x06, 0x11] then 3
  else if c ∈ [0x02, 0x03, 0x07] then 2
  else if c ∈ [0x0D, 0x13, 0x14, 0x16] then 1
  else 0

/-- The one code reported of two that apply: the stronger class, then the lower value (R9). -/
def strongest (a b : Nat) : Nat :=
  if codeRank a > codeRank b then a else if codeRank b > codeRank a then b else if a = 0 then b else if b = 0 then a
  else min a b

/-- The code reported of all that apply; OK of none (R9). -/
def pickCode (cs : List Nat) : Nat := cs.foldl strongest 0

/-- The device is held in reset: PORST_N is asserted, or a monitored rail is below its limit (R494, R496). -/
def inReset (s : State) : Bool := s.pw.porst || !s.pw.rails.isEmpty

/-- A meaning: it ends in a next state unless THERMTRIP_N stands (R503). While the device is held in reset nothing but the reset inputs and
boundary scan acts (R494, R496, R521). -/
def run (s : State) (f : State → State) : Host.Outcome State Fault Refusal :=
  if s.pw.tripped then .fault .thermtrip else if inReset s then .next s else .next (f s)

/-- A meaning that acts while the device is held in reset too. -/
def runHeld (s : State) (f : State → State) : Host.Outcome State Fault Refusal :=
  if s.pw.tripped then .fault .thermtrip else .next (f s)

/-- A saturating counter of a table of counters. -/
def cntAdd (t : List (Nat × BitVec 32)) (k n : Nat) : List (Nat × BitVec 32) := tabSet t k (satAdd (tabGet t k 0) n)

/-- A discarded write is counted (R38, R41, R49, R58). -/
def wdisc (s : State) : State := { s with hp := { s.hp with wdisc := satAdd s.hp.wdisc 1 } }

/-- A read answered with zero is counted (R38, R41, R48, R52). -/
def rzero (s : State) : State := { s with hp := { s.hp with rzero := satAdd s.hp.rzero 1 } }

/-- HP_ALERT_STAT bits: 0 RING, 1 QUEUE_STATE, 2 CREDIT_VIOL, 3 STAGE_DONE, 4 CAROUSEL, 5 BARKER, 6 MAILBOX (R58). -/
def alert (i : Nat) (s : State) : State := { s with hp := { s.hp with alertStat := s.hp.alertStat ||| maskOf i 1 } }

/-- ALERT_N is driven low (R56). -/
def alertN (s : State) : Bool := (s.hp.alertStat &&& s.hp.alertEn) != 0

/-- What a Barker entry names beside its event and severity (R438). -/
structure EventRef where
  status : Nat := 0
  part : Nat := 0
  queue : Nat := 0xFFFF
  uclass : Nat := 0
  unit : Nat := 0
  detail : Nat := 0

/-- Log one Barker event; alert or fatal severity sets BARKER (R438, R439). -/
def barker (event sev : Nat) (r : EventRef) (s : State) : State :=
  let n := s.sn
  let w1 := place event 0 16 ||| place sev 16 2 ||| place r.status 24 8 ||| place r.part 32 4 ||| place r.queue 48 16
  let w2 := place n.eseq.toNat 0 32 ||| place r.unit 32 24 ||| place r.uclass 56 8
  let s := { s with sn := { n with
    log := tabSet n.log n.head.toNat [s.now, w1, w2, BitVec.ofNat 64 r.detail]
    head := n.head + 1
    wrapped := n.wrapped || n.head == 0x3FFF
    lost := if n.wrapped then satAdd n.lost 1 else n.lost
    eseq := n.eseq + 1 } }
  if sev ≥ 2 then alert 5 s else s

/-- A fresh free value (log 7): no proof can tell which. -/
def fresh (s : State) : Word × State := (Config.freeWord s.freeTick, { s with freeTick := s.freeTick + 1 })

/-- `n` fresh free bytes (log 7). -/
def freshBytes (n : Nat) (s : State) : Bytes × State :=
  ((List.range n).map (fun i => (Config.freeWord (s.freeTick + i)).setWidth 8), { s with freeTick := s.freeTick + n })

/-- Base and size in bytes of DRAM region k (R333). -/
def regionBase (s : State) (k : Nat) : Nat := fld (tabGet s.dm.regions k 0) 40 16 * 0x100000
def regionSize (s : State) (k : Nat) : Nat := fld (tabGet s.dm.regions k 0) 24 16 * 0x100000

/-- End of the backed staged window as a window address (R41). -/
def swLimit (s : State) : Nat := fld s.hp.limit 0 13 * 0x100000

/-- A window address lies in the backed staged window (R41). -/
def backed (s : State) (a : Nat) : Bool := decide (0x02000000 ≤ a ∧ a < swLimit s)

/-- A whole range lies in the backed staged window. -/
def backedRange (s : State) (a n : Nat) : Bool := decide (0x02000000 ≤ a ∧ a + n ≤ swLimit s)

/-- A command of the pipeline program completes, or is refused, with a status code: kind 0 operator, 1 codec, 2 hauler, 3 walker (R266, R301,
R302, R347). -/
def completed (kind part code : Nat) (s : State) : State :=
  { s with rm := { s.rm with ended := tabSet s.rm.ended (16 * kind + part) code } }

/-- Device address of a window address of the backed staged window (R333). -/
def swDev (s : State) (a : Nat) : Nat := regionBase s 1 + (a - 0x02000000)

/-- Replace the addressed memories. -/
def setDram (s : State) (m : Memory) : State := { s with mem := { s.mem with dram := m } }
def setAp (s : State) (m : Memory) : State := { s with mem := { s.mem with ap := m } }
def setSpad (s : State) (m : Memory) : State := { s with mem := { s.mem with spad := m } }
def setStg0 (s : State) (m : Memory) : State := { s with mem := { s.mem with stg0 := m } }
def setStg1 (s : State) (m : Memory) : State := { s with mem := { s.mem with stg1 := m } }
def setPm (s : State) (m : Memory) : State := { s with mem := { s.mem with pm := m } }
def setFlash (s : State) (m : Memory) : State := { s with mem := { s.mem with flash := m } }

/-- Staging SRAM of a depot. -/
def stg (s : State) (depot : Nat) : Memory := if depot = 0 then s.mem.stg0 else s.mem.stg1

/-- Replace the staging SRAM of a depot. -/
def setStg (s : State) (depot : Nat) (m : Memory) : State := if depot = 0 then setStg0 s m else setStg1 s m

/-! ### Table stores -/

/-- Depot and staging address of the slot of a page table (R295, R328). -/
def tabDepot (t : Nat) : Nat := t / 8192
def tabAddr (t : Nat) : Nat := 0x3C00000 + t % 8192 * 512

/-- The 512 bytes of a page table (R294). -/
def PageTab.bytes (x : PageTab) : Bytes := (List.range 128).flatMap (fun b => leBytes 4 (tabGet x.ents b 0).toNat)

/-- Bytes of staging SRAM: a slot in use holds its table (R295). -/
def stgBytes (s : State) (depot a n : Nat) : Bytes :=
  (List.range n).map (fun i =>
    let b := a + i
    match s.kv.tabs.find? (fun x => decide (0x3C00000 ≤ b) && x.1 == 8192 * depot + (b - 0x3C00000) / 512) with
    | some x => nth x.2.bytes (b % 512) 0
    | none => Memory.read (stg s depot) b)

/-- Slots are given up; their bytes stay as they are (R295, R316). -/
def dropTabs (gone : List Nat) (s : State) : State :=
  let s' := gone.foldl (fun (s : State) t => match s.kv.tabs.find? (fun x => x.1 == t) with
    | some x => setStg s (tabDepot t) (Memory.writeBytes (stg s (tabDepot t)) (tabAddr t) x.2.bytes)
    | none => s) s
  { s' with kv := { s'.kv with tabs := s'.kv.tabs.filter (fun x => !(gone.contains x.1)) } }

/-- The valid bytes of the combining buffer laid over a byte string that starts at a window address (R51, R341). -/
def overlay (comb : List CombEntry) (a : Nat) (bs : Bytes) : Bytes :=
  comb.foldl (fun bs e => e.bytes.foldl (fun bs c =>
    let w := e.block * 1024 + c.1
    if a ≤ w ∧ w < a + bs.length then bs.set (w - a) c.2 else bs) bs) bs

/-- Bytes of the staged window as every accepted write left them; bytes outside the backed window read zero (R50, R51). -/
def swBytes (s : State) (a n : Nat) : Bytes :=
  overlay (s.hp.comb.filter (fun e => backed s (e.block * 1024))) a ((List.range n).map (fun i =>
    if backed s (a + i) then Memory.read s.mem.dram (swDev s (a + i)) else 0))

/-- A little-endian number of the staged window. -/
def swNat (s : State) (a n : Nat) : Nat := leNat (swBytes s a n)

/-- Cells of a staged-window range, counted from its start, with the bytes of a combining buffer laid over them; outside the backed window
there are none (R50, R51). -/
def swSlice (s : State) (comb : List CombEntry) (a n : Nat) : Memory :=
  let lo := max a 0x02000000
  let base := (Memory.slice s.mem.dram (swDev s lo) (min (a + n) (swLimit s) - lo)).map (fun c => (c.1 + (lo - a), c.2))
  comb.foldl (fun m e => e.bytes.foldl (fun m c =>
    let w := e.block * 1024 + c.1
    if backed s w ∧ a ≤ w ∧ w < a + n then Memory.write m (w - a) c.2 else m) m) base

/-- The device mode is RUN, SLEEP, DEEP_SLEEP or LEAVING (R481). -/
def modeRun : Nat := 1
def modeSleep : Nat := 2
def modeDeep : Nat := 3
def modeLeaving : Nat := 4

/-- Host requests wait for RUN while the device is in LEAVING, and in DEEP_SLEEP that it has to leave first (R485). -/
def holds (s : State) : Bool := s.pw.mode == modeLeaving || s.pw.mode == modeDeep

/-- Writes of the management bus and of JTAG wait for RUN while the device is in DEEP_SLEEP or LEAVING (R515). -/
def mgmtHolds (s : State) (src : Src) : Bool := (src == .mgmt || src == .jtag) && (s.pw.mode == modeDeep || s.pw.mode == modeLeaving)

/-- HP_CFG.ILV_LOCK (R30). -/
def locked (s : State) : Bool := bitOf s.hp.cfg 31

/-- What the host does in its window has no effect before it is locked (R30). -/
def hostAct (f : State → State) (s : State) : State := if locked s then f s else s

/-- A pop by a read: before the lock the host reads zero and pops nothing (R30). -/
def popBy (src : Src) (f : State → Word × State) (s : State) : State :=
  if src = .host ∧ ¬ locked s then { s with rd := 0 } else let (w, s) := f s; { s with rd := w }

/-- A write to the register word at `addr`: the host's has no effect before the window is locked (R30), that of the management bus may have to
wait (R515); else it is made. -/
def whenRun (addr : Nat) (w : RegWr) (f : State → State) (s : State) : State :=
  if w.src = .host ∧ ¬ locked s then s
  else if mgmtHolds s w.src then { s with held := s.held ++ [⟨w.src, addr, w.data, w.be, []⟩] } else f s

/-- Gate enables of a clock domain: 0 EN_RUN, 1 EN_SLEEP, 2 EN_DEEP (R477). -/
def gateOf (s : State) (d : Nat) : Word := tabGet s.ck.gate d (if d < 3 then 7 else if d = 4 then 1 else 3)

/-- The enables of a domain for RUN and SLEEP are set (R478). -/
def gateOn (s : State) (d : Nat) : Bool := fld (gateOf s d) 0 2 == 3

/-- A CK_ or PW_ write is refused with a code (R486). -/
def ckRefuse (code : Nat) (s : State) : State :=
  { s with ck := { s.ck with stat := setFld s.ck.stat 8 8 code ||| 1 } }

/-- The device returns from SLEEP to RUN (R482, R487). -/
def leaveSleep (s : State) : State :=
  if s.pw.mode = modeSleep then
    { s with pw := { s.pw with mode := modeRun, acc := tabSet s.pw.acc 2 (tabGet s.pw.acc 2 0 + (s.now - s.pw.since).toNat), since := s.now } }
  else s

/-- Count an event of SN_CNT (R441). -/
def snCount (k n : Nat) (s : State) : State := { s with sn := { s.sn with cnt := cntAdd s.sn.cnt k n } }

/-- R445 takes the second copy of a two-copy record: it passes, and the first does not or was written earlier. -/
def takesSecond (q0 q1 : BitVec 32) (ok0 ok1 : Bool) : Bool := ok1 && (!ok0 || seqLater q1 q0)

/-- The repair map and the boot count that R445 takes. Where both copies are rejected (no boot passes R445 then, for the repair map) the first
stands as it reads (log 12). -/
def Package.secondRepair (p : Package) : Bool := takesSecond p.repair0.seq p.repair1.seq p.repair0.ok p.repair1.ok
def Package.secondBoots (p : Package) : Bool := takesSecond p.boot0.seq p.boot1.seq p.boot0.ok p.boot1.ok
def Package.repair (p : Package) : List (Nat × Nat) := if p.secondRepair then p.repair1.units else p.repair0.units
def Package.boots (p : Package) : BitVec 32 := if p.secondBoots then p.boot1.count else p.boot0.count

/-- The record is written into the other copy, with the next sequence word (R443, R445). -/
def Package.setRepair (p : Package) (u : List (Nat × Nat)) : Package :=
  if p.secondRepair then { p with repair0 := ⟨u, p.repair1.seq + 1, true⟩ } else { p with repair1 := ⟨u, p.repair0.seq + 1, true⟩ }
def Package.setBoots (p : Package) (n : BitVec 32) : Package :=
  if p.secondBoots then { p with boot0 := ⟨n, p.boot1.seq + 1, true⟩ } else { p with boot1 := ⟨n, p.boot0.seq + 1, true⟩ }

/-- State of a firmware swap (R468, R471). -/
def swapState (s : State) : Nat := fld s.tr.fwStat 0 3

/-- A swap is being checked, quiesces or hands over (R468, R469). -/
def swapping (s : State) : Bool := decide (1 ≤ swapState s ∧ swapState s ≤ 3)

/-- The boot stage (R451). -/
def bootStage (s : State) : Nat := fld s.tr.boot 8 8

end Sys2Proof.Machine
end

