-- ==== Sys2Proof/Machine/QueueOps.lean ====
section
/-! DEFINITION. Queues as records: lookup, change of state with its event (R61, R62, R64), and what fits a result ring. -/

namespace Sys2Proof.Machine

/-- Value of a queue state (R61). -/
def QState.value : QState → Nat
  | .closed => 0 | .opened => 1 | .hold => 2 | .stalled => 3 | .creditViol => 4 | .notAdmitted => 5 | .closing => 6

/-- Status code that reports a queue state (R61). -/
def QState.code : QState → Nat
  | .stalled => cStalled | .creditViol => cCredit | .notAdmitted => cNotAdmissible | _ => cOk

/-- A queue in this state accepts doorbells (R61). -/
def QState.rings : QState → Bool
  | .opened | .hold | .stalled => true
  | _ => false

/-- The record of a queue, none when it was never opened. -/
def queue? (s : State) (q : Nat) : Option Queue := (s.dq.queues.find? (fun e => e.1 == q)).map (·.2)

/-- State of a queue; a queue never opened is CLOSED (R61). -/
def qstate (s : State) (q : Nat) : QState := match queue? s q with | some r => r.st | none => .closed

/-- Replace the record of a queue. -/
def setQueue (q : Nat) (r : Queue) (s : State) : State := { s with dq := { s.dq with queues := tabSet s.dq.queues q r } }

/-- Change the record of a queue, if it has one. -/
def modQueue (q : Nat) (f : Queue → Queue) (s : State) : State :=
  match queue? s q with | some r => setQueue q (f r) s | none => s

/-- Write one entry to DQ_QEVT; a full FIFO counts it lost (R64, R92). -/
def pushQevt (w : Word) (s : State) : State :=
  if s.dq.qevt.length < 64 then { s with dq := { s.dq with qevt := s.dq.qevt ++ [w] } }
  else { s with dq := { s.dq with qevtLost := satAdd s.dq.qevtLost 1 } }

/-- The DQ_QEVT entry of a change of state (R92). -/
def qevtWord (q : Nat) (st : QState) : Word :=
  maskOf 63 1 ||| place st.code 40 8 ||| place st.value 32 8 ||| place q 0 16

/-- Move a queue to another state: the event entry, QUEUE_STATE, the time of entry into HOLD, the alert of STALLED (R62, R64,
R88). A queue already there does not move. -/
def moveQueue (q : Nat) (st : QState) (s : State) : State :=
  match queue? s q with
  | none => s
  | some r =>
    if r.st = st then s else
    let r := { r with st := st, holdSince := if st = .hold then s.now else r.holdSince }
    let s := alert 1 (pushQevt (qevtWord q st) (setQueue q r s))
    if st = .stalled then barker 0x0101 2 { status := cStalled, part := r.part, queue := q } s else s

/-- A dropped burst faults the queue that owns its address (R45, R62): OPEN, HOLD and STALLED move, others stay. Taking stops until a kind-0
doorbell once the queue is OPEN (R74, R89). -/
def creditFault (q : Nat) (s : State) : State :=
  match qstate s q with
  | .opened | .hold | .stalled => moveQueue q .creditViol (modQueue q (fun r => { r with stopped := true }) s)
  | _ => s

/-- Owner of a staged-window address: the lowest valid extent that contains it, unless that entry names no queue (R46, R59). -/
def ownerOf (s : State) (a : Nat) : Option Nat :=
  let hit := (List.range 256).find? (fun n =>
    let w := tabGet s.hp.ext n 0
    bitOf w 47 && decide (fld w 0 16 ≤ a / 0x10000 ∧ a / 0x10000 ≤ fld w 16 16))
  match hit with
  | none => none
  | some n => let w := tabGet s.hp.ext n 0; if fld w 43 4 = 0 then some (fld w 48 16) else none

/-- A drop at an address: the fault of its owner, and CREDIT_VIOL (R45). -/
def dropAt (a : Nat) (s : State) : State :=
  let s := { s with hp := { s.hp with dropLast := place (a / 64) 6 26 } }
  let s := match ownerOf s a with | some q => creditFault q s | none => s
  alert 2 s

/-- A ring. -/
def ring (s : State) (n : Nat) : Ring := tabGet s.dq.rings n Ring.init

/-- Replace a ring. -/
def setRing (n : Nat) (r : Ring) (s : State) : State := { s with dq := { s.dq with rings := tabSet s.dq.rings n r } }

/-- Bytes of a ring's text area in use (R83). -/
def textUsed (r : Ring) : Nat := (r.kept.map (·.held)).sum

/-- Bytes of text area a text of `n` bytes takes, with those skipped at the end of the area (R83). -/
def textNeed (r : Ring) (n : Nat) : Nat := if n = 0 then 0 else if r.pos + n > 0x8000 then (0x8000 - r.pos) + n else n

/-- Where that text starts in the area (R83). -/
def textStart (r : Ring) (n : Nat) : Nat := if n = 0 then 0 else if r.pos + n > 0x8000 then 0 else r.pos

/-- The ring can take a record of a queue now: a slot, its text, and no other queue's run open (R79, R83, R84). -/
def ringTakes (r : Ring) (q : Nat) (textLen : Nat) : Bool :=
  decide (seqDist r.p r.c < 512) && decide (textUsed r + textNeed r textLen ≤ 0x8000) &&
    (r.run == none || r.run == some q)

end Sys2Proof.Machine
end

