-- ==== Sys2Proof/Machine/Tightrope.lean ====
section
/-! DEFINITION. Tightrope (13, R388 to R393): the bound of a queue in exact arithmetic, and admission. Figures that are sums over
a pipeline program are inputs (log 16). -/

namespace Sys2Proof.Machine

/-- A non-negative fraction: numerator and nonzero denominator. -/
abbrev Fr := Nat × Nat

def Fr.add (a b : Fr) : Fr := (a.1 * b.2 + b.1 * a.2, a.2 * b.2)
def Fr.mul (a b : Fr) : Fr := (a.1 * b.1, a.2 * b.2)
def Fr.div (a b : Fr) : Fr := (a.1 * b.2, a.2 * b.1)
def Fr.sum (l : List Fr) : Fr := l.foldl Fr.add (0, 1)
def Fr.lt (a b : Fr) : Bool := decide (a.1 * b.2 < b.1 * a.2)
/-- One less a fraction below one. -/
def Fr.compl (a : Fr) : Fr := (a.2 - a.1, a.2)
def Fr.nat (n : Nat) : Fr := (n, 1)
def Fr.floor (a : Fr) : Nat := a.1 / a.2

/-- A queue as Tightrope sees it. -/
structure TQ where
  q : Nat
  part : Nat
  cls : Nat
  quota : Nat

/-- The class of a configuration, if it defines it. -/
def classOf (c : ImgConf) (cls : Nat) : Option ClassDef := c.classes.find? (fun d => d.cls == cls)

/-- The decoder of a partition, if it is declared. -/
def decOf (c : ImgConf) (part num : Nat) : Option DecDef := c.decs.find? (fun d => d.part == part && d.num == num)

/-- RM_DECL of a class (R388, R394). -/
def declOf (s : State) (cls : Nat) : Word := tabGet s.rm.decl cls 0x0000004000400000
def declPps (s : State) (cls : Nat) : Fr := (fld (declOf s cls) 48 16, 16)
def declLines (s : State) (cls : Nat) : Nat := fld (declOf s cls) 32 16
def declSteps (s : State) (cls : Nat) : Nat := fld (declOf s cls) 16 16

/-- A figure of R391: the state's where it is known, else a Config function's (log 16). -/
def fig (s : State) (key : List Nat) (d : Nat) : Nat := ((s.rm.figs.find? (fun e => e.1 == key)).map (·.2)).getD d

/-- Bytes per second assigned to a gate lane (R393). -/
def gateTraffic (s : State) (k : Nat) : Nat := fig s [6, k] (Config.gateTraffic k)

/-- Grant period of a share: the least power of two that is at least 1,024 / SHARE; 0 for share 0 (R384). -/
def grantPeriod (share : Nat) : Nat :=
  if share = 0 then 0 else ((List.range 11).map (2 ^ ·)).find? (fun p => decide (1024 ≤ p * share)) |>.getD 1024

/-- Slice length in ns (R360). -/
def sliceNs (p : PartDef) : Nat := (if p.slice = 0 then 100 else p.slice) * 10000

/-- Non-vacant logical tiles of a partition. -/
def nonVacant (s : State) (p : PartDef) : Nat := (bitsOf (p.tiles &&& ~~~ s.tl.vacant).toNat 64).length

/-- Positions of the 4,096-slot calendar that carry an owner code, rising. -/
def calPositions (cal : List (Nat × Nat)) (owner : Nat) : List Nat := (cal.filter (fun e => e.2 == owner)).map (·.1)

/-- Gap of a lane: the largest distance from one of its positions to the next, around the turn; 0 without a position. -/
def laneGap (cal : List (Nat × Nat)) (owner : Nat) : Nat :=
  match calPositions cal owner with
  | [] => 0
  | p :: ps =>
    let r := ps.foldl (fun (a : Nat × Nat) x => (x, max a.2 (x - a.1))) (p, 0)
    max r.2 (p + 4096 - r.1)

/-- The larger of the two walker lane gaps (R391). -/
def walkerGap (cal : List (Nat × Nat)) : Nat := max (laneGap cal 0x2010) (laneGap cal 0x2011)

/-- Any partition has a DRAM pool. -/
def anyDramPool (c : ImgConf) : Bool := c.pools.any (fun p => decide (0 < p.2.dramRuns))

/-- Tiles of a mask, rising. -/
def maskTiles (m : BitVec 64) : List Nat := bitsOf m.toNat 64

/-- Stage routes of a class. -/
def routesOf (c : ImgConf) (cls : Nat) : List StageRoute := c.routes.filter (fun r => r.cls == cls)

/-- The last entry of stage 4 of a class, by position. -/
def lastOf4 (c : ImgConf) (cls : Nat) (p : StageRoute → Bool) : Option StageRoute :=
  ((routesOf c cls).filter (fun r => r.stage == 4 && p r)).foldl (fun (b : Option StageRoute) r =>
    match b with | some x => if x.pos < r.pos then some r else b | none => some r) none

/-- The entry that carries the decoder's step commands: DEDUCED to be the last of stage 4, for R11 ends the stage with the decoder (log 70). -/
def stepEntry (c : ImgConf) (r : StageRoute) : Bool := lastOf4 c r.cls (fun _ => true) == some r

/-- Entries that give jobs to the queues of a class (R372): all but the decoder's, which serves queues alone only where stage 4 has one entry. -/
def queueEntry (c : ImgConf) (r : StageRoute) : Bool :=
  !(stepEntry c r) || decide (((routesOf c r.cls).filter (fun x => x.stage == 4)).length ≤ 1)

/-- The entry that carries a class's encoder commands: DEDUCED to be the last of stage 4 before the decoder's (log 70). -/
def encoderEntry (c : ImgConf) (cls : Nat) : Option StageRoute := lastOf4 c cls (queueEntry c)

/-- A routine of a partition. -/
def routineOf (c : ImgConf) (part id : Nat) : Option Routine := c.routines.find? (fun r => r.part == part && r.id == id)

/-- Certified time in ns of routines that run a number of times each: an ACLK is 25/8 ns (R238, R391). -/
def certSum (c : ImgConf) (rs : List StageRoute) (runs : Nat → Nat) : Fr :=
  ((rs.map (fun r => runs r.routine * ((routineOf c r.part r.routine).map (·.d)).getD 0)).sum * 25, 8)

/-- Tile work of one page in ns: 0 W_L, 1 W_F, 2 W_E, 3 W_S, sums of the certified durations of the stage's routines (R238, R391). -/
def pageWork (s : State) (c : ImgConf) (k cls quota lines : Nat) : Fr :=
  let mine := fun (r : StageRoute) => r.stage == (if k ≤ 1 then 3 else k + 2) && queueEntry c r
  match s.rm.figs.find? (fun e => e.1 == [k, cls, quota, lines]) with
  | some e => Fr.nat e.2
  | none => certSum c ((routesOf c cls).filter mine) (Config.pageRuns k cls quota lines)

/-- Decoder step tile work in ns: 0 a, 1 b_t, sums of the certified durations of the step's routines (R238, R391). -/
def stepWork (s : State) (c : ImgConf) (k cls : Nat) : Fr :=
  match s.rm.figs.find? (fun e => e.1 == [4 + k, cls]) with
  | some e => Fr.nat e.2
  | none => certSum c ((routesOf c cls).filter (stepEntry c)) (Config.stepRuns k cls)

/-- Switch time in units of 1/256 ns: 180 ns + B_spad / 256 + B_acc / 128 + 12.5 ns × N_held (R376). -/
def switchUnits (bspad live held : Nat) : Nat := 180 * 256 + bspad + 2 * (live * 16384) + 3200 * held

/-- Contexts (persistent bytes, live banks, tokens) of the routes of some classes. -/
def ctxOf (c : ImgConf) (cls : List Nat) : List (Nat × Nat × Nat) :=
  (c.routes.filter (fun r => cls.contains r.cls)).map (fun r =>
    match routineOf c r.part r.routine with
    | some x => (x.bspad, x.live, x.toks.length)
    | none => (0, 0, 0))

/-- Largest switch time of R376 among pairs of those contexts, in units of 1/256 ns. -/
def maxSwitch (cx : List (Nat × Nat × Nat)) : Nat :=
  cx.foldl (fun m a => cx.foldl (fun m b =>
    max m (switchUnits (max a.1 b.1) (max a.2.1 b.2.1) (max a.2.2 b.2.2))) m) 0

/-- Decoders of a partition whose step commands a tile runs: one job for each (R289, R372). -/
def decJobsOn (c : ImgConf) (part tile : Nat) : Nat :=
  (c.decs.filter (fun d => d.part == part && c.classes.any (fun k => k.part == part && k.dec == d.num &&
    (routesOf c k.cls).any (fun r => stepEntry c r && r.tiles.getLsbD tile)))).length

/-- Jobs that J counts on a tile: of each class with a queue, those of one queue, and the decoder jobs (R372, R391; log 28). -/
def jobsOnTile (c : ImgConf) (qs : List TQ) (part tile : Nat) : Nat :=
  let cls := ((qs.filter (fun q => q.part == part)).map (·.cls)).dedup
  (cls.map (fun k => ((routesOf c k).filter (fun r => queueEntry c r && r.tiles.getLsbD tile)).length)).sum + decJobsOn c part tile

/-- Jobs of one queue of a class: one for each stage route and tile (R372). -/
def queueJobCount (c : ImgConf) (cls : Nat) : Nat := (((routesOf c cls).filter (queueEntry c)).map (fun r => (maskTiles r.tiles).length)).sum

/-- Job slots of a partition that its decoders, its queues that are not CLOSED and the queues judged take (R372, R392). -/
def slotsTaken (s : State) (c : ImgConf) (qs : List TQ) (part : Nat) : Nat :=
  let have' := (s.dq.queues.filter (fun e => e.2.part == part && e.2.st != .closed)).map (fun e => (e.1, e.2.cls))
  let more := (qs.filter (fun q => q.part == part && !(have'.any (fun e => e.1 == q.q)))).map (fun q => (q.q, q.cls))
  ((have' ++ more).map (fun e => queueJobCount c e.2)).sum + ((List.range 64).map (decJobsOn c part)).sum

/-- J of R391. -/
def jLess (c : ImgConf) (qs : List TQ) (q : TQ) : Nat :=
  let tiles := (routesOf c q.cls).foldl (fun (m : BitVec 64) r => m ||| r.tiles) 0
  (maskTiles tiles).foldl (fun m t => max m (jobsOnTile c qs q.part t)) 1 - 1

/-- The terms P, X, D, O of R391 and the bound; `none` stands for unbounded (R392). -/
structure Bound where
  p : Option Fr
  x : Option Fr
  d : Option Fr
  o : Fr
  fits : Bool

/-- Blocks per stream B_k (R391). -/
def blocksPerStream (steps : Nat) : Nat := (steps - 1) / 64 + 1

/-- DRAM page reads per second of one queue, a term of R393. -/
def dramReads (s : State) (c : ImgConf) (q : TQ) : Fr :=
  match classOf c q.cls with
  | none => (0, 1)
  | some k =>
    match decOf c k.part k.dec with
    | none => (0, 1)
    | some d =>
      let steps := declSteps s q.cls
      Fr.mul (declPps s q.cls)
        (declLines s q.cls * steps * d.layers * d.kvh * blocksPerStream steps * k.dramShare, 65536)

/-- The calendar check of R393. -/
def calendarFits (s : State) (c : ImgConf) (qs : List TQ) : Bool :=
  let reads := Fr.sum (qs.map (dramReads s c))
  let lane := fun owner => decide (reads.1 * 65536 ≤ (calPositions c.cal owner).length * 1000000000 * reads.2)
  let gate := fun k => decide (gateTraffic s k * 65536 ≤ 32768 * (calPositions c.cal (0x3000 + k)).length * 1000000000)
  lane 0x2010 && lane 0x2011 && gate 1 && gate 2 && gate 3

/-- β of R391 for a class, in ns. -/
def stepCost (s : State) (c : ImgConf) (k : ClassDef) (d : DecDef) (n pp : Nat) : Fr :=
  let gw := 16 * walkerGap c.cal
  let bmax := if anyDramPool c then gw else 88
  let bown : Fr := ((65536 - k.dramShare) * 88 + k.dramShare * gw, 65536)
  let blk := Fr.add bown (Fr.nat ((pp - 1) * bmax))
  let walk := Fr.mul (Fr.nat (d.layers * d.kvh)) (Fr.add (Fr.nat 40) (Fr.mul (Fr.nat (blocksPerStream (declSteps s k.cls))) blk))
  Fr.add (Fr.div (stepWork s c 1 k.cls) (Fr.nat n)) (Fr.add walk (Fr.nat 4))

/-- The bound of a queue under a configuration and a set of open queues (R391, R392). -/
def boundOf (s : State) (c : ImgConf) (qs : List TQ) (q : TQ) : Bound :=
  let unb : Bound := { p := none, x := none, d := none, o := (0, 1), fits := false }
  match tabGet (c.parts.map (fun e => (e.1, some e.2))) q.part none, classOf c q.cls with
  | some pd, some k =>
    match decOf c k.part k.dec, tabGet (c.pools.map (fun e => (e.1, e.2.count))) q.part 0 with
    | some d, count =>
      let n := nonVacant s pd
      let pp := grantPeriod pd.share
      let mine := qs.filter (fun x => x.part == q.part)
      let lines := declLines s q.cls
      let steps := declSteps s q.cls
      let tprep := fun quota => quota * 2560
      let tmax := (qs.map (fun x => tprep x.quota)).foldl max 0
      let j := jLess c qs q
      let sig : Fr := Fr.add (Fr.nat (sliceNs pd + 66000)) (maxSwitch (ctxOf c (mine.map (·.cls))), 256)
      let work := fun (x : TQ) (i : Nat) => pageWork s c i x.cls x.quota (declLines s x.cls)
      let load := fun (x : TQ) =>
        let fb := ((classOf c x.cls).map (·.fallback)).getD 0
        let w := Fr.sum [work x 0, work x 2, work x 3, Fr.mul (Fr.nat (declLines s x.cls * declSteps s x.cls)) (stepWork s c 1 x.cls),
          Fr.mul (fb, 65536) (work x 1)]
        Fr.mul (declPps s x.cls) (Fr.div w (Fr.nat (n * 1000000000)))
      let ut := Fr.sum (mine.map load)
      let beta := fun (x : TQ) =>
        match classOf c x.cls with
        | some k' => if k'.dec = k.dec then stepCost s c k' d n pp else (0, 1)
        | none => (0, 1)
      let rate := fun (x : TQ) => Fr.mul (declPps s x.cls) (declLines s x.cls * declSteps s x.cls, 1000000000)
      let same := mine.filter (fun x => ((classOf c x.cls).map (·.dec)) == some k.dec)
      let ud := Fr.sum (same.map (fun x => Fr.mul (rate x) (beta x)))
      let bmax := if anyDramPool c then 16 * walkerGap c.cal else 88
      let tau := Fr.add (Fr.mul (Fr.nat j) sig)
        (Fr.add (stepWork s c 0 q.cls) (Fr.nat (1500 + count + d.layers * (300 + pp * bmax))))
      let o := Fr.nat (100000 + lines * 1000)
      let okN := n ≠ 0
      let okT := okN ∧ Fr.lt ut (1, 1)
      let okD := okN ∧ Fr.lt ud (1, 1)
      let live := Fr.div (Fr.mul (Fr.sum (same.map rate)) tau) (Fr.compl ud)
      { p := if pd.share = 0 then none else some (Fr.nat (pp * tmax + tprep q.quota))
        x := if okT then some (Fr.add (Fr.mul (Fr.nat (3 * j)) sig)
          (Fr.div (Fr.div (Fr.sum [work q 0, work q 1, work q 2, work q 3]) (Fr.nat n)) (Fr.compl ut))) else none
        d := if okD then some (Fr.div (Fr.mul (Fr.nat steps) tau) (Fr.compl ud)) else none
        o := o
        fits := okT && okD && pd.share != 0 && !(Fr.lt (Fr.nat d.listMax) live) && calendarFits s c qs &&
          decide (slotsTaken s c qs q.part ≤ 4095) }
    | none, _ => unb
  | _, _ => unb

/-- The bound in ns, rounded up to 100 µs; all ones when unbounded (R391, R392). -/
def Bound.ns (b : Bound) : Nat :=
  match b.p, b.x, b.d with
  | some p, some x, some d =>
    if b.fits then
      let t := Fr.sum [p, x, d, b.o]
      ceilDiv (ceilDiv t.1 t.2) 100000 * 100000
    else 2 ^ 64 - 1
  | _, _, _ => 2 ^ 64 - 1

/-- The four terms as RM_Q_TERM shows them (R394). -/
def Bound.terms (b : Bound) : List Word :=
  [b.p, b.x, b.d, some b.o].map (fun t => match t with | some f => BitVec.ofNat 64 f.floor | none => ~~~ 0)

/-- Deadline of a class in ns; 0 means 120 ms (R366). -/
def deadlineNs (c : ImgConf) (cls : Nat) : Nat :=
  let d := ((classOf c cls).map (·.deadline)).getD 0
  (if d = 0 then 120 else d) * 1000000

/-- States in which a queue counts in the demand (R389). -/
def QState.counts : QState → Bool
  | .opened | .hold | .stalled | .creditViol | .closing => true
  | _ => false

/-- Every queue that counts in the demand, ascending, apart from one. -/
def openTqs (s : State) (but : Nat) : List TQ :=
  (s.dq.queues.filter (fun e => e.2.st.counts && e.1 != but)).map (fun e => ⟨e.1, e.2.part, e.2.cls, e.2.quota⟩)

/-- Record a judgement for RM_Q_BOUND and RM_Q_TERM (R394); the queue takes the LINES that RM_DECL declares now (R388). -/
def noteBound (q : Nat) (b : Bound) (s : State) : State :=
  let r := tabGet s.rm.qstat q QStat.init
  modQueue q (fun x => { x with lines := declLines s x.cls })
    { s with rm := { s.rm with qstat := tabSet s.rm.qstat q { r with bound := BitVec.ofNat 64 b.ns, terms := b.terms } } }

/-- Judge a candidate at an open or a resume (R389): whether it is accepted, the bound the reply carries, the counters. -/
def judge (cand : TQ) (s : State) : Bool × Nat × State :=
  let c := s.si.conf
  let others := openTqs s cand.q
  let qs := cand :: others
  let b := boundOf s c qs cand
  let s1 := noteBound cand.q b s
  if deadlineNs c cand.cls < b.ns then (false, b.ns, s1) else
  let before := if (qstate s cand.q).counts then qs else others
  let judged := others.filter (fun x => qstate s x.q != .closing &&
    (boundOf s c qs x).ns != (boundOf s c before x).ns)
  let s2 := judged.foldl (fun s x => noteBound x.q (boundOf s c qs x) s) s1
  match judged.find? (fun x => decide (deadlineNs c x.cls < (boundOf s c qs x).ns)) with
  | some x => (false, (boundOf s c qs x).ns, s2)
  | none => (true, b.ns, s2)

/-- One judgement of the pass of R390: the queue stays if its bound and that of every queue kept before it fit. -/
def keepStep (s : State) (closing kept : List TQ) (x : TQ) : Bool × Bound :=
  let c := s.si.conf
  let qs := kept ++ [x] ++ closing
  (qs.filter (fun y => ¬ closing.any (fun z => z.q == y.q))).all (fun y => decide ((boundOf s c qs y).ns ≤ deadlineNs c y.cls))
    |> fun ok => (ok, boundOf s c qs x)

/-- Queues of a partition in some states, by PRIO, highest first, and then by number (R390). -/
def readmitOrder (s : State) (part : Nat) (p : QState → Bool) : List TQ :=
  let prio := fun (x : TQ) => ((classOf s.si.conf x.cls).map (·.prio)).getD 0
  let qs := (s.dq.queues.filter (fun e => e.2.part == part && p e.2.st)).map (fun e => (⟨e.1, e.2.part, e.2.cls, e.2.quota⟩ : TQ))
  (List.range 16).reverse.flatMap (fun k => qs.filter (fun x => prio x == k))

/-- The partition's non-vacant tiles decreased: its open queues but those in CLOSING are judged again, and one that fails goes to NOT_ADMITTED and
leaves the demand (R390). -/
def readmitFewer (part : Nat) (s : State) : State :=
  let others := (openTqs s 0x10000).filter (fun x => x.part != part || qstate s x.q == .closing)
  ((readmitOrder s part (fun st => st.counts && st != .closing)).foldl (fun (a : State × List TQ) x =>
    let (s, kept) := a
    let (ok, b) := keepStep s others kept x
    let s := noteBound x.q b s
    if ok then (s, kept ++ [x])
    else
      (barker 0x0102 2 { status := cNotAdmissible, part := part, queue := x.q, detail := b.ns } (moveQueue x.q .notAdmitted s), kept)) (s, [])).1

/-- Tiles of the partition returned: its queues in NOT_ADMITTED are judged again, each as a resume is (R389, R390). -/
def readmitMore (part : Nat) (s : State) : State :=
  (readmitOrder s part (· == .notAdmitted)).foldl (fun s x =>
    let (ok, _, s) := judge x s
    if ok then moveQueue x.q .opened s else s) s

/-- Judge the queues of a partition again after its non-vacant tiles changed (R390). -/
def readmit (part : Nat) (fewer : Bool) (s : State) : State := if fewer then readmitFewer part s else readmitMore part s

end Sys2Proof.Machine
end

