-- ==== Sys2Proof/Machine/Pages.lean ====
section
/-! DEFINITION. Pages and the records they produce: class parameters, counters, reservations, output items (R14 to R18, R78, R82,
R86, R533, R534). -/

namespace Sys2Proof.Machine

/-- PP_CLASS_A and PP_CLASS_B of a class: the pipeline program's, or the reset values for an undefined class (R167). -/
def ppClassA (s : State) (cls : Nat) : Word := ((classOf s.si.conf cls).map (·.ppA)).getD 0x80008000FF00012C
def ppClassB (s : State) (cls : Nat) : Word := ((classOf s.si.conf cls).map (·.ppB)).getD 0x100020100010001D

def ppWmax (a : Word) : Nat := fld a 48 16
def ppHmax (a : Word) : Nat := fld a 32 16
def ppBg (a : Word) : Nat := fld a 24 8
def ppOrient (a : Word) : Nat := fld a 17 2
def ppFlip (a : Word) : Bool := bitOf a 16
def ppDpi (a : Word) : Nat := fld a 0 16
def ppRowW (b : Word) : Nat := fld b 48 16
def ppLineH (b : Word) : Nat := fld b 40 8
def ppGap (b : Word) : Nat := fld b 32 8
def ppMargin (b : Word) : Nat := fld b 16 16
def ppSkewMin (b : Word) : Nat := fld b 0 16

/-- Count an event of a class in PP_CNT[k], if PP_CNT_SEL chooses the class (R167). -/
def ppCount (cls k n : Nat) (s : State) : State :=
  if bitOf s.pp.cntSel 8 ∨ fld s.pp.cntSel 0 8 = cls then { s with pp := { s.pp with cnt := cntAdd s.pp.cnt k n } } else s

/-- A page of the page table. -/
def page? (s : State) (pid : BitVec 32) : Option Page := (s.pp.pages.find? (fun e => e.1 == pid.toNat)).map (·.2)

/-- Replace a page. -/
def setPage (p : Page) (s : State) : State := { s with pp := { s.pp with pages := tabSet s.pp.pages p.id.toNat p } }

/-- Change a page, if it is admitted. -/
def modPage (pid : BitVec 32) (f : Page → Page) (s : State) : State :=
  match page? s pid with | some p => setPage (f p) s | none => s

/-- Bytes of DRAM region 2 that neither a reservation nor an excess draw holds (R534). -/
def r2free (s : State) : Nat := regionSize s 2 - s.pp.used

/-- Take bytes of region 2, or give them back. -/
def r2take (n : Nat) (s : State) : State := { s with pp := { s.pp with used := s.pp.used + n } }
def r2give (n : Nat) (s : State) : State := { s with pp := { s.pp with used := s.pp.used - n } }

/-- Parts of a reservation for the prepared page and for the records and text (R534). -/
def resvPrepBytes (a : Word) : Nat := 4096 * ceilDiv (ppWmax a) 64 * ceilDiv (ppHmax a) 64
def resvRecBytes (lines : Nat) : Nat := (64 + 16384) * lines

/-- The reservation for a page of a queue, with `buf` bytes of page buffer at a scan door (R136, R388, R534). -/
def resvOf (s : State) (r : Queue) (buf : Nat) : Resv :=
  { buf := if r.door = 3 then r.quota * 4096 else if r.door = 0 then 0 else buf, prep := resvPrepBytes (ppClassA s r.cls),
    recs := resvRecBytes r.lines }

/-- The partition drains or applies a structure image: it admits no page (R367). -/
def draining (s : State) (part : Nat) : Bool :=
  match s.si.job with
  | some j => (j.whole || j.part == part) && (fld s.si.stat 0 3 == 2 || fld s.si.stat 0 3 == 3)
  | none => false

/-- The partition is being written by a load: no command of it runs (R367). -/
def applying (s : State) (part : Nat) : Bool := draining s part && fld s.si.stat 0 3 == 3

/-- The next page id; 0xFFFF_FFFF is skipped (R13, R440). DESIGN CHOICE: the first id after reset is 0 (log 68). -/
def takePid (s : State) : BitVec 32 × State :=
  let n := s.pp.nextPid
  let nx := if n + 1 = 0xFFFFFFFF then 0 else n + 1
  (n, { s with pp := { s.pp with nextPid := nx } })

/-- The version of a profile in force in a partition (R156). -/
def profInForce (s : State) (part pid : Nat) : Option Profile :=
  s.pp.profiles.find? (fun p => p.part == part && p.pid == pid && p.inForce)

/-- Admit a page: it binds class parameters and profile version (R13, R153, R156), takes over its reservation (R534) and its place in the
queue's output. -/
def admitPage (q : Nat) (r : Queue) (cseq : BitVec 32) (profile : Nat) (batchStart : Bool) (claim : Claim) (start : Option (BitVec 64))
    (resv : Resv) (s : State) : BitVec 32 × State :=
  let (pid, s) := takePid s
  let p : Page := {
    id := pid, queue := q, door := r.door, cseq := cseq, cls := r.cls, part := r.part, ppA := ppClassA s r.cls, ppB := ppClassB s r.cls,
    deadline := deadlineNs s.si.conf r.cls, start := start,
    prof := (profInForce s r.part profile).map (fun v => (v.pid, v.ver)), batchStart := batchStart, before := r.lastPage,
    sfRegs := s.sf.regs, claim := claim, frame := none, raw := [], buf := [], data := [], dataEnd := r.door == 0, pair := none, trunc := false, retried := false, stripes := 0,
    bgStripes := 0, prep := none, found := [], regions := [], fellBack := false, rows := 0, segsLeft := 0, segEnds := [],
    stage := if r.door = 0 then .prep else .intake, resvBuf := resv.buf, resvPrep := resv.prep,
    resvRec := resv.recs, drawn := 0 }
  let item : OutItem := { isCmd := r.door == 0, isPage := true, cseq := cseq, page := some pid, recs := [], ready := false, written := 0 }
  (pid, setQueue q { r with items := r.items ++ [item], lastPage := some pid } (setPage p s))

/-- A command record (R82): QUEUE, CSEQ, STATUS, RSEQ and DONE_TIME are meaningful. -/
def cmdRec (cseq : BitVec 32) (code : Nat) : Rec :=
  { status := BitVec.ofNat 8 code, pageEnd := true, profileHit := false, nocmd := false, cmd := true, conf := 0, cseq := cseq, pageId := 0,
    line := 0, order := 0, field := 0, box := ⟨0, 0, 0, 0⟩, text := [] }

/-- A page record (R533); with NOCMD its CSEQ is zero (R82). -/
def pageRec (pid cseq : BitVec 32) (nocmd : Bool) (code : Nat) : Rec :=
  { status := BitVec.ofNat 8 code, pageEnd := true, profileHit := false, nocmd := nocmd, cmd := false, conf := 0, cseq := if nocmd then 0 else cseq,
    pageId := pid, line := 0, order := 0, field := 0xFFFF, box := ⟨0, 0, 0, 0⟩, text := [] }

/-- Append an output item to a queue. -/
def pushItem (q : Nat) (i : OutItem) (s : State) : State := modQueue q (fun r => { r with items := r.items ++ [i] }) s

/-- The command record of a queue's command, ready or not (R78). -/
def pushCmdRec (q : Nat) (cseq : BitVec 32) (code : Nat) (ready : Bool) (s : State) : State :=
  pushItem q { isCmd := true, isPage := false, cseq := cseq, page := none, recs := [cmdRec cseq code], ready := ready, written := 0 } s

/-- Change the output item of a page. -/
def modItem (q : Nat) (pid : BitVec 32) (f : OutItem → OutItem) (s : State) : State :=
  modQueue q (fun r => { r with items := r.items.map (fun i => if i.page = some pid then f i else i) }) s

/-- Entries in DONE whose line's text has gone to output become FREE, and their table slots with them (R295, R300). -/
def freeSeqs (s : State) : State :=
  let past := fun (e : SeqEntry) => e.st == .done && (match page? s e.page with | some p => p.stage == .output || p.stage == .released | none => true)
  let gone := (s.kv.seqs.filter (fun e => past e.2)).map (·.2.table)
  let kept := (s.kv.tabs.filter (fun t => t.2.old)).map (·.1)
  dropTabs (gone.filter (fun t => !(kept.contains t)))
    { s with kv := { s.kv with seqs := s.kv.seqs.map (fun e => if past e.2 then (e.1, { SeqEntry.init with epoch := e.2.epoch }) else e) } }

/-- A running command of a tile, a codec or a hauler serves the page. -/
def pageRead (s : State) (pid : BitVec 32) : Bool :=
  s.tl.tiles.any (fun e => match e.2.cmd with | some c => c.pages.contains pid | none => false) ||
    s.dm.cmds.any (fun c => c.engine.isSome && c.pages.contains pid)

/-- Give back space of region 2, or owe it until no running command reads the page (R20). -/
def giveOrOwe (pid : BitVec 32) (n : Nat) (s : State) : State :=
  if n = 0 then s
  else if pageRead s pid then { s with pp := { s.pp with owing := s.pp.owing ++ [(pid, n)] } }
  else r2give n s

/-- Space owed for pages that no running command reads any more is free (R20). -/
def settleOwing (s : State) : State :=
  let due := s.pp.owing.filter (fun e => !(pageRead s e.1))
  r2give (due.map (·.2)).sum { s with pp := { s.pp with owing := s.pp.owing.filter (fun e => pageRead s e.1) } }

/-- Give the page's records to its output item: structuring is done (R11). The space of its buffer and of the prepared page is given back. -/
def pageDone (pid : BitVec 32) (recs : List Rec) (s : State) : State :=
  match page? s pid with
  | none => s
  | some p =>
    let s := giveOrOwe pid (p.resvBuf + p.resvPrep) s
    let lost := (recs.filter (fun r => r.status.toNat == cInputLost)).length
    let s := if lost = 0 then s else { s with sn := { s.sn with cnt := cntAdd s.sn.cnt 3 lost } }
    let s := setPage { p with stage := .output, resvBuf := 0, resvPrep := 0, bgStripes := 0 } s
    freeSeqs (modItem p.queue pid (fun i => { i with recs := recs }) s)

/-- Drop what the later stages hold of a page: packed rows that are in no batch, sequences waiting for an entry. A batch keeps its make-up
(R163), and live entries decode on. -/
def dropRows (pid : BitVec 32) (s : State) : State :=
  { s with pp := { s.pp with packed := s.pp.packed.filter (fun r => r.page != pid || r.batched) }
           kv := { s.kv with segs := s.kv.segs.filter (fun e => e.2.1 != pid) } }

/-- A page that has ended, or is gone. -/
def pageEnded (s : State) (p : BitVec 32) : Bool :=
  match page? s p with | some x => x.stage == .output || x.stage == .released | none => true

/-- Commands that have not been taken and serve only ended pages are dropped (R264): those that wait for dispatch with their batches, and those
that wait for a codec or a hauler. -/
def pruneReady (s : State) : State :=
  let gone' := fun (ps : List (BitVec 32)) => !ps.isEmpty && ps.all (pageEnded s)
  let dead := s.pp.batches.filter (fun b => !b.sent && gone' (b.rows.map (·.1)))
  let gone := dead.flatMap (·.rows)
  { s with
      rm := { s.rm with ready := s.rm.ready.filter (fun e => !(gone' e.1.pages)) }
      dm := { s.dm with cmds := s.dm.cmds.filter (fun c => c.engine.isSome || !(gone' c.pages)) }
      pp := { s.pp with batches := s.pp.batches.filter (fun b => !(dead.contains b))
                        packed := s.pp.packed.filter (fun r => !(gone.contains (r.page, r.idx))) } }

/-- A page that ended INPUT_LOST steers no other (R157). -/
def dropPrev (p : Page) (s : State) : State :=
  modQueue p.queue (fun r => { r with prev := r.prev.filter (fun v => v.page != p.id) }) s

/-- End a page with its one page record (R264, R380, R421, R533). -/
def endPage (pid : BitVec 32) (code : Nat) (s : State) : State :=
  match page? s pid with
  | none => s
  | some p =>
    if p.stage = .output ∨ p.stage = .released then s else
    let s := if code = cInputLost then dropPrev p s else s
    pruneReady (pageDone pid [pageRec pid p.cseq (p.door != 0) code] (dropRows pid s))

/-- CSEQ of a page's records: zero for a page of a scan or fabric door (R82). -/
def pageCseq (p : Page) : BitVec 32 := if p.door = 0 then p.cseq else 0

/-- End a page INPUT_LOST (R421): its one page record, or, once its layout has committed, one record for each line in reading order. -/
def endLost (pid : BitVec 32) (s : State) : State :=
  match page? s pid with
  | none => s
  | some p =>
    if p.stage = .output ∨ p.stage = .released then s
    else if p.stage = .intake ∨ p.stage = .prep ∨ p.stage = .layout then endPage pid cInputLost s
    else
      let rec1 := fun (l : Nat × Found) =>
        ({ status := BitVec.ofNat 8 cInputLost, pageEnd := decide (l.1 + 1 = p.found.length), profileHit := false, nocmd := p.door != 0, cmd := false,
           conf := 0, cseq := pageCseq p, pageId := pid, line := BitVec.ofNat 16 l.1, order := BitVec.ofNat 16 l.1, field := 0xFFFF,
           box := l.2.box, text := [] } : Rec)
      pruneReady (pageDone pid (((List.range p.found.length).zip p.found).map rec1) (dropRows pid (dropPrev p s)))

/-- Text cut at the last whole UTF-8 character within 16,384 bytes (R83). -/
def cutText (t : Bytes) : Bytes :=
  if t.length ≤ 16384 then t else
  let isCont := fun (b : Byte) => decide (b.toNat / 64 = 2)
  let n := ((List.range 4).find? (fun k => !(isCont (nth t (16384 - k) 0)))).getD 0
  t.take (16384 - n)

/-- Records of a page in reading order, its indices without gap from 0 (R14, R82, R83, R91, R165). -/
def pageRecords (p : Page) (g1 : Bool) (outs : List LineOut) (bad : List (BitVec 16)) (regionsLost : Bool) : List Rec :=
  let lines := (List.range p.found.length)
  let out := fun (l : Nat) => outs.find? (fun o => o.line.toNat == l)
  let key := fun (l : Nat) => if g1 || regionsLost then l else ((out l).map (·.order.toNat)).getD l
  let rank := fun (l : Nat) => (lines.filter (fun m => decide (key m < key l) || (key m == key l && decide (m < l)))).length
  let order := (List.range p.found.length).flatMap (fun k => lines.filter (fun l => rank l == k))
  order.map (fun l =>
    let f := nth p.found l ⟨⟨0, 0, 0, 0⟩, 0xFFFF, false, false⟩
    let o := out l
    let ended := ((p.segEnds.find? (fun e => e.1 == l)).map (·.2.toNat)).getD 0
    let lostLine := regionsLost || bad.any (fun b => b.toNat == l)
    let text := if f.corrupt then [] else ((o.map (·.text)).getD [])
    let code := pickCode [if p.trunc then cTruncated else 0, if f.corrupt then cCorrupt else 0, ended,
      if p.retried then cRetried else 0, if 16384 < text.length then cLengthLimit else 0, if lostLine then cInputLost else 0]
    ({ status := BitVec.ofNat 8 code
       pageEnd := decide (rank l + 1 = p.found.length)
       profileHit := !g1 && f.hit
       nocmd := p.door != 0, cmd := false
       conf := if f.corrupt then 0 else ((o.map (·.conf)).getD 0)
       cseq := pageCseq p, pageId := p.id
       line := BitVec.ofNat 16 l
       order := BitVec.ofNat 16 (if g1 then l else rank l)
       field := if g1 || regionsLost then 0xFFFF else f.field
       box := f.box
       text := cutText text } : Rec))

/-- The 64 bytes of a record (R82). -/
def recBytes (r : Rec) (lap : Nat) (q : Nat) (rseq : BitVec 32) (status textOff : Nat) (done : BitVec 64) : Bytes :=
  let flags := (if r.pageEnd then 1 else 0) + (if r.profileHit then 2 else 0) + (if r.nocmd then 64 else 0) + (if r.cmd then 128 else 0)
  leBytes 1 lap ++ leBytes 1 status ++ leBytes 1 flags ++ leBytes 1 r.conf.toNat ++ leBytes 4 q ++ leBytes 4 rseq.toNat ++
  leBytes 4 r.cseq.toNat ++ leBytes 4 r.pageId.toNat ++ leBytes 2 r.line.toNat ++ leBytes 2 r.order.toNat ++ leBytes 2 r.field.toNat ++
  leBytes 6 0 ++ leBytes 1 lap ++ leBytes 1 0 ++ leBytes 2 r.text.length ++ leBytes 4 textOff ++
  leBytes 2 r.box.x0.toNat ++ leBytes 2 r.box.y0.toNat ++ leBytes 2 r.box.x1.toNat ++ leBytes 2 r.box.y1.toNat ++
  leBytes 8 done.toNat ++ leBytes 8 0

/-- Free bytes that a command record draws (R82). -/
def cmdFree : Nat := 25

/-- A command record: the fields that R82 calls not meaningful hold free values `f`, but for those that R91 fixes on a G1 queue (log 7). -/
def cmdBytes (g1 : Bool) (f b : Bytes) : Bytes :=
  let at' := fun i n => (f.drop i).take n
  b.take 2 ++ [0x80 ||| (nth f 0 0 &&& (if g1 then 0x41 else 0x43)), nth f 1 0] ++ (b.drop 4).take 12 ++ at' 2 4 ++ at' 6 2 ++
  (if g1 then at' 6 2 ++ [0xFF, 0xFF] else at' 8 4) ++ (b.drop 26).take 8 ++ at' 12 4 ++ [nth f 16 0 &&& 0x7F, 0] ++ at' 17 8 ++ b.drop 48

/-- The 64 bytes of a record of a queue as the device writes it (R82). -/
def sendBytes (x : Rec) (lap : Nat) (q : Nat) (r : Queue) (status textOff : Nat) (s : State) : Bytes × State :=
  let b := recBytes x lap q r.rseq status textOff s.now
  if x.cmd then (let (f, s) := freshBytes cmdFree s; (cmdBytes (r.gen == 1) f b, s)) else (b, s)

/-- An item may go out: no earlier item of its kind (command, page) still has records to write (R15, R78). -/
def mayGo (earlier : List OutItem) (i : OutItem) : Bool :=
  i.ready && earlier.all (fun e => !(e.isCmd && i.isCmd) && !(e.isPage && i.isPage))

/-- The next item of a list that may go out, with its place. -/
def nextItem : List OutItem → List OutItem → Option (Nat × OutItem)
  | _, [] => none
  | before, i :: rest => if mayGo before i then some (before.length, i) else nextItem (before ++ [i]) rest

/-- The item whose run is open: some of a page's records are out and not all (R14, R84). -/
def openRun (items : List OutItem) : Option (Nat × OutItem) :=
  ((List.range items.length).zip items).find? (fun e => e.2.isPage && decide (0 < e.2.written) && decide (e.2.written < e.2.recs.length))

/-- The next record of a queue that is ready for output: item's place, item, record. A page's run that has begun is finished first (R14,
R84). -/
def nextRec (r : Queue) : Option (Nat × OutItem × Rec) :=
  match (openRun r.items).orElse (fun _ => nextItem [] r.items) with
  | some (k, i) => (i.recs[i.written]?).map (fun x => (k, i, x))
  | none => none

/-- The deadline's end of a page in ns, when its start event is known (R17, R18). -/
def pageDue (s : State) (pid : Option (BitVec 32)) : Option Nat :=
  match pid.bind (page? s) with
  | some p => p.start.map (fun t => t.toNat + p.deadline)
  | none => none

/-- The time is later than a page's start plus its deadline (R18). -/
def overdue (s : State) (pid : Option (BitVec 32)) : Bool :=
  match pageDue s pid with | some d => decide (d < s.now.toNat) | none => false

/-- STATUS of a record as it is written now (R9, R18). -/
def writtenStatus (s : State) (i : OutItem) (r : Rec) : Nat :=
  if overdue s i.page then pickCode [r.status.toNat, cDeadline] else r.status.toNat

/-- The excess space a record needs beyond the declared LINES (R534): 0 for the lines the reservation covers. -/
def excessNeed (s : State) (i : OutItem) : Nat :=
  match i.page.bind (page? s) with
  | some p => if p.resvRec < (i.written + 1) * (64 + 16384) ∧ 1 < i.recs.length then 64 + 16384 else 0
  | none => 0

/-- A result ring can take this record of a queue now (R79, R83, R84, R534). -/
def canWrite (s : State) (q : Nat) (r : Queue) (i : OutItem) (x : Rec) : Bool :=
  ringTakes (ring s r.ring) q x.text.length && decide (excessNeed s i ≤ r2free s)

/-- A queue with a record ready that its ring cannot take enters HOLD from OPEN (R62, R87). -/
def holdCheck (q : Nat) (s : State) : State :=
  match queue? s q with
  | none => s
  | some r =>
    if r.st = .opened ∧ r.door ≠ 3 then
      match nextRec r with
      | some (_, i, x) => if canWrite s q r i x then s else moveQueue q .hold s
      | none => s
    else s

/-- A queue in HOLD or STALLED with no record waiting returns to OPEN (R62). -/
def unholdCheck (q : Nat) (s : State) : State :=
  match queue? s q with
  | none => s
  | some r =>
    if (r.st = .hold ∨ r.st = .stalled) ∧ (nextRec r).isNone then moveQueue q .opened s else s

/-- A page whose records are all consumed leaves the table, and its reservation with it (R422, R534). -/
def retirePage (pid : BitVec 32) (s : State) : State :=
  match page? s pid with
  | none => s
  | some p =>
    let s := r2give (p.resvRec + p.drawn) s
    { s with pp := { s.pp with pages := tabDel s.pp.pages pid.toNat } }

/-- Profile versions that are neither in force nor bound by a page with records to release are freed (R156). -/
def sweepProfiles (s : State) : State :=
  let bound := fun (v : Profile) => s.pp.pages.any (fun e => e.2.part == v.part && e.2.prof == some (v.pid, v.ver) && e.2.stage != .released)
  { s with pp := { s.pp with profiles := s.pp.profiles.filter (fun v => v.inForce || bound v) } }

/-- The records of the item in place k are all out: the item goes, its page is released (R15, R156). -/
def itemDone (q k : Nat) (i : OutItem) (s : State) : State :=
  let s := modQueue q (fun r => { r with items := r.items.eraseIdx k }) s
  match i.page with
  | some pid => sweepProfiles (modPage pid (fun p => { p with stage := .released }) s)
  | none => s

end Sys2Proof.Machine
end

