-- ==== Sys2Proof/Machine/Flows.lean ====
section
/-! DEFINITION. Caravan flows (14): what they reserve ahead, and the credit of their result frames (R401, R408, R411). -/

namespace Sys2Proof.Machine

/-- A flow. -/
def flow (s : State) (f : Nat) : Flow := tabGet s.cv.flows f Flow.init

/-- Replace a flow. -/
def setFlow (f : Nat) (x : Flow) (s : State) : State := { s with cv := { s.cv with flows := tabSet s.cv.flows f x } }

/-- Count an event of CV_CNT (R412). -/
def cvCount (k n : Nat) (s : State) : State := { s with cv := { s.cv with cnt := cntAdd s.cv.cnt k n } }

/-- The queue bound to a flow (R12, R412). -/
def flowQueue (s : State) (f : Nat) : Option (Nat × Queue) :=
  s.dq.queues.find? (fun e => e.2.st != .closed && e.2.door == 3 && e.2.sel == f)

/-- One more reservation for a flow's queue, when R401 allows it: the page limit rises. -/
def reserveOne (f : Nat) (s : State) : State :=
  let x := flow s f
  match flowQueue s f with
  | some (_, r) =>
    let need := resvOf s r 0
    if r.st = .opened ∧ ¬ draining s r.part ∧ need.total ≤ r2free s ∧ x.resv.length < fld x.cfg 40 2 + 1 then
      setFlow f { x with resv := x.resv ++ [need], plimit := x.plimit + 1 } (r2take need.total s)
    else s
  | none => s

/-- Every reservation that a flow can make now (R401): at most four. -/
def reserveFlow (f : Nat) (s : State) : State := reserveOne f (reserveOne f (reserveOne f (reserveOne f s)))

/-- Every flow that a queue is bound to reserves what it can (R401). -/
def reserveFlows (s : State) : State :=
  ((s.dq.queues.filter (fun e => e.2.door == 3)).map (·.2.sel)).foldl (fun s f => reserveFlow f s) s

/-- Text length in the stream: padded to 8 bytes (R408). -/
def paddedLen (n : Nat) : Nat := ceilDiv n 8 * 8

/-- Room left in the open frame after a text of `n` bytes and its record, and the frames closed on the way, with payload size m (R408). -/
def fillEntry (m room n : Nat) : Nat × Nat :=
  let room := if room = 0 then m else room
  let p := paddedLen n
  let (k, room) := if p ≤ room then (0, room - p) else
    let rest := p - room
    (ceilDiv rest (max 1 m), m - (if rest % (max 1 m) = 0 then m else rest % (max 1 m)))
  if 64 ≤ room then (k, room - 64) else (k + 1, m - 64)

/-- Frames that a page's entries need: they start in a frame of their own and the page's last record closes one (R408). -/
def framesFor (m : Nat) (lens : List Nat) : Nat :=
  (lens.foldl (fun (a : Nat × Nat) n => let (k, room) := fillEntry m a.2 n; (a.1 + k, room)) (0, m)).1 + (if lens = [] then 0 else 1)

/-- Result frames that a flow can still grant: those before the limit, less what commits have spent and jobs hold (R409, R411). -/
def flowFree (s : State) (f : Nat) : Nat :=
  let x := flow s f
  let held := match flowQueue s f with
    | some (q, _) => ((s.rm.jobs.filter (fun j => j.queue == some q)).map (·.credits)).sum
    | none => 0
  (if seqLater x.rlimit x.tx then seqDist x.rlimit x.tx else 0) - x.owed - held

/-- The frames of a page are acquired by a stage-5 job and spent by the commit, or the job keeps what it got and the queue holds (R411). -/
def acquireFrames (f : Nat) (k : Nat × Nat) (need : Nat) (s : State) : Bool × State :=
  let x := flow s f
  let job := s.rm.jobs.find? (fun j => j.part == k.1 && j.slot == k.2)
  let have_ := (job.map (·.credits)).getD 0
  let free := flowFree s f
  let put := fun (c : Nat) (s : State) => { s with rm := { s.rm with jobs := s.rm.jobs.map (fun (j : Job) =>
    if j.part = k.1 ∧ j.slot = k.2 then { j with credits := c } else j) } }
  if need ≤ have_ + free then (true, setFlow f { x with owed := x.owed + need } (put (have_ - need) s))
  else (false, put (have_ + free) s)

end Sys2Proof.Machine
end

