-- ==== Sys2Proof/WellFormed.lean ====
section
/-! DEFINITION. Well-formed commands: the operand ranges of the table's rows, and for tile operations the checks that every bundle has
passed before it may issue (R208 to R210, R214 to R226). -/

namespace Sys2Proof

/-- A register file of R209, or none for a field the operation does not use. -/
inductive RegFile where
  | none | s | a | v | p | aOrS
  deriving DecidableEq, Repr

/-- A register code names a register of the file, or None; an unused field is zero (R209, R210). -/
def RegFile.takes (f : RegFile) (c : BitVec 8) : Bool :=
  let n := c.toNat
  match f with
  | .none => n == 0
  | .s => decide (n < 0x40) || n == 0xFF
  | .a => (decide (0x40 ≤ n) && decide (n < 0x60)) || n == 0xFF
  | .v => (decide (0x80 ≤ n) && decide (n < 0xC0)) || n == 0xFF
  | .p => (decide (0xC0 ≤ n) && decide (n < 0xC8)) || n == 0xFF
  | .aOrS => decide (n < 0x60) || n == 0xFF

/-- The row of an operation in the tables of R215 to R226: slots that take it, files of DST, SRCA, SRCB and SRCC, whether MOD[0] gives b a
second form (1 the immediate, 2 an S register), the MOD bits it uses, whether it uses IMM. -/
structure OpRow where
  slots : List Nat
  d : RegFile
  a : RegFile
  b : RegFile
  c : RegFile
  alt : Nat
  mods : Nat
  imm : Bool

namespace Op

/-- MOD field [lo + n - 1 : lo]. -/
def fieldOf (o : Op) (lo n : Nat) : Nat := (o.mod.toNat >>> lo) % 2 ^ n

/-- MOD[i]. -/
def flag (o : Op) (i : Nat) : Bool := o.mod.getLsbD i

/-- An operation stands in a slot that takes it, every field it does not use is zero, every register field names a register of its file,
and PNEG is clear with P0 (R210, R214). -/
def ok (r : OpRow) (o : Op) : Bool :=
  let second := r.alt != 0 && o.flag 0
  let bFile := if second then (if r.alt = 1 then RegFile.none else RegFile.s) else r.b
  r.slots.contains o.slot.toNat && !(o.pneg && o.pred == 0) && r.d.takes o.dst && r.a.takes o.srcA && bFile.takes o.srcB &&
    r.c.takes o.srcC && ((o.mod.toNat &&& r.mods) == o.mod.toNat) &&
    (r.imm || (r.alt == 1 && second) || o.imm == 0)

end Op

def rowSA (ra rb : RegFile) (d : RegFile := .s) (c : RegFile := .none) (alt : Nat := 1) (mods : Nat := 1) (imm : Bool := false) : OpRow :=
  ⟨[0, 1], d, ra, rb, c, alt, mods, imm⟩

/-- Scalar operations of two operands (R215). -/
def rowScalar : OpRow := rowSA .s .s
def rowMovi : OpRow := rowSA .none .none (alt := 0) (mods := 0) (imm := true)
def rowCmp : OpRow := rowSA .s .s (d := .p) (mods := 0x1F)
def rowSel : OpRow := rowSA .s .s (c := .p) (alt := 0) (mods := 0)
def rowDst : OpRow := rowSA .none .none (alt := 0) (mods := 0)
def rowAmov : OpRow := rowSA .a .none (alt := 0) (mods := 0)

/-- Address operations (R216). -/
def rowAdda : OpRow := ⟨[2, 3], .a, .a, .aOrS, .none, 1, 1, false⟩
def rowMova : OpRow := ⟨[2, 3], .a, .s, .none, .none, 0, 0, false⟩
def rowSeta : OpRow := ⟨[2, 3], .a, .none, .none, .none, 0, 0, true⟩
def rowWrap : OpRow := ⟨[2, 3], .a, .a, .none, .none, 0, 0x3E, true⟩

/-- Vector operations (R217). -/
def rowVec2 : OpRow := ⟨[4, 5, 6, 7], .v, .v, .v, .none, 2, 1, false⟩
def rowVec3 : OpRow := ⟨[4, 5, 6, 7], .v, .v, .v, .v, 2, 1, false⟩
def rowFcmp : OpRow := ⟨[4, 5, 6, 7], .p, .v, .v, .none, 2, 0x1F, false⟩
def rowVsh : OpRow := ⟨[4, 5, 6, 7], .v, .v, .v, .none, 2, 7, false⟩
def rowVsel : OpRow := ⟨[4, 5, 6, 7], .v, .v, .v, .p, 2, 1, false⟩
def rowLsh : OpRow := ⟨[4, 5, 6, 7], .v, .v, .none, .none, 0, 0, true⟩
def rowCvt : OpRow := ⟨[4, 5, 6, 7], .v, .v, .v, .none, 2, 0x1F, false⟩
def rowCvt1 : OpRow := ⟨[4, 5, 6, 7], .v, .v, .none, .none, 0, 0x1E, false⟩
def rowVec1 : OpRow := ⟨[4, 5], .v, .v, .none, .none, 0, 0, false⟩
def rowCustom : OpRow := ⟨[4, 5, 6, 7], .v, .v, .v, .v, 2, 0x3F01, true⟩

/-- Matrix operations (R219). -/
def rowMul : OpRow := ⟨[8, 9], .none, .v, .a, .none, 0, 0x3F, false⟩
def rowMulS : OpRow := ⟨[8, 9], .none, .v, .a, .s, 0, 0x3F, false⟩
def rowWfill : OpRow := ⟨[8, 9], .none, .a, .v, .none, 0, 0x12, true⟩
def rowSfill : OpRow := ⟨[8, 9], .none, .a, .none, .none, 0, 0, true⟩

/-- Load and store operations (R222). -/
def rowLdv : OpRow := ⟨[10, 11, 12], .v, .a, .none, .none, 0, 0, true⟩
def rowLds : OpRow := ⟨[10, 11, 12], .s, .a, .none, .none, 0, 0xE, true⟩
def rowStv : OpRow := ⟨[10, 11, 12], .none, .a, .v, .none, 0, 0, true⟩
def rowSts : OpRow := ⟨[10, 11, 12], .none, .a, .s, .none, 0, 6, true⟩
def rowXfer : OpRow := ⟨[10, 11, 12], .none, .a, .s, .none, 0, 0x3FFFF, true⟩
def rowSxfer : OpRow := ⟨[10, 11, 12], .none, .a, .s, .none, 0, 0xFFFF, true⟩

/-- Route operations (R223). -/
def rowA2v : OpRow := ⟨[13], .v, .none, .a, .none, 0, 1, false⟩
def rowV2a : OpRow := ⟨[13], .none, .v, .a, .none, 0, 1, false⟩
def rowVmov : OpRow := ⟨[13], .v, .v, .none, .none, 0, 0, false⟩
def rowV2s : OpRow := ⟨[13], .s, .v, .none, .none, 0, 0, true⟩
def rowS2v : OpRow := ⟨[13], .v, .s, .none, .none, 0, 0, true⟩

/-- Token operations (R224): with MOD[0] the count comes from the S register named in SRCA. -/
def rowTok (o : Op) : OpRow := ⟨[14], .none, if o.flag 0 then .s else .none, .none, .none, 0, 1, true⟩
def rowTest : OpRow := ⟨[14], .s, .none, .none, .none, 0, 0, true⟩
def rowFence : OpRow := ⟨[14], .none, .none, .none, .none, 0, 0, false⟩

/-- Control operations (R226). -/
def rowJ : OpRow := ⟨[15], .none, .none, .none, .none, 0, 0, true⟩
def rowLoop : OpRow := ⟨[15], .none, .s, .none, .none, 0, 0, true⟩
def rowEnd : OpRow := ⟨[15], .none, .none, .none, .none, 0, 0, false⟩

/-- Checks beyond the row: reserved values of modifier and immediate fields (R210, R215 to R228). -/
def cmpOk (o : Op) : Bool := o.ok rowCmp && decide (o.fieldOf 1 4 < 8)
def wrapOk (o : Op) : Bool := o.ok rowWrap && decide (1 ≤ o.fieldOf 1 5 ∧ o.fieldOf 1 5 ≤ 22)
def fcmpOk (o : Op) : Bool := o.ok rowFcmp && decide (o.fieldOf 1 4 < 6)
def vshOk (o : Op) : Bool := o.ok rowVsh && decide (o.fieldOf 1 2 < 3)
def cvtOk (o : Op) : Bool := decide (o.fieldOf 1 4 < 6) && (if o.fieldOf 1 4 = 4 then o.ok rowCvt else o.ok rowCvt1)
def mulOk (o : Op) : Bool := (if o.flag 3 then o.ok rowMulS else o.ok rowMul) && decide (o.fieldOf 4 2 < 3)
def customOk (o : Op) : Bool := o.ok rowCustom && decide (o.imm.toNat < 0x40 ∨ o.imm.toNat = 0xFF)
def xferOk (o : Op) : Bool := o.ok rowXfer && decide (1 ≤ o.fieldOf 4 5 ∧ o.fieldOf 4 5 ≤ 16)
def sxferOk (o : Op) : Bool := o.ok rowSxfer && decide (1 ≤ o.fieldOf 2 5 ∧ o.fieldOf 2 5 ≤ 16)
/-- The high half of an immediate that only its low 32 or 48 bits use is zero (R210, R216, R219). -/
def fillOk (r : OpRow) (o : Op) : Bool := o.ok r && decide (o.imm.toNat < 2 ^ 32)
def setaOk (o : Op) : Bool := o.ok rowSeta && decide (o.imm.toNat < 2 ^ 48)
def tokForm (o : Op) : Bool :=
  o.ok (rowTok o) && decide (o.imm.toNat < 2 ^ 32 ∧ o.imm.toNat % 65536 < 16384) && (!(o.flag 0) || o.imm.toNat >>> 16 == 0)
/-- An immediate count of 0 is refused apart from the form (R225). -/
def tokOk (o : Op) : Bool := tokForm o && (o.flag 0 || (o.imm.toNat >>> 16) % 65536 != 0)
def testOk (o : Op) : Bool := o.ok rowTest && decide (o.imm.toNat < 16384)
def jOk (o : Op) : Bool := o.ok rowJ && decide (o.imm.toNat < 1024)
def loopOk (o : Op) : Bool :=
  o.ok rowLoop && decide (o.imm.toNat < 2 ^ 32 ∧ o.imm.toNat % 65536 < 1024 ∧ 65536 ≤ o.imm.toNat)
def laneOk (r : OpRow) (o : Op) : Bool := o.ok r && decide (o.imm.toNat < 64)

/-- A host burst carries 32 or 64 bytes and one enable for each (R23, R43). -/
def Burst.ok (b : Burst) : Bool := (b.data.length == 32 || b.data.length == 64) && b.mask.length == b.data.length

/-- A command's operands lie in the ranges its row gives them. -/
def Instr.wf : Instr → Bool
  | .add o | .sub o | .sand o | .sor o | .sxor o | .shl o | .shr o | .sar o | .smin o | .smax o | .scalarMul o => o.ok rowScalar
  | .movi o => o.ok rowMovi
  | .cmp o => cmpOk o
  | .sel o => o.ok rowSel
  | .cyc o | .opTime o => o.ok rowDst
  | .amov o => o.ok rowAmov
  | .adda o => o.ok rowAdda
  | .mova o => o.ok rowMova
  | .seta o => setaOk o
  | .wrap o => wrapOk o
  | .fadd o | .fsub o | .fmul o | .fmin o | .fmax o | .iadd o | .isub o | .vand o | .vor o | .vxor o | .perm o => o.ok rowVec2
  | .fma o => o.ok rowVec3
  | .fcmp o => fcmpOk o
  | .vsh o => vshOk o
  | .vsel o => o.ok rowVsel
  | .lsh o => o.ok rowLsh
  | .cvt o => cvtOk o
  | .exp2 o | .log2 o | .rcp o | .rsq o | .rsum o | .rmax o => o.ok rowVec1
  | .custom o => customOk o
  | .mxMul o => mulOk o
  | .wfill o => fillOk rowWfill o
  | .sfill o => fillOk rowSfill o
  | .ldv o => o.ok rowLdv
  | .lds o => o.ok rowLds
  | .stv o | .put o => o.ok rowStv
  | .sts o => o.ok rowSts
  | .xfer o => xferOk o
  | .sxfer o => sxferOk o
  | .a2v o => o.ok rowA2v
  | .v2a o => o.ok rowV2a
  | .vmov o => o.ok rowVmov
  | .v2s o => laneOk rowV2s o
  | .s2v o => laneOk rowS2v o
  | .post o | .wait o => tokOk o
  | .tokTest o => testOk o
  | .syFence o => o.ok rowFence
  | .jump o => jOk o
  | .tileLoop o => loopOk o
  | .tileEnd o => o.ok rowEnd
  | .stagedWindowWrite b => b.ok
  | .registerWrite (.host b) => b.ok
  | .writeDqFifoTraining _ data _ => data.length == 64
  | .stageRequest k _ | .stageDone k _ => decide (k < 56)
  | .queueOpen r | .queueClose r | .queueQuery r | .queueResume r => r.args.length == 14
  | .reservation d => decide (d < 6)
  | .carouselPageOut k | .carouselRelease k | .carouselReturn k | .carouselCheck k => decide (k < 512)
  | .dispatch r => decide (r.args.length ≤ 14)
  | .operatorCommand r desc => r.args.isEmpty && desc.length == 14
  | _ => true

end Sys2Proof
end

