-- ==== Sys2Proof/Machine/Bundles.lean ====
section
/-! DEFINITION. Bundles as bytes (R207 to R210): the operation in each slot, and the check an operation has to pass at load. -/

namespace Sys2Proof.Machine

/-- The operation of a slot of a bundle (R208): its opcode and its fields. -/
structure SlotOp where
  slot : Nat
  opc : Nat
  op : Op

/-- Slot i of bundle n of a routine's code (R207, R208). -/
def slotOp (code : Bytes) (n i : Nat) : SlotOp :=
  let v := leAt code (256 * n + 16 * i) 16
  let f := fun lo len => (v >>> lo) % 2 ^ len
  { slot := i, opc := f 120 8
    op := { tile := 0, gap := 0, slot := BitVec.ofNat 4 i, pred := BitVec.ofNat 3 (f 117 3), pneg := f 116 1 == 1, dst := BitVec.ofNat 8 (f 108 8),
            srcA := BitVec.ofNat 8 (f 100 8), srcB := BitVec.ofNat 8 (f 92 8), srcC := BitVec.ofNat 8 (f 84 8), mod := BitVec.ofNat 20 (f 64 20),
            imm := BitVec.ofNat 64 (f 0 64) } }

/-- The sixteen slots of a bundle, those that hold a NOP left out. -/
def bundleOps (code : Bytes) (n : Nat) : List SlotOp :=
  ((List.range 16).map (slotOp code n)).filter (fun x => x.opc != 0)

/-- A NOP slot is all zero (R208). -/
def nopClean (code : Bytes) (n i : Nat) : Bool := leAt code (256 * n + 16 * i) 16 == 0

/-- The operation that an opcode names in a slot, none where it is not defined for the slot (R208, R215 to R226). -/
def slotInstr (slot opc : Nat) : Option (Op → Instr) :=
  let table : List (Op → Instr) :=
    if slot < 2 then [.add, .sub, .sand, .sor, .sxor, .shl, .shr, .sar, .smin, .smax, .scalarMul, .movi, .cmp, .sel, .cyc, .opTime, .amov]
    else if slot < 4 then [.adda, .mova, .seta, .wrap]
    else if slot < 8 then
      [.fadd, .fsub, .fmul, .fma, .fmin, .fmax, .fcmp, .iadd, .isub, .vand, .vor, .vxor, .vsh, .vsel, .perm, .lsh, .cvt] ++
        (if slot < 6 then [.exp2, .log2, .rcp, .rsq, .rsum, .rmax] else [])
    else if slot < 10 then [.mxMul, .wfill, .sfill]
    else if slot < 13 then [.ldv, .lds, .stv, .sts, .put, .xfer, .sxfer]
    else if slot = 13 then [.a2v, .v2a, .vmov, .v2s, .s2v]
    else if slot = 14 then [.post, .wait, .tokTest, .syFence]
    else [.jump, .tileLoop, .tileEnd]
  if opc = 0 then none
  else if opc = 0x20 ∧ 4 ≤ slot ∧ slot < 8 then some .custom
  else table[opc - 1]?

/-- The command that a slot of a bundle stands for; none for a NOP and for an opcode that is not defined (R208). -/
def SlotOp.instr (x : SlotOp) : Option Instr := (slotInstr x.slot x.opc).map (fun c => c x.op)

/-- What R210 finds in the fields of a slot's operation: whether they pass, none where the slot has no such opcode. An immediate count of 0 is
refused apart from them (R225). -/
def SlotOp.passes (x : SlotOp) : Option Bool :=
  x.instr.map (fun i => match i with
    | .post o | .wait o => tokForm o
    | i => i.wf)

/-- Tokens that a sync operation with this opcode names anywhere in a routine. -/
def syncToks (code : Bytes) (nb opc : Nat) : List Nat :=
  ((List.range nb).map (fun n => slotOp code n 14)).filterMap (fun x => if x.opc = opc then some (x.op.imm.toNat % 16384) else none)

/-- Local token indices that the transfers of a routine post (R222). -/
def xferToks (code : Bytes) (nb : Nat) : List Nat :=
  (List.range nb).flatMap (fun n => [10, 11, 12].filterMap (fun i =>
    let x := slotOp code n i
    if x.opc = 6 ∧ x.op.flag 9 then some (x.op.fieldOf 10 8) else if x.opc = 7 ∧ x.op.flag 7 then some (x.op.fieldOf 8 8) else none))

end Sys2Proof.Machine
end

