-- ==== Sys2Proof/Machine/Units.lean ====
section
/-! DEFINITION. Units in error (15, R427 to R433): the map of tiles, the spare that covers a unit, its test, the remap of a logical tile. -/

namespace Sys2Proof.Machine

/-! ### Tiles -/

/-- Physical tile of a logical tile with an empty repair map (R201). -/
def homePhys (l : Nat) : Nat := l % 8 + 8 * (if l / 8 < 4 then l / 8 else l / 8 + 1)

/-- Physical tile that carries a logical tile (R201). -/
def physOf (s : State) (l : Nat) : Nat := tabGet s.tl.map l (homePhys l)

/-- TL_PHYS.STATE of a physical tile; row 4 holds the spares of an empty repair map (R201, R206). -/
def physState (s : State) (p : Nat) : Nat := tabGet s.tl.pstate p (if 32 ≤ p ∧ p < 40 then 1 else 0)

/-- Logical tile that a physical tile carries, 0xFF for none (R206). -/
def logicalOf (s : State) (p : Nat) : Nat :=
  ((List.range 64).find? (fun l => !(s.tl.vacant.getLsbD l) && physOf s l == p)).getD 0xFF

/-- Free spare tiles (R203). -/
def freeSpares (s : State) : List Nat := (List.range 72).filter (fun p => physState s p == 1)

/-- A logical tile. -/
def tile (s : State) (l : Nat) : Tile := tabGet s.tl.tiles l Tile.init

/-- Replace a logical tile. -/
def setTile (l : Nat) (t : Tile) (s : State) : State := { s with tl := { s.tl with tiles := tabSet s.tl.tiles l t } }

/-- Change a logical tile. -/
def modTile (l : Nat) (f : Tile → Tile) (s : State) : State := setTile l (f (tile s l)) s

/-- A logical tile is under remap or vacant: what is sent to it waits (R202, R204). -/
def tileHeld (s : State) (l : Nat) : Bool := s.tl.vacant.getLsbD l || s.tl.remaps.any (fun r => r.1 == l)

/-! ### Tests and spares -/

/-- A unit is under test (R429). -/
def underTest (s : State) (u : Nat × Nat) : Bool := s.sn.tests.any (fun t => t.cls == u.1 && t.idx == u.2)

/-- UCLASS and UNIT of a unit in the Barker log: a DRAM row is named by its channel (R438). -/
def unitRef (u : Nat × Nat) : EventRef := { uclass := u.1, unit := if u.1 = 5 then u.2 / (128 * 8192) else u.2, detail := u.2 }

/-- Spares in use among the units of one bank: retired ones and those under test that are covered (R429, R433). -/
def sparesUsed (s : State) (same : Nat × Nat → Bool) : Nat :=
  ((s.sn.retired ++ (s.sn.tests.filter (fun t => t.cover.isSome)).map (fun t => (t.cls, t.idx))).filter same).length

/-- The spare that covers a unit that is no tile and no bank, if one is left (R429, R433): one of 64 lines of an SRAM bank (R329), one of 16
rows of a DRAM bank, a path's one lane. -/
def coverOf (s : State) (u : Nat × Nat) : Option Nat :=
  let bank := fun (v : Nat × Nat) => match v.1 with
    | 3 => v.2 / 0x40000 * 32 + v.2 % 32
    | 4 => 0
    | 5 => v.2 / 8192
    | _ => v.2
  let most := match u.1 with | 3 => 64 | 4 => 64 | 5 => 16 | 6 => 1 | _ => 0
  if sparesUsed s (fun v => v.1 == u.1 && bank v == bank u) < most then some 0 else none

/-- A unit's test begins, or falls due during a firmware swap and begins after it (R429, R469). -/
def beginTest (u : Nat × Nat) (cover : Option Nat) (s : State) : State :=
  let s := { s with sn := { s.sn with tests := s.sn.tests ++ [⟨u.1, u.2, cover⟩] } }
  if swapping s then { s with sn := { s.sn with dueTests := s.sn.dueTests ++ [u] } } else barker 0x0501 0 (unitRef u) s

/-- STATE of a physical tile (R206). -/
def setPhys (p st : Nat) (s : State) : State := { s with tl := { s.tl with pstate := tabSet s.tl.pstate p st } }

/-- A remap of a logical tile to a free spare starts (R202, R203). -/
def startRemap (l : Nat) (old : Option Nat) (q : Nat) (s : State) : State :=
  let s := setPhys q 0 (leaveSleep s)
  { s with tl := { s.tl with remaps := s.tl.remaps ++ [(l, old, q)] } }

/-- A logical tile has lost its physical tile and no spare is free (R203, R204). -/
def vacate (l : Nat) (s : State) : State :=
  let s := { s with tl := { s.tl with vacant := s.tl.vacant ||| (1#64 <<< l) } }
  let part := ((s.si.conf.parts.find? (fun e => e.2.tiles.getLsbD l)).map (·.1)).getD 0
  barker 0x0505 2 { part := part, uclass := 0x01, unit := physOf s l, detail := l } s

/-- The physical tile of a logical tile is taken out of service for a test of `u` (R203, R429, R432): the spare chosen, else the lowest free
one, takes over; with none the logical tile becomes vacant, but a tile that covers one under test stays until a spare is free. -/
def tileOut (l : Nat) (u : Nat × Nat) (choice : Option Nat) (s : State) : State :=
  let p := physOf s l
  if tileHeld s l ∨ s.tl.leaving.any (fun x => x.1 == l) then s
  else if (tile s l).cmd.isSome then { s with tl := { s.tl with leaving := s.tl.leaving ++ [(l, u.1, u.2, choice)] } }
  else
    let free := freeSpares s
    let pick := match choice with | some q => if free.contains q then some q else free.head? | none => free.head?
    match pick with
    | some q => startRemap l (some p) q (beginTest u (some q) (setPhys p 2 s))
    | none =>
      if s.sn.tests.any (fun t => t.cls == 1 && t.cover == some p) then
        if s.sn.due.contains p then s else { s with sn := { s.sn with due := s.sn.due ++ [p] } }
      else vacate l (beginTest u none (setPhys p 2 s))

/-- An error on a unit under test starts no second test of it, but takes the bank or line that covers it out of service (R432): a tile's spare
bank with its whole tile; a spare line, under the name of the line that it covers, as soon as another spare can cover it. -/
def coverError (u : Nat × Nat) (choice : Option Nat) (s : State) : State :=
  let mine := s.sn.tests.filter (fun t => t.cls == u.1 && t.idx == u.2)
  if decide (2 ≤ mine.length) || mine.all (fun t => t.cover.isNone) then s
  else if u.1 = 2 ∧ mine.any (fun t => t.cover == some 0xFF) ∧ logicalOf s (u.2 / 32) ≠ 0xFF then tileOut (logicalOf s (u.2 / 32)) u choice s
  else if u.1 = 3 ∨ u.1 = 4 then
    match coverOf s u with
    | some c => beginTest u (some c) s
    | none => if s.sn.dueLines.contains u then s else { s with sn := { s.sn with dueLines := s.sn.dueLines ++ [u] } }
  else s

/-- A spare line has become free: a covering line in error that waits for one is tested (R432). -/
def useLine (s : State) : State :=
  match s.sn.dueLines.find? (fun u => (coverOf s u).isSome) with
  | some u => beginTest u (coverOf s u) { s with sn := { s.sn with dueLines := s.sn.dueLines.erase u } }
  | none => s

/-- A unit that R427 marks for a test is handled (R428, R429, R432): covered by a spare where one is free, and tested. A unit already under
test starts no second one. -/
def unitError (u : Nat × Nat) (choice : Option Nat) (s : State) : State :=
  if underTest s u then coverError u choice s
  else match u.1 with
  | 1 => if logicalOf s u.2 = 0xFF then s else tileOut (logicalOf s u.2) u choice s
  | 2 =>
    let p := u.2 / 32
    if physState s p = 2 ∨ physState s p = 3 then s
    else match tabGet (s.tl.bankOut.map (fun e => (e.1, some e.2))) p none with
      | none => beginTest u (some 0xFF) { s with tl := { s.tl with bankOut := tabSet s.tl.bankOut p (u.2 % 32) } }
      | some _ => if logicalOf s p = 0xFF then s else tileOut (logicalOf s p) u choice s
  | 3 | 4 | 5 | 6 => beginTest u (coverOf s u) s
  | 7 => beginTest u none s
  | _ => s

/-- A tile that is to be taken out of service leaves it when its command has ended (R202). -/
def leaveNow (l : Nat) (s : State) : State :=
  match s.tl.leaving.find? (fun x => x.1 == l) with
  | none => s
  | some x => tileOut l (x.2.1, x.2.2.1) x.2.2.2 { s with tl := { s.tl with leaving := s.tl.leaving.filter (fun y => y.1 != l) } }

/-- A tile has become a free spare: a vacant logical tile takes it, else a covering tile in error that waits for one (R204, R432). -/
def useSpare (p : Nat) (s : State) : State :=
  match (List.range 64).find? (fun l => s.tl.vacant.getLsbD l && !(s.tl.remaps.any (fun r => r.1 == l))) with
  | some l => startRemap l none p s
  | none =>
    match s.sn.due with
    | p2 :: rest =>
      let s := { s with sn := { s.sn with due := rest } }
      if logicalOf s p2 = 0xFF then s else tileOut (logicalOf s p2) (1, p2) (some p) s
    | [] => s

/-- 24 hours in ns. -/
def dayNs : Nat := 86400000000000

/-- Corrected errors that bring a unit to a test (R428): 16 within 1 s, 4 within 24 hours in a DRAM row. -/
def ceLimit (cls : Nat) : Nat × Nat := if cls = 5 then (4, dayNs) else (16, 1000000000)

/-- Units whose corrected errors have reached the count are tested, and counted anew (R428). -/
def startDue (s : State) : State :=
  let live := s.sn.ces.filter (fun x => decide ((s.now - x.2.2).toNat ≤ (ceLimit x.1).2))
  let full := ((live.map (fun x => (x.1, x.2.1))).dedup).filter (fun u =>
    decide ((ceLimit u.1).1 ≤ (live.filter (fun x => x.1 == u.1 && x.2.1 == u.2)).length))
  let s := { s with sn := { s.sn with ces := live.filter (fun x => !(full.contains (x.1, x.2.1))) } }
  full.foldl (fun s u => unitError u none s) s

end Sys2Proof.Machine
end

