-- ==== Sys2Proof/Machine/Ecc.lean ====
section
/-! DEFINITION. Damaged words: what a read finds, counts and logs, and what a write repairs (R183, R186, R350 to R352). -/

namespace Sys2Proof.Machine

/-- Bytes of one protected word (R350). -/
def wordSize : MemKind → Nat
  | .dram => 64
  | _ => 8

/-- The damage that a range of bytes of a memory touches. -/
def damageIn (s : State) (m : MemKind) (unit lo n : Nat) : List Damage :=
  s.dm.damage.filter (fun d => d.mem == m && d.unit == unit && decide (d.word * wordSize m < lo + n ∧ lo < (d.word + 1) * wordSize m))

/-- Depot of a DRAM device address, and its channel (R331). -/
def dramDepot (a : Nat) : Nat := a / 4096 % 2
def dramChannel (a : Nat) : Nat := 16 * dramDepot a + a / 1024 % 4 + 4 * (a / 8192 % 4)

/-- Index of DM_ECC_CE and DM_ECC_UE that counts a memory (R353); none for the tiles' memories. -/
def eccIndex (m : MemKind) (byte : Nat) : Option Nat :=
  match m with
  | .dram => some (dramDepot byte)
  | .stg0 => some 2
  | .stg1 => some 3
  | .aperture | .combining => some 4
  | _ => none

/-- Unit class and index of a damaged byte in the Barker log (R438). -/
def eccUnit (s : State) (m : MemKind) (unit byte : Nat) : Nat × Nat :=
  match m with
  | .dram => (0x05, dramChannel byte)
  | .stg0 => (0x03, byte / 256)
  | .stg1 => (0x03, 0x40000 + byte / 256)
  | .aperture => (0x04, byte / 256)
  | .combining => (0x04, 0x20000 + byte / 256)
  | .spad => (0x02, physOf s unit * 32 + byte / 256 % 32)
  | .token => (0x07, byte / 8)
  | _ => (0x01, physOf s unit)

/-- Unit number of the DRAM row of a device address (R331): channel, bank, row. -/
def rowUnit (a : Nat) : Nat := (dramChannel a * 128 + a / 32768 % 128) * 8192 + a / 32768 / 128

/-- The unit that R427 marks for a test when a word of a memory is damaged, as class and index. -/
def testUnit (s : State) (m : MemKind) (unit byte : Nat) : Nat × Nat :=
  match m with
  | .dram => (0x05, rowUnit byte)
  | _ => eccUnit s m unit byte

/-- A corrected error of a unit that R428 counts is noted with its time. -/
def noteCe (u : Nat × Nat) (s : State) : State :=
  if 2 ≤ u.1 ∧ u.1 ≤ 5 then { s with sn := { s.sn with ces := s.sn.ces ++ [(u.1, u.2, s.now)] } } else s

/-- Spare DRAM rows in use on a depot: of retired rows and of rows under test (R353, R429). -/
def spareRows (s : State) (depot : Nat) : Nat :=
  ((s.sn.retired ++ (s.sn.tests.filter (fun t => t.cover.isSome)).map (fun t => (t.cls, t.idx))).filter
    (fun u => u.1 == 5 && u.2 / (128 * 8192) / 16 == depot)).length

/-- One damaged word is found by a read (R351, R352, R427, R428): counted; a correctable one waits for its write-back, the other is logged and
its unit handled. Package memory and the combining buffer have no unit of R427. -/
def foundDamage (d : Damage) (s : State) : State :=
  let byte := d.word * wordSize d.mem
  let s := match eccIndex d.mem byte, d.ue with
    | some k, true => { s with dm := { s.dm with ue := cntAdd s.dm.ue k 1 } }
    | some k, false => { s with dm := { s.dm with ce := cntAdd s.dm.ce k 1 } }
    | none, true => s
    | none, false =>
      if d.mem = .spad ∨ d.mem = .instr then { s with tl := { s.tl with eccCe := satAdd s.tl.eccCe 1 } } else s
  let t := testUnit s d.mem d.unit byte
  let tested := d.mem != .pkg && d.mem != .combining
  if d.ue then
    let u := eccUnit s d.mem d.unit byte
    let s := barker 0x0401 1 { uclass := u.1, unit := u.2, detail := byte } s
    if tested then unitError t none s else s
  else
    let s := if tested then startDue (noteCe t s) else s
    if s.dm.back.contains d then s else { s with dm := { s.dm with back := s.dm.back ++ [d] } }

/-- Damage arrives: the words named hold it from now on (R350; log 25). -/
def addDamage (m : MemKind) (hits : List ScrubHit) (s : State) : State :=
  hits.foldl (fun s h =>
    let d : Damage := ⟨m, h.unit, h.word, h.ue⟩
    let rest := s.dm.damage.filter (fun x => !(x.mem == m && x.unit == h.unit && x.word == h.word))
    { s with dm := { s.dm with damage := rest ++ [d] } }) s

/-- A read of a range meets its damage: whether a word is uncorrectable, and the state after. -/
def readCheck (m : MemKind) (unit lo n : Nat) (s : State) : Bool × State :=
  let ds := damageIn s m unit lo n
  (ds.any (·.ue), ds.foldl (fun s d => foundDamage d s) s)

/-- A write gives fresh check bits to the words that it covers whole, and drops their write-backs (R351). -/
def heal (m : MemKind) (unit lo n : Nat) (s : State) : State :=
  let covers := fun (d : Damage) => d.mem == m && d.unit == unit &&
    decide (lo ≤ d.word * wordSize m ∧ (d.word + 1) * wordSize m ≤ lo + n)
  let touches := fun (d : Damage) => d.mem == m && d.unit == unit &&
    decide (d.word * wordSize m < lo + n ∧ lo < (d.word + 1) * wordSize m)
  { s with dm := { s.dm with damage := s.dm.damage.filter (fun d => !(covers d) && (d.ue || !(touches d)))
                             back := s.dm.back.filter (fun d => !(touches d)) } }

/-- CE_WRITE_BACK: the oldest corrected word of a memory is written back (R351). -/
def ceWriteBack (m : MemKind) (s : State) : State :=
  match s.dm.back.find? (fun d => d.mem == m) with
  | some d => { s with dm := { s.dm with back := s.dm.back.erase d, damage := s.dm.damage.erase d } }
  | none => s

end Sys2Proof.Machine
end

