-- ==== Sys2Proof/Machine/Float.lean ====
section
/-! DEFINITION. Binary floating-point formats in exact arithmetic, rounded once to nearest, ties to even (08). -/

namespace Sys2Proof.Machine

/-- A floating-point value: NaN, an infinity, or sign and m × 2^e. -/
inductive Fv where
  | nan
  | inf (neg : Bool)
  | fin (neg : Bool) (m : Nat) (e : Int)
  deriving DecidableEq, Repr

/-- A format: exponent bits and fraction bits. -/
structure Fmt where
  eb : Nat
  mb : Nat
  deriving DecidableEq, Repr

def fmt32 : Fmt := ⟨8, 23⟩
def fmtBf : Fmt := ⟨8, 7⟩
def fmt16 : Fmt := ⟨5, 10⟩

/-- Exponent of the least significant bit of a subnormal. -/
def Fmt.lsb (f : Fmt) : Int := 2 - 2 ^ (f.eb - 1) - (f.mb : Int)

/-- The value that a bit pattern of a format names. -/
def Fv.decode (f : Fmt) (b : Nat) : Fv :=
  let neg := b.testBit (f.eb + f.mb)
  let ex := (b >>> f.mb) % 2 ^ f.eb
  let m := b % 2 ^ f.mb
  if ex = 2 ^ f.eb - 1 then (if m = 0 then .inf neg else .nan)
  else if ex = 0 then .fin neg m f.lsb
  else .fin neg (m + 2 ^ f.mb) (f.lsb + (ex - 1 : Nat))

/-- Divide by a power of two, to nearest, ties to even. -/
def rneShift (m sh : Nat) : Nat := rneNat m (2 ^ sh)

/-- Magnitude bits of m × 2^e rounded to a format; an overflow gives infinity. -/
def roundMag (f : Fmt) (m : Nat) (e : Int) : Nat :=
  if m = 0 then 0 else
  let top := e + Nat.log2 m - f.mb
  let l := max top f.lsb
  let q := if l ≤ e then m * 2 ^ (e - l).toNat else rneShift m (l - e).toNat
  let b := if q < 2 ^ f.mb then q else (((l - f.lsb).toNat + 1) <<< f.mb) + (q - 2 ^ f.mb)
  min b ((2 ^ f.eb - 1) <<< f.mb)

/-- The NaN every operation returns: quiet, sign 0, fraction's top bit alone (R256). -/
def Fmt.nan (f : Fmt) : Nat := ((2 ^ f.eb - 1) <<< f.mb) + 2 ^ (f.mb - 1)

/-- Bit pattern of a value rounded once to a format. -/
def Fv.encode (f : Fmt) (v : Fv) : Nat :=
  let s := fun neg : Bool => if neg then 2 ^ (f.eb + f.mb) else 0
  match v with
  | .nan => f.nan
  | .inf neg => s neg + ((2 ^ f.eb - 1) <<< f.mb)
  | .fin neg m e => s neg + roundMag f m e

/-- Exact signed mantissa of a finite value at exponent `e`, which is at most the value's own. -/
def alignTo (neg : Bool) (m : Nat) (e0 e : Int) : Int :=
  let v : Int := m * 2 ^ (e0 - e).toNat
  if neg then -v else v

/-- Exact sum; a zero sum is +0 unless both terms are -0. -/
def Fv.add (a b : Fv) : Fv :=
  match a, b with
  | .nan, _ | _, .nan => .nan
  | .inf x, .inf y => if x = y then .inf x else .nan
  | .inf x, _ => .inf x
  | _, .inf y => .inf y
  | .fin x m e, .fin y n g =>
    let k := min e g
    let t := alignTo x m e k + alignTo y n g k
    if t = 0 then .fin (if m = 0 ∧ n = 0 then x && y else false) 0 0 else .fin (decide (t < 0)) t.natAbs k

/-- Exact product. -/
def Fv.mul (a b : Fv) : Fv :=
  match a, b with
  | .nan, _ | _, .nan => .nan
  | .inf x, .inf y => .inf (x != y)
  | .inf x, .fin y n _ => if n = 0 then .nan else .inf (x != y)
  | .fin x m _, .inf y => if m = 0 then .nan else .inf (x != y)
  | .fin x m e, .fin y n g => .fin (x != y) (m * n) (e + g)

/-- The value with its sign turned. -/
def Fv.neg (a : Fv) : Fv :=
  match a with | .nan => .nan | .inf x => .inf (!x) | .fin x m e => .fin (!x) m e

/-- Strictly less, false with a NaN; -0 equals +0. -/
def Fv.lt (a b : Fv) : Bool :=
  match a, b with
  | .nan, _ | _, .nan => false
  | .inf x, .inf y => x && !y
  | .inf x, .fin _ _ _ => x
  | .fin _ _ _, .inf y => !y
  | .fin x m e, .fin y n g => let k := min e g; decide (alignTo x m e k < alignTo y n g k)

/-- Equal as numbers, false with a NaN. -/
def Fv.eqv (a b : Fv) : Bool :=
  match a, b with
  | .nan, _ | _, .nan => false
  | .inf x, .inf y => x == y
  | .inf _, .fin _ _ _ => false
  | .fin _ _ _, .inf _ => false
  | .fin x m e, .fin y n g => let k := min e g; decide (alignTo x m e k = alignTo y n g k)

/-- Nearest integer of a finite value, ties to even. -/
def Fv.rneInt (v : Fv) : Int :=
  match v with
  | .fin neg m e =>
    let q : Int := if 0 ≤ e then m * 2 ^ e.toNat else rneShift m (-e).toNat
    if neg then -q else q
  | _ => 0

/-- FP32 bits to value and back. -/
def f32 (b : BitVec 32) : Fv := Fv.decode fmt32 b.toNat
def to32 (v : Fv) : BitVec 32 := BitVec.ofNat 32 (v.encode fmt32)
def f32add (a b : BitVec 32) : BitVec 32 := to32 (Fv.add (f32 a) (f32 b))
def f32sub (a b : BitVec 32) : BitVec 32 := to32 (Fv.add (f32 a) (f32 b).neg)
def f32mul (a b : BitVec 32) : BitVec 32 := to32 (Fv.mul (f32 a) (f32 b))
def f32fma (a b c : BitVec 32) : BitVec 32 := to32 (Fv.add (Fv.mul (f32 a) (f32 b)) (f32 c))

/-- FP32 bits of an integer, rounded to nearest. -/
def f32int (n : Int) : BitVec 32 := to32 (.fin (decide (n < 0)) n.natAbs 0)

/-- a / b rounded once to FP32 for finite b of nonzero magnitude; other cases as R256 gives for the exact quotient. -/
def f32div (a b : BitVec 32) : BitVec 32 :=
  match f32 a, f32 b with
  | .nan, _ | _, .nan => to32 .nan
  | .inf _, .inf _ => to32 .nan
  | .inf x, .fin y _ _ => to32 (.inf (x != y))
  | .fin x _ _, .inf y => to32 (.fin (x != y) 0 0)
  | .fin x m e, .fin y n g =>
    if n = 0 then (if m = 0 then to32 .nan else to32 (.inf (x != y)))
    else
      let q := m * 2 ^ 320 / n
      let sticky := if m * 2 ^ 320 % n = 0 then 0 else 1
      to32 (.fin (x != y) (2 * q + sticky) (e - g - 321))

end Sys2Proof.Machine
end

