-- ==== Sys2Proof/Machine/Ulp.lean ====
section
/-! DEFINITION. EXP2, LOG2, RCP, RSQ (R218, R256) and kv_exp (R311): the FP32 values within 1 ulp of the exact value, one of which the
device's fixed algorithm returns (log 15). Exact values are approximated in fixed point with 160 fraction bits or more. -/

namespace Sys2Proof.Machine

/-- Magnitude bits of m × 2^e cut down to FP32, and whether nothing was cut. -/
def truncMag (m : Nat) (e : Int) : Nat × Bool :=
  if m = 0 then (0, true) else
  let l := max (e + Nat.log2 m - 23) fmt32.lsb
  let q := if l ≤ e then m * 2 ^ (e - l).toNat else m / 2 ^ (l - e).toNat
  let exact := decide (l ≤ e) || m % 2 ^ (l - e).toNat == 0
  let b := if q < 2 ^ 23 then q else (((l - fmt32.lsb).toNat + 1) <<< 23) + (q - 2 ^ 23)
  if 255 <<< 23 ≤ b then (254 * 2 ^ 23 + (2 ^ 23 - 1), false) else (b, exact)

/-- A result within 1 ulp of the positive or negative exact value whose magnitude is just above or at m × 2^e: its two neighbours, or
the value and both its neighbours when it is exact. -/
def ulpResult (op : Nat) (x : BitVec 32) (neg : Bool) (m : Nat) (e : Int) (whole : Bool) : BitVec 32 :=
  let (b, ex) := truncMag m e
  let k := (Config.ulpPick op x).val
  let b := if ex && whole then (b + k) - 1 else if k = 0 then b else b + 1
  BitVec.ofNat 32 (b + if neg then 2 ^ 31 else 0)

/-- 2^f in fixed point with 200 fraction bits, for f = n / 2^200 below 1: a product of the roots 2^(1/2^k) of its bits. -/
def pow2Frac (n : Nat) : Nat → Nat → Nat → Nat
  | 0, _, acc => acc
  | k + 1, root, acc =>
    let root := Nat.sqrt (root * 2 ^ 200)
    pow2Frac n k root (if n.testBit k then acc * root / 2 ^ 200 else acc)

/-- Sign, whole part and fraction (over 2^200) of a finite value. -/
def splitFixed (neg : Bool) (m : Nat) (e : Int) : Int × Nat :=
  let n := if 0 ≤ e + 200 then m * 2 ^ (e + 200).toNat else if neg then ceilDiv m (2 ^ (-(e + 200)).toNat) else m / 2 ^ (-(e + 200)).toNat
  let v : Int := if neg then -(n : Int) else n
  (Int.fdiv v (2 ^ 200), (v - Int.fdiv v (2 ^ 200) * 2 ^ 200).toNat)

/-- EXP2 (R217, R218, R256); a power of two from 2^-149 to 2^-126 is exact (log 15). -/
def f32exp2 (x : BitVec 32) : BitVec 32 :=
  match f32 x with
  | .nan => to32 .nan
  | .inf neg => if neg then 0 else to32 (.inf false)
  | .fin neg m e =>
    if ¬ neg ∧ ¬ Fv.lt (.fin neg m e) (.fin false 128 0) then to32 (.inf false)
    else if Fv.lt (.fin neg m e) (.fin true 149 0) then 0
    else
      let (i, f) := splitFixed neg m e
      if f = 0 ∧ (m = 0 ∨ (-200 : Int) ≤ e) then
        if i ≤ -126 then BitVec.ofNat 32 (truncMag 1 i).1 else ulpResult 0 x false 1 i true
      else ulpResult 0 x false (pow2Frac f 200 (2 ^ 201) (2 ^ 200)) (i - 200) false

/-- Fraction bits of log2 of a mantissa in [1, 2), held over 2^300, by repeated squaring. -/
def log2Bits : Nat → Nat → Nat → Nat
  | 0, _, acc => acc
  | k + 1, y, acc =>
    let y := y * y / 2 ^ 300
    if 2 ^ 301 ≤ y then log2Bits k (y / 2) (2 * acc + 1) else log2Bits k y (2 * acc)

/-- LOG2 (R217, R218, R256). -/
def f32log2 (x : BitVec 32) : BitVec 32 :=
  match f32 x with
  | .nan => to32 .nan
  | .inf neg => if neg then to32 .nan else to32 (.inf false)
  | .fin neg m e =>
    if m = 0 then to32 (.inf true)
    else if neg then to32 .nan
    else
      let k := Nat.log2 m
      let i : Int := e + k
      let f := log2Bits 120 (m * 2 ^ 300 / 2 ^ k) 0
      let v : Int := i * 2 ^ 120 + f
      let whole := decide (m = 2 ^ k)
      if v = 0 ∧ whole then ulpResult 1 x false 0 0 true
      else ulpResult 1 x (decide (v < 0)) (if v < 0 ∧ ¬ whole then v.natAbs - 1 else v.natAbs) (-120) whole

/-- RCP (R217, R218, R256). -/
def f32rcp (x : BitVec 32) : BitVec 32 :=
  match f32 x with
  | .nan => to32 .nan
  | .inf neg => to32 (.fin neg 0 0)
  | .fin neg m e =>
    if m = 0 then to32 (.inf neg)
    else
      let q := 2 ^ 320 / m
      if Nat.log2 q + 1 - 320 - e > (128 : Int) then to32 (.inf neg)
      else ulpResult 2 x neg q (-320 - e) (decide (2 ^ 320 % m = 0))

/-- RSQ (R217, R218, R256). The result for -0 is not stated. -/
def f32rsq (x : BitVec 32) : BitVec 32 :=
  match f32 x with
  | .nan => to32 .nan
  | .inf neg => if neg then to32 .nan else 0
  | .fin neg m e =>
    if m = 0 then (if neg then (Config.unstated 0x15 (x.setWidth 64)).setWidth 32 else to32 (.inf false))
    else if neg then to32 .nan
    else
      let (m, e) := if e % 2 = 0 then (m, e) else (2 * m, e - 1)
      let q := Nat.sqrt (2 ^ 400 / m)
      ulpResult 3 x false q (-200 - e / 2) (decide (q * q * m = 2 ^ 400))

/-- ln 2 over 2^200. -/
def ln2Fixed : Nat := 1113844574712631719546256151097547306333272293549090750737802

/-- e^r over 2^200 for r over 2^200 below 1, by its series. -/
def expSeries (r : Nat) : Nat → Nat → Nat → Nat → Nat
  | 0, _, _, acc => acc
  | n + 1, k, term, acc => let t := term * r / 2 ^ 200 / k; expSeries r n (k + 1) t (acc + t)

/-- kv_exp (R311): +0 only where the exact value lies below half the least subnormal, x below about -103.97. -/
def kvExp (x : BitVec 32) : BitVec 32 :=
  match f32 x with
  | .nan => to32 .nan
  | .inf neg => if neg then 0 else to32 (.inf false)
  | .fin neg m e =>
    if m = 0 then 0x3F800000
    else
      let (i, f) := splitFixed neg m e
      let v : Int := i * 2 ^ 200 + f
      let k := Int.fdiv v ln2Fixed
      let r := (v - k * ln2Fixed).toNat
      if k < -150 then 0
      else if 128 ≤ k then to32 (.inf false)
      else ulpResult 4 x false (expSeries r 60 1 (2 ^ 200) (2 ^ 200)) (k - 200) false

end Sys2Proof.Machine
end

