-- ==== Sys2Proof/Machine/Flags.lean ====
section
/-! DEFINITION. Number flags and the narrow formats (R242 to R251, R258 to R261). -/

namespace Sys2Proof.Machine

/-- The flags of TL_NFLAG: bits 24 to 27 (R261). -/
inductive NFlag where
  | sat | nanIn | accInf | accNan
  deriving DecidableEq, Repr

def NFlag.bit : NFlag → Nat
  | .sat => 24 | .nanIn => 25 | .accInf => 26 | .accNan => 27

/-- Raise one flag for an operation of a logical tile (R260): of the events of one moment LOGICAL names the lowest tile (log 4). -/
def raiseFlag (tile : Nat) (f : NFlag) (s : State) : State :=
  let w := s.tl.nflag
  let n := min (fld w 0 24 + 1) 0xFFFFFF
  let l := if s.tl.nflagAt.any (fun e => e.2 == s.now) then min (fld w 34 6) tile else tile
  { s with tl := { s.tl with nflag := setFld (setFld w 0 24 n) 34 6 l ||| maskOf f.bit 1, nflagAt := tabSet s.tl.nflagAt f.bit s.now } }

/-- Raise the flags of a list that hold, each once (R260). -/
def raiseFlags (tile : Nat) (fs : List (NFlag × Bool)) (s : State) : State :=
  fs.foldl (fun s f => if f.2 then raiseFlag tile f.1 s else s) s

/-- Flags raised at this moment, as bits of TL_NFLAG: a clear of the same CK leaves them set (R260; log 4). -/
def justRaised (s : State) : Word := (s.tl.nflagAt.filter (fun e => e.2 == s.now)).foldl (fun w e => w ||| maskOf e.1 1) 0

/-- A write to TL_NFLAG: W1C flags and CLR_COUNT (R260, R261). -/
def nflagWrite (d en : Word) (s : State) : State :=
  let w := d &&& en
  let v := s.tl.nflag &&& ~~~ (w &&& maskOf 24 4 &&& ~~~ justRaised s)
  { s with tl := { s.tl with nflag := if bitOf w 31 then setFld v 0 24 0 else v } }

/-! ### K12 -/

/-- A K12 code as an integer multiple of 2^-20 (R244). -/
def k12Int (c : Nat) : Int :=
  let e := c / 64 % 32
  let f := c % 64
  let m : Nat := if e = 0 then f else (64 + f) * 2 ^ (e - 1)
  if c / 2048 % 2 = 1 then -(m : Int) else m

/-- A rounding into a narrow form: the code, SAT, NAN_IN. -/
structure Narrow where
  code : Nat
  sat : Bool
  nan : Bool

/-- Round a finite value to K12 (R245). -/
def k12Round (neg : Bool) (m : Nat) (e : Int) : Narrow :=
  let s := if neg then 0x800 else 0
  if m = 0 then ⟨s, false, false⟩ else
  let l := max (e + Nat.log2 m - 6) (-20)
  let q := if l ≤ e then m * 2 ^ (e - l).toNat else rneShift m (l - e).toNat
  let b := if q < 64 then q else ((l + 20).toNat + 1) * 64 + (q - 64)
  if 0x7FF < b then ⟨s + 0x7FF, true, false⟩ else ⟨s + b, false, false⟩

/-- A value rounded to K12, special values replaced (R245, R248). -/
def toK12 (v : Fv) : Narrow :=
  match v with
  | .nan => ⟨0, false, true⟩
  | .inf neg => ⟨if neg then 0xFFF else 0x7FF, true, false⟩
  | .fin neg m e => k12Round neg m e

/-- A BF16 value on its way into the Stilts lane, special values replaced (R248). -/
def toStilts (b : Nat) : Narrow :=
  match Fv.decode fmtBf b with
  | .nan => ⟨0, false, true⟩
  | .inf neg => ⟨if neg then 0xFF7F else 0x7F7F, true, false⟩
  | .fin _ _ _ => ⟨b, false, false⟩

/-- A weight code with its group scale, expanded to K12 (R246, R248, R250). -/
def expandWeight (k : Int) (scale : BitVec 16) : Narrow :=
  match Fv.decode fmt16 scale.toNat with
  | .nan => ⟨0, false, true⟩
  | .inf neg => if k = 0 then ⟨0, false, false⟩ else ⟨if neg != decide (k < 0) then 0xFFF else 0x7FF, true, false⟩
  | .fin neg m e => k12Round (neg != decide (k < 0)) (m * k.natAbs) e

/-- An array input lane in form 0 FP32, 1 BF16, 2 K12 (R219, R251). -/
def arrayInput (form : Nat) (x : BitVec 32) : Narrow :=
  match form with
  | 0 => toK12 (f32 x)
  | 1 => toK12 (Fv.decode fmtBf (x.toNat % 65536))
  | _ => ⟨x.toNat % 4096, false, false⟩

/-! ### CVT -/

/-- Nearest integer of a value within a range, special values replaced (R248, R258, R259). -/
def toRange (v : Fv) (lo hi : Int) : Int × Bool × Bool :=
  match v with
  | .nan => (0, false, true)
  | .inf neg => (if neg then lo else hi, true, false)
  | v => let n := v.rneInt; if n < lo then (lo, true, false) else if hi < n then (hi, true, false) else (n, false, false)

/-- A signed integer in a lane. -/
def lane (n : Int) : BitVec 32 := BitVec.ofInt 32 n

/-- CVT of one lane: mode, a and b give the lane, SAT and NAN_IN (R258, R259). -/
def cvtLane (mode : Nat) (a b : BitVec 32) : BitVec 32 × Bool × Bool :=
  match mode with
  | 0 => let r := toRange (f32 a) (-(2 ^ 31)) (2 ^ 31 - 1); (lane r.1, r.2)
  | 1 => (f32int a.toInt, false, false)
  | 2 => (BitVec.ofNat 32 ((f32 a).encode fmtBf), false, false)
  | 3 => (to32 (Fv.decode fmtBf (a.toNat % 65536)), false, false)
  | 4 => let r := toRange (Fv.mul (f32 a) (f32 b)) (-127) 127; (lane r.1, r.2)
  | _ => let r := toK12 (f32 a); (BitVec.ofNat 32 r.code, r.sat, r.nan)

/-! ### Minimum, maximum, comparison -/

/-- FMIN and FMAX of two lanes (R256): with one NaN the other operand; -0 is below +0. -/
def f32min (a b : BitVec 32) : BitVec 32 :=
  match f32 a, f32 b with
  | .nan, .nan => to32 .nan
  | .nan, _ => b
  | _, .nan => a
  | x, y => if Fv.eqv x y then (if a.getLsbD 31 then a else b) else if Fv.lt x y then a else b

def f32max (a b : BitVec 32) : BitVec 32 :=
  match f32 a, f32 b with
  | .nan, .nan => to32 .nan
  | .nan, _ => b
  | _, .nan => a
  | x, y => if Fv.eqv x y then (if a.getLsbD 31 then b else a) else if Fv.lt x y then b else a

/-- FCMP of one lane (R217): an unordered pair gives 1 only for NE. -/
def f32cmp (cond : Nat) (a b : BitVec 32) : Bool :=
  let x := f32 a
  let y := f32 b
  match cond with
  | 0 => Fv.eqv x y
  | 1 => !(Fv.eqv x y)
  | 2 => Fv.lt x y
  | 3 => Fv.lt x y || Fv.eqv x y
  | 4 => Fv.lt y x
  | _ => Fv.lt y x || Fv.eqv x y

/-- Condition of CMP on 64-bit values (R215). -/
def scalarCmp (cond : Nat) (a b : BitVec 64) : Bool :=
  match cond with
  | 0 => a == b
  | 1 => a != b
  | 2 => decide (a.toInt < b.toInt)
  | 3 => decide (a.toInt ≤ b.toInt)
  | 4 => decide (b.toInt < a.toInt)
  | 5 => decide (b.toInt ≤ a.toInt)
  | 6 => decide (a.toNat < b.toNat)
  | _ => decide (b.toNat ≤ a.toNat)

def execNflagClrCount (w : RegWr) (s : State) : Host.Outcome State Fault Refusal := run s (whenRun 0xA490 w (nflagWrite w.data (enMask w.be)))

end Sys2Proof.Machine
end

