-- ==== Sys2Proof/Machine/Operands.lean ====
section
/-! DEFINITION. What a tile operation reads and where its result goes: memory windows, tokens, registers by code, the passing of issue
cycles (R177 to R182, R192 to R200, R209 to R214, R230). -/

namespace Sys2Proof.Machine

/-! ### Windows -/

/-- A partition of the configuration in force. -/
def part? (s : State) (p : Nat) : Option PartDef := (s.si.conf.parts.find? (fun e => e.1 == p)).map (·.2)

/-- Device address of an offset in a partition's DRAM window, which wraps (R230, R333). -/
def dramAddr (s : State) (pd : PartDef) (off : Nat) : Nat :=
  regionBase s 4 + pd.dramBase * 0x100000 + off % (max 1 (pd.dramSize * 0x100000))

/-- Staging offset of an offset in a partition's staging window on a depot, which wraps (R230, R328). -/
def stgAddr (pd : PartDef) (depot off : Nat) : Nat :=
  let (b, n) := if depot = 0 then (pd.stgBase.1, pd.stgSize.1) else (pd.stgBase.2, pd.stgSize.2)
  b * 0x10000 + off % (max 1 (n * 0x10000))

/-- A window of size 0 has no bytes. -/
def hasStg (pd : PartDef) (depot : Nat) : Bool := if depot = 0 then pd.stgSize.1 != 0 else pd.stgSize.2 != 0

/-- Bytes of a partition's DRAM window. -/
def dramWinRead (s : State) (pd : PartDef) (off n : Nat) : Bytes :=
  if pd.dramSize = 0 then List.replicate n 0 else (List.range n).map (fun i => Memory.read s.mem.dram (dramAddr s pd (off + i)))

/-- Store bytes into a partition's DRAM window. -/
def dramWinWrite (pd : PartDef) (off : Nat) (bs : Bytes) (s : State) : State :=
  if pd.dramSize = 0 then s
  else heal .dram 0 (dramAddr s pd off) bs.length
    (setDram s (Memory.writeCells s.mem.dram (((List.range bs.length).zip bs).map (fun c => (dramAddr s pd (off + c.1), c.2)))))

/-- A read of a partition's DRAM window meets its damage (R351, R352). -/
def dramCheck (pd : PartDef) (off n : Nat) (s : State) : Bool × State :=
  if pd.dramSize = 0 ∨ n = 0 then (false, s) else readCheck .dram 0 (dramAddr s pd off) n s

/-- Bytes of a partition's staging window. -/
def stgWinRead (s : State) (pd : PartDef) (depot off n : Nat) : Bytes :=
  if hasStg pd depot then (List.range n).map (fun i => Memory.read (stg s depot) (stgAddr pd depot (off + i))) else List.replicate n 0

/-- Store bytes into a partition's staging window. -/
def stgWinWrite (pd : PartDef) (depot off : Nat) (bs : Bytes) (s : State) : State :=
  if hasStg pd depot then
    heal (if depot = 0 then .stg0 else .stg1) 0 (stgAddr pd depot off) bs.length
      (setStg s depot (Memory.writeCells (stg s depot) (((List.range bs.length).zip bs).map (fun c => (stgAddr pd depot (off + c.1), c.2)))))
  else s

/-- Tile-space address of a byte, modulo 2^28 (R200, R222). -/
def tsAddr (a : Nat) : Nat := a % 2 ^ 28

/-- Bytes of tile space. -/
def tsRead (s : State) (a n : Nat) : Bytes := (List.range n).map (fun i => Memory.read s.mem.spad (tsAddr (a + i)))

/-- A read of tile space meets its damage (R183). -/
def tsCheck (a n : Nat) (s : State) : Bool × State := readCheck .spad (tsAddr a / 0x400000) (tsAddr a % 0x400000) n s

/-- Ready time of a transfer in 1/256 ns (R233). -/
def readyAt (x : Xfer) : Nat := (x.issue.toNat + 40) * 256 + (if x.out then (x.len / 256 + 11) * 400 else 0)

/-- The source of an outgoing transfer is still being read and a written range meets it (R234, R235). -/
def Xfer.reads (x : Xfer) (now : Nat) (a n : Nat) : Bool :=
  x.out && (x.lane == 8 || decide (now * 256 ≤ readyAt x)) && decide (tsAddr (a + 2 ^ 28 - x.addr) < x.len ∨ tsAddr (x.addr + 2 ^ 28 - a) < n)

/-- The bytes that a write has changed go out with either value (R234). -/
def Xfer.mix (x : Xfer) (s : State) (a n seed : Nat) : Xfer :=
  if x.reads s.now.toNat a n then
    { x with data := ((List.range x.len).zip (x.data.zip (tsRead s x.addr x.len))).map (fun e =>
        if tsAddr (x.addr + e.1 + 2 ^ 28 - a) < n ∧ (Config.freeWord (seed + e.1)).getLsbD 0 then e.2.2 else e.2.1) }
  else x

/-- A range of tile space has been written: outgoing transfers whose source is still being read may take the new bytes (R234). -/
def mixWrites (a n : Nat) (s : State) : State :=
  let hit := fun (x : Xfer) => x.reads s.now.toNat a n
  let frozen := fun (f : Freeze) => match f with | .lane x | .staging x => hit x | _ => false
  if s.tl.tiles.any (fun e => e.2.xfers.any hit || e.2.sxfers.any hit || e.2.freeze.any frozen) then
    let mixed := fun (l k : Nat) (xs : List Xfer) => ((List.range xs.length).zip xs).map (fun e => e.2.mix s a n (s.freeTick + 65536 * (128 * l + k + e.1)))
    let thawed := fun (l : Nat) (f : Freeze) => match f with
      | .lane x => Freeze.lane (x.mix s a n (s.freeTick + 65536 * (128 * l + 70)))
      | .staging x => Freeze.staging (x.mix s a n (s.freeTick + 65536 * (128 * l + 71)))
      | f => f
    { s with
      tl := { s.tl with tiles := s.tl.tiles.map (fun e => (e.1, { e.2 with
        xfers := mixed e.1 0 e.2.xfers, sxfers := mixed e.1 64 e.2.sxfers, freeze := e.2.freeze.map (thawed e.1) })) }
      freeTick := s.freeTick + 65536 * 128 * 64 }
  else s

/-- Store bytes in tile space. -/
def tsWrite (a : Nat) (bs : Bytes) (s : State) : State :=
  mixWrites a bs.length (heal .spad (tsAddr a / 0x400000) (tsAddr a % 0x400000) bs.length
    (setSpad s (Memory.writeCells s.mem.spad (((List.range bs.length).zip bs).map (fun c => (tsAddr (a + c.1), c.2))))))

/-- Every logical tile that a tile-space range touches belongs to the partition (R230). -/
def tsInside (pd : PartDef) (a n : Nat) : Bool :=
  (List.range (n / 0x400000 + 2)).all (fun i =>
    let b := if n = 0 then a else min (a + i * 0x400000) (a + n - 1)
    pd.tiles.getLsbD (tsAddr b / 0x400000))

/-! ### Sync tokens -/

/-- A token (R192). -/
def tok (s : State) (t : Nat) : Tok := tabGet s.tl.toks t Tok.init

/-- Replace a token. -/
def setTok (t : Nat) (r : Tok) (s : State) : State := { s with tl := { s.tl with toks := tabSet s.tl.toks t r } }

/-- Owner code of a job: partition and slot (R192). -/
def ownerCode (part slot : Nat) : BitVec 16 := BitVec.ofNat 16 (part * 4096 + slot)

/-- A POST reaches its token (R193, R194). -/
def landPost (who : BitVec 16) (t k : Nat) (s : State) : State :=
  let r := tok s t
  let owner := if r.owner = who then 0xFFFF else r.owner
  if 2 ^ 32 ≤ r.count.toNat + k then
    let s := setTok t { r with count := 0xFFFFFFFF, owner := owner } s
    let s := { s with tl := { s.tl with tokErr := satAdd s.tl.tokErr 1, tokErrAt := t } }
    barker 0x0304 1 { part := if who = 0xFFFF then 0 else who.toNat / 4096, uclass := 0x07, unit := t, detail := t } s
  else setTok t { r with count := r.count + BitVec.ofNat 32 k, owner := owner } s

/-- A POST is released: it lands, or waits for its tile's remap (R193, R202). -/
def post (who : BitVec 16) (t k : Nat) (s : State) : State :=
  if tileHeld s (t / 256) then { s with tl := { s.tl with held := s.tl.held ++ [(who, t, k)] } } else landPost who t k s

/-- The poster of a depot: slot 4,095, which no job has (R193, R372), so that no owner is freed. -/
def depotPoster : BitVec 16 := 0x0FFF

/-- The token that a depot engine posts when done (R287, R301, R347). -/
def enginePost (w : Word) (s : State) : State := if bitOf w 14 then post depotPoster (fld w 0 14) 1 s else s

/-! ### Tiles and registers -/

/-- A vector of zeros. -/
def zeros : Lanes := Vector.replicate 64 0

/-- The bytes of a vector, lane 0 first (R177). -/
def laneBytes (v : Lanes) : Bytes := v.toList.flatMap (fun x => leBytes 4 x.toNat)

/-- The vector of 256 bytes (R177). -/
def bytesLanes (b : Bytes) : Lanes := Vector.ofFn (fun k : Fin 64 => BitVec.ofNat 32 (leAt b (4 * k.val) 4))

/-- Registers by number, and by code: a field of None reads a value that the spec does not state. -/
def Tile.sReg (t : Tile) (n : Nat) : BitVec 64 := tabGet t.s n 0
def Tile.aReg (t : Tile) (n : Nat) : BitVec 48 := tabGet t.a n 0
def Tile.vReg (t : Tile) (n : Nat) : Lanes := tabGet t.v n zeros
def Tile.pReg (t : Tile) (n : Nat) : BitVec 64 := if n = 0 then ~~~ 0 else tabGet t.p n 0

def noReg (c : BitVec 8) : BitVec 64 := Config.unstated 0xFF (c.setWidth 64)

def Tile.readS (t : Tile) (c : BitVec 8) : BitVec 64 := if c = 0xFF then noReg c else t.sReg c.toNat
def Tile.readA (t : Tile) (c : BitVec 8) : BitVec 48 := if c = 0xFF then (noReg c).setWidth 48 else t.aReg (c.toNat - 0x40)
def Tile.readV (t : Tile) (c : BitVec 8) : Lanes :=
  if c = 0xFF then Vector.ofFn (fun k : Fin 64 => (Config.unstated 0xFE (BitVec.ofNat 64 k.val)).setWidth 32) else t.vReg (c.toNat - 0x80)
def Tile.readP (t : Tile) (c : BitVec 8) : BitVec 64 := if c = 0xFF then noReg c else t.pReg (c.toNat - 0xC0)

/-- Operand b of a scalar operation: SRCB, or the immediate (R215). -/
def Tile.scalarB (t : Tile) (o : Op) : BitVec 64 := if o.flag 0 then o.imm else t.readS o.srcB

/-- Operand b of a vector operation: SRCB, or an S register's low 32 bits in every lane (R217). -/
def Tile.vectorB (t : Tile) (o : Op) : Lanes :=
  if o.flag 0 then Vector.replicate 64 ((t.readS o.srcB).setWidth 32) else t.readV o.srcB

/-- The governing predicate, inverted with PNEG (R214). -/
def Tile.pred (t : Tile) (o : Op) : BitVec 64 := let p := t.pReg o.pred.toNat; if o.pneg then ~~~ p else p

/-- The operation is suppressed as a whole (R214). -/
def Tile.off (t : Tile) (o : Op) : Bool := !((t.pred o).getLsbD 0)

/-! ### Landing -/

/-- Lanes of `new` where the mask is set, of `old` elsewhere (R214). -/
def blend (mask : BitVec 64) (new old : Lanes) : Lanes :=
  Vector.ofFn (fun k : Fin 64 => if mask.getLsbD k.val then new[k] else old[k])

/-- An accumulator row after a multiply lands (R255): flags for infinities and NaNs that land (R256). -/
def mulLand (old p : Lanes) (q : Option Lanes) (clear : Bool) : Lanes :=
  Vector.ofFn (fun k : Fin 64 =>
    let x := if clear then p[k] else f32add old[k] p[k]
    match q with | some q => f32add x q[k] | none => x)

def anyLane (f : BitVec 32 → Bool) (v : Lanes) : Bool := v.toList.any f
def isInf32 (x : BitVec 32) : Bool := decide (x.toNat % 2 ^ 31 = 0x7F800000)
def isNan32 (x : BitVec 32) : Bool := decide (0x7F800000 < x.toNat % 2 ^ 31)

/-- One effect lands on its tile (R211, R220). -/
def landOne (l : Nat) (e : Effect) (s : State) : State :=
  let t := tile s l
  match e with
  | .sreg r v => setTile l { t with s := tabSet t.s r v } s
  | .areg r v => setTile l { t with a := tabSet t.a r v } s
  | .vreg r v m => setTile l { t with v := tabSet t.v r (blend m v (t.vReg r)) } s
  | .preg r v => if r = 0 then s else setTile l { t with p := tabSet t.p r v } s
  | .accw row v => setTile l { t with acc := tabSet t.acc row v } s
  | .mul row p q c =>
    let v := mulLand (tabGet t.acc row zeros) p q c
    raiseFlags l [(.accInf, anyLane isInf32 v), (.accNan, anyLane isNan32 v)] (setTile l { t with acc := tabSet t.acc row v } s)
  | .store a bs m =>
    let cells := ((List.range bs.length).zip bs).filter (fun c => m.getLsbD (if bs.length ≤ 8 then 0 else c.1 / 4))
    let s := setSpad s (Memory.writeCells s.mem.spad (cells.map (fun c => (l * 0x400000 + (a + c.1) % 0x400000, c.2))))
    mixWrites (l * 0x400000 + a) bs.length (if cells.length = bs.length then heal .spad l a bs.length s else s)

/-- Whether an effect lands before another in one issue cycle: V2A before MUL, then by bundle and slot (R212, R220). -/
def Land.key (x : Land) : Nat := (match x.eff with | .accw _ _ => 0 | _ => 2 ^ 64) + x.issued * 16 + x.slot

/-- Insert a landing in order. -/
def insLand (x : Land) : List Land → List Land
  | [] => [x]
  | y :: r => if x.key < y.key then x :: y :: r else y :: insLand x r

/-! ### Fills -/

/-- The line that a fill reads in an issue cycle, if any (R219, R247, R254). -/
def Fill.lineAt (f : Fill) (c : Nat) : Option Nat :=
  let i := c - f.start
  if c < f.start then none
  else if f.buf = 2 then (if i < 2 then some i else none)
  else if f.q4 then (if i < 16 ∧ i % 2 = 0 then some (i / 2) else none)
  else if i < 16 then some i else none

/-- Weight code (i, j) of a line's bytes (R247). -/
def weightCode (q4 : Bool) (line : Bytes) (i j : Nat) : Int :=
  if q4 then
    let b := (nth line ((i % 8) * 32 + j / 2) 0).toNat
    let n := if j % 2 = 0 then b % 16 else b / 16
    if 8 ≤ n then (n : Int) - 16 else n
  else (nth line ((i % 4) * 64 + j) 0).toInt

/-- Row i of a weight buffer expanded from its line: K12 codes, SAT, NAN_IN (R246 to R250). -/
def weightRow (f : Fill) (line : Bytes) (i : Nat) : Lanes × Bool × Bool :=
  let ws := (List.range 64).map (fun j => expandWeight (weightCode f.q4 line i j) (nth f.scales (2 * j + i / 32) 0))
  (Vector.ofFn (fun k : Fin 64 => BitVec.ofNat 32 (nth ws k.val ⟨0, false, false⟩).code), ws.any (·.sat), ws.any (·.nan))

/-- Row r of the Stilts block from its line, as BF16 codes (R254). -/
def stiltsRow (line : Bytes) (r : Nat) : Lanes := Vector.ofFn (fun k : Fin 64 => BitVec.ofNat 32 (leAt line ((r % 2) * 128 + 2 * k.val) 2))

/-- A read that a running command makes met an uncorrectable word: the command fails (R183, R352). -/
def readFails (l : Nat) (ue : Bool) (s : State) : State :=
  if ue then modTile l (fun t => { t with cmd := t.cmd.map (fun c => { c with failed := true }) }) s else s

/-- One fill's step at the end of an issue cycle: the rows that its line gives are in the buffer from the next cycle on. A Q4 line gives
four rows in each of its two cycles (R171, R219, R247). -/
def fillStep (l c : Nat) (f : Fill) (s : State) : Fill × State :=
  let at' := fun i => l * 0x400000 + (f.base + 256 * i) % 0x400000
  let line := fun i => tsRead s (at' i) 256
  let (ue, s) := match f.lineAt c with | some i => tsCheck (at' i) 256 s | none => (false, s)
  let s := readFails l ue s
  let put := fun (rows : List Nat) (ln : Bytes) (s : State) =>
    rows.foldl (fun (a : Fill × State) i =>
      let (w, sat, nan) := weightRow f ln i
      let s := raiseFlags l [(.sat, sat && !a.1.sat), (.nanIn, nan && !a.1.nan)] a.2
      ({ a.1 with sat := a.1.sat || sat, nan := a.1.nan || nan },
       modTile l (fun t => { t with wbuf := tabSet t.wbuf (f.buf * 64 + i) w }) s)) (f, s)
  let i := c - f.start
  if c < f.start then (f, s)
  else if f.buf = 2 then
    if i < 2 then (f, [2 * i, 2 * i + 1].foldl (fun s r => modTile l (fun t => { t with stilts := tabSet t.stilts r (stiltsRow (line i) r) }) s) s)
    else (f, s)
  else if 16 ≤ i then (f, s)
  else
    let ln := if f.q4 then (if i % 2 = 0 then line (i / 2) else f.line) else line i
    let (g, s) := put ((List.range 4).map (4 * i + ·)) ln s
    ({ g with line := if f.q4 then ln else [] }, s)

/-! ### Issue cycles -/

/-- Banks of the accesses of a tile's latest bundle and of its weight-buffer fills (R181). -/
def Tile.bundleBanks (t : Tile) : List Nat :=
  t.banks ++ (t.fills.filter (fun f => f.buf != 2)).filterMap (fun f => (f.lineAt t.cyc).map (fun i => (f.base / 256 + i) % 32))

/-- The ACLK that a tile freezes for the banks that one bundle uses (R181). -/
def bankFreeze (banks : List Nat) : Nat :=
  let k := ((List.range 32).map (fun b => (banks.filter (· == b)).length)).foldl max 0
  if 2 < k then (k + 1) / 2 - 1 else 0

/-- The conflicts of a tile's latest bundle are counted in TL_FREEZE (R181). -/
def countFreeze (l : Nat) (s : State) : State :=
  { s with tl := { s.tl with frozen := satAdd s.tl.frozen (bankFreeze (tile s l).bundleBanks) } }

/-- The issue cycle ends: its conflicts are counted, fills and stores take effect, and what lands in the next cycle lands (R180, R181,
R211). -/
def endCycle (l : Nat) (s : State) : State :=
  let t := tile s l
  let c := t.cyc
  let s := countFreeze l s
  let (fs, s) := t.fills.foldl (fun (a : List Fill × State) f => let (f, s) := fillStep l c f a.2; (a.1 ++ [f], s)) ([], s)
  let t := tile s l
  let s := setTile l { t with cyc := c + 1, banks := [], fills := fs.filter (fun f => decide (c + 1 < f.start + (if f.buf = 2 then 2 else 16))),
                              land := t.land.filter (fun x => decide (c + 1 < x.at')) } s
  (t.land.filter (fun x => decide (x.at' ≤ c + 1))).foldl (fun s x => landOne l x.eff s) s

/-- `n` issue cycles pass; the bundle address follows the last branch (R211, R227). -/
def passCycles (l : Nat) : Nat → State → State
  | 0, s => s
  | n + 1, s =>
    let s := endCycle l s
    passCycles l n (modTile l (fun t => { t with pc := (t.jump.getD (t.pc + 1)), jump := none }) s)

/-- An operation's place: its tile runs a command, is not frozen unless the operation stands in the bundle that froze it, and END has not
issued in an earlier bundle (R207, R213, R229). -/
def issues (s : State) (o : Op) : Bool :=
  let t := tile s o.tile.toNat
  match t.cmd with
  | none => false
  | some c => (o.gap == 0 || (t.freeze.isEmpty && !c.ended && !c.failed))

/-- Issue a tile operation that passed the loader's checks: cycles pass up to its bundle, then it acts (log 14). -/
def issue (ok : Bool) (o : Op) (f : Nat → Tile → State → State) (s : State) : State :=
  if ok && issues s o then
    let l := o.tile.toNat
    let s := passCycles l o.gap s
    f l (tile s l) s
  else s

/-- An effect that lands `n` issue cycles after the bundle (R211). -/
def lands (l : Nat) (o : Op) (n : Nat) (e : Effect) (s : State) : State :=
  modTile l (fun t => { t with land := insLand ⟨t.cyc + n, t.cyc, o.slot.toNat, e⟩ t.land }) s

/-- A result for an S, A, V or P register named by DST; None discards it. -/
def putS (l : Nat) (o : Op) (n : Nat) (v : BitVec 64) (s : State) : State := if o.dst = 0xFF then s else lands l o n (.sreg o.dst.toNat v) s
def putA (l : Nat) (o : Op) (n : Nat) (v : BitVec 48) (s : State) : State :=
  if o.dst = 0xFF then s else lands l o n (.areg (o.dst.toNat - 0x40) v) s
def putV (l : Nat) (o : Op) (n : Nat) (v : Lanes) (mask : BitVec 64) (s : State) : State :=
  if o.dst = 0xFF then s else lands l o n (.vreg (o.dst.toNat - 0x80) v mask) s
def putP (l : Nat) (o : Op) (n : Nat) (v : BitVec 64) (s : State) : State :=
  if o.dst = 0xFF then s else lands l o n (.preg (o.dst.toNat - 0xC0) v) s

end Sys2Proof.Machine
end

