-- ==== Sys2Proof/Machine/Sched.lean ====
section
/-! DEFINITION. The Ringmaster's run order (13, R372 to R381): jobs, slices, switches, held tokens, donations. -/

namespace Sys2Proof.Machine

/-- Run order of a logical tile. -/
def sched (s : State) (l : Nat) : TileSched := tabGet s.rm.scheds l TileSched.init

/-- Replace the run order of a logical tile. -/
def setSched (l : Nat) (x : TileSched) (s : State) : State := { s with rm := { s.rm with scheds := tabSet s.rm.scheds l x } }

/-- Name of a job: partition and slot. -/
def Job.key (j : Job) : Nat × Nat := (j.part, j.slot)

/-- A job by its name. -/
def job? (s : State) (k : Nat × Nat) : Option Job := s.rm.jobs.find? (fun j => j.key == k)

/-- Change a job. -/
def modJob (k : Nat × Nat) (f : Job → Job) (s : State) : State :=
  { s with rm := { s.rm with jobs := s.rm.jobs.map (fun j => if j.key = k then f j else j) } }

/-- A page stands at the stage whose commands a route entry gives (R11, R374). -/
def atStage (stage : Nat) (p : Page) : Bool :=
  match stage with
  | 1 => p.stage == .intake
  | 2 => p.stage == .prep
  | 3 => p.stage == .layout
  | 4 => p.stage == .cut || p.stage == .recog
  | 5 => p.stage == .recog || p.stage == .structure
  | _ => false

/-- The inputs of a command have committed: every page that it serves stands at its stage, or has ended meanwhile (R20, R374, R421).
None is ready while a load writes its partition (R367). -/
def inputsIn (s : State) (r : DispatchReq) : Bool :=
  !(applying s r.part.toNat) && (r.pages.isEmpty ||
    (r.pages.any (fun p => match page? s p with | some x => atStage r.stage.toNat x | none => false) &&
     r.pages.all (fun p => match page? s p with
      | some x => atStage r.stage.toNat x || x.stage == .output || x.stage == .released
      | none => true)))

/-- The class whose routes a job runs: its queue's; a decoder job runs the routes of every class of the decoder (R289, R372). -/
def jobClasses (s : State) (j : Job) : List Nat :=
  match j.queue, j.decoder with
  | some q, _ => ((queue? s q).map (fun r => [r.cls])).getD []
  | none, some d => (s.si.conf.classes.filter (fun k => k.part == j.part && k.dec == d)).map (·.cls)
  | none, none => []

/-- The job that a dispatch request is for: the route table places the routine there (R372, R374). -/
def jobFor (s : State) (r : DispatchReq) : Option Job :=
  s.rm.jobs.find? (fun j =>
    j.part == r.part.toNat && j.tile == r.tile.toNat && j.queue == r.queue.map (·.toNat) && j.decoder == r.decoder.map (·.toNat) &&
    j.stage == r.stage.toNat &&
    s.si.conf.routes.any (fun e => e.part == j.part && e.stage == j.stage && e.routine == r.routine.toNat &&
      (if j.decoder.isSome then stepEntry s.si.conf e else e.pos == j.pos && queueEntry s.si.conf e) && e.tiles.getLsbD j.tile && (jobClasses s j).contains e.cls))

/-- The result frames that a job gave back when it was switched out can be had again (R382). -/
def creditsFree (s : State) (j : Job) : Bool :=
  j.want == 0 || (match j.queue.bind (queue? s) with | some q => decide (j.want ≤ flowFree s q.sel) | none => true)

/-- A job is ready: it has a command whose inputs have committed, and its flow can grant the credits it gave back (R374, R382). -/
def jobReady (s : State) (k : Nat × Nat) : Bool :=
  s.rm.ready.any (fun e => inputsIn s e.1 && ((jobFor s e.1).map Job.key) == some k) && ((job? s k).map (creditsFree s)).getD false

/-- The job whose command a logical tile runs. -/
def cmdJob (s : State) (l : Nat) : Option (Nat × Nat) := (tile s l).cmd.map (fun c => (c.part, c.slot))

/-- Slice of a partition in ns (R360). -/
def sliceOf (s : State) (part : Nat) : Nat := ((part? s part).map sliceNs).getD 1000000

/-- The donation that a job runs or will run under (R379). -/
def donationOf (s : State) (k : Nat × Nat) : Option Donation := s.rm.donations.find? (fun d => d.holder == k)

/-- Count a preemption of a job's queue (R386). -/
def countPreempt (k : Nat × Nat) (s : State) : State :=
  match (job? s k).bind (·.queue) with
  | some q =>
    let r := tabGet s.rm.qstat q QStat.init
    { s with rm := { s.rm with qstat := tabSet s.rm.qstat q { r with preempt := satAdd r.preempt 1 } } }
  | none => s

/-- Switch time of two jobs in 1/256 ns (R376); a job that is gone has no context. -/
def switchTime (s : State) (a b : Nat × Nat) : Nat :=
  let f := fun k => match job? s k with | some j => (j.bspad, j.live, j.held.length) | none => (0, 0, 0)
  switchUnits (max (f a).1 (f b).1) (max (f a).2.1 (f b).2.1) (max (f a).2.2 (f b).2.2)

/-- A job takes the turn on its tile: a switch first when another job ran last (R375, R376, R382). -/
def takeTurn (l : Nat) (k : Nat × Nat) (s : State) : State :=
  let x := sched s l
  let donated := (donationOf s k).isSome
  let len := sliceOf s k.1 - ((job? s k).map (·.debit)).getD 0
  let s := if donated then s else modJob k (fun j => { j with debit := 0 }) s
  match x.last with
  | none => setSched l { x with run := some k, last := some k, len := len, sliceEnd := s.now + BitVec.ofNat 64 len, late := false } s
  | some o =>
    if o = k then setSched l { x with run := some k, len := len, sliceEnd := s.now + BitVec.ofNat 64 len, late := false } s
    else
      let s := if jobReady s o then countPreempt o s else s
      let s := setSched l { x with run := some k, len := len, late := false, sw := some (s.now, switchTime s o k) } s
      modJob k (fun j => { j with credits := j.credits + j.want, want := 0 })
        (modJob o (fun j => { j with credits := 0, want := j.want + j.credits }) s)

/-- The turn passes to the next job of the ring; one whose debit is a slice or more passes its turn (R375). -/
def nextTurn (l : Nat) : Nat → State → State
  | 0, s => s
  | n + 1, s =>
    let x := sched s l
    match x.ring with
    | [] => setSched l { x with run := none } s
    | k :: rest =>
      match job? s k with
      | none => nextTurn l n (setSched l { x with ring := rest } s)
      | some j =>
        if sliceOf s k.1 ≤ j.debit ∧ (donationOf s k).isNone then
          nextTurn l n (modJob k (fun j => { j with debit := j.debit - sliceOf s k.1 }) (setSched l { x with ring := rest ++ [k] } s))
        else takeTurn l k (setSched l { x with ring := rest } s)

/-- Enough turns for the ring of a tile to reach one that is not passed. -/
def turnFuel (s : State) (l : Nat) : Nat :=
  let r := (sched s l).ring
  r.length + 1 + (r.map (fun k => ((job? s k).map (fun j => j.debit / max 1 (sliceOf s k.1))).getD 0 + 1)).sum * r.length

/-- The job whose turn it is gives up its tile: to the tail if still ready (R375). -/
def giveUp (l : Nat) (s : State) : State :=
  let x := sched s l
  let ring := match x.run with | some k => if jobReady s k then x.ring ++ [k] else x.ring | none => x.ring
  let s := setSched l { x with ring := ring, run := none, late := false } s
  nextTurn l (turnFuel s l) s

/-- A donation whose holder waits at the head of its tile's ring takes effect when no command runs there (R379). -/
def startDonation (l : Nat) (s : State) : State :=
  let x := sched s l
  if (tile s l).cmd.isSome ∨ x.sw.isSome then s else
  match s.rm.donations.find? (fun d => d.onTile == l && d.since.isNone && jobReady s d.holder) with
  | none => s
  | some d =>
    let s := { s with rm := { s.rm with donations := s.rm.donations.map (fun e => if e = d then { e with since := some s.now } else e) } }
    if x.run = some d.holder then s
    else
      let ring := x.ring.filter (· != d.holder)
      let ring := match x.run with | some k => if jobReady s k then k :: ring else ring | none => ring
      takeTurn l d.holder (setSched l { x with ring := ring, run := none } s)

/-- A job that has a ready command stands in the ring of its tile, at the tail, or at the head under a donation (R375, R379). -/
def joinRing (k : Nat × Nat) (l : Nat) (s : State) : State :=
  let x := sched s l
  let s := if x.run = some k ∨ x.ring.contains k then s
    else setSched l { x with ring := if (donationOf s k).isSome then k :: x.ring else x.ring ++ [k] } s
  let s := startDonation l s
  if (sched s l).run.isNone then nextTurn l (turnFuel s l) s else s

/-- Jobs that have become ready join the rings of their tiles in the order of their commands (R374, R375). -/
def wakeJobs (s : State) : State :=
  s.rm.ready.foldl (fun s e => match jobFor s e.1 with
    | some j => if jobReady s j.key then joinRing j.key e.1.tile.toNat s else s
    | none => s) s

/-- The holder of a token (R378): the job its OWNER names, or the job whose held set took it last. -/
def holderOf (s : State) (t : Nat) : Option (Nat × Nat) :=
  let o := (tok s t).owner
  if o ≠ 0xFFFF then (job? s (o.toNat / 4096, o.toNat % 4096)).map Job.key
  else (s.rm.jobs.foldl (fun (b : Option (Nat × Nat × Nat)) j =>
    match j.held.find? (fun h => h.1 == t), b with
    | some h, none => some (h.2, j.key)
    | some h, some r => if r.1 ≤ h.2 then some (h.2, j.key) else some r
    | none, _ => b) none).map (·.2)

/-- Tiles of the donation chain that a blocked job's tile ends (R380): the tile, and those blocked on it in turn. -/
def chainTiles (s : State) : Nat → Nat × Nat → Nat → List Nat
  | 0, _, l => [l]
  | n + 1, k, l =>
    match s.rm.donations.find? (fun d => d.holder == k && d.onTile == l) with
    | some d => l :: chainTiles s n d.blocked d.tile
    | none => [l]

/-- What a WAIT that froze its tile asks of the Ringmaster (R379, R380): no donation, one made, or one refused. -/
inductive Donated where
  | none | made | refused
  deriving DecidableEq, Repr

/-- Donate the blocked job's turn to the holder of the token (R379, R380). -/
def donate (l t : Nat) (s : State) : Donated × State :=
  match cmdJob s l, (holderOf s t).bind (job? s) with
  | some b, some h =>
    if cmdJob s h.tile = some h.key ∨ s.rm.donations.any (fun d => d.holder == h.key && d.token == t && d.blocked == b) then (.none, s)
    else
      let depth := match donationOf s b with | some d => d.depth + 1 | none => 1
      if 4 < depth ∨ (chainTiles s 5 b l).contains h.tile then
        (.refused, { s with rm := { s.rm with depthFail := satAdd s.rm.depthFail 1 } })
      else
        let d : Donation := { tile := l, blocked := b, token := t, holder := h.key, onTile := h.tile, depth := depth, since := none }
        let s := { s with rm := { s.rm with donated := satAdd s.rm.donated 1, donations := s.rm.donations ++ [d] } }
        let x := sched s h.tile
        let s := if x.run ≠ some h.key ∧ (x.ring.contains h.key ∨ jobReady s h.key) then
            setSched h.tile { x with ring := h.key :: x.ring.filter (· != h.key) } s
          else s
        (.made, startDonation h.tile s)
  | _, _ => (.none, s)

/-- The holder of a donation neither owns nor holds its token any more (R379). -/
def Donation.ended (d : Donation) (s : State) : Bool :=
  (tok s d.token).owner != ownerCode d.holder.1 d.holder.2 &&
    !(((job? s d.holder).map (fun j => j.held.any (fun h => h.1 == d.token))).getD false)

/-- At a commit on a donated tile every donation whose holder neither owns nor holds its token ends, and its time is the blocked job's debit;
the holder gives up the tile with the last of them (R379). -/
def endDonation (l : Nat) (s : State) : State :=
  match (sched s l).run with
  | none => s
  | some k =>
    let mine := s.rm.donations.filter (fun d => d.holder == k && d.onTile == l && d.since.isSome)
    let done := mine.filter (fun d => d.ended s)
    if done = [] then s
    else
      let s := { s with rm := { s.rm with donations := s.rm.donations.filter (fun d => !(done.contains d)) } }
      let s := done.foldl (fun s d => modJob d.blocked (fun j => { j with debit := j.debit + (s.now.toNat - (d.since.getD s.now).toNat) }) s) s
      if mine.length = done.length then giveUp l s else s

/-- The run order after a command of a tile has committed or failed (R375, R379, R381): donations first, then slice ends. A tile that waited for
it is taken out of service (R202). -/
def afterCommand (l : Nat) (s : State) : State :=
  let s := endDonation l (if (tile s l).cmd.isNone then leaveNow l s else s)
  let x := sched s l
  match x.run with
  | none => startDonation l s
  | some k =>
    let donated := s.rm.donations.any (fun d => d.holder == k && d.onTile == l && d.since.isSome)
    let s := if x.late then giveUp l (modJob k (fun j => { j with debit := j.debit + (s.now.toNat - x.sliceEnd.toNat) }) s)
      else if ¬ donated ∧ ¬ jobReady s k then giveUp l s else s
    startDonation l s

/-- A slice reaches its end (R375): at once when no command runs, else at the running command's commit. A donated tile is kept (R379). -/
def sliceEnd (l : Nat) (s : State) : State :=
  let x := sched s l
  match x.run with
  | none => s
  | some k =>
    let donated := s.rm.donations.any (fun d => d.holder == k && d.onTile == l && d.since.isSome)
    if x.sw.isSome ∨ x.late ∨ donated ∨ s.now.toNat < x.sliceEnd.toNat then s
    else if (tile s l).cmd.isSome then setSched l { x with late := true, sliceEnd := s.now } s
    else giveUp l s

/-- Rows of the first `n` accumulator banks. -/
def liveRows (n : Nat) (rows : List (Nat × Lanes)) : List (Nat × Lanes) := rows.filter (fun r => decide (r.1 < 64 * n))

/-- Rows replaced in the first `n` banks. -/
def putRows (n : Nat) (saved rows : List (Nat × Lanes)) : List (Nat × Lanes) :=
  (saved.filter (fun r => decide (r.1 < 64 * n))).foldl (fun t r => tabSet t r.1 r.2) (rows.filter (fun r => !(decide (r.1 < 64 * n))))

/-- Save a job's persistent scratchpad, which stands from byte 0, and its live banks (R373, R417; log 22). -/
def saveJob (l : Nat) (k : Nat × Nat) (s : State) : State :=
  modJob k (fun j => { j with save := Memory.slice s.mem.spad (l * 0x400000) j.bspad, accs := liveRows j.live (tile s l).acc }) s

/-- Restore a job's context into the banks, their shadows and the scratchpad (R373, R417). -/
def restoreJob (l : Nat) (k : Nat × Nat) (s : State) : State :=
  match job? s k with
  | none => s
  | some j =>
    let s := setSpad s (Memory.blit s.mem.spad (l * 0x400000) j.bspad j.save)
    modTile l (fun t => { t with acc := putRows j.live j.accs t.acc, shadow := putRows j.live j.accs t.shadow }) s

/-- Tokens of a job's held set name it again where no other job does (R378). -/
def restoreHeld (k : Nat × Nat) (s : State) : State :=
  ((job? s k).map (·.held)).getD [] |>.foldl (fun s h =>
    let r := tok s h.1
    if r.owner = 0xFFFF then setTok h.1 { r with owner := ownerCode k.1 k.2 } s else s) s

/-- A switch completes (R376, R394): contexts change, the entry of RM_SWEVT is written, the incoming slice starts. -/
def switchDone (l : Nat) (s : State) : State :=
  let x := sched s l
  match x.sw, x.run with
  | some (t0, units), some k =>
    let o := x.last.getD k
    let s := restoreHeld k (restoreJob l k (saveJob l o s))
    let took := s.now.toNat - t0.toNat
    let w := maskOf 63 1 ||| place k.1 59 4 ||| place l 53 6 ||| place o.2 41 12 ||| place k.2 29 12 ||| place (ceilDiv took 2) 15 14 |||
      place (ceilDiv units 512) 1 14
    let m := s.rm
    let m := if m.swevt.length < 64 then { m with swevt := m.swevt ++ [w] } else { m with swLost := satAdd m.swLost 1 }
    let m := { m with swCount := m.swCount + 1, swOver := if units < took * 256 then satAdd m.swOver 1 else m.swOver }
    setSched l { x with last := some k, sw := none, sliceEnd := s.now + BitVec.ofNat 64 x.len } { s with rm := m }
  | _, _ => s

/-- Tokens that the end of a job frees (R193, R378). -/
def freeTokens (gone : List (Nat × Nat)) (s : State) : State :=
  { s with tl := { s.tl with toks := s.tl.toks.map (fun e =>
      if gone.any (fun k => ownerCode k.1 k.2 == e.2.owner) then (e.1, { e.2 with owner := 0xFFFF }) else e) } }

/-- Jobs end: their slots, tokens, waiting commands and donations go (R193, R372, R378). A tile that one of them ran on last keeps a name that no
job has, so that the next job there is switched in (R376). -/
def endJobs (p : Job → Bool) (s : State) : State :=
  let gone := (s.rm.jobs.filter p).map Job.key
  let keep := s.rm.ready.filter (fun e => match jobFor s e.1 with | some j => !(gone.contains j.key) | none => true)
  let s := freeTokens gone s
  { s with rm := { s.rm with
      jobs := s.rm.jobs.filter (fun j => !(p j))
      ready := keep
      donations := s.rm.donations.filter (fun d => !(gone.contains d.holder) && !(gone.contains d.blocked))
      scheds := s.rm.scheds.map (fun e => (e.1, { e.2 with
        ring := e.2.ring.filter (fun k => !(gone.contains k))
        run := e.2.run.bind (fun k => if gone.contains k then none else some k)
        last := e.2.last.map (fun k => if gone.contains k then (k.1, 4095) else k)
        sw := if e.2.run.any gone.contains then none else e.2.sw })) } }

def execSliceEnd (l : BitVec 6) (s : State) : Host.Outcome State Fault Refusal := run s (sliceEnd l.toNat)
def execSwitchDone (l : BitVec 6) (s : State) : Host.Outcome State Fault Refusal := run s (switchDone l.toNat)

end Sys2Proof.Machine
end

