-- ==== Sys2Proof/Machine/Dechel.lean ====
section
/-! DEFINITION. Dechel (03): mailbox, doorbells, command fetch, records and rings, DQ_ registers. -/

namespace Sys2Proof.Machine

/-! ### Mailbox -/

/-- Post a reply: tag, code, queue state, results (R66), and MAILBOX. The request is no longer in progress. -/
def postReply (tag code st : Nat) (r8 r10 : Word) (s : State) : State :=
  let w0 := place tag 0 32 ||| place code 32 8 ||| place st 40 8
  alert 6 { s with dq := { s.dq with reply := [(0, w0), (1, r8), (2, r10)], busy := none } }

/-- Word k of the request that was taken, as its GO found it (R66). -/
def reqWord (s : State) (k : Nat) : Word := tabGet s.dq.taken k 0

/-- TAG of the request (R66). -/
def reqTag (s : State) : Nat := fld (reqWord s 1) 16 32

/-- Reserved fields and unused argument bytes of a request (R66, R67, R68, R91). -/
def reqReserved (s : State) (mop : Nat) : Bool :=
  let w := reqWord s
  let head := fld (w 0) 8 56 != 0 || fld (w 1) 48 16 != 0 || fld (w 1) 1 15 != 0
  let rest := fun k => (List.range (16 - k)).any (fun i => w (k + i) != 0)
  if mop = 1 then
    head || fld (w 3) 33 27 != 0 || fld (w 4) 48 16 != 0 || fld (w 5) 32 32 != 0 || rest 6 ||
      (fld (w 2) 20 4 == 1 && fld (w 2) 56 8 != 0)
  else head || fld (w 2) 16 48 != 0 || rest 3

/-- QUOTA of the queues of a partition that are not CLOSED (R136). -/
def quotaUsed (s : State) (part : Nat) : Nat :=
  ((s.dq.queues.filter (fun e => e.2.st != .closed && e.2.part == part)).map (·.2.quota)).sum

/-- The queue bound to a door (R12, R67). -/
def boundQueue (s : State) (door sel : Nat) : Option (Nat × Queue) :=
  s.dq.queues.find? (fun e => e.2.st != .closed && e.2.door == door && e.2.sel == sel)

/-- The checks of QUEUE_OPEN before admission, in order (R67, R10, R91): the first code that fails, 0 when all pass. DESIGN CHOICE: a SEL that
names no head (above 3) or no camera (above 1) fails with CLAIM_CONFLICT, for R67 names no other code at SEL (log 68). -/
def openCheck (s : State) : Nat :=
  let a := reqWord s 2
  let b := reqWord s 3
  let q := fld a 0 16
  let gen := fld a 20 4
  let door := fld a 24 4
  let part := fld a 28 4
  let sel := fld a 32 16
  let cls := if gen = 1 then 0 else fld a 56 8
  let base := fld b 0 33
  let lg := fld b 60 4
  let pd := s.si.conf.parts.find? (fun e => e.1 == part)
  if qstate s q ≠ .closed then cClaim
  else if fld a 16 4 ≠ 0 then cReserved
  else if gen < 1 ∨ 3 < gen ∨ (gen = 1 ∧ 0x0FFF < q) then cVersion
  else if 3 < door then cVersion
  else if pd.isNone then cClaim
  else if (door = 1 ∧ 3 < sel) ∨ (door = 2 ∧ 1 < sel) ∨ (door = 3 ∧ (255 < sel ∨ ¬ bitOf (flow s sel).cfg 63)) ∨ (door ≠ 0 ∧ (boundQueue s door sel).isSome) then cClaim
  else if ((classOf s.si.conf cls).map (·.part)) ≠ some part then cClaim
  else if door = 0 ∧ base % 128 ≠ 0 then cDimLimit
  else if door = 0 ∧ (12 < lg ∨ ¬ backedRange s base (2 ^ (lg + 4) * 128)) then cDimLimit
  else if ((pd.map (·.2.pixq)).getD 0) < quotaUsed s part + fld (reqWord s 5) 0 32 then cQuota
  else 0

/-- Job slots of a partition in use. -/
def slotsUsed (s : State) (part : Nat) : List Nat := (s.rm.jobs.filter (fun j => j.part == part)).map (·.slot)

/-- Add jobs to the lowest free slots of their partition (R372). -/
def addJobs (js : List Job) (s : State) : State :=
  js.foldl (fun s j =>
    let used := slotsUsed s j.part
    match (List.range 4095).find? (fun k => !(used.contains k)) with
    | some k => { s with rm := { s.rm with jobs := s.rm.jobs ++ [{ j with slot := k }] } }
    | none => s) s

/-- The jobs of a queue: one for each stage route of its class and each tile the route names (R372, R373). -/
def queueJobs (c : ImgConf) (q part cls : Nat) : List Job :=
  ((routesOf c cls).filter (queueEntry c)).flatMap (fun r =>
    let x := routineOf c part r.routine
    (maskTiles r.tiles).map (fun t =>
      { part := part, slot := 0, tile := t, queue := some q, decoder := none, stage := r.stage, pos := r.pos,
        bspad := (x.map (·.bspad)).getD 0, live := (x.map (·.live)).getD 0, held := [], debit := 0, credits := 0, want := 0,
        parity := false, save := [], accs := [] }))

/-- The queue that a QUEUE_OPEN request describes (R67, R68, R10, R91). -/
def openedQueue (s : State) : Queue :=
  let a := reqWord s 2
  let b := reqWord s 3
  let w4 := reqWord s 4
  let gen := fld a 20 4
  let seq0 := BitVec.ofNat 32 (fld w4 0 32)
  let ms := fld w4 32 16
  { st := .closed, gen := min gen 2, door := fld a 24 4, part := fld a 28 4, sel := fld a 32 16, ring := fld a 48 8,
    cls := if gen = 1 then 0 else fld a 56 8, crBase := fld b 0 33, crLog := fld b 60 4, seq0 := seq0,
    drainMs := if ms = 0 then 500 else ms, quota := fld (reqWord s 5) 0 32,
    lines := declLines s (if gen = 1 then 0 else fld a 56 8), c := seq0, t := seq0 - 1, marks := [], stopped := false,
    retryAt := 0, rseq := 0, holdSince := 0, cur := none, items := [], missed := 0, lastPage := none, prev := [] }

/-- QUEUE_OPEN once its partition is not being loaded (R67, R389). -/
def doOpen (s : State) : State :=
  let q := fld (reqWord s 2) 0 16
  let c := openCheck s
  let reply := fun code r8 r10 (s : State) => postReply (reqTag s) code (qstate s q).value r8 r10 s
  if c ≠ 0 then reply c 0 0 s else
  let r := openedQueue s
  let (ok, b, s) := judge ⟨q, r.part, r.cls, r.quota⟩ s
  let w := BitVec.ofNat 64 b
  if ok then
    let s := setQueue q r s
    let st := tabGet s.rm.qstat q QStat.init
    let s := { s with rm := { s.rm with qstat := tabSet s.rm.qstat q { st with wait := 0, preempt := 0 } } }
    let s := reserveFlows (addJobs (queueJobs s.si.conf q r.part r.cls) (moveQueue q .opened s))
    reply cOk (place r.gen 0 4) w s
  else reply cNotAdmissible 0 w s

/-- QUEUE_RESUME once its partition is not being loaded (R68, R90). -/
def doResume (s : State) : State :=
  let q := fld (reqWord s 2) 0 16
  let reply := fun code r10 (s : State) => postReply (reqTag s) code (qstate s q).value 0 r10 s
  match queue? s q with
  | none => reply cOk 0 s
  | some r =>
    if r.st = .creditViol ∨ r.st = .notAdmitted then
      let (ok, b, s) := judge ⟨q, r.part, r.cls, r.quota⟩ s
      let w := BitVec.ofNat 64 b
      if ok then reply cOk w (reserveFlows (moveQueue q .opened s)) else reply cNotAdmissible w (moveQueue q .notAdmitted s)
    else reply cOk 0 s

/-- Door index of a scan-front queue (R95). -/
def scanDoor (r : Queue) : Nat := if r.door = 1 then r.sel else 4 + r.sel

/-- A door of the scan front. -/
def door (s : State) (d : Nat) : Door := tabGet s.sf.doors d Door.init

/-- Replace a door. -/
def setDoor (d : Nat) (r : Door) (s : State) : State := { s with sf := { s.sf with doors := tabSet s.sf.doors d r } }

/-- End the arming in force at a door and release a reservation for which no paper line has been seen (R99). -/
def disarm (d : Nat) (s : State) : State :=
  let x := door s d
  let live := x.arms.filter (fun a => !a.ended)
  let drop := x.free && !x.seen
  let s := if drop then r2give x.freeBytes.total s else s
  setDoor d { x with free := x.free && !drop, freeBytes := if drop then Resv.none else x.freeBytes, seen := x.seen && !drop, expect := x.expect || drop,
                     arms := x.arms.map (fun a => { a with ended := true }), armDone := x.armDone ++ live.map (·.cseq) } s

/-- The record of an arming is ready once it has ended and no page admitted under it is left (R99). -/
def settleArms (q : Nat) (s : State) : State :=
  match queue? s q with
  | none => s
  | some r =>
    if r.door = 0 ∨ r.door = 3 then s else
    let d := door s (scanDoor r)
    let busy := fun (c : BitVec 32) => s.pp.pages.any (fun e => e.2.queue == q && e.2.stage != .released && e.2.claim.src == c.toNat) ||
      (d.free && d.freeArm == c)
    let done := d.armDone.filter (fun c => !(busy c))
    let s := modQueue q (fun r => { r with items := r.items.map (fun i =>
      if i.isCmd && !i.isPage && done.contains i.cseq then { i with ready := true } else i) }) s
    setDoor (scanDoor r) { d with armDone := d.armDone.filter (fun c => !(done.contains c)),
                                  arms := d.arms.filter (fun a => !(done.contains a.cseq)) } s

/-- QUEUE_CLOSE: at once on a closed queue, else when the queue reaches CLOSED (R68). -/
def doClose (s : State) : State :=
  let q := fld (reqWord s 2) 0 16
  if qstate s q = .closed then postReply (reqTag s) cOk 0 0 0 s
  else
    let s := moveQueue q .closing s
    let s := match queue? s q with
      | some r => if r.door = 1 ∨ r.door = 2 then settleArms q (disarm (scanDoor r) s) else s
      | none => s
    { s with dq := { s.dq with busy := some (.close q) } }

/-- QUEUE_QUERY (R68); its reply's code reports the state (R61). -/
def doQuery (s : State) : State :=
  let q := fld (reqWord s 2) 0 16
  match queue? s q with
  | some r =>
    if r.st = .closed then postReply (reqTag s) cOk 0 0 0 s
    else postReply (reqTag s) r.st.code r.st.value (place (r.c - 1).toNat 32 32) (r.rseq.setWidth 64) s
  | none => postReply (reqTag s) cOk 0 0 0 s

/-- A structure-image load is in progress for a partition (R367, R368). -/
def loading (s : State) (part : Nat) : Bool :=
  match s.si.job with | some j => j.whole || j.part == part | none => false

/-- Act on the mailbox request that was taken (R66, R368); during a firmware swap it waits (R469). -/
def actMbox (s : State) : State :=
  let w0 := reqWord s 0
  let mop := fld w0 0 8
  let q := fld (reqWord s 2) 0 16
  let wait := { s with dq := { s.dq with busy := some .load } }
  if swapping s then wait
  else if mop < 1 ∨ 4 < mop then postReply (reqTag s) cVersion (qstate s q).value 0 0 s
  else if reqReserved s mop then postReply (reqTag s) cReserved (qstate s q).value 0 0 s
  else if mop = 1 then (if loading s (fld (reqWord s 2) 28 4) then wait else doOpen s)
  else if mop = 2 then doClose s
  else if mop = 3 then doQuery s
  else match queue? s q with
    | some r => if loading s r.part then wait else doResume s
    | none => doResume s

/-- Take the mailbox request: the whole record is read at this moment (R66). -/
def takeMbox (s : State) : State := actMbox { s with dq := { s.dq with taken := s.dq.req } }

/-- A mailbox request that waited for a load is answered once it has ended (R368), by the record as it was read. -/
def resumeMbox (s : State) : State :=
  if s.dq.busy = some .load then actMbox { s with dq := { s.dq with busy := none } } else s

/-- A host write to word k of the mailbox request record (R65, R66). -/
def mboxWrite (k : Nat) (d en : Word) (s : State) : State :=
  let put := fun s : State => { s with dq := { s.dq with
    req := tabSet s.dq.req k (putBits (tabGet s.dq.req k 0) d (if k = 1 then ~~~ maskOf 0 1 else ~~~ 0) en) } }
  if k = 1 ∧ bitOf (d &&& en) 0 then
    if s.dq.busy.isSome then wdisc s
    else
      let s := put s
      if s.pw.mode = modeLeaving ∨ s.pw.mode = modeDeep then { s with held := s.held ++ [⟨.host, 0x1008, 1, 1, []⟩] } else takeMbox s
  else put s

/-- The state with a row's request record in place (R66). -/
def mboxPut (mop : Nat) (r : MboxRec) (s : State) : State :=
  let w0 := r.rsv0.setWidth 64 <<< 8 ||| BitVec.ofNat 64 mop
  let w1 := r.rsvHi.setWidth 64 <<< 48 ||| r.tag.setWidth 64 <<< 16 ||| r.rsvLo.setWidth 64 <<< 1
  { s with dq := { s.dq with req := (List.range 16).map (fun k => (k, if k = 0 then w0 else if k = 1 then w1 else nth r.args (k - 2) 0)) } }

/-- A mailbox row: the request record is written whole, GO last, and taken, or it waits for RUN (R66, R485, log 10). While a request is in
progress the other words are stored and the word with GO is discarded. -/
def mboxRow (mop : Nat) (r : MboxRec) (s : State) : State :=
  if s.dq.busy.isSome then
    let p := mboxPut mop r s
    wdisc { p with dq := { p.dq with req := tabSet p.dq.req 1 (tabGet s.dq.req 1 0) } }
  else if s.pw.mode = modeLeaving ∨ s.pw.mode = modeDeep then { mboxPut mop r s with held := s.held ++ [⟨.host, 0x1008, 1, 1, []⟩] }
  else takeMbox (mboxPut mop r s)

/-! ### Doorbells and command fetch -/

/-- Discard a doorbell (R71, R72, R80). -/
def dbBad (s : State) : State := { s with dq := { s.dq with dbBad := satAdd s.dq.dbBad 1 } }

/-- Slots of a queue's command ring (R67, R97); a fabric queue has none. -/
def ringSize (r : Queue) : Nat := if r.door = 0 then 2 ^ (r.crLog + 4) else if r.door = 3 then 0 else 4

/-- A kind-0 doorbell on a queue (R71, R72, R74). -/
def cmdDoorbell (q : Nat) (v : BitVec 32) (s : State) : State :=
  match queue? s q with
  | none => dbBad s
  | some r =>
    if ¬ r.st.rings then dbBad s
    else if ¬ seqLater v r.t then
      setQueue q (if r.stopped then { r with stopped := false, retryAt := s.now } else r) s
    else if ringSize r ≤ seqDist v r.c then dbBad s
    else setQueue q { r with t := v, marks := r.marks ++ [(v, s.now)], retryAt := if r.stopped then s.now else r.retryAt,
                             stopped := false } s

/-- Records that a new consumed count passes leave their reservation; a page with none left retires (R80, R422, R534). -/
def consume (n : Nat) (v : BitVec 32) (s : State) : State :=
  let r := ring s n
  let gone := r.kept.filter (fun k => decide (seqDist k.idx r.c < seqDist v r.c))
  let kept := r.kept.filter (fun k => ¬ decide (seqDist k.idx r.c < seqDist v r.c))
  let s := setRing n { r with c := v, kept := kept } s
  let pids := gone.filterMap (·.page)
  pids.foldl (fun s pid =>
    let more := kept.any (fun k => k.page == some pid)
    match page? s pid with
    | some p => if p.stage = .released ∧ ¬ more then retirePage pid s else s
    | none => s) s

/-- A kind-1 doorbell (R71, R80). -/
def ringDoorbell (id : Nat) (v : BitVec 32) (s : State) : State :=
  let n := id % 256
  let r := ring s n
  if 256 ≤ id then dbBad s
  else if ¬ seqLater v r.c ∨ seqLater v r.p then dbBad s
  else
    let s := consume n v s
    reserveFlows ((s.dq.queues.map (·.1)).foldl (fun s q => match queue? s q with
      | some x => if x.ring = n ∧ x.door ≠ 3 then unholdCheck q s else s
      | none => s) s)

/-- A doorbell word, taken whole (R70 to R72, R80). -/
def takeDoorbell (w : Word) (s : State) : State :=
  let s := { s with dq := { s.dq with dbCount := s.dq.dbCount + 1 } }
  let kind := fld w 30 2
  let v := BitVec.ofNat 32 (fld w 32 32)
  if fld w 20 10 ≠ 0 ∨ fld w 16 4 ≠ 0 ∨ 2 ≤ kind then dbBad s
  else if kind = 0 then cmdDoorbell (fld w 0 16) v s
  else ringDoorbell (fld w 0 16) v s

/-- A doorbell word from the host: in LEAVING it is held (R485). -/
def doorbell (w : Word) (s : State) : State :=
  if s.pw.mode = modeLeaving ∨ s.pw.mode = modeDeep then { s with held := s.held ++ [⟨.host, 0, w, 255, []⟩] } else takeDoorbell w s

/-- The doorbell word of kind `k` with its fields. -/
def dbWord (k : Nat) (value : BitVec 32) (resv : BitVec 10) (g3 : BitVec 4) (id : BitVec 16) : Word :=
  place value.toNat 32 32 ||| place k 30 2 ||| place resv.toNat 20 10 ||| place g3.toNat 16 4 ||| place id.toNat 0 16

/-- The 128 bytes of the descriptor with sequence number C (R73, R97). -/
def fetchDesc (s : State) (r : Queue) : Bytes :=
  if r.door = 0 then swBytes s (r.crBase + (r.c.toNat % ringSize r) * 128) 128
  else (List.range 16).flatMap (fun k => leBytes 8 (tabGet s.sf.slots (scanDoor r * 0x200 + (r.c.toNat % 4) * 0x80 + k * 8) 0).toNat)

/-- The start event of a host-door page: the doorbell word whose fetch found the command written (R17). -/
def startMark (s : State) (r : Queue) : BitVec 64 :=
  let first := ((r.marks.find? (fun m => !(seqLater r.c m.1))).map (·.2)).getD s.now
  if first.toNat < r.retryAt.toNat then r.retryAt else first

/-- Opcode of a descriptor. -/
def descOp (d : Bytes) : Nat := leAt d 0 1

/-- An opcode is listed and valid for the queue's door and generation (R76, R91). -/
def opValid (r : Queue) (op : Nat) : Bool :=
  match op with
  | 0 | 2 => true
  | 1 => r.door == 0
  | 3 | 5 => r.gen == 2
  | 4 => r.gen == 2 && (r.door == 1 || r.door == 2)
  | _ => false

/-- A reserved bit of the header, or an operand byte the opcode does not define, is nonzero (R75, R77, R91, R98, R154, R314). -/
def descReserved (r : Queue) (d : Bytes) : Bool :=
  let z := fun o n => leAt d o n != 0
  let head := z 1 1 || leAt d 4 4 != 0 || leAt d 0x0C 4 / 4 != 0 || (r.gen == 1 && leAt d 0x0C 4 / 2 % 2 != 0)
  let op := descOp d
  head ||
  (if op = 1 then
    leAt d 0x10 8 / 2 ^ 33 != 0 || z 0x1D 1 || z 0x2A 0x56 || (r.gen == 1 && z 0x1E 2)
  else if op = 3 then leAt d 0x10 8 / 2 ^ 33 != 0 || leAt d 0x1C 4 / 2 ^ 17 != 0 || z 0x20 0x60
  else if op = 4 then leAt d 0x14 4 / 2 ^ 25 != 0 || z 0x1C 0x64
  else if op = 5 then leAt d 0x10 8 / 2 ^ 33 != 0 || leAt d 0x18 2 / 2 ^ 13 != 0 || z 0x1C 0x64
  else z 0x10 0x70)

/-- Refuse a command: exactly one record carries its code; a refused PAGE's is its page record (R78, R135, R533). -/
def refuseCmd (q : Nat) (seq : BitVec 32) (isPage : Bool) (code : Nat) (s : State) : State :=
  if isPage then
    pushItem q { isCmd := true, isPage := true, cseq := seq, page := none, recs := [pageRec 0xFFFFFFFF seq false code], ready := true,
                 written := 0 } s
  else pushCmdRec q seq code true s

/-- The checks common to every command (R75, R76), then the command becomes the queue's current one. -/
def takeCmd (q : Nat) (r : Queue) (cmd : Cmd) (s : State) : State :=
  let op := descOp cmd.desc
  let s := setQueue q { r with c := r.c + 1, marks := r.marks.filter (fun m => !(seqLater (r.c + 1) m.1)), stopped := false } s
  if ¬ opValid r op then refuseCmd q cmd.seq (op == 1) cVersion s
  else if descReserved r cmd.desc then refuseCmd q cmd.seq (op == 1) cReserved s
  else modQueue q (fun r => { r with cur := some cmd }) s

/-- The command that waits in a queue's flow is taken, if it is the next one and the queue takes commands (R407). An attachment that its opcode
does not carry, and a PROFILE_LOAD with SRC, are refused with RESERVED_NONZERO. -/
def fabricFetch (q : Nat) (r : Queue) (s : State) : State :=
  match (flow s r.sel).wait with
  | none => s
  | some b =>
    let d := b.take 128
    let extra := b.drop 128
    if ¬ r.st.rings ∨ r.cur.isSome ∨ leAt d 8 4 ≠ r.c.toNat then s
    else
      let s := setFlow r.sel { flow s r.sel with wait := none } s
      let op := descOp d
      let wrong := (op != 3 && op != 5 && !extra.isEmpty) || (op == 3 && leAt d 0x10 8 != 0)
      if opValid r op ∧ ¬ descReserved r d ∧ wrong then
        refuseCmd q r.c false cReserved (setQueue q { r with c := r.c + 1, stopped := false } s)
      else takeCmd q r ⟨d, none, r.c, s.now, some extra, Resv.none⟩ s

/-- The device fetches the queue's next command and takes it, or treats it as not yet written (R73 to R76, R86, R87, R367). A PAGE
is not taken in HOLD or STALLED, while its partition drains, or without its reservation; one that R75 refuses needs no reservation. -/
def commandFetch (q : Nat) (s0 : State) : State :=
  let s := holdCheck q s0
  match queue? s q with
  | none => s
  | some r =>
    if r.door = 3 then fabricFetch q r s
    else if ¬ r.st.rings ∨ r.stopped ∨ r.cur.isSome ∨ seqLater r.c r.t then s else
    let d := fetchDesc s r
    if leAt d 8 4 ≠ r.c.toNat ∨ leAt d 2 2 ≠ q then
      let s := setQueue q { r with stopped := true } s
      { s with dq := { s.dq with seqMiss := satAdd s.dq.seqMiss 1 } }
    else
      let page := descOp d == 1 && opValid r 1
      let need := if page && !(descReserved r d) then resvOf s r 0 else Resv.none
      if page ∧ (r.st ≠ .opened ∨ draining s r.part ∨ r2free s < need.total) then s
      else
        let src := leAt d 0x10 8
        let image := if descOp d = 5 ∧ backedRange s src 512 then some (swBytes s src 512) else none
        takeCmd q r ⟨d, image, r.c, startMark s r, none, need⟩ (r2take need.total s)

/-- Every earlier command of the queue has released all its records (R75, R78). -/
def fenceOk (r : Queue) (d : Bytes) : Bool := leAt d 0x0C 1 % 2 == 0 || !(r.items.any (·.isCmd))

/-- The queue's current command, when it has this opcode and its FENCE_BEFORE allows it to start. -/
def current (s : State) (q : Nat) (op : Nat) : Option (Queue × Cmd) :=
  match queue? s q with
  | none => none
  | some r =>
    match r.cur with
    | some c => if descOp c.desc = op ∧ fenceOk r c.desc then some (r, c) else none
    | none => none

/-- The current command is done with. -/
def clearCur (q : Nat) (s : State) : State := modQueue q (fun r => { r with cur := none }) s

/-- NOP writes no record (R76). -/
def doNop (q : Nat) (s : State) : State := match current s q 0 with | some _ => clearCur q s | none => s

/-- FENCE: its command record waits for every earlier command's records (R78). -/
def doFence (q : Nat) (s : State) : State :=
  match current s q 2 with
  | some (_, c) =>
    pushItem q { isCmd := true, isPage := false, cseq := c.seq, page := none, recs := [cmdRec c.seq cOk], ready := false, written := 0,
                 fence := true } (clearCur q s)
  | none => s

/-- The first output item of a queue that is a fence still waiting becomes ready when no command's item stands before it (R78). -/
def fenceComplete (q : Nat) (s : State) : State :=
  modQueue q (fun r =>
    match r.items.findIdx? (fun i => i.isCmd) with
    | some k => { r with items := r.items.modify k (fun i => if i.fence then { i with ready := true } else i) }
    | none => r) s

/-! ### Records -/

/-- Write the next ready record of a ring queue: text, first half, second half; P increments (R79 to R85). -/
def putRecord (q : Nat) (r : Queue) (k : Nat) (i : OutItem) (x : Rec) (s : State) : State :=
  let g := ring s r.ring
  let need := excessNeed s i
  let start := textStart g x.text.length
  let used := textNeed g x.text.length
  let off := if x.text = [] then 0 else r.ring * 0x8000 + start
  let lap := g.p.toNat / 512 % 256
  let (bytes, s) := sendBytes x lap q r (writtenStatus s i x) off s
  let late := overdue s i.page && x.pageEnd
  let before := seqDist g.p g.c
  let th := min 512 (fld g.thresh 0 10)
  let ap := Memory.writeBytes s.mem.ap (0x00900000 + off) x.text
  let ap := Memory.writeBytes ap (0x00100000 + r.ring * 0x8000 + (g.p.toNat % 512) * 64) bytes
  let s := heal .aperture 0 (0x00100000 + r.ring * 0x8000 + (g.p.toNat % 512) * 64) 64
    (heal .aperture 0 (0x00900000 + off) x.text.length (setAp s ap))
  let s := match i.page with
    | some pid => modPage pid (fun p => { p with drawn := p.drawn + need }) (r2take need s)
    | none => s
  let s := setRing r.ring { g with
    p := g.p + 1, pos := if x.text = [] then g.pos else start + x.text.length, run := if x.pageEnd then none else some q,
    kept := g.kept ++ [⟨g.p, bytes, x.text, off, used, i.page⟩] } s
  let s := setQueue q { r with rseq := r.rseq + 1, items := r.items.set k { i with written := i.written + 1 },
                               missed := if late then r.missed + 1 else r.missed } s
  let s := if 0 < th ∧ before < th ∧ th ≤ before + 1 then alert 0 s else s
  if i.written + 1 = i.recs.length then itemDone q k { i with written := i.written + 1 } s else s

/-- RECORD_WRITE: the queue's next ready record goes to its ring, or the queue enters HOLD (R62, R79, R87). -/
def recordWrite (q : Nat) (s : State) : State :=
  match queue? s q with
  | none => s
  | some r =>
    if r.door = 3 then s else
    match nextRec r with
    | none => unholdCheck q s
    | some (k, i, x) =>
      if canWrite s q r i x then unholdCheck q (settleArms q (putRecord q r k i x s)) else holdCheck q s

/-- PAGE_RELEASE: a structured page goes to output once every earlier page of its queue has been released (R15). -/
def pageRelease (pid : BitVec 32) (s : State) : State :=
  match page? s pid with
  | none => s
  | some p =>
    if p.stage ≠ .output then s else
    match queue? s p.queue with
    | none => s
    | some r =>
      let earlier := r.items.takeWhile (fun i => i.page != some pid)
      if earlier.any (fun i => i.isPage && !i.ready) then s
      else holdCheck p.queue (modItem p.queue pid (fun i => { i with ready := true }) s)

/-- DRAIN_TIMEOUT: HOLD for the drain timeout becomes STALLED (R62, R88). -/
def drainTimeout (q : Nat) (s : State) : State :=
  match queue? s q with
  | some r => if r.st = .hold ∧ r.holdSince.toNat + r.drainMs * 1000000 ≤ s.now.toNat then moveQueue q .stalled s else s
  | none => s

/-- A sequence of the queue is out at the Carousel or on its way (R324), or lives at all. -/
def queueSeqs (s : State) (q : Nat) : Bool := s.kv.seqs.any (fun e => e.2.queue == q && e.2.st != .free)

/-- All work of a CLOSING queue has written its records (R62, R324). -/
def drained (s : State) (q : Nat) (r : Queue) : Bool :=
  r.items.isEmpty && r.cur.isNone && !(queueSeqs s q) && !(s.pp.pages.any (fun e => e.2.queue == q && e.2.stage != .released))

/-- Free the jobs of a queue (R372). -/
def freeJobs (q : Nat) (s : State) : State := endJobs (fun j => j.queue == some q) s

/-- QUEUE_CLOSED (R62, R68): CLOSING becomes CLOSED, job slots are free, the close reply is posted. DESIGN CHOICE: a fabric queue's unused
reservations, which no page can use now, are free again (log 73). -/
def queueClosed (q : Nat) (s : State) : State :=
  match queue? s q with
  | none => s
  | some r =>
    if r.st = .closing ∧ drained s q r then
      let s := freeJobs q (moveQueue q .closed s)
      let s := if r.door = 3 then (let x := flow s r.sel; setFlow r.sel { x with wait := none, resv := [] } (r2give ((x.resv.map Resv.total).sum) s)) else s
      let s := if r.door = 1 ∨ r.door = 2 then (let x := door s (scanDoor r); setDoor (scanDoor r) { Door.init with past := x.past, pre := x.pre, cal := x.cal, calOn := x.calOn, calLines := x.calLines } s) else s
      if s.dq.busy = some (.close q) then postReply (reqTag s) cOk 0 0 0 s else s
    else s

/-! ### DQ_ registers -/

/-- TEXT_FREE of a ring (R92). -/
def textFree (r : Ring) : Nat := 0x8000 - textUsed r

/-- Queues not in CLOSED (R92). -/
def openCount (s : State) : Nat := (s.dq.queues.filter (fun e => e.2.st != .closed)).length

/-- Pop one entry of DQ_QEVT (R92). -/
def popQevt (s : State) : Word × State :=
  match s.dq.qevt with
  | w :: r => (w, { s with dq := { s.dq with qevt := r } })
  | [] => (0, s)

/-- Read a DQ_ register; none where no register stands (R92). -/
def dqRead (off : Nat) (s : State) : Option (Word × State) :=
  if off = 0x5000 then some (s.dq.dbCount.setWidth 64, s)
  else if off = 0x5008 then some (s.dq.dbBad.setWidth 64, { s with dq := { s.dq with dbBad := 0 } })
  else if off = 0x5010 then some (s.dq.seqMiss.setWidth 64, { s with dq := { s.dq with seqMiss := 0 } })
  else if off = 0x5018 then some (popQevt s)
  else if off = 0x5020 then some (s.dq.qevtLost.setWidth 64, { s with dq := { s.dq with qevtLost := 0 } })
  else if off = 0x5028 then some (BitVec.ofNat 64 (openCount s), s)
  else if 0x6000 ≤ off ∧ off < 0x6800 then
    let r := ring s ((off - 0x6000) / 8)
    some (place r.p.toNat 32 32 ||| r.thresh, s)
  else if 0x6800 ≤ off ∧ off < 0x7000 then
    let r := ring s ((off - 0x6800) / 8)
    some (place (textFree r) 32 16 ||| r.c.setWidth 64, s)
  else none

/-- Write a DQ_ register (R92, R94): a THRESH above 512 is stored as 512. -/
def dqWrite (off : Nat) (d en : Word) (s : State) : Option State :=
  if 0x6000 ≤ off ∧ off < 0x6800 then
    let n := (off - 0x6000) / 8
    let r := ring s n
    let w := putBits r.thresh d (maskOf 0 32) en
    some (setRing n { r with thresh := if 512 < fld w 0 10 then setFld w 0 10 512 else w } s)
  else match dqRead off s with
    | some _ => some s
    | none => none

/-! ### Meanings -/

def execQueueOpen (r : MboxRec) (s : State) : Host.Outcome State Fault Refusal := run s (hostAct (mboxRow 1 r))
def execQueueClose (r : MboxRec) (s : State) : Host.Outcome State Fault Refusal := run s (hostAct (mboxRow 2 r))
def execQueueQuery (r : MboxRec) (s : State) : Host.Outcome State Fault Refusal := run s (hostAct (mboxRow 3 r))
def execQueueResume (r : MboxRec) (s : State) : Host.Outcome State Fault Refusal := run s (hostAct (mboxRow 4 r))
def execQueueClosed (q : BitVec 16) (s : State) : Host.Outcome State Fault Refusal := run s (queueClosed q.toNat)

def execCommandDoorbell (value : BitVec 32) (resv : BitVec 10) (g3 : BitVec 4) (id : BitVec 16) (s : State) :
    Host.Outcome State Fault Refusal := run s (hostAct (doorbell (dbWord 0 value resv g3 id)))

def execRingConsume (value : BitVec 32) (resv : BitVec 10) (g3 : BitVec 4) (id : BitVec 16) (s : State) :
    Host.Outcome State Fault Refusal := run s (hostAct (doorbell (dbWord 1 value resv g3 id)))

def execCommandFetch (q : BitVec 16) (s : State) : Host.Outcome State Fault Refusal := run s (commandFetch q.toNat)
def execNop (q : BitVec 16) (s : State) : Host.Outcome State Fault Refusal := run s (doNop q.toNat)
def execFence (q : BitVec 16) (s : State) : Host.Outcome State Fault Refusal := run s (doFence q.toNat)
def execFenceComplete (q : BitVec 16) (s : State) : Host.Outcome State Fault Refusal := run s (fenceComplete q.toNat)
def execRecordWrite (q : BitVec 16) (s : State) : Host.Outcome State Fault Refusal := run s (recordWrite q.toNat)
def execPageRelease (pid : BitVec 32) (s : State) : Host.Outcome State Fault Refusal := run s (pageRelease pid)
def execDrainTimeout (q : BitVec 16) (s : State) : Host.Outcome State Fault Refusal := run s (drainTimeout q.toNat)

/-- A read of DQ_QEVT by any source pops one entry (R92). -/
def execQevtPop (src : Src) (s : State) : Host.Outcome State Fault Refusal := run s (popBy src popQevt)

end Sys2Proof.Machine
end

