-- ==== Sys2Proof/Machine/Engines.lean ====
section
/-! DEFINITION. The shared engines (13, R383 to R385): the grant cycle and who is served next. Engines 0 to 3 are the preparation pairs, 4
and 5 the KV walkers of depots 0 and 1, 6 and 7 their codecs, 8 to 11 and 12 to 15 their haulers. -/

namespace Sys2Proof.Machine

/-- The positions of the valid partitions (R384): partition, residue, period; ascending period, then partition. -/
def cycleOf (parts : List (Nat × Nat)) : List (Nat × Nat × Nat) :=
  let ps := (parts.filter (fun e => e.2 != 0)).map (fun e => (e.1, grantPeriod e.2))
  let order := ((List.range 11).map (2 ^ ·)).flatMap (fun p => (List.range 16).flatMap (fun k => ps.filter (fun e => e.2 == p && e.1 == k)))
  order.foldl (fun acc e =>
    match (List.range e.2).find? (fun o => acc.all (fun a => o % a.2.2 != a.2.1)) with
    | some o => acc ++ [(e.1, o, e.2)]
    | none => acc) []

/-- The owner of a position, none when it is free (R384). -/
def cycleOwner (s : State) (pos : Nat) : Option Nat :=
  ((cycleOf (s.si.conf.parts.map (fun e => (e.1, e.2.share)))).find? (fun a => pos % a.2.2 == a.2.1)).map (·.1)

/-- A shared engine (R383). -/
def engine (s : State) (e : Nat) : Engine := tabGet s.rm.engines e Engine.init

/-- Replace a shared engine. -/
def setEngine (e : Nat) (x : Engine) (s : State) : State := { s with rm := { s.rm with engines := tabSet s.rm.engines e x } }

/-- The partition whose waiting unit an engine serves next, and the engine after (R384). Share 0 is never served. -/
def grantPick (s : State) (e : Nat) (waiting : List Nat) : Option (Nat × Engine) :=
  let x := engine s e
  let may := fun p => waiting.contains p && decide (((part? s p).map (·.share)).getD 0 ≠ 0)
  let next := (x.pos + 1) % 1024
  match (cycleOwner s x.pos).bind (fun p => if may p then some p else none) with
  | some p => some (p, { x with pos := next })
  | none =>
    match ((List.range 16).map (fun i => (x.lastRr + 1 + i) % 16)).find? may with
    | some p => some (p, { x with pos := next, lastRr := p })
    | none => none

/-! ### Preparation pairs -/

/-- A preparation pair works on no page. -/
def pairIdle (s : State) (e : Nat) : Bool := !(s.pp.pages.any (fun x => x.2.stage == .prep && x.2.pair == some e))

/-- Pages that wait for a preparation pair. -/
def pairless (s : State) : List Page := (s.pp.pages.map (·.2)).filter (fun p => p.stage == .prep && p.pair.isNone)

/-- An idle preparation pair takes the oldest waiting page of the partition that its cycle picks (R132, R384). -/
def grantPair (e : Nat) (s : State) : State :=
  let ws := pairless s
  if pairIdle s e then
    match grantPick s e (ws.map (·.part)) with
    | none => s
    | some (p, x) =>
      match ws.filter (fun w => w.part == p) with
      | [] => s
      | w :: r =>
        let o := r.foldl (fun (o : Page) w => if seqLater o.id w.id then w else o) w
        modPage o.id (fun g => { g with pair := some e }) (setEngine e x s)
  else s

/-- Every idle pair takes a waiting page at once (R385). -/
def grantPairs (s : State) : State := [0, 1, 2, 3].foldl (fun s e => grantPair e s) s

/-! ### Codecs and haulers -/

/-- The depot that a codec or hauler command names, and whether it is a hauler's. -/
def EngineCmd.depot (c : EngineCmd) : Nat := fld (nth c.words 0 0) (if c.hauler then 5 else 1) 1

/-- The range of its depot's staging window that a command writes, as offset and length, if it does (R287, R347). -/
def EngineCmd.stgOut (c : EngineCmd) : Option (Nat × Nat) :=
  let w := fun i => nth c.words i 0
  if c.hauler then (if fld (w 0) 3 2 = 1 then some (fld (w 2) 0 48, fld (w 3) 0 32) else none)
  else if fld (w 0) 0 1 = 1 then some (fld (w 1) 0 26 / 256 * 256, fld (w 0) 16 16 * fld (w 0) 48 16 * 256)
  else none

/-- The engine can run the command: its depot's codec, or one of its depot's haulers. -/
def EngineCmd.fits (c : EngineCmd) (e : Nat) : Bool := if c.hauler then e / 4 == 2 + c.depot else e == 6 + c.depot

/-- An idle codec or hauler takes the oldest waiting command of the partition that its cycle picks (R384), none of a partition that a load
writes (R367). -/
def grantCmd (e : Nat) (s : State) : State :=
  if s.dm.cmds.any (fun c => c.engine == some e) then s
  else
    let waits := fun (c : EngineCmd) => c.engine.isNone && c.fits e && !(applying s c.part)
    match grantPick s e ((s.dm.cmds.filter waits).map (·.part)) with
    | none => s
    | some (p, x) =>
      let i := s.dm.cmds.findIdx (fun c => waits c && c.part == p)
      setEngine e x { s with dm := { s.dm with cmds := updWith s.dm.cmds i (fun c => { c with engine := some e }) } }

/-- Every idle codec and hauler takes a waiting command at once (R385). -/
def grantCmds (s : State) : State := ((List.range 10).map (6 + ·)).foldl (fun s e => grantCmd e s) s

end Sys2Proof.Machine
end

