-- ==== Sys2Proof/Machine/Imaging.lean ====
section
/-! DEFINITION. Images of page preparation (05): raw and T.6 decoding, JPEG markers, crop, resize, deskew, turns, tiles, line
cut-out and packing. -/

namespace Sys2Proof.Machine

/-- A pixel of an image; outside it `d`. -/
def pixel (im : Image) (x y : Int) (d : Nat) : Nat :=
  if x < 0 ∨ y < 0 ∨ (im.w : Int) ≤ x ∨ (im.h : Int) ≤ y then d
  else (nth (nth im.rows y.toNat []) x.toNat 0).toNat

/-- A pixel of an image; outside it the nearest pixel on the image's edge. -/
def pixelEdge (im : Image) (x y : Int) : Nat :=
  pixel im (max 0 (min x (im.w - 1))) (max 0 (min y (im.h - 1))) 0

/-- Sample an image at a position in 1/256 pixel with four integer weights (R147). -/
def sample (get : Int → Int → Nat) (p q : Int) : Nat :=
  let i := Int.fdiv p 256
  let j := Int.fdiv q 256
  let f := (p - 256 * i).toNat
  let g := (q - 256 * j).toNat
  rneNat ((256 - f) * (256 - g) * get i j + f * (256 - g) * get (i + 1) j + (256 - f) * g * get i (j + 1)
    + f * g * get (i + 1) (j + 1)) 65536

/-- An image from a function of column and row. -/
def tabulate (w h : Nat) (f : Nat → Nat → Nat) : Image :=
  ⟨w, h, (List.range h).map (fun y => (List.range w).map (fun x => BitVec.ofNat 8 (f x y)))⟩

/-- A row of background. -/
def bgRow (w : Nat) (bg : Byte) : Bytes := List.replicate w bg

/-- What decoding gives: the image at its claimed size, and whether data ended early or were wrong (R143). -/
structure Decoded where
  im : Image
  short : Bool

/-- Packed row size of a raw format (R138). -/
def packedRow (fmt w : Nat) : Nat := if fmt = 1 then (w + 7) / 8 else w

/-- Decode a raw page: rows that are not present are background (R138, R143). -/
def decodeRaw (fmt w h stride len : Nat) (src : Nat → Byte) (bg : Byte) : Decoded :=
  let pr := packedRow fmt w
  let st := if stride = 0 then pr else stride
  let there := fun r => decide (r * st + pr ≤ len)
  let row := fun r => if there r then
      (List.range w).map (fun x =>
        if fmt = 1 then (if (src (r * st + x / 8)).getLsbD (7 - x % 8) then 0 else 255) else src (r * st + x))
    else bgRow w bg
  ⟨⟨w, h, (List.range h).map row⟩, decide (∃ r ∈ List.range h, there r = false)⟩

/-- White terminating codes of ITU-T T.4, run 0 to 63, each with a leading 1 bit (R139). -/
def t6WhiteTerm : List Nat :=
  [0b100110101, 0b1000111, 0b10111, 0b11000, 0b11011, 0b11100, 0b11110, 0b11111] ++
  [0b110011, 0b110100, 0b100111, 0b101000, 0b1001000, 0b1000011, 0b1110100, 0b1110101] ++
  [0b1101010, 0b1101011, 0b10100111, 0b10001100, 0b10001000, 0b10010111, 0b10000011, 0b10000100] ++
  [0b10101000, 0b10101011, 0b10010011, 0b10100100, 0b10011000, 0b100000010, 0b100000011, 0b100011010] ++
  [0b100011011, 0b100010010, 0b100010011, 0b100010100, 0b100010101, 0b100010110, 0b100010111, 0b100101000] ++
  [0b100101001, 0b100101010, 0b100101011, 0b100101100, 0b100101101, 0b100000100, 0b100000101, 0b100001010] ++
  [0b100001011, 0b101010010, 0b101010011, 0b101010100, 0b101010101, 0b100100100, 0b100100101, 0b101011000] ++
  [0b101011001, 0b101011010, 0b101011011, 0b101001010, 0b101001011, 0b100110010, 0b100110011, 0b100110100]

/-- White make-up codes, runs 64 to 1,728 in steps of 64. -/
def t6WhiteMake : List Nat :=
  [0b111011, 0b110010, 0b1010111, 0b10110111, 0b100110110, 0b100110111, 0b101100100, 0b101100101] ++
  [0b101101000, 0b101100111, 0b1011001100, 0b1011001101, 0b1011010010, 0b1011010011, 0b1011010100, 0b1011010101] ++
  [0b1011010110, 0b1011010111, 0b1011011000, 0b1011011001, 0b1011011010, 0b1011011011, 0b1010011000, 0b1010011001] ++
  [0b1010011010, 0b1011000, 0b1010011011]

/-- Black terminating codes, run 0 to 63. -/
def t6BlackTerm : List Nat :=
  [0b10000110111, 0b1010, 0b111, 0b110, 0b1011, 0b10011, 0b10010, 0b100011] ++
  [0b1000101, 0b1000100, 0b10000100, 0b10000101, 0b10000111, 0b100000100, 0b100000111, 0b1000011000] ++
  [0b10000010111, 0b10000011000, 0b10000001000, 0b100001100111, 0b100001101000, 0b100001101100, 0b100000110111, 0b100000101000] ++
  [0b100000010111, 0b100000011000, 0b1000011001010, 0b1000011001011, 0b1000011001100, 0b1000011001101, 0b1000001101000, 0b1000001101001] ++
  [0b1000001101010, 0b1000001101011, 0b1000011010010, 0b1000011010011, 0b1000011010100, 0b1000011010101, 0b1000011010110, 0b1000011010111] ++
  [0b1000001101100, 0b1000001101101, 0b1000011011010, 0b1000011011011, 0b1000001010100, 0b1000001010101, 0b1000001010110, 0b1000001010111] ++
  [0b1000001100100, 0b1000001100101, 0b1000001010010, 0b1000001010011, 0b1000000100100, 0b1000000110111, 0b1000000111000, 0b1000000100111] ++
  [0b1000000101000, 0b1000001011000, 0b1000001011001, 0b1000000101011, 0b1000000101100, 0b1000001011010, 0b1000001100110, 0b1000001100111]

/-- Black make-up codes, runs 64 to 1,728 in steps of 64. -/
def t6BlackMake : List Nat :=
  [0b10000001111, 0b1000011001000, 0b1000011001001, 0b1000001011011, 0b1000000110011, 0b1000000110100, 0b1000000110101, 0b10000001101100] ++
  [0b10000001101101, 0b10000001001010, 0b10000001001011, 0b10000001001100, 0b10000001001101, 0b10000001110010, 0b10000001110011, 0b10000001110100] ++
  [0b10000001110101, 0b10000001110110, 0b10000001110111, 0b10000001010010, 0b10000001010011, 0b10000001010100, 0b10000001010101, 0b10000001011010] ++
  [0b10000001011011, 0b10000001100100, 0b10000001100101]

/-- Make-up codes of both colours, runs 1,792 to 2,560 in steps of 64. -/
def t6Ext : List Nat :=
  [0b100000001000, 0b100000001100, 0b100000001101, 0b1000000010010, 0b1000000010011, 0b1000000010100, 0b1000000010101, 0b1000000010110] ++
  [0b1000000010111, 0b1000000011100, 0b1000000011101, 0b1000000011110, 0b1000000011111]

/-- Index of a value in a list. -/
def indexOf? (l : List Nat) (v : Nat) : Option Nat := (l.findIdx? (· == v))

/-- Run length that a code with a leading 1 bit stands for, and whether it terminates the run. -/
def t6Run (white : Bool) (code : Nat) : Option (Nat × Bool) :=
  match indexOf? (if white then t6WhiteTerm else t6BlackTerm) code with
  | some i => some (i, true)
  | none =>
    match indexOf? (if white then t6WhiteMake else t6BlackMake) code with
    | some i => some (64 * (i + 1), false)
    | none => (indexOf? t6Ext code).map (fun i => (1792 + 64 * i, false))

/-- Bit `i` of a byte string, most significant first (R139). -/
def t6Bit (src : Nat → Byte) (len i : Nat) : Option Bool :=
  if i / 8 < len then some ((src (i / 8)).getLsbD (7 - i % 8)) else none

/-- Read one code of at most `fuel` bits whose value satisfies `f`. -/
def t6Code {α : Type} (src : Nat → Byte) (len : Nat) (f : Nat → Option α) : Nat → Nat → Nat → Option (α × Nat)
  | 0, _, _ => none
  | fuel + 1, pos, code =>
    match t6Bit src len pos with
    | none => none
    | some b =>
      let code := code * 2 + (if b then 1 else 0)
      match f code with
      | some r => some (r, pos + 1)
      | none => t6Code src len f fuel (pos + 1) code

/-- A run of one colour: make-up codes, then a terminating code (R139). -/
def t6RunLen (src : Nat → Byte) (len : Nat) (white : Bool) : Nat → Nat → Nat → Option (Nat × Nat)
  | 0, _, _ => none
  | fuel + 1, pos, acc =>
    match t6Code src len (t6Run white) 13 pos 1 with
    | none => none
    | some ((n, term), pos) => if term then some (acc + n, pos) else t6RunLen src len white fuel pos (acc + n)

/-- Two-dimensional modes of T.6: pass, horizontal, vertical with its offset. -/
inductive T6Mode where
  | pass | horiz | vert (d : Int)

/-- The mode a code with a leading 1 bit names. -/
def t6Mode : Nat → Option T6Mode
  | 0b11 => some (.vert 0) | 0b1011 => some (.vert 1) | 0b1010 => some (.vert (-1)) | 0b1001 => some .horiz
  | 0b10001 => some .pass | 0b1000011 => some (.vert 2) | 0b1000010 => some (.vert (-2))
  | 0b10000011 => some (.vert 3) | 0b10000010 => some (.vert (-3)) | _ => none

/-- b1 and b2 of a reference row's changing elements: the first of the right colour beyond a0, and the one after it. -/
def t6B (ref : List Nat) (a0 : Int) (white : Bool) (w : Nat) : Nat × Nat :=
  let cand := (List.range ref.length).filter (fun i => decide (a0 < (nth ref i 0 : Int)) && (i % 2 == (if white then 0 else 1)))
  match cand with
  | i :: _ => (nth ref i w, nth ref (i + 1) w)
  | [] => (w, w)

/-- One row: its changing elements and the next bit position; none on a decoding error (R139). -/
def t6Row (src : Nat → Byte) (len w : Nat) (ref : List Nat) : Nat → Nat → Int → Bool → List Nat → Option (List Nat × Nat)
  | 0, _, _, _, _ => none
  | fuel + 1, pos, a0, white, out =>
    if (w : Int) ≤ a0 then some (out, pos) else
    match t6Code src len t6Mode 7 pos 1 with
    | none => none
    | some (m, pos) =>
      let (b1, b2) := t6B ref a0 white w
      match m with
      | .pass => t6Row src len w ref fuel pos b2 white out
      | .vert d =>
        let a1 := (b1 : Int) + d
        if a1 ≤ a0 ∨ a1 < 0 ∨ (w : Int) < a1 then none
        else t6Row src len w ref fuel pos a1 (!white) (out ++ [a1.toNat])
      | .horiz =>
        match t6RunLen src len white 64 pos 0 with
        | none => none
        | some (r1, pos) =>
          match t6RunLen src len (!white) 64 pos 0 with
          | none => none
          | some (r2, pos) =>
            let a1 := max a0 0 + r1
            let a2 := a1 + r2
            if a1 ≤ a0 ∨ a2 ≤ a0 ∨ (w : Int) < a2 then none
            else t6Row src len w ref fuel pos a2 white (out ++ [a1.toNat, a2.toNat])

/-- Pixels of a row from its changing elements: white 255, black 0, white first (R139). -/
def t6Pixels (w : Nat) (ch : List Nat) : Bytes :=
  (List.range w).map (fun x => if (ch.filter (fun c => decide (c ≤ x))).length % 2 = 0 then 255 else 0)

/-- EOFB stands at a bit position (R139). -/
def t6Eofb (src : Nat → Byte) (len pos : Nat) : Bool :=
  (List.range 24).all (fun i => t6Bit src len (pos + i) == some (i == 11 || i == 23))

/-- Rows of a T.6 page until its height, EOFB or a decoding error. -/
def t6Rows (src : Nat → Byte) (len w : Nat) : Nat → Nat → List Nat → List Bytes
  | 0, _, _ => []
  | rows + 1, pos, ref =>
    if t6Eofb src len pos then [] else
    match t6Row src len w ref (2 * w + 2) pos (-1) true [] with
    | none => []
    | some (ch, pos) => t6Pixels w ch :: t6Rows src len w rows pos ch

/-- Decode a T.6 page; rows from the end or the error on are background (R139, R143). -/
def decodeT6 (w h len : Nat) (src : Nat → Byte) (bg : Byte) : Decoded :=
  let rows := t6Rows src len w h 0 []
  ⟨⟨w, h, rows ++ List.replicate (h - rows.length) (bgRow w bg)⟩, decide (rows.length < h)⟩

/-- A component of a JPEG frame: identifier, sampling factors, quantisation table. -/
structure JComp where
  id : Nat
  hs : Nat
  vs : Nat
  tq : Nat
  deriving DecidableEq, Repr

/-- What the markers before the scan give (R140): size, components, quantisation and Huffman tables, restart interval, where the
scan header starts. -/
structure JHead where
  w : Nat
  h : Nat
  comps : List JComp
  dqt : List (Nat × List Nat)
  dht : List (Nat × (List Nat × List Nat))
  dri : Nat
  sos : Nat
  frames : Nat
  adobe0 : Bool
  deriving DecidableEq, Repr

/-- Big-endian 16-bit number of a JPEG segment. -/
def be16 (src : Nat → Byte) (i : Nat) : Nat := (src i).toNat * 256 + (src (i + 1)).toNat

/-- Quantisation tables of a DQT segment; none if it is too short or has 16-bit entries, which baseline does not use. -/
def jDqt (src : Nat → Byte) : Nat → Nat → Nat → List (Nat × List Nat) → Option (List (Nat × List Nat))
  | 0, _, _, _ => none
  | fuel + 1, i, stop, acc =>
    if i = stop then some acc
    else if stop < i + 65 ∨ 16 ≤ (src i).toNat then none
    else jDqt src fuel (i + 65) stop (tabSet acc (src i).toNat ((List.range 64).map (fun k => (src (i + 1 + k)).toNat)))

/-- Huffman tables of a DHT segment: counts of each code length and values, by class and identifier. -/
def jDht (src : Nat → Byte) : Nat → Nat → Nat → List (Nat × (List Nat × List Nat)) → Option (List (Nat × (List Nat × List Nat)))
  | 0, _, _, _ => none
  | fuel + 1, i, stop, acc =>
    if i = stop then some acc
    else if stop < i + 17 then none
    else
      let counts := (List.range 16).map (fun k => (src (i + 1 + k)).toNat)
      let n := counts.sum
      if stop < i + 17 + n then none
      else jDht src fuel (i + 17 + n) stop (tabSet acc (src i).toNat (counts, (List.range n).map (fun k => (src (i + 17 + k)).toNat)))

/-- The marker walk from SOI to the first SOS (R140): each marker at once after the previous segment, each segment within the
data and long enough; none when the structure or the frame is not supported. RSTn and TEM have no length field and are passed over; 0xFF00 is
no marker. With `part` the data go on beyond `len`: the walk then needs no more than the SOF0 (R404). -/
def jWalk (part : Bool) (src : Nat → Byte) (len : Nat) : Nat → Nat → JHead → Option JHead
  | 0, _, _ => none
  | fuel + 1, i, h =>
    let runsOut := if part ∧ 1 ≤ h.frames then some h else none
    if len ≤ i ∨ (len = i + 1 ∧ src i = 0xFF) then runsOut
    else if src i ≠ 0xFF then none
    else
      let m := (src (i + 1)).toNat
      if m = 0xFF then jWalk part src len fuel (i + 1) h
      else if m = 0 then none
      else if m = 1 ∨ (0xD0 ≤ m ∧ m ≤ 0xD7) then jWalk part src len fuel (i + 2) h
      else
        let i := i + 2
        if len < i + 2 then runsOut else
        let n := be16 src i
        if n < 2 then none else
        if len < i + n then runsOut else
        if m = 0xDA then (if n < 3 ∨ n < 6 + 2 * (src (i + 2)).toNat then none else some { h with sos := i })
        else if m = 0xC0 then
          let nc := (src (i + 7)).toNat
          if n < 8 ∨ n ≠ 8 + 3 * nc ∨ src (i + 2) ≠ 8 then none else
          let comps := (List.range nc).map (fun k =>
            let b := i + 8 + 3 * k
            (⟨(src b).toNat, (src (b + 1)).toNat / 16, (src (b + 1)).toNat % 16, (src (b + 2)).toNat⟩ : JComp))
          jWalk part src len fuel (i + n) { h with h := be16 src (i + 3), w := be16 src (i + 5), comps := comps, frames := h.frames + 1 }
        else if 0xC1 ≤ m ∧ m ≤ 0xCF ∧ m ≠ 0xC4 ∧ m ≠ 0xC8 ∧ m ≠ 0xCC then none
        else if m = 0xDB then
          match jDqt src n (i + 2) (i + n) h.dqt with
          | some t => jWalk part src len fuel (i + n) { h with dqt := t }
          | none => none
        else if m = 0xC4 then
          match jDht src n (i + 2) (i + n) h.dht with
          | some t => jWalk part src len fuel (i + n) { h with dht := t }
          | none => none
        else if m = 0xDD then
          if n < 4 then none else jWalk part src len fuel (i + n) { h with dri := be16 src (i + 2) }
        else if m = 0xEE then
          let ad := decide (14 ≤ n) && decide ((List.range 5).map (fun k => (src (i + 2 + k)).toNat) = [65, 100, 111, 98, 101]) &&
            src (i + 13) == 0
          jWalk part src len fuel (i + n) { h with adobe0 := h.adobe0 || ad }
        else if m = 0xD8 ∨ m = 0xD9 then none
        else jWalk part src len fuel (i + n) h

/-- The supported frames: one component, or three with chroma at 1×1; one SOF0; no colour transform 0 in three (R140). -/
def jpgOk (h : JHead) : Bool :=
  let y := nth h.comps 0 ⟨0, 0, 0, 0⟩
  h.frames == 1 && (h.comps.length == 1 || (h.comps.length == 3 && !h.adobe0 &&
    (h.comps.drop 1).all (fun c => c.hs == 1 && c.vs == 1))) && (y.hs == 1 || y.hs == 2) && (y.vs == 1 || y.vs == 2)

/-- The header of a JPEG page, none where check 4 of R134 fails; with `part` as far as the first frame's bytes show it (R404). -/
def jHead (part : Bool) (src : Nat → Byte) (len : Nat) : Option JHead :=
  if len < 4 ∨ src 0 ≠ 0xFF ∨ src 1 ≠ 0xD8 then none else
  match jWalk part src len len 2 ⟨0, 0, [], [], [], 0, 0, 0, false⟩ with
  | some h => if jpgOk h then some h else none
  | none => none

/-- Crop to a box, right and bottom exclusive. -/
def crop (im : Image) (x0 y0 x1 y1 : Nat) : Image :=
  ⟨x1 - x0, y1 - y0, ((im.rows.drop y0).take (y1 - y0)).map (fun r => (r.drop x0).take (x1 - x0))⟩

/-- The crop box of a page with a frame (R148). -/
def cropBox (f : Frame) (yavg margin : Nat) : Nat × Nat × Nat × Nat :=
  (f.left - margin, f.lead / yavg - margin, min (f.right + margin) f.width, min (f.trail / yavg + 1 + margin) f.lines)

/-- Output size of an axis: n source pixels at resolution d (a fraction) to target t (R149). -/
def resized (n t : Nat) (dn dd : Nat) : Nat := max 1 (n * t * dd / dn)

/-- Box-averaging factor of an axis (R149). -/
def boxK (t dn dd : Nat) : Nat := if 2 * t * dd ≤ dn then dn / (t * dd) else 1

/-- Resize: box average where the source is twice the target or more, then sample each axis at its centres (R149). -/
def resize (im : Image) (t : Nat) (dx dy : Nat × Nat) : Image :=
  let kx := boxK t dx.1 dx.2
  let ky := boxK t dy.1 dy.2
  let m := resized im.w t dx.1 dx.2
  let mh := resized im.h t dy.1 dy.2
  let avg : Image := if kx = 1 ∧ ky = 1 then im else tabulate (im.w / kx) (im.h / ky) (fun x y =>
    rneNat (((List.range ky).map (fun b => ((List.range kx).map (fun a =>
      pixel im (x * kx + a : Nat) (y * ky + b : Nat) 0)).sum)).sum) (kx * ky))
  let sameX := dx.1 = t * dx.2
  let sameY := dy.1 = t * dy.2
  if sameX ∧ sameY then im else
  let pos := fun (n m u : Nat) => rneInt (128 * ((2 * u + 1) * n - m : Int)) m
  tabulate m mh (fun u v => sample (pixelEdge avg)
    (if sameX then 256 * (u : Int) else pos avg.w m u) (if sameY then 256 * (v : Int) else pos avg.h mh v))

/-- Nearest integer, ties to even, of num / √den for naturals: the search of R150's exact value below `fuel`. -/
def rneSqrt (num den : Nat) : Nat :=
  let n := Nat.sqrt (num * num / den)
  let up := (2 * n + 1) * (2 * n + 1) * den
  let v := 4 * num * num
  if v < up then n else if up < v then n + 1 else if n % 2 = 0 then n else n + 1

/-- c16 and s16 of R150 for slope a / b, b positive. -/
def skewCoef (a : Int) (b : Nat) : Int × Int :=
  let den := a.natAbs * a.natAbs + b * b
  let c := rneSqrt (65536 * b) den
  let s := rneSqrt (65536 * a.natAbs) den
  (c, if a < 0 then -(s : Int) else s)

/-- Deskew by a slope; corners from outside take background (R150). -/
def deskew (im : Image) (a : Int) (b : Nat) (bg : Nat) : Image :=
  let (c, s) := skewCoef a b
  tabulate im.w im.h (fun u v =>
    let du : Int := 2 * u + 1 - im.w
    let dv : Int := 2 * v + 1 - im.h
    sample (fun x y => pixel im x y bg) (128 * ((im.w : Int) - 1) + rneInt (c * du - s * dv) 512)
      (128 * ((im.h : Int) - 1) + rneInt (s * du + c * dv) 512))

/-- Mirror left to right (R151). -/
def flipX (im : Image) : Image := ⟨im.w, im.h, im.rows.map List.reverse⟩

/-- Turn clockwise by quarter turns (R151). -/
def turn (im : Image) (k : Nat) : Image :=
  match k with
  | 1 => tabulate im.h im.w (fun x y => pixel im y (im.h - 1 - x : Nat) 0)
  | 2 => tabulate im.w im.h (fun x y => pixel im (im.w - 1 - x : Nat) (im.h - 1 - y : Nat) 0)
  | 3 => tabulate im.h im.w (fun x y => pixel im (im.w - 1 - y : Nat) x 0)
  | _ => im

/-- A list cut into `k` pieces of `n` elements. -/
def chunks {α : Type} (n : Nat) : Nat → List α → List (List α)
  | 0, _ => []
  | k + 1, l => l.take n :: chunks n k (l.drop n)

/-- The row of tiles that holds rows 64j to 64j + 63 of an image: tile after tile, each row-major, edge pixels `bg` (R152). -/
def tileRow (im : Image) (bg : Byte) (j : Nat) : Bytes :=
  let tw := ceilDiv im.w 64
  let rows := (List.range 64).map (fun y => let r := (im.rows[64 * j + y]?).getD []
    chunks 64 tw (r ++ List.replicate (tw * 64 - r.length) bg))
  (List.range tw).flatMap (fun i => rows.flatMap (fun r => nth r i []))

/-- Bytes of the tile layout of a whole image (R152). -/
def tileLayout (im : Image) (bg : Byte) : Bytes := (List.range (ceilDiv im.h 64)).flatMap (tileRow im bg)

/-- Stripe j of an image holds nothing but background (R145). -/
def bgStripe (im : Image) (bg : Byte) (j : Nat) : Bool := ((im.rows.drop (64 * j)).take 64).all (fun r => r.all (· == bg))

/-- Stripe j as it is stored: its row of tiles, or none when it is mapped to the background stripe (R145, R152). -/
def storedStripe (im : Image) (bg : Byte) (j : Nat) : Option Bytes := if bgStripe im bg j then none else some (tileRow im bg j)

/-- The 64 pixel rows that a row of tiles holds (R152). -/
def untile (w : Nat) (bg : Byte) (b : Option Bytes) : List Bytes :=
  match b with
  | none => List.replicate 64 (bgRow w bg)
  | some b =>
    let tiles := (chunks 4096 (ceilDiv w 64) b).map (chunks 64 64)
    (List.range 64).map (fun y => ((tiles.map (fun t => nth t y [])).flatten).take w)

/-- The image that a prepared page holds (R152). -/
def Prepared.image (p : Prepared) : Image := ⟨p.w, p.h, (p.stripes.flatMap (untile p.w p.bg)).take p.h⟩

/-- Normalised width of a line and whether it is squeezed (R160). -/
def normWidth (w h lineH rowW gap : Nat) : Nat × Bool :=
  let wl := max 1 (rneNat (w * lineH) h)
  if rowW - 2 * gap < wl then (rowW - 2 * gap, true) else (wl, false)

/-- Width and height of a box for R160: a zero counts as 1. -/
def boxSize (b : Box) : Nat × Nat := (max 1 (b.x1.toNat - b.x0.toNat), max 1 (b.y1.toNat - b.y0.toNat))

/-- The normalised line image of a box (R160). -/
def cutLine (im : Image) (b : Box) (wl lineH bg : Nat) : Image :=
  let (w, h) := boxSize b
  tabulate wl lineH (fun u v => sample (fun x y => pixel im x y bg)
    (256 * (b.x0.toNat : Int) + rneInt (128 * ((2 * u + 1) * w - wl : Int)) wl)
    (256 * (b.y0.toNat : Int) + rneInt (128 * ((2 * v + 1) * h - lineH : Int)) lineH))

/-- Where each line goes: row, first column, wl, squeezed, in ascending line index (R161). -/
def placeLines (rowW lineH gap : Nat) : List Box → Nat → Nat → Nat → List (Nat × Nat × Nat × Bool)
  | [], _, _, _ => []
  | b :: bs, row, x, cnt =>
    let (w, h) := boxSize b
    let (wl, sq) := normWidth w h lineH rowW gap
    if x + wl + gap ≤ rowW ∧ cnt < 255 then (row, x, wl, sq) :: placeLines rowW lineH gap bs row (x + wl + gap) (cnt + 1)
    else (row + 1, gap, wl, sq) :: placeLines rowW lineH gap bs (row + 1) (gap + wl + gap) 1

/-- The bytes of a packed row: header, pixel plane, mask, segment table (R162). -/
def packedBytes (pid idx : Nat) (px : List Bytes) (mask : Bytes) (segs : List (Nat × Nat × Nat × Bool × Bool)) : Bytes :=
  leBytes 16 (pid + idx * 2 ^ 32 + segs.length * 2 ^ 48) ++ px.flatten ++ mask ++
    (List.range 255).flatMap (fun k => match segs[k]? with
      | some (line, x, wl, sq, bad) => leBytes 8 (line + x * 2 ^ 16 + wl * 2 ^ 32 + (if sq then 2 ^ 48 else 0) + (if bad then 2 ^ 49 else 0))
      | none => leBytes 8 0)

end Sys2Proof.Machine
end

