-- ==== Sys2Proof/Machine/Jpeg.lean ====
section
/-! DEFINITION. Baseline JPEG decoding of the Y component (R140, R141, R143, R144). -/

namespace Sys2Proof.Machine

/-- FP32 values nearest to cos(mπ/16) / 2 for m = 0 to 31 (R141). -/
def cosTab : List (BitVec 32) :=
  [0x3F000000, 0x3EFB14BE, 0x3EEC835E, 0x3ED4DB31, 0x3EB504F3, 0x3E8E39DA, 0x3E43EF15, 0x3DC7C5C2] ++
  [0x00000000, 0xBDC7C5C2, 0xBE43EF15, 0xBE8E39DA, 0xBEB504F3, 0xBED4DB31, 0xBEEC835E, 0xBEFB14BE] ++
  [0xBF000000, 0xBEFB14BE, 0xBEEC835E, 0xBED4DB31, 0xBEB504F3, 0xBE8E39DA, 0xBE43EF15, 0xBDC7C5C2] ++
  [0x00000000, 0x3DC7C5C2, 0x3E43EF15, 0x3E8E39DA, 0x3EB504F3, 0x3ED4DB31, 0x3EEC835E, 0x3EFB14BE]

/-- C(u, x) of R141. -/
def dctC (u x : Nat) : BitVec 32 := if u = 0 then 0x3EB504F3 else nth cosTab ((2 * x + 1) * u % 32) 0

/-- One-dimensional inverse DCT of eight FP32 values (R141). -/
def idct1 (v : List (BitVec 32)) : List (BitVec 32) :=
  (List.range 8).map (fun x => (List.range 7).foldl (fun s i => f32add s (f32mul (nth v (i + 1) 0) (dctC (i + 1) x)))
    (f32mul (nth v 0 0) (dctC 0 x)))

/-- A block of 64 dequantised coefficients in row order to 64 samples (R141). -/
def idct (co : List Int) : List Nat :=
  let rows := (List.range 8).map (fun y => idct1 ((List.range 8).map (fun x => f32int (nth co (y * 8 + x) 0))))
  let cols := (List.range 8).map (fun x => idct1 ((List.range 8).map (fun y => nth (nth rows y []) x 0)))
  (List.range 64).map (fun i =>
    clampNat (Fv.rneInt (Fv.add (f32 (nth (nth cols (i % 8) []) (i / 8) 0)) (.fin false 128 0))) 255)

/-- Position in row order of the k-th coefficient of the zigzag. -/
def zigzag : List Nat :=
  [0, 1, 8, 16, 9, 2, 3, 10, 17, 24, 32, 25, 18, 11, 4, 5] ++ [12, 19, 26, 33, 40, 48, 41, 34, 27, 20, 13, 6, 7, 14, 21, 28] ++
  [35, 42, 49, 56, 57, 50, 43, 36, 29, 22, 15, 23, 30, 37, 44, 51] ++ [58, 59, 52, 45, 38, 31, 39, 46, 53, 60, 61, 54, 47, 55, 62, 63]

/-- What ends a stretch of entropy-coded data: RSTn, EOI or the end of the data, another marker. -/
inductive JEnd where
  | restart | finish | marker
  deriving DecidableEq, Repr

/-- The entropy-coded data split at restart markers, stuffing removed, each stretch with what ends it, and whether a second SOS stands before
EOI (R140). A marker other than RSTn and EOI ends its stretch and is skipped by its length; `on` is false from there to the next RSTn. -/
def jSplit (src : Nat → Byte) (len : Nat) : Nat → Nat → Bool → List Byte → List (List Byte × JEnd) × Bool
  | 0, _, on, cur => (if on then [(cur.reverse, .finish)] else [], false)
  | fuel + 1, i, on, cur =>
    let stop := fun (e : JEnd) => if on then [(cur.reverse, e)] else []
    if len ≤ i then (stop .finish, false)
    else if src i = 0xFF then
      if len ≤ i + 1 then (stop .finish, false)
      else
        let m := (src (i + 1)).toNat
        if m = 0 then jSplit src len fuel (i + 2) on (0xFF :: cur)
        else if m = 0xFF then jSplit src len fuel (i + 1) on cur
        else if 0xD0 ≤ m ∧ m ≤ 0xD7 then
          let (rest, two) := jSplit src len fuel (i + 2) true []
          (stop .restart ++ rest, two)
        else if m = 0xD9 then (stop .finish, false)
        else if m = 0xDA then (stop .marker, true)
        else
          let (rest, two) := jSplit src len fuel (if m = 1 ∨ m = 0xD8 then i + 2 else i + 2 + max 2 (be16 src (i + 2))) false []
          (stop .marker ++ rest, two)
    else jSplit src len fuel (i + 1) on (src i :: cur)

/-- Bits of a byte string, most significant first. -/
def bitsMsb (bs : List Byte) : List Bool := bs.flatMap (fun b => (List.range 8).map (fun i => b.getLsbD (7 - i)))

/-- Why decoding stopped: the data ended, or a code is in error (R143, R144). -/
inductive JErr where
  | ended | bad
  deriving DecidableEq, Repr

/-- One Huffman symbol: code so far, first code and index of this length. -/
def jHuff (vals : List Nat) : List Nat → List Bool → Nat → Nat → Nat → Except JErr (Nat × List Bool)
  | [], _, _, _, _ => .error .bad
  | _ :: _, [], _, _, _ => .error .ended
  | c :: cs, b :: bs, code, first, idx =>
    let code := code * 2 + (if b then 1 else 0)
    let first := first * 2
    if code < first + c then (match vals[idx + (code - first)]? with | some v => .ok (v, bs) | none => .error .bad)
    else jHuff vals cs bs code (first + c) (idx + c)

/-- `n` further bits as a signed coefficient difference. -/
def jExtend (n : Nat) (bs : List Bool) : Except JErr (Int × List Bool) :=
  if bs.length < n then .error .ended else
  let v := (bs.take n).foldl (fun a b => a * 2 + (if b then 1 else 0)) 0
  .ok (if n = 0 then 0 else if v < 2 ^ (n - 1) then (v : Int) - (2 ^ n - 1) else v, bs.drop n)

/-- The AC coefficients of a block. -/
def jAc (t : List Nat × List Nat) : Nat → Nat → List Bool → List (Nat × Int) → Except JErr (List (Nat × Int) × List Bool)
  | 0, _, _, _ => .error .bad
  | fuel + 1, k, bs, acc =>
    if 63 < k then .ok (acc, bs) else
    match jHuff t.2 t.1 bs 0 0 0 with
    | .error e => .error e
    | .ok (rs, bs) =>
      let r := rs / 16
      let n := rs % 16
      if n = 0 then (if r = 15 then jAc t fuel (k + 16) bs acc else if r = 0 then .ok (acc, bs) else .error .bad)
      else if 63 < k + r ∨ 10 < n then .error .bad
      else match jExtend n bs with
        | .error e => .error e
        | .ok (v, bs) => jAc t fuel (k + r + 1) bs ((k + r, v) :: acc)

/-- One block: its coefficients by zigzag index, the new DC value, the bits left. -/
def jBlock (dc ac : List Nat × List Nat) (pred : Int) (bs : List Bool) : Except JErr (List (Nat × Int) × Int × List Bool) :=
  match jHuff dc.2 dc.1 bs 0 0 0 with
  | .error e => .error e
  | .ok (n, bs) =>
    if 11 < n then .error .bad else
    match jExtend n bs with
    | .error e => .error e
    | .ok (d, bs) =>
      match jAc ac 64 1 bs [] with
      | .error e => .error e
      | .ok (cs, bs) => .ok ((0, pred + d) :: cs, pred + d, bs)

/-- A block's samples from its coefficients and quantisation table. -/
def jSamples (q : List Nat) (cs : List (Nat × Int)) : List Nat :=
  idct ((List.range 64).map (fun p =>
    let k := (zigzag.findIdx? (· == p)).getD 0
    ((cs.find? (fun c => c.1 == k)).map (·.2)).getD 0 * (nth q k 0 : Int)))

/-- What the scan header gives each component: blocks per MCU, DC and AC tables, quantisation table. -/
structure JScan where
  blocks : Nat
  dc : List Nat × List Nat
  ac : List Nat × List Nat
  q : List Nat

/-- The blocks of one component in one MCU; samples are kept for the first component only. -/
def jComp (c : JScan) (keep : Bool) : Nat → Int → List Bool → List (List Nat) → Except JErr (List (List Nat) × Int × List Bool)
  | 0, pred, bs, acc => .ok (acc, pred, bs)
  | n + 1, pred, bs, acc =>
    match jBlock c.dc c.ac pred bs with
    | .error e => .error e
    | .ok (cs, pred, bs) => jComp c keep n pred bs (if keep then acc ++ [jSamples c.q cs] else acc)

/-- The components of one MCU with their DC predictors. -/
def jMcu : List JScan → List Int → Bool → List Bool → Except JErr (List (List Nat) × List Int × List Bool)
  | [], _, _, bs => .ok ([], [], bs)
  | c :: cs, preds, first, bs =>
    match jComp c first c.blocks (preds.headD 0) bs [] with
    | .error e => .error e
    | .ok (y, p, bs) =>
      match jMcu cs (preds.drop 1) false bs with
      | .error e => .error e
      | .ok (_, ps, bs) => .ok (y, p :: ps, bs)

/-- The MCUs of one restart interval, as many as decode, and why the next one does not. -/
def jInterval (cs : List JScan) : Nat → List Int → List Bool → List (List (List Nat)) × Option JErr
  | 0, _, _ => ([], none)
  | n + 1, preds, bs =>
    match jMcu cs preds true bs with
    | .error e => ([], some e)
    | .ok (y, preds, bs) => let (r, e) := jInterval cs n preds bs; (y :: r, e)

/-- The scan's components in frame order, none unless the one scan holds every component with its tables (R140). -/
def jScans (src : Nat → Byte) (h : JHead) : Option (List JScan) :=
  let n := (src (h.sos + 2)).toNat
  if n ≠ h.comps.length then none else
  let one := h.comps.length = 1
  ((List.range n).map (fun k =>
    let sel := (src (h.sos + 3 + 2 * k)).toNat
    let t := (src (h.sos + 4 + 2 * k)).toNat
    let c := nth h.comps k ⟨0, 0, 0, 0⟩
    match h.dht.find? (fun e => e.1 == t / 16), h.dht.find? (fun e => e.1 == 16 + t % 16), h.dqt.find? (fun e => e.1 == c.tq) with
    | some d, some a, some q => if sel = c.id then some (⟨if one then 1 else c.hs * c.vs, d.2, a.2, q.2⟩ : JScan) else none
    | _, _, _ => none)).mapM id

/-- Decode a JPEG page whose header passed check 4 (R140 to R144). An interval whose data end at EOI or at the end of LEN cuts the page at its MCU
row (R143); any other error blanks the rest of its interval, or, without restart markers, the page from that row on (R144). -/
def decodeJpeg (h : JHead) (len : Nat) (src : Nat → Byte) (bg : Byte) : Decoded :=
  let blank : Decoded := ⟨⟨h.w, h.h, List.replicate h.h (bgRow h.w bg)⟩, true⟩
  match jScans src h with
  | none => blank
  | some cs =>
    let y := nth h.comps 0 ⟨0, 1, 1, 0⟩
    let (hs, vs) := if h.comps.length = 1 then (1, 1) else (y.hs, y.vs)
    let cols := ceilDiv h.w (8 * hs)
    let rows := ceilDiv h.h (8 * vs)
    let total := cols * rows
    let per := if h.dri = 0 then total else h.dri
    let (parts, two) := jSplit src len len (h.sos + be16 src h.sos) true []
    let parts := if h.dri = 0 then parts.take 1 else parts
    let nInt := ceilDiv total per
    let preds := cs.map (fun _ => (0 : Int))
    let got := (List.range nInt).map (fun i =>
      let n := min per (total - i * per)
      match parts[i]? with
      | some p => let (ms, e) := jInterval cs n preds (bitsMsb p.1); (ms, n, e, p.2)
      | none => ([], n, some .ended, JEnd.finish))
    let mcus : List (Option (List (List Nat))) := got.flatMap (fun g => (List.range g.2.1).map (fun k => g.1[k]?))
    let missing := fun i => match mcus[i]? with | some (some _) => false | _ => true
    let early := if h.dri = 0 then (List.range total).find? missing
      else ((List.range nInt).zip got).findSome? (fun g =>
        if g.2.2.2.1 = some .ended ∧ g.2.2.2.2 = .finish then some (g.1 * per + g.2.1.length) else none)
    let cutRow := match early with | some i => i / cols | none => rows
    let im := tabulate h.w h.h (fun x yy =>
      let r := yy / (8 * vs)
      let i := r * cols + x / (8 * hs)
      if cutRow ≤ r then bg.toNat else
      match mcus[i]? with
      | some (some bl) => nth (nth bl ((yy / 8 % vs) * hs + x / 8 % hs) []) (yy % 8 * 8 + x % 8) 0
      | _ => bg.toNat)
    ⟨im, (List.range total).any missing || two⟩

end Sys2Proof.Machine
end

