-- ==== Sys2Proof/Machine/Preparation.lean ====
section
/-! DEFINITION. Page preparation (05): claims, profiles, preparation of stripes, layout, packing, batches, PP_ registers. -/

namespace Sys2Proof.Machine

/-! ### Claims -/

/-- A byte of the staged window (R73, R133). -/
def swByte (s : State) (a : Nat) : Byte := (swBytes s a 1).headD 0

/-- The claim of a PAGE descriptor (R77). -/
def pageClaim (d : Bytes) : Claim :=
  { fmt := leAt d 0x1C 1, src := leAt d 0x10 8, len := leAt d 0x18 4, width := leAt d 0x20 2, height := leAt d 0x22 2,
    stride := leAt d 0x24 4, dpi := if leAt d 0x28 2 = 0 then 300 else leAt d 0x28 2 }

/-- Prepared size of an uncropped page: resize to the class resolution, then quarter turns (R149, R151). -/
def preparedSize (a : Word) (w h dpi : Nat) : Nat × Nat :=
  let m := resized w (ppDpi a) dpi 1
  let n := resized h (ppDpi a) dpi 1
  if ppOrient a % 2 = 1 then (n, m) else (m, n)

/-- Checks 1 to 8 of R134 on a claim whose image bytes `src` gives, for the class registers and quota: the failing code, or the
claimed size. DESIGN CHOICE: a PAGE whose LEN is above the 0x1000_0000 of R77 fails check 3 with DIM_LIMIT, for no check of R134 names that
limit (log 68). `part` says that only the first image bytes are at hand (R404). -/
def claimCheck (a : Word) (quota : Nat) (inWindow part : Bool) (c : Claim) (src : Nat → Byte) : Nat ⊕ (Nat × Nat) :=
  if 3 < c.fmt then .inl cVersion
  else if c.fmt = 3 ∧ (c.width ≠ 0 ∨ c.height ≠ 0 ∨ c.stride ≠ 0) then .inl cReserved
  else if c.len = 0 ∨ ¬ inWindow then .inl cDimLimit
  else
    let hd := if c.fmt = 3 then jHead part src c.len else none
    if c.fmt = 3 ∧ hd.isNone then .inl cVersion
    else
      let (w, h) := match hd with | some j => (j.w, j.h) | none => (c.width, c.height)
      let (pw, ph) := preparedSize a w h c.dpi
      if w = 0 ∨ h = 0 ∨ ppWmax a < w ∨ ppHmax a < h then .inl cDimLimit
      else if c.fmt ≤ 1 ∧ c.stride ≠ 0 ∧ c.stride < packedRow c.fmt w then .inl cDimLimit
      else if quota * 4096 < w * h then .inl cDimLimit
      else if ppWmax a < pw ∨ ppHmax a < ph then .inl cDimLimit
      else .inr (w, h)

/-- Count a refusal of R134 in PP_CNT (R167). -/
def countRefusal (cls code : Nat) (s : State) : State :=
  if code = cDimLimit then ppCount cls 2 1 s
  else if code = cVersion ∨ code = cClaim then ppCount cls 7 1 s
  else s

/-- PAGE (R134): the checks admit the page, or its one record refuses it and its reservation is given back (R135). -/
def doPage (q : Nat) (s : State) : State :=
  match current s q 1 with
  | none => s
  | some (r, cmd) =>
    if r.st = .hold ∨ r.st = .stalled then s else
    let d := cmd.desc
    let c := pageClaim d
    let prof := leAt d 0x1E 2
    let s := clearCur q s
    let refuse := fun code => refuseCmd q cmd.seq true code (countRefusal r.cls code (r2give cmd.resv.total s))
    match claimCheck (ppClassA s r.cls) r.quota (backedRange s c.src c.len && decide (c.len ≤ 0x10000000)) false c
        (fun i => swByte s (c.src + i)) with
    | .inl code => refuse code
    | .inr (w, h) =>
      if prof ≠ 0 ∧ (profInForce s r.part prof).isNone then refuse cClaim
      else match queue? s q with
        | some r => grantPairs (admitPage q r cmd.seq prof (leAt d 0x0C 4 / 2 % 2 == 1) { c with width := w, height := h } (some cmd.start)
            cmd.resv s).2
        | none => s

/-! ### Profiles -/

/-- The image checks of R155: 0 when it is sound. -/
def profileCheck (img : Bytes) : Nat :=
  let n := leAt img 0 2
  let w := leAt img 4 2
  let h := leAt img 6 2
  let ent := fun k => img.drop (32 + 16 * k)
  let req := ((List.range n).filter (fun k => leAt (ent k) 0x0A 1 % 2 == 1)).length
  let boxOk := fun k => let e := ent k
    decide (leAt e 0 2 < leAt e 4 2 ∧ leAt e 4 2 ≤ w ∧ leAt e 2 2 < leAt e 6 2 ∧ leAt e 6 2 ≤ h) && leAt e 8 2 != 0xFFFF
  if n < 1 ∨ 256 < n ∨ img.length ≠ 32 + 16 * n ∨ req < leAt img 2 2 ∨ w = 0 ∨ h = 0 ∨ ¬ (List.range n).all boxOk then cDimLimit
  else if leAt img 0x0A 22 ≠ 0 ∨ (List.range n).any (fun k => leAt (ent k) 0x0A 1 / 2 != 0 || leAt (ent k) 0x0B 5 != 0) then cReserved
  else 0

/-- A version of a profile is bound by an admitted page (R156). -/
def profBound (s : State) (v : Profile) : Bool :=
  s.pp.pages.any (fun e => e.2.part == v.part && e.2.prof == some (v.pid, v.ver) && e.2.stage != .released)

/-- Load a profile, or remove it: the status code and the state (R154, R156). -/
def loadProfile (part pid : Nat) (remove : Bool) (srcOk : Bool) (img : Bytes) (s : State) : Nat × State :=
  let old := profInForce s part pid
  let retire := fun s : State => { s with pp := { s.pp with profiles := s.pp.profiles.map (fun v =>
    if v.part = part ∧ v.pid = pid then { v with inForce := false } else v) } }
  if pid = 0 then (cClaim, s)
  else if remove then (if srcOk then (cOk, sweepProfiles (retire s)) else (cReserved, s))
  else if ¬ srcOk then (cDimLimit, s)
  else
    let c := profileCheck img
    if c ≠ 0 then (c, s)
    else
      let needs : Bool := match old with | some v => profBound s v | none => true
      if needs ∧ 4096 ≤ s.pp.profiles.length then (cQuota, s)
      else
        let s := sweepProfiles (retire s)
        (cOk, { s with pp := { s.pp with profiles := s.pp.profiles ++ [⟨part, pid, s.pp.nextVer, true, img⟩], nextVer := s.pp.nextVer + 1 } })

/-- PROFILE_LOAD (R154). Over Caravan the image comes with the command (R407). -/
def doProfileLoad (q : Nat) (s : State) : State :=
  match current s q 3 with
  | none => s
  | some (r, cmd) =>
    let d := cmd.desc
    let src := leAt d 0x10 8
    let len := leAt d 0x18 4
    let pid := leAt d 0x1C 2
    let remove := leAt d 0x1E 1 % 2 == 1
    let (img, inWin) := match cmd.attach with
      | some b => (b, decide (b.length = len))
      | none => (swBytes s src (min len (32 + 16 * 256)), backedRange s src len && decide (len ≤ 32 + 16 * 256))
    let ok := if remove then src == 0 && len == 0 else inWin
    let (code, s) := loadProfile r.part pid remove ok img s
    pushCmdRec q cmd.seq code true (clearCur q s)

/-! ### Preparation -/

/-- Source resolution of a page, across and along, as fractions (R149). -/
def sourceDpi (p : Page) (arm : Nat × Nat) : (Nat × Nat) × (Nat × Nat) :=
  match p.frame with
  | some f => ((f.dpiX, arm.1), (f.dpiY, arm.2))
  | none => ((p.claim.dpi, 1), (p.claim.dpi, 1))

/-- Grey value of a pixel of three planes (R142). -/
def greyOf (r g b : Nat) : Nat := rneNat (77 * r + 150 * g + 29 * b) 256

/-- Bytes of a line of the scan layout: WIDTH × planes rounded up to a multiple of 64 (R142). -/
def linePitch (w planes : Nat) : Nat := ceilDiv (w * planes) 64 * 64

/-- The 32 bytes of a page frame (R122). -/
def frameBytes (f : Frame) : Bytes :=
  leBytes 4 f.pid.toNat ++ leBytes 2 f.width ++ leBytes 2 f.lines ++ leBytes 2 f.lead ++ leBytes 2 f.trail ++ leBytes 2 f.left ++
  leBytes 2 f.right ++ leBytes 2 (BitVec.ofInt 16 f.skew).toNat ++ leBytes 2 f.resid ++
  leBytes 1 ((if f.long then 1 else 0) + (if f.unsure then 2 else 0) + (if f.repaired then 4 else 0)) ++ leBytes 1 f.door ++
  leBytes 2 (if f.planes then 1 else 0) ++ leBytes 2 f.dpiX ++ leBytes 2 f.dpiY ++ leBytes 4 0

/-- A line in the scan layout: its planes one after another, filled up with zeros to its pitch (R142). -/
def lineBytes (w : Nat) (planes : List Bytes) : Bytes :=
  let b := planes.flatMap (fun l => l.take w ++ List.replicate (w - l.length) 0)
  b ++ List.replicate (linePitch w planes.length - b.length) 0

/-- The grey image in a scan-front page buffer (R142). -/
def scanImage (p : Page) : Image :=
  match p.frame with
  | none => ⟨0, 0, []⟩
  | some f =>
    let n := if f.planes then 3 else 1
    let w := f.width
    let lines := chunks (linePitch w n) f.lines (p.buf.drop 64)
    ⟨w, f.lines, lines.map (fun l =>
      if f.planes then ((l.take w).zip (((l.drop w).take w).zip ((l.drop (2 * w)).take w))).map (fun x =>
        BitVec.ofNat 8 (greyOf x.1.toNat x.2.1.toNat x.2.2.toNat))
      else l.take w)⟩

/-- Decode a page to one grey plane (R138 to R144). -/
def decodePage (p : Page) (src : Nat → Byte) : Decoded :=
  let bg := BitVec.ofNat 8 (ppBg p.ppA)
  let c := p.claim
  if p.door = 1 ∨ p.door = 2 then ⟨scanImage p, false⟩
  else match c.fmt with
    | 2 => decodeT6 c.width c.height c.len src bg
    | 3 => match jHead false src c.len with
      | some h => decodeJpeg h c.len src bg
      | none => ⟨⟨c.width, c.height, List.replicate c.height (bgRow c.width bg)⟩, true⟩
    | f => decodeRaw f c.width c.height c.stride c.len src bg

/-- Crop, resize, deskew, flip and turn a decoded page (R132, R147 to R151). `arm` holds XAVG and YAVG. -/
def shapePage (p : Page) (arm : Nat × Nat) (im : Image) : Image :=
  let bg := ppBg p.ppA
  let im := match p.frame with
    | some f => let (x0, y0, x1, y1) := cropBox f arm.2 (ppMargin p.ppB); crop im x0 y0 x1 y1
    | none => im
  let (dx, dy) := sourceDpi p arm
  let im := resize im (ppDpi p.ppA) dx dy
  let im := match p.frame with
    | some f =>
      if ¬ f.unsure ∧ ppSkewMin p.ppB ≤ f.skew.natAbs then deskew im (f.skew * f.dpiX) (32768 * arm.1 * f.dpiY) bg else im
    | none => im
  turn (if ppFlip p.ppA then flipX im else im) (ppOrient p.ppA)

/-- Bytes of a page's image: the staged window for the host door, the page buffer for the fabric door (R133, R146). -/
def pageSrc (s : State) (p : Page) : Nat → Byte :=
  if p.door = 0 then fun i => swByte s (p.claim.src + i) else fun i => nth p.data i 0

/-- XAVG and YAVG that a page was admitted under; they stand in the claim of a scan-front page. -/
def pageAvg (p : Page) : Nat × Nat := if p.door = 1 ∨ p.door = 2 then (max 1 p.claim.width, max 1 p.claim.height) else (1, 1)

/-- Stripes that prepared stripe `k` of `n` maps to the background stripe (R145): itself, and the decoded stripes produced for it, which are the
decoded stripe of its number and, with the last one, all that are left (DESIGN CHOICE, log 70). -/
def newBgStripes (im dec : Image) (bg : Byte) (k n : Nat) : Nat :=
  let mine := if k + 1 = n then (List.range (ceilDiv dec.h 64)).drop k else if k < ceilDiv dec.h 64 then [k] else []
  (if bgStripe im bg k then 1 else 0) + (mine.filter (bgStripe dec bg)).length

/-- What the preparation of a page reads meets its damage (R20, R351, R422): the staged window at the host door, else the page buffer in
region 2. -/
def prepReads (s : State) (p : Page) : Bool × State :=
  if p.door = 0 then (if backedRange s p.claim.src p.claim.len then readCheck .dram 0 (swDev s p.claim.src) p.claim.len s else (false, s))
  else readCheck .dram 0 (regionBase s 2 + Config.region2 0 p.id) (if p.door = 3 then p.data.length else p.buf.length) s

/-- One stripe of 64 rows of the prepared page commits (R133, R143, R145, R152), on the pair that serves the page (R132, R385); after the last
the page goes to layout and the pair serves the next one. A page whose source is damaged ends INPUT_LOST (R20, R422). -/
def prepStripeCommit (pid : BitVec 32) (s0 : State) : State :=
  let s := grantPairs s0
  match page? s pid with
  | none => s
  | some p =>
    if p.stage ≠ .prep ∨ p.pair.isNone then s
    else if (prepReads s p).1 then grantPairs (endLost pid (prepReads s p).2)
    else
    let s := (prepReads s p).2
    let dec := decodePage p (pageSrc s p)
    let im := shapePage p (pageAvg p) dec.im
    let k := p.stripes
    let n := max 1 (ceilDiv im.h 64)
    let bg := BitVec.ofNat 8 (ppBg p.ppA)
    let done := ((p.prep.map (·.stripes)).getD []) ++ [storedStripe im bg k]
    let p := { p with stripes := k + 1, prep := some ⟨im.w, im.h, bg, done⟩, trunc := p.trunc || dec.short,
                      stage := if n ≤ k + 1 then .layout else .prep, bgStripes := p.bgStripes + newBgStripes im dec.im bg k n }
    let s := setPage p s
    if n ≤ k + 1 then grantPairs ((if p.trunc then ppCount p.cls 1 1 else id) (ppCount p.cls 0 1 s)) else s

/-! ### Layout, steering, packing -/

/-- The profile image bound by a page. -/
def boundProfile (s : State) (p : Page) : Option Bytes :=
  p.prof.bind (fun v => (s.pp.profiles.find? (fun x => x.part == p.part && x.pid == v.1 && x.ver == v.2)).map (·.image))

/-- A region of a profile scaled from a w' × h' page to w × h (R157). -/
def scaleBox (b : Nat × Nat × Nat × Nat) (w h w' h' : Nat) : Nat × Nat × Nat × Nat :=
  if w = w' ∧ h = h' then b else (b.1 * w / w', b.2.1 * h / h', b.2.2.1 * w / w', b.2.2.2 * h / h')

/-- A steering window: a region widened by PMARGIN and clipped to the page (R157). -/
def widen (b : Nat × Nat × Nat × Nat) (m w h : Nat) : Nat × Nat × Nat × Nat :=
  (b.1 - m, b.2.1 - m, min (b.2.2.1 + m) w, min (b.2.2.2 + m) h)

/-- The previous page of the queue steers this one (R157): its layout result stands, under the same profile version. -/
def steeredByPrev (p : Page) (prev : List PrevPage) : Option PrevPage :=
  if p.batchStart then none else prev.find? (fun v => some v.page == p.before && v.valid && v.prof == p.prof)

/-- Steering windows of a page, in profile order (R157). -/
def windows (img : Bytes) (p : Page) (prev : List PrevPage) : List (Nat × Nat × Nat × Nat) :=
  match p.prep with
  | none => []
  | some im =>
    let rw := leAt img 4 2
    let rh := leAt img 6 2
    let m := leAt img 8 2
    (List.range (leAt img 0 2)).map (fun k =>
      let e := img.drop (32 + 16 * k)
      let tpl := (leAt e 0 2 * im.w / rw, leAt e 2 2 * im.h / rh, leAt e 4 2 * im.w / rw, leAt e 6 2 * im.h / rh)
      let b := match steeredByPrev p prev with
        | some v => match nth v.regions k none with | some u => scaleBox u im.w im.h v.w v.h | none => tpl
        | none => tpl
      widen b m im.w im.h)

/-- A box's centre lies within a half-open window, compared in half pixels (R158). -/
def inWindow (b : Box) (w : Nat × Nat × Nat × Nat) : Bool :=
  let cx := b.x0.toNat + b.x1.toNat
  let cy := b.y0.toNat + b.y1.toNat
  decide (2 * w.1 ≤ cx ∧ cx < 2 * w.2.2.1 ∧ 2 * w.2.1 ≤ cy ∧ cy < 2 * w.2.2.2)

/-- Union of boxes. -/
def unionBox (bs : List Box) : Option (Nat × Nat × Nat × Nat) :=
  match bs with
  | [] => none
  | b :: r => some (r.foldl (fun u b => (min u.1 b.x0.toNat, min u.2.1 b.y0.toNat, max u.2.2.1 b.x1.toNat, max u.2.2.2 b.y1.toNat))
      (b.x0.toNat, b.y0.toNat, b.x1.toNat, b.y1.toNat))

/-- The queue's previous page steers this one and has not committed its layout yet (R157). -/
def waitsForPrev (s : State) (p : Page) : Bool :=
  p.prof.isSome && !p.batchStart && (match p.before.bind (page? s) with
    | some v => v.prof == p.prof && (v.stage == .intake || v.stage == .prep || v.stage == .layout)
    | none => false)

/-- A layout pass commits with the lines it found (R157 to R159, R16). A steered pass that matches too little is followed by a
full-page pass; a page without a line gives its one page record. -/
def commitLayout (pid : BitVec 32) (lines : List Box) (s : State) : State :=
  match page? s pid with
  | none => s
  | some p =>
    if p.stage ≠ .layout ∨ waitsForPrev s p then s else
    let prev := ((queue? s p.queue).map (·.prev)).getD []
    let img := boundProfile s p
    let wins := match img with | some i => windows i p prev | none => []
    let required := match img with
      | some i => (List.range (leAt i 0 2)).filter (fun k => leAt (i.drop (32 + 16 * k)) 0x0A 1 % 2 == 1)
      | none => []
    let matched := fun k => lines.any (fun b => inWindow b (nth wins k (0, 0, 0, 0)))
    let steered := img.isSome && !p.fellBack
    let few := decide ((required.filter matched).length < ((img.map (fun i => leAt i 2 2)).getD 0)) || lines.isEmpty
    let s := if steered then ppCount p.cls 3 1 s else s
    if steered ∧ few then setPage { p with fellBack := true } (ppCount p.cls 4 1 s)
    else
      let found := lines.map (fun b =>
        let k := (List.range wins.length).find? (fun k => inWindow b (nth wins k (0, 0, 0, 0)))
        let f := match img, k with | some i, some k => BitVec.ofNat 16 (leAt (i.drop (32 + 16 * k)) 8 2) | _, _ => 0xFFFF
        (⟨b, f, k.isSome && !p.fellBack, false⟩ : Found))
      let regions := (List.range wins.length).map (fun k => unionBox (lines.filter (fun b => inWindow b (nth wins k (0, 0, 0, 0)))))
      let size := (p.prep.map (fun i => (i.w, i.h))).getD (0, 0)
      let s := giveOrOwe pid p.resvBuf s
      let s := setPage { p with stage := .cut, found := found, regions := regions, raw := [], data := [], buf := [], resvBuf := 0 } s
      let s := modQueue p.queue (fun r => { r with
        prev := r.prev.filter (fun v => some v.page != p.before) ++ [⟨pid, p.prof, size.1, size.2, regions, true⟩] }) s
      if lines.isEmpty then
        pageDone pid [pageRec pid p.cseq (p.door != 0) (pickCode [cEmpty, if p.trunc then cTruncated else 0, if p.retried then cRetried else 0])] s
      else s

/-- Cut-out and packing commit: the page's rows are packed; segments whose cut-out read a damaged word are corrupt (R160 to R165). -/
def commitCutout (pid : BitVec 32) (corrupt : List (BitVec 16)) (s : State) : State :=
  match page? s pid with
  | none => s
  | some p =>
    match p.stage, p.prep.map Prepared.image with
    | .cut, some im =>
      let rowW := ppRowW p.ppB
      let lh := ppLineH p.ppB
      let gap := ppGap p.ppB
      let bg := BitVec.ofNat 8 (ppBg p.ppA)
      let bad := fun (l : Nat) => corrupt.any (fun c => c.toNat == l)
      let places := placeLines rowW lh gap (p.found.map (·.box)) 0 gap 0
      let nrows := (places.foldl (fun m x => max m (x.1 + 1)) 0)
      let mk := fun (k : Nat) =>
        let segs := ((List.range places.length).zip places).filter (fun x => x.2.1 == k)
        let at' := fun (x : Nat) => ((List.range segs.length).zip segs).find? (fun g => decide (g.2.2.2.1 ≤ x ∧ x < g.2.2.2.1 + g.2.2.2.2.1))
        let ims := segs.map (fun g => cutLine im (nth p.found g.1 ⟨⟨0, 0, 0, 0⟩, 0, false, false⟩).box g.2.2.2.1 lh bg.toNat)
        let px := (List.range lh).map (fun y => (List.range rowW).map (fun x => match at' x with
          | some g => if bad g.2.1 then bg else BitVec.ofNat 8 (pixel (nth ims g.1 ⟨0, 0, []⟩) (x - g.2.2.2.1 : Nat) y bg.toNat)
          | none => bg))
        let mask := (List.range rowW).map (fun x => match at' x with
          | some g => if bad g.2.1 then 0 else BitVec.ofNat 8 (g.1 + 1)
          | none => (0 : Byte))
        let tab := segs.map (fun g => (g.1, g.2.2.1, g.2.2.2.1, g.2.2.2.2, bad g.1))
        (⟨pid, k, packedBytes pid.toNat k px mask tab, tab, false⟩ : Packed)
      let nbad := ((List.range p.found.length).filter bad).length
      let s := ppCount p.cls 5 nbad (ppCount p.cls 6 (places.filter (fun x => x.2.2.2)).length s)
      let s := { s with pp := { s.pp with packed := s.pp.packed ++ (List.range nrows).map mk } }
      setPage { p with stage := .recog, rows := nrows, segsLeft := p.found.length,
                       found := ((List.range p.found.length).zip p.found).map (fun f => { f.2 with corrupt := bad f.1 }) } s
    | _, _ => s

/-- The queue's encoder job that holds its tile in a slice and whose previous encoder command has been dispatched (R163). -/
def encoderJob (s : State) (q : Nat) (r : Queue) : Option (Nat × Nat) :=
  (s.rm.scheds.filterMap (fun e => e.2.run)).find? (fun k =>
    s.rm.jobs.any (fun j => j.part == k.1 && j.slot == k.2 && j.queue == some q && j.stage == 4 &&
      ((encoderEntry s.si.conf r.cls).map (·.pos)) == some j.pos) &&
    s.pp.batches.all (fun b => b.sent || b.job != k))

/-- Rows in ascending page id and then row index (R163); the pages of a queue are ordered as it admitted them. -/
def insRow (x : Packed) : List Packed → List Packed
  | [] => [x]
  | y :: r => if seqLater y.page x.page ∨ (x.page = y.page ∧ x.idx < y.idx) then x :: y :: r else y :: insRow x r

/-- Committed rows of a queue that are in no batch, in order (R163). -/
def freeRows (s : State) (q : Nat) : List Packed :=
  (s.pp.packed.filter (fun k => !k.batched && ((page? s k.page).map (·.queue)) == some q)).foldr insRow []

/-- An encoder command forms from the queue's committed rows that are in no batch, in page and row order (R163). -/
def encoderBatchForm (q : Nat) (s : State) : State :=
  match queue? s q with
  | none => s
  | some r =>
    let size := ((classOf s.si.conf r.cls).map (·.batch)).getD 1
    let mine := freeRows s q
    match mine, encoderJob s q r with
    | _ :: _, some k =>
      let keys := (mine.take (min size 64)).map (fun k => (k.page, k.idx))
      { s with pp := { s.pp with
          packed := s.pp.packed.map (fun k => if keys.contains (k.page, k.idx) then { k with batched := true } else k)
          batches := s.pp.batches ++ [⟨q, k, keys, false⟩] } }
    | _, _ => s

/-- The command that is launched for a job is its formed batch's encoder command (R163): its pages are past their cut-out. -/
def batchSent (r : DispatchReq) (k : Nat × Nat) (s : State) : State :=
  if r.stage.toNat = 4 ∧ r.pages.all (fun p => ((page? s p).map (·.stage)) != some .cut) then
    { s with pp := { s.pp with batches := s.pp.batches.map (fun b => if b.job = k ∧ ¬ b.sent then { b with sent := true } else b) } }
  else s

/-- Segment `g` of a packed row as R165 leaves a corrupt one: pixel columns of BG, mask columns 0, the corrupt bit set. -/
def blankSegment (rowW lineH : Nat) (bg : Byte) (b : Bytes) (k : Nat) (g : Nat × Nat × Nat × Bool × Bool) : Bytes :=
  let inSeg := fun (x : Nat) => decide (g.2.1 ≤ x ∧ x < g.2.1 + g.2.2.1)
  let cut := 16 + rowW * lineH
  ((List.range b.length).zip b).map (fun e =>
    if e.1 < 16 then e.2
    else if e.1 < cut then (if inSeg ((e.1 - 16) % rowW) then bg else e.2)
    else if e.1 < cut + rowW then (if inSeg (e.1 - cut) then 0 else e.2)
    else if e.1 = cut + rowW + 8 * k + 6 then e.2 ||| 2 else e.2)

/-- Uncorrectable errors struck committed packed rows (R164): segment 1 to 255 of a row, or, with 0, its header or the table's shared words,
which makes every segment corrupt. They become masked blanks (R165). -/
def corruptRows (hits : List (BitVec 32 × BitVec 16 × Byte)) (s : State) : State :=
  let hit := fun (r : Packed) (k : Nat) => hits.any (fun h => h.1 == r.page && h.2.1.toNat == r.idx && (h.2.2 == 0 || h.2.2.toNat == k + 1))
  let fresh := fun (r : Packed) => ((List.range r.segs.length).zip r.segs).filter (fun g => hit r g.1 && !g.2.2.2.2.2)
  let lines := s.pp.packed.flatMap (fun r => (fresh r).map (fun g => (r.page, g.2.1)))
  let s := { s with pp := { s.pp with packed := s.pp.packed.map (fun r =>
    match page? s r.page with
    | none => r
    | some p => { r with
        bytes := (fresh r).foldl (fun b g => blankSegment (ppRowW p.ppB) (ppLineH p.ppB) (BitVec.ofNat 8 (ppBg p.ppA)) b g.1 g.2) r.bytes
        segs := ((List.range r.segs.length).zip r.segs).map (fun g =>
          if hit r g.1 then (g.2.1, g.2.2.1, g.2.2.2.1, g.2.2.2.2.1, true) else g.2) }) } }
  lines.foldl (fun s l => modPage l.1 (fun p => { p with found := p.found.modify l.2 (fun f => { f with corrupt := true }) })
    (match page? s l.1 with | some p => ppCount p.cls 5 1 s | none => s)) s

/-- The batch of an encoder command commits (R163, R299): segments that are not corrupt wait for table entries in batch order, those of ended
pages apart; corrupt ones have ended (R165). `hits` are the errors that struck the rows meanwhile. -/
def commitEncoder (k : Nat × Nat) (hits : List (BitVec 32 × BitVec 16 × Byte)) (s : State) : State :=
  match s.pp.batches.find? (fun b => b.job == k && b.sent) with
  | none => s
  | some b =>
    let s := corruptRows (hits.filter (fun h => b.rows.contains (h.1, h.2.1.toNat))) s
    let rows := b.rows.filterMap (fun k => s.pp.packed.find? (fun r => (r.page, r.idx) == k))
    let segs := (rows.filter (fun r => !(pageEnded s r.page))).flatMap (fun r => r.segs.map (fun g => (r.page, g.1, g.2.2.2.2)))
    let part := ((queue? s b.queue).map (·.part)).getD 0
    let live := segs.filter (fun g => !g.2.2)
    let dead := segs.filter (fun g => g.2.2)
    let s := { s with
      pp := { s.pp with batches := s.pp.batches.erase b, packed := s.pp.packed.filter (fun r => !(b.rows.contains (r.page, r.idx))) }
      kv := { s.kv with segs := s.kv.segs ++ live.map (fun g => (part, g.1, g.2.1)) } }
    dead.foldl (fun s g => modPage g.1 (fun p => { p with
      segsLeft := p.segsLeft - 1
      stage := if p.segsLeft ≤ 1 ∧ p.stage = .recog then .structure else p.stage }) s) s

/-- A segment has ended with a code: its line's recognition is done (R300). -/
def segmentEnded (pid : BitVec 32) (line code : Nat) (s : State) : State :=
  modPage pid (fun p => { p with segsLeft := p.segsLeft - 1, segEnds := tabSet p.segEnds line (BitVec.ofNat 8 code),
                                 stage := if p.segsLeft ≤ 1 ∧ p.stage = .recog then .structure else p.stage }) s

/-- Structuring commits: the page's records are ready for its release (R14, R82, R91); its table entries become FREE (R300). -/
def commitStructuring (pid : BitVec 32) (outs : List LineOut) (bad : List (BitVec 16)) (regionsLost : Bool) (s : State) : State :=
  match page? s pid with
  | none => s
  | some p =>
    if (p.stage = .recog ∨ p.stage = .structure) ∧ p.segsLeft = 0 then
      let g1 := ((queue? s p.queue).map (·.gen)) == some 1
      pageDone pid (pageRecords p g1 outs bad regionsLost) s
    else s

/-! ### PP_ registers -/

/-- Profile versions held (R167). -/
def profStat (s : State) : Word :=
  place s.pp.profiles.length 32 13 ||| place ((s.pp.pages.map (fun e => e.2.bgStripes)).sum) 0 24

/-- Read a PP_ register; none where no register stands (R167). -/
def ppRead (off : Nat) (s : State) : Option (Word × State) :=
  if 0x8000 ≤ off ∧ off < 0x8800 then some (ppClassA s ((off - 0x8000) / 8), s)
  else if 0x8800 ≤ off ∧ off < 0x9000 then some (ppClassB s ((off - 0x8800) / 8), s)
  else if off = 0x9000 then some (s.pp.cntSel, s)
  else if 0x9008 ≤ off ∧ off < 0x9048 then
    let k := (off - 0x9008) / 8
    some ((tabGet s.pp.cnt k 0).setWidth 64, { s with pp := { s.pp with cnt := tabSet s.pp.cnt k 0 } })
  else if off = 0x9048 then some (profStat s, s)
  else none

/-- A write to PP_CNT_SEL clears every PP_CNT and chooses the counted classes (R168). -/
def cntSelWrite (d en : Word) (s : State) : State :=
  if en = 0 then s else { s with pp := { s.pp with cntSel := putBits s.pp.cntSel d (maskOf 0 9) en, cnt := [] } }

/-- Write a PP_ register (R167). -/
def ppWrite (off : Nat) (d en : Word) (s : State) : Option State :=
  if off = 0x9000 then some (cntSelWrite d en s)
  else match ppRead off s with
    | some _ => some s
    | none => none

def execPage (q : BitVec 16) (s : State) : Host.Outcome State Fault Refusal := run s (doPage q.toNat)
def execProfileLoad (q : BitVec 16) (s : State) : Host.Outcome State Fault Refusal := run s (doProfileLoad q.toNat)
/-- PREP_STRIPE_COMMIT (R133), after which jobs whose inputs the stripe completes are ready (R374). -/
def prepStep (pid : BitVec 32) (s : State) : State := wakeJobs (prepStripeCommit pid s)

def execPrepStripeCommit (pid : BitVec 32) (s : State) : Host.Outcome State Fault Refusal := run s (prepStep pid)
def execEncoderBatchForm (q : BitVec 16) (s : State) : Host.Outcome State Fault Refusal := run s (encoderBatchForm q.toNat)
def execCntSelWrite (w : RegWr) (s : State) : Host.Outcome State Fault Refusal := run s (whenRun 0x9000 w (cntSelWrite w.data (enMask w.be)))

end Sys2Proof.Machine
end

