-- ==== Sys2Proof/Machine/Caravan.lean ====
section
/-! DEFINITION. The Caravan fabric port (14): frames in and out, sessions, page streams, commands, result streams, CV_ registers. -/

namespace Sys2Proof.Machine

/-! ### Ports and headers -/

/-- CV_PORT, CV_ADDR and CV_IP6 (R412). -/
def cvPort (s : State) (n : Nat) : Word := tabGet s.cv.port n 0
def cvAddr (s : State) (n : Nat) : Word := tabGet s.cv.addr n 0xC350000000000000
def cvIp6 (s : State) (n k : Nat) : Word := tabGet s.cv.ip6 (2 * n + k) 0

/-- An address is one of the port's own that are in use (R395). -/
def ownAddr (s : State) (n : Nat) (a : IpAddr) : Bool :=
  match a with
  | .v4 x => bitOf (cvPort s n) 60 && x.toNat == fld (cvAddr s n) 0 32
  | .v6 x => bitOf (cvPort s n) 59 && x == (cvIp6 s n 0 ++ cvIp6 s n 1)

/-- Layers below Caravan take the frame (R395): own address and UDP port, not too long. -/
def lowerOk (s : State) (f : CvFrame) : Bool :=
  let n := f.port.toNat
  let ip := match f.dstIp with | .v4 _ => 20 | .v6 _ => 40
  ownAddr s n f.dstIp && f.dport.toNat == fld (cvAddr s n) 48 16 &&
    decide (14 + (if f.vlan.isSome then 4 else 0) + ip + 8 + f.payload.length + 4 ≤ 9216)

/-- Fields of the Caravan header (R396). -/
def cvType (f : CvFrame) : Nat := leAt f.payload 1 1
def cvFlow (f : CvFrame) : Nat := leAt f.payload 2 2
def cvSeq (f : CvFrame) : BitVec 32 := BitVec.ofNat 32 (leAt f.payload 4 4)
def cvAck (f : CvFrame) : BitVec 32 := BitVec.ofNat 32 (leAt f.payload 8 4)
def cvLimit (f : CvFrame) : BitVec 32 := BitVec.ofNat 32 (leAt f.payload 0x0C 4)
def cvLen (f : CvFrame) : Nat := leAt f.payload 0x10 2
def cvStart (f : CvFrame) : Bool := leAt f.payload 0x12 1 % 2 == 1
def cvEnd (f : CvFrame) : Bool := leAt f.payload 0x12 1 / 2 % 2 == 1
def cvAux (f : CvFrame) : BitVec 32 := BitVec.ofNat 32 (leAt f.payload 0x14 4)
def cvBody (f : CvFrame) : Bytes := (f.payload.drop 32).take (cvLen f)

/-- A header that is refused (R396). -/
def badHead (f : CvFrame) : Bool :=
  decide (f.payload.length < 32) || decide (f.payload.length < 32 + cvLen f) || leAt f.payload 0 1 != 1 || !([1, 3, 5, 6, 7].contains (cvType f)) ||
    leAt f.payload 0x12 2 / 4 != 0 || leAt f.payload 0x18 8 != 0

/-- The frame comes from the flow's peer as a configuration names it (R398). -/
def fromPeer (c : Word × Word × Word) (f : CvFrame) : Bool :=
  let w := c.1
  let src := match f.srcIp with
    | .v4 x => !(bitOf w 61) && x.toNat == fld c.2.1 0 32
    | .v6 x => bitOf w 61 && x == (c.2.1 ++ c.2.2)
  let tag := match f.vlan with
    | none => !(bitOf w 60)
    | some v => bitOf w 60 && v.toNat == fld w 45 12
  bitOf w 63 && (if bitOf w 62 then f.port == 1 else f.port == 0) && tag && src && f.sport.toNat == fld w 16 16

/-- The next command sequence number of a flow's queue, which AUX reports (R396, R407). -/
def auxC (s : State) (n : Nat) : BitVec 32 := match flowQueue s n with | some (_, r) => r.c | none => 0

/-- A Caravan frame from the device (R396): header and payload. -/
def cvBytes (ty flow : Nat) (seq ack limit : BitVec 32) (aux : BitVec 32) (body : Bytes) : Bytes :=
  leBytes 1 1 ++ leBytes 1 ty ++ leBytes 2 flow ++ leBytes 4 seq.toNat ++ leBytes 4 ack.toNat ++ leBytes 4 limit.toNat ++
    leBytes 2 body.length ++ leBytes 2 0 ++ leBytes 4 aux.toNat ++ leBytes 8 0 ++ body

/-- Hand a frame of a flow to the MAC (R395, R396). -/
def cvSend (n ty : Nat) (seq ack : BitVec 32) (body : Bytes) (s : State) : State :=
  let x := flow s n
  let (w, p0, p1) := x.inForce
  let port := if bitOf w 62 then 1 else 0
  let dst : IpAddr := if bitOf w 61 then .v6 (p0 ++ p1) else .v4 (p0.setWidth 32)
  let tag := if bitOf w 60 then some (BitVec.ofNat 16 (fld w 57 3 * 8192 + fld w 45 12)) else none
  let t : TxFrame := .caravan port x.mac tag dst (BitVec.ofNat 16 (fld (cvAddr s port) 48 16)) (BitVec.ofNat 16 (fld w 16 16))
    (cvBytes ty n seq ack x.plimit (auxC s n) body)
  setFlow n { x with spoke := s.now } { s with cv := { s.cv with last := some t } }

/-- The port of a flow can send: link up, no PAUSE in force (R395). -/
def canSend (s : State) (n : Nat) : Bool :=
  let port := if bitOf (flow s n).inForce.1 62 then 1 else 0
  bitOf (cvPort s port) 63 && bitOf (cvPort s port) 62 && decide (tabGet s.cv.pause port 0 ≤ s.now.toNat)

/-! ### Page streams -/

/-- The data of a page end (R405, R406): the deadline starts, preparation goes on. -/
def cvPageEnds (n : Nat) (early : Bool) (at' : BitVec 64) (s : State) : State :=
  let x := flow s n
  match x.cur with
  | .page pid =>
    let s := modPage pid (fun p => { p with dataEnd := true, start := some at', trunc := p.trunc || early,
                                            stage := if p.stage = .intake then .prep else p.stage,
                                            claim := { p.claim with len := p.data.length } }) s
    let s := grantPairs (setFlow n { x with cur := .none } s)
    if early then cvCount 3 1 s else s
  | _ => setFlow n { x with cur := .none } s

/-- Image bytes of a page, limited to its page buffer; the rest is discarded and counted, and the page goes on to its END frame (R405). -/
def cvPageBytes (pid : BitVec 32) (b : Bytes) (s : State) : State :=
  match page? s pid with
  | none => s
  | some p =>
    let room := ((queue? s p.queue).map (·.quota)).getD 0 * 4096 - p.data.length
    let s := setPage { p with data := p.data ++ b.take room } s
    if room < b.length then cvCount 7 (b.length - room) s else s

/-- The page frame that follows a framed page's descriptor (R122, R403). -/
def cvFrameOf (b : Bytes) : Frame :=
  let t := leAt b 0x10 2
  { pid := 0, width := leAt b 4 2, lines := leAt b 6 2, lead := leAt b 8 2, trail := leAt b 0x0A 2, left := leAt b 0x0C 2,
    right := leAt b 0x0E 2, skew := if 32768 ≤ t then (t : Int) - 65536 else t, resid := leAt b 0x12 2,
    long := leAt b 0x14 1 % 2 == 1, unsure := leAt b 0x14 1 / 2 % 2 == 1, repaired := leAt b 0x14 1 / 4 % 2 == 1, door := leAt b 0x15 1,
    planes := false, dpiX := leAt b 0x18 2, dpiY := leAt b 0x1A 2 }

/-- The checks of a START frame's descriptor, frame and image bytes (R404): the failing code, or the claimed size. On a G1 queue BATCH_START
and PROFILE are reserved (R91, R403). -/
def cvClaimCheck (g1 : Bool) (a : Word) (quota : Nat) (d fr img : Bytes) (framed : Bool) (c : Claim) : Nat ⊕ (Nat × Nat) :=
  let reserved := leAt d 1 1 / 4 != 0 || (g1 && (leAt d 1 1 / 2 % 2 != 0 || leAt d 2 2 != 0)) || leAt d 0x0E 18 != 0 ||
    (framed && (leAt fr 0x14 1 / 8 != 0 || leAt fr 0x16 2 != 0 || leAt fr 0x1C 4 != 0))
  if c.fmt ≤ 3 ∧ reserved then .inl cReserved
  else
    match claimCheck a quota true true { c with len := max 1 img.length } (fun i => nth img i 0) with
    | .inl e => .inl e
    | .inr (w, h) =>
      if framed ∧ (leAt fr 4 2 ≠ w ∨ leAt fr 6 2 ≠ h ∨ leAt fr 0x18 2 ≠ c.dpi ∨ leAt fr 0x1A 2 ≠ c.dpi) then .inl cDimLimit
      else .inr (w, h)

/-- A START frame (R401 to R406). -/
def cvPageStart (n : Nat) (f : CvFrame) (s : State) : State :=
  let s := match (flow s n).cur with | .page _ => cvPageEnds n true s.now s | _ => s
  let x := flow s n
  match x.resv, flowQueue s n with
  | need :: more, some (q, r) =>
    if ¬ seqLater x.plimit (cvAux f) then cvCount 5 1 (setFlow n { x with cur := if cvEnd f then .none else .beyond } s)
    else
      let b := cvBody f
      let framed := leAt b 1 1 % 2 == 1
      let fr := if framed then (b.drop 32).take 32 else []
      let img := b.drop (if framed then 64 else 32)
      let c : Claim := { fmt := leAt b 0 1, src := 0, len := img.length, width := leAt b 4 2, height := leAt b 6 2, stride := leAt b 8 4,
                         dpi := if leAt b 0x0C 2 = 0 then 300 else leAt b 0x0C 2 }
      let prof := leAt b 2 2
      let s := setFlow n { x with resv := more } s
      let check : Nat ⊕ (Nat × Nat) := match cvClaimCheck (r.gen == 1) (ppClassA s r.cls) r.quota (b.take 32) fr img framed c with
        | .inl e => .inl e
        | .inr wh => if prof ≠ 0 ∧ (profInForce s r.part prof).isNone then .inl cClaim else .inr wh
      match check with
      | .inl code =>
        let s := countRefusal r.cls code (r2give need.total s)
        let s := pushItem q { isCmd := false, isPage := true, cseq := 0, page := none, recs := [pageRec 0xFFFFFFFF 0 true code],
                              ready := true, written := 0 } s
        setFlow n { flow s n with cur := if cvEnd f then .none else .refused } s
      | .inr (w, h) =>
        let (pid, s) := admitPage q r 0 prof (leAt b 1 1 / 2 % 2 == 1) { c with width := w, height := h } none need s
        let s := modPage pid (fun p => { p with frame := if framed then some { cvFrameOf fr with pid := pid } else none }) s
        let s := cvPageBytes pid img (setFlow n { flow s n with cur := .page pid } s)
        if cvEnd f then cvPageEnds n false s.now s else s
  | _, _ => cvCount 5 1 (setFlow n { x with cur := if cvEnd f then .none else .beyond } s)

/-- A PAGE frame without START (R402, R404 to R406). -/
def cvPageMore (n : Nat) (f : CvFrame) (s : State) : State :=
  let x := flow s n
  match x.cur with
  | .none => cvCount 1 1 s
  | .page pid =>
    let s := cvPageBytes pid (cvBody f) s
    if cvEnd f then cvPageEnds n false s.now s else s
  | .refused => if cvEnd f then setFlow n { x with cur := .none } s else s
  | .beyond => cvCount 5 1 (if cvEnd f then setFlow n { x with cur := .none } s else s)

/-! ### Sessions -/

/-- What a frame's ACK and LIMIT tell (R409, R410): acknowledged frames go, and with a page's last record its reservation. -/
def peerInfo (n : Nat) (ack limit : BitVec 32) (s : State) : State :=
  let x := flow s n
  let gone := x.unack.filter (fun u => seqLater ack u.seq && !(seqLater ack x.tx))
  let s := setFlow n { x with unack := if seqLater ack x.tx then x.unack else x.unack.filter (fun u => !(seqLater ack u.seq)),
                              rlimit := if seqLater limit x.rlimit then limit else x.rlimit } s
  (gone.flatMap (·.parts)).foldl (fun s c => match c.page with
    | some pid => if c.isRec ∧ c.final ∧ ((page? s pid).map (·.stage)) = some .released then retirePage pid s else s
    | none => s) s

/-- A frame of an UP flow in sequence (R397, R406): what comes before E is discarded, a gap ends a page in progress. -/
def inSequence (n : Nat) (f : CvFrame) (k : State → State) (s : State) : State :=
  let x := flow s n
  let q := cvSeq f
  if seqLater x.e q then cvCount 1 1 s
  else
    let s := if seqLater q x.e then
        let s := cvCount 2 (seqDist q x.e) s
        (match x.cur with | .page _ => cvPageEnds n true s.now s | _ => s)
      else s
    let used : BitVec 32 := if cvType f = 3 ∨ cvType f = 6 then 1 else 0
    let s := setFlow n { flow s n with e := q + used, heard := s.now } s
    k (peerInfo n (cvAck f) (cvLimit f) s)

/-- A session ends (R400): the page in progress ends, unacknowledged results are to be sent again, unused reservations stay, a command not yet
taken is dropped. -/
def endSession (n : Nat) (s : State) : State :=
  let s := match (flow s n).cur with | .page _ => cvPageEnds n true s.now s | _ => s
  let x := flow s n
  setFlow n { x with
    up := false, cur := .none, m := 0, plimit := BitVec.ofNat 32 x.resv.length, out := x.unack.flatMap (·.parts) ++ x.out
    owed := x.owed + x.unack.length, unack := [], ackDue := false, wait := none } s

/-- Answer a HELLO (R399), as soon as the port can send (R395). -/
def helloAck (n : Nat) (s : State) : State :=
  let x := flow s n
  if canSend s n then cvSend n 2 x.first x.hello (leBytes 8 x.m) (setFlow n { x with ackDue := false } s)
  else setFlow n { x with ackDue := true } s

/-- HELLO (R399, R400). -/
def doHello (n : Nat) (f : CvFrame) (s : State) : State :=
  let x := flow s n
  let q := cvSeq f
  if cvLen f ≠ 8 ∨ leAt (cvBody f) 2 6 ≠ 0 then cvCount 1 1 s
  else if x.up ∧ x.hello = q then helloAck n (setFlow n { x with mac := f.mac, heard := s.now } s)
  else
    let s := if x.up then endSession n s else s
    let x := flow s n
    let first := BitVec.ofNat 32 (fld s.now 10 32)
    let s := setFlow n { x with
      up := true, inForce := (x.cfg, x.peer0, x.peer1), m := min (leAt (cvBody f) 0 2) (fld x.cfg 0 16), mac := f.mac, hello := q, e := q,
      first := first, tx := first, rlimit := first, plimit := BitVec.ofNat 32 x.resv.length, cur := .none, heard := s.now } s
    helloAck n (reserveFlow n s)

/-- A received frame that its row names by type (R395 to R399): discarded with its count, or taken by its flow, which has heard its peer (R400,
R406). A frame that fails R396 and R398 both counts under R396 (log 73). -/
def rxFrame (ty : Nat) (f : CvFrame) (k : Nat → State → State) (s : State) : State :=
  if ¬ bitOf (cvPort s f.port.toNat) 63 then s
  else if ¬ lowerOk s f then cvCount 0 1 s
  else if badHead f then cvCount 1 1 s
  else if cvType f ≠ ty then s
  else
    let n := cvFlow f
    let x := flow s n
    let conf := if ty = 1 ∨ ¬ x.up then (x.cfg, x.peer0, x.peer1) else x.inForce
    if 255 < n ∨ ¬ fromPeer conf f then cvCount 0 1 s
    else
      let s := if x.up then setFlow n { x with heard := s.now } s else s
      if ty ≠ 1 ∧ (¬ x.up ∨ x.m < cvLen f) then cvCount 1 1 s else k n s

/-! ### Commands -/

/-- A COMMAND frame (R407): the queue's next command is taken, at once or once the queue takes it; any other is discarded and counted. -/
def cvCommand (n : Nat) (f : CvFrame) (s : State) : State :=
  match flowQueue s n with
  | none => cvCount 6 1 s
  | some (q, r) =>
    if cvLen f < 128 ∨ leAt (cvBody f) 8 4 ≠ r.c.toNat then cvCount 6 1 s
    else fabricFetch q r (setFlow n { flow s n with wait := some (cvBody f) } s)

/-! ### Result streams -/

/-- Take parts of a stream up to `room` bytes; a record is never split, and one that ends a page or a command closes the frame (R408). -/
def takeParts : Nat → List Chunk → List Chunk × List Chunk × Bool
  | _, [] => ([], [], false)
  | room, c :: r =>
    if room = 0 then ([], c :: r, true)
    else if c.isRec then
      if 64 ≤ room then
        if c.final then ([c], r, true) else
          let (a, b, e) := takeParts (room - 64) r
          (c :: a, b, e)
      else ([], c :: r, true)
    else if c.bytes.length ≤ room then
      let (a, b, e) := takeParts (room - c.bytes.length) r
      (c :: a, b, e)
    else ([{ c with bytes := c.bytes.take room }], { c with bytes := c.bytes.drop room } :: r, true)

/-- Take ready entries of a flow's queue into a frame with `room` bytes left (R408): text first, then its record as it stands now. -/
def takeEntries (n q : Nat) : Nat → Nat → List Chunk → State → List Chunk × State
  | 0, _, ps, s => (ps, s)
  | fuel + 1, room, ps, s =>
    match queue? s q with
    | none => (ps, s)
    | some r =>
      match nextRec r with
      | none => (ps, s)
      | some (k, i, x) =>
        let need := excessNeed s i
        if room = 0 ∨ r2free s < need then (ps, s)
        else
          let fl := flow s n
          let full := x.text ++ List.replicate (paddedLen x.text.length - x.text.length) 0
          let rem := full.drop fl.textSent
          let t := rem.take room
          let ps := if t = [] then ps else ps ++ [⟨t, false, false, i.page⟩]
          let room' := room - t.length
          if t.length < rem.length ∨ room' < 64 then (ps, setFlow n { fl with textSent := fl.textSent + t.length } s)
          else
            let fin := x.pageEnd || x.cmd
            let (bytes, s) := sendBytes x 0 q r (writtenStatus s i x) full.length s
            let late := overdue s i.page && x.pageEnd
            let s := setFlow n { fl with textSent := 0 } s
            let s := match i.page with
              | some pid => modPage pid (fun p => { p with drawn := p.drawn + need }) (r2take need s)
              | none => s
            let s := setQueue q { r with rseq := r.rseq + 1, items := r.items.set k { i with written := i.written + 1 },
                                         missed := if late then r.missed + 1 else r.missed } s
            let s := if i.written + 1 = i.recs.length then itemDone q k { i with written := i.written + 1 } s else s
            let ps := ps ++ [⟨bytes, true, fin, i.page⟩]
            if fin then (ps, s) else takeEntries n q fuel (room' - 64) ps s

/-- A HELLO_ACK that waited for its port goes first (R395, R399). -/
def ackFirst (n : Nat) (s : State) : State := if (flow s n).up ∧ (flow s n).ackDue ∧ canSend s n then helloAck n s else s

/-- RESULT_SEND (R408, R409): the next frame of the stream, once the limit allows and the port can send. -/
def resultSend (n : Nat) (s : State) : State :=
  let s := ackFirst n s
  let x := flow s n
  if ¬ x.up ∨ ¬ canSend s n ∨ ¬ seqLater x.rlimit x.tx then s
  else
    let (ps, rest, closed) := takeParts x.m x.out
    let used := (ps.map (fun c => c.bytes.length)).sum
    let s1 := setFlow n { x with out := rest } s
    let (ps, s2) := match closed, flowQueue s n with
      | false, some (q, _) => takeEntries n q (x.m / 64 + 2) (x.m - used) ps s1
      | _, _ => (ps, s1)
    if ps = [] then s
    else
      let y := flow s2 n
      let s3 := setFlow n { y with tx := y.tx + 1, owed := y.owed - 1, unack := y.unack ++ [⟨y.tx, ps, s.now⟩] } s2
      reserveFlow n (cvSend n 4 y.tx y.e (ps.flatMap (·.bytes)) s3)

/-- RTO_EXPIRY (R410): every unacknowledged frame is sent again in order, with its own number. -/
def rtoExpiry (n : Nat) (s : State) : State :=
  let x := flow s n
  match x.unack with
  | [] => s
  | u :: _ =>
    if ¬ x.up ∨ ¬ canSend s n ∨ s.now.toNat < u.at'.toNat + fld s.cv.timer 48 16 * 1000 then s
    else
      let s := setFlow n { x with unack := x.unack.map (fun v => { v with at' := s.now }) } (cvCount 4 x.unack.length s)
      x.unack.foldl (fun s v => cvSend n 4 v.seq x.e (v.parts.flatMap (·.bytes)) s) s

/-- Idle time in ns (R412). -/
def idleNs (s : State) : Nat := fld s.cv.timer 32 16 * 1000000

/-- PAGE_IDLE_TIMEOUT (R406). -/
def pageIdle (n : Nat) (s : State) : State :=
  let x := flow s n
  let t := x.heard.toNat + idleNs s
  match x.cur with
  | .page _ => if t ≤ s.now.toNat then cvPageEnds n true (BitVec.ofNat 64 t) s else s
  | _ => s

/-- SESSION_IDLE_TIMEOUT (R400). -/
def sessionIdle (n : Nat) (s : State) : State :=
  let x := flow s n
  if x.up ∧ x.heard.toNat + 10 * idleNs s ≤ s.now.toNat then endSession n s else s

/-- CREDIT_KEEPALIVE (R400, R401). -/
def creditKeepalive (n : Nat) (s : State) : State :=
  let s := ackFirst n s
  let x := flow s n
  if x.up ∧ canSend s n ∧ x.spoke.toNat + idleNs s / 4 ≤ s.now.toNat then
    let s := reserveFlow n s
    let y := flow s n
    cvSend n 5 y.tx y.e [] s
  else s

/-- Every flow returns to LISTEN (R483). -/
def listenAll (s : State) : State := (s.cv.flows.map (·.1)).foldl (fun s n => endSession n s) s

/-! ### CV_ registers -/

/-- CV_FLOW_STAT (R412). -/
def flowStat (s : State) (n : Nat) : Word :=
  let x := flow s n
  let st := if x.up then 2 else if bitOf x.cfg 63 then 1 else 0
  let b := match flowQueue s n with | some (q, _) => maskOf 61 1 ||| place q 32 16 | none => 0
  place st 62 2 ||| b ||| place x.m 0 16

/-- Read a CV_ register; none where no register stands (R412). -/
def cvRead (off : Nat) (s : State) : Option (Word × State) :=
  let n := fld s.cv.sel 0 8
  let x := flow s n
  if off = 0xE400 ∨ off = 0xE408 then some (cvPort s ((off - 0xE400) / 8), s)
  else if off = 0xE410 ∨ off = 0xE418 then some (cvAddr s ((off - 0xE410) / 8), s)
  else if 0xE420 ≤ off ∧ off < 0xE440 then some (tabGet s.cv.ip6 ((off - 0xE420) / 8) 0, s)
  else if off = 0xE440 then some (s.cv.timer, s)
  else if off = 0xE448 then some (s.cv.sel, s)
  else if off = 0xE450 then some (x.cfg, s)
  else if off = 0xE458 then some (x.peer0, s)
  else if off = 0xE460 then some (x.peer1, s)
  else if off = 0xE468 then some (flowStat s n, s)
  else if off = 0xE470 then some (place x.e.toNat 32 32 ||| place ((x.unack.head?.map (·.seq)).getD x.tx).toNat 0 32, s)
  else if off = 0xE478 then some (place x.plimit.toNat 32 32 ||| place x.rlimit.toNat 0 32, s)
  else if 0xE480 ≤ off ∧ off < 0xE4C0 then
    let k := (off - 0xE480) / 8
    some ((tabGet s.cv.cnt k 0).setWidth 64, { s with cv := { s.cv with cnt := tabSet s.cv.cnt k 0 } })
  else none

/-- Writable bits of CV_PORT and CV_FLOW_CFG (R412). -/
def cvPortRw : Word := maskOf 63 1 ||| maskOf 59 3 ||| maskOf 0 48
def cvCfgRw : Word := maskOf 45 19 ||| maskOf 40 2 ||| maskOf 0 32

/-- Write a CV_ register (R412); a port is not enabled while its clock is gated (R478). -/
def cvWrite (off : Nat) (d en : Word) (s : State) : Option State :=
  let n := fld s.cv.sel 0 8
  let x := flow s n
  if off = 0xE400 ∨ off = 0xE408 then
    let k := (off - 0xE400) / 8
    if bitOf (d &&& en) 63 ∧ ¬ bitOf (cvPort s k) 63 ∧ ¬ gateOn s (9 + k) then some (ckRefuse cClaim s)
    else some { s with cv := { s.cv with port := tabSet s.cv.port k (putBits (cvPort s k) d cvPortRw en) } }
  else if off = 0xE410 ∨ off = 0xE418 then
    let k := (off - 0xE410) / 8
    some { s with cv := { s.cv with addr := tabSet s.cv.addr k (putBits (cvAddr s k) d (maskOf 48 16 ||| maskOf 0 32) en) } }
  else if 0xE420 ≤ off ∧ off < 0xE440 then
    let k := (off - 0xE420) / 8
    some { s with cv := { s.cv with ip6 := tabSet s.cv.ip6 k (putBits (tabGet s.cv.ip6 k 0) d (~~~ 0) en) } }
  else if off = 0xE440 then some { s with cv := { s.cv with timer := putBits s.cv.timer d (maskOf 32 32) en } }
  else if off = 0xE448 then some { s with cv := { s.cv with sel := putBits s.cv.sel d (maskOf 0 8) en } }
  else if off = 0xE450 then some (reserveFlow n (setFlow n { x with cfg := putBits x.cfg d cvCfgRw en } s))
  else if off = 0xE458 then some (setFlow n { x with peer0 := putBits x.peer0 d (~~~ 0) en } s)
  else if off = 0xE460 then some (setFlow n { x with peer1 := putBits x.peer1 d (~~~ 0) en } s)
  else match cvRead off s with
    | some _ => some s
    | none => none

/-! ### Meanings -/

def execHello (f : CvFrame) (s : State) : Host.Outcome State Fault Refusal := run s (rxFrame 1 f (fun n s => doHello n f s))

def execBye (f : CvFrame) (s : State) : Host.Outcome State Fault Refusal :=
  run s (rxFrame 7 f (fun n s => inSequence n f (endSession n) s))

def execCaravanPageStart (f : CvFrame) (s : State) : Host.Outcome State Fault Refusal :=
  run s (rxFrame 3 f (fun n s => if cvStart f then inSequence n f (cvPageStart n f) s else s))

def execCaravanPageData (f : CvFrame) (s : State) : Host.Outcome State Fault Refusal :=
  run s (rxFrame 3 f (fun n s => if cvStart f ∨ cvEnd f then s else inSequence n f (cvPageMore n f) s))

def execCaravanPageEnd (f : CvFrame) (s : State) : Host.Outcome State Fault Refusal :=
  run s (rxFrame 3 f (fun n s => if cvStart f ∨ ¬ cvEnd f then s else inSequence n f (cvPageMore n f) s))

def execCaravanCommand (f : CvFrame) (s : State) : Host.Outcome State Fault Refusal :=
  run s (rxFrame 6 f (fun n s => inSequence n f (cvCommand n f) s))

def execCaravanCredit (f : CvFrame) (s : State) : Host.Outcome State Fault Refusal :=
  run s (rxFrame 5 f (fun n s => wakeJobs (inSequence n f id s)))

def execResultSend (n : Byte) (s : State) : Host.Outcome State Fault Refusal := run s (resultSend n.toNat)
def execRtoExpiry (n : Byte) (s : State) : Host.Outcome State Fault Refusal := run s (rtoExpiry n.toNat)
def execPageIdleTimeout (n : Byte) (s : State) : Host.Outcome State Fault Refusal := run s (pageIdle n.toNat)
def execSessionIdleTimeout (n : Byte) (s : State) : Host.Outcome State Fault Refusal := run s (sessionIdle n.toNat)
def execCreditKeepalive (n : Byte) (s : State) : Host.Outcome State Fault Refusal := run s (creditKeepalive n.toNat)

/-- A frame that the table of R395 does not accept. -/
def execForeignFrame (port : BitVec 1) (s : State) : Host.Outcome State Fault Refusal :=
  run s (fun s => if bitOf (cvPort s port.toNat) 63 then cvCount 0 1 s else s)

/-- An ARP request or neighbour solicitation (R395). -/
def execArpRequest (port : BitVec 1) (target : IpAddr) (mac : BitVec 48) (s : State) : Host.Outcome State Fault Refusal :=
  run s (fun s =>
    let n := port.toNat
    if ¬ bitOf (cvPort s n) 63 then s
    else if ownAddr s n target then
      { s with cv := { s.cv with last := some (.address n target mac ((cvPort s n).setWidth 48)) } }
    else cvCount 0 1 s)

/-- PAUSE (R395): a quantum is 512 bit times at 100 Gb/s. -/
def execPauseFrame (port : BitVec 1) (quanta : BitVec 16) (s : State) : Host.Outcome State Fault Refusal :=
  run s (fun s =>
    let n := port.toNat
    if bitOf (cvPort s n) 63 then
      { s with cv := { s.cv with pause := tabSet s.cv.pause n (s.now.toNat + ceilDiv (quanta.toNat * 512) 100) } }
    else s)

/-- The link of a port comes up, with FEC locked, or goes down (R395, R412). -/
def execLinkStateChange (port : BitVec 1) (up : Bool) (s : State) : Host.Outcome State Fault Refusal :=
  run s (fun s =>
    let n := port.toNat
    { s with cv := { s.cv with port := tabSet s.cv.port n (setFld (cvPort s n) 62 1 (if up then 1 else 0)) } })

end Sys2Proof.Machine
end

