-- ==== Sys2Proof/Machine/ScanFront.lean ====
section
/-! DEFINITION. The Isawell scan front (04): arming, the pattern generator, line intake, edges and skew, line correction,
calibration, cameras, SF_ registers. -/

namespace Sys2Proof.Machine

/-! ### Registers -/

/-- Reset value of an SF_ register that a door or the line clock uses (R130). -/
def sfReset (off : Nat) : Word :=
  if off = 0x7C08 then 0x100002710
  else if 0x7C40 ≤ off ∧ off < 0x7C60 then 0x000300000000EA60
  else if 0x7C60 ≤ off ∧ off < 0x7C80 then 0x0000100000402084
  else if 0x7F00 ≤ off ∧ off < 0x7F10 then 0x9100000000000000
  else 0

/-- Writable bits of such a register (R130). -/
def sfRw (off : Nat) : Word :=
  if off = 0x7C08 then maskOf 0 40
  else if 0x7C40 ≤ off ∧ off < 0x7C60 then ~~~ (maskOf 21 11 ||| maskOf 50 2)
  else if 0x7C60 ≤ off ∧ off < 0x7C80 then ~~~ 0
  else if 0x7C80 ≤ off ∧ off < 0x7CB0 then maskOf 6 28
  else if 0x7D00 ≤ off ∧ off < 0x7F00 then ~~~ maskOf 32 7
  else if 0x7F00 ≤ off ∧ off < 0x7F10 then ~~~ maskOf 48 6
  else if 0x7F10 ≤ off ∧ off < 0x7F40 then maskOf 0 30
  else 0

/-- The door whose page boundary a register waits for (R131). -/
def sfDoor (off : Nat) : Nat :=
  if off < 0x7C60 then (off - 0x7C40) / 8
  else if off < 0x7C80 then (off - 0x7C60) / 8
  else if off < 0x7CB0 then (off - 0x7C80) / 8
  else if off < 0x7F00 then (off - 0x7D00) / 128
  else if off < 0x7F10 then 4 + (off - 0x7F00) / 8
  else (off - 0x7F10) / 8

/-- A register in force. -/
def sfReg (s : State) (off : Nat) : Word := tabGet s.sf.regs off (sfReset off)

/-- A register as it was last written (R131). -/
def sfSeen (s : State) (off : Nat) : Word := tabGet s.sf.defer off (sfReg s off)

def sfHead (s : State) (h : Nat) : Word := sfReg s (0x7C40 + h * 8)
def sfEdge (s : State) (h : Nat) : Word := sfReg s (0x7C60 + h * 8)
def sfShade (s : State) (d : Nat) : Word := sfReg s (0x7C80 + d * 8)
def sfSeg (s : State) (h k : Nat) : Word := sfReg s (0x7D00 + (h * 16 + k) * 8)
def sfCam (s : State) (c : Nat) : Word := sfReg s (0x7F00 + c * 8)
def sfDelay (s : State) (d : Nat) (tag : Nat) : Nat := if tag < 3 then fld (sfReg s (0x7F10 + d * 8)) (10 * tag) 10 else 0

/-- Count an event of SF_CNT (R130). -/
def sfCount (k n : Nat) (s : State) : State := { s with sf := { s.sf with cnt := cntAdd s.sf.cnt k n } }

/-- A claim of the image on a resource code (R361). -/
def claimed (s : State) (code : Nat) : Bool := s.si.conf.claims.any (fun c => c.1 == code)

/-- The inputs of a door are claimed (R361). -/
def doorEnabled (s : State) (d : Nat) : Bool :=
  if d < 4 then
    let m := fld (sfHead s d) 56 8
    m != 0 && (bitsOf m 8).all (fun a => claimed s (0x05000000 + a))
  else claimed s (0x06000000 + (d - 4))

/-- The queue of a door's page boundary: an open queue bound to the door. -/
def doorQueue (s : State) (d : Nat) : Option (Nat × Queue) :=
  s.dq.queues.find? (fun e => e.2.st != .closed && (e.2.door == 1 || e.2.door == 2) && scanDoor e.2 == d)

/-- SF_FEED_HOLD is asserted (R124). -/
def feedHold (s : State) : Bool := (bitsOf (fld s.sf.pgCtl 16 6) 6).any (fun d => !(door s d).free)

/-- Level of the SF_TO31 ball (R107, R124). -/
def to31 (s : State) : Bool := if s.sf.holdPin then feedHold s != bitOf s.sf.pgCtl 29 else s.sf.outs.getLsbD 31

/-! ### Pattern generator -/

/-- A step of the pattern RAM (R101). -/
def pgStep (s : State) (k : Nat) : BitVec 32 := tabGet s.sf.ram k 0
def pgOp (w : BitVec 32) : Nat := w.toNat / 2 ^ 28
def pgHi (w : BitVec 32) : Nat := w.toNat / 2 ^ 16 % 4096
def pgTarget (w : BitVec 32) : Nat := w.toNat % 4096
def pgStart (s : State) : Nat := fld s.sf.pgCtl 0 12

/-- A step that R104 refuses: reserved operation, nonzero reserved bit, loop target not below its own step. -/
def pgBad (k : Nat) (w : BitVec 32) : Bool :=
  match pgOp w with
  | 0 | 1 => false
  | 2 | 3 => w.toNat / 4096 % 16 != 0 || decide (k ≤ pgTarget w)
  | 4 | 7 => w.toNat % 2 ^ 28 != 0
  | 5 => w.toNat % 2 ^ 28 / 16 != 0
  | 6 => w.toNat % 2 ^ 28 / 4 != 0
  | _ => true

/-- Steps from START to the first END in address order, with whether an END stands there (R104). -/
def pgSpan (s : State) : List Nat × Bool :=
  let all := (List.range 4096).drop (pgStart s)
  let body := all.takeWhile (fun k => pgOp (pgStep s k) != 7)
  match all.drop body.length with
  | e :: _ => (body ++ [e], true)
  | [] => (body, false)

/-- Ticks from step 0 to each step with every loop run out: a loop adds COUNT times its body (R102). -/
def pgPrefix (s : State) : List Nat :=
  ((List.range 4096).foldl (fun (a : List Nat × Nat) k =>
    let w := pgStep s k
    let t := match pgOp w with
      | 0 | 1 => a.2 + pgHi w + 1
      | 2 | 3 => a.2 + pgHi w * (a.2 - nth a.1.reverse (pgTarget w) a.2)
      | _ => a.2
    (a.2 :: a.1, t)) ([], 0)).1.reverse

/-- Ticks from a step to the next WAIT_LINE; a loop whose body holds no WAIT_LINE is passed over whole (R104). DESIGN CHOICE: the tick in which
a WAIT_LINE releases is not counted, for R101 gives WAIT_LINE no ticks of its own (log 69). -/
def pgPass (s : State) (pre : List Nat) : Nat → Nat → Nat → Nat
  | 0, _, t => t
  | n + 1, k, t =>
    let w := pgStep s k
    match pgOp w with
    | 0 | 1 => pgPass s pre n (k + 1) (t + pgHi w + 1)
    | 2 | 3 =>
      let x := pgTarget w
      if pgHi w = 0 then pgPass s pre n (k + 1) t
      else if ((List.range k).drop x).any (fun j => pgOp (pgStep s j) == 4) then pgPass s pre n x t
      else pgPass s pre n (k + 1) (t + pgHi w * (nth pre k 0 - nth pre x 0))
    | 4 => t
    | 7 => pgPass s pre n (pgStart s) t
    | _ => pgPass s pre n (k + 1) t

/-- Ticks of one pass from the release of the first WAIT_LINE to the next one (R104). -/
def pgLen (s : State) : Nat :=
  let first := ((pgSpan s).1.find? (fun k => pgOp (pgStep s k) == 4)).getD 0
  pgPass s (pgPrefix s) 12288 (first + 1) 0

/-- Spread spectrum is enabled on PLL_S (R476). -/
def spreadOn (s : State) : Bool := bitOf s.ck.ss 63

/-- RUN is set: the pattern is refused or the generator starts (R104, R106). A LEN beyond 32 bits has no stated value. -/
def generatorRun (s : State) : State :=
  let refuse := fun c => { s with sf := { s.sf with code := BitVec.ofNat 8 c, pgCtl := s.sf.pgCtl &&& ~~~ maskOf 32 1 } }
  let (span, ends) := pgSpan s
  if ¬ ends ∨ span.any (fun k => pgBad k (pgStep s k)) ∨ ¬ span.any (fun k => pgOp (pgStep s k) == 4) then refuse cReserved
  else if ¬ bitOf s.sf.pgCtl 31 ∧ spreadOn s then refuse cClaim
  else
    let n := pgLen s
    let (v, s) := if n < 2 ^ 32 then (BitVec.ofNat 32 n, s) else let (w, s) := fresh s; (w.setWidth 32, s)
    let f := s.sf
    { s with sf := { f with len := v, code := 0, running := true, stopAsked := false,
                            step := if f.running then f.step else pgStart s, loops := if f.running then f.loops else [] } }

/-- A write to SF_PG_CTL (R104, R105, R109, R130); RUN is refused while the scan front's clock is gated (R478). -/
def pgCtlWrite (d en : Word) (s : State) : State :=
  let old := s.sf.pgCtl
  let new := putBits old d (maskOf 0 12 ||| maskOf 16 6 ||| maskOf 29 1 ||| maskOf 31 3) en
  if bitOf new 32 ∧ ¬ bitOf old 32 ∧ ¬ gateOn s 8 then ckRefuse cClaim s else
  let s := { s with sf := { s.sf with pgCtl := new, lanes := if bitOf (d &&& en) 33 then 0 else s.sf.lanes } }
  if bitOf new 32 ∧ ¬ bitOf old 32 then generatorRun s
  else if bitOf old 32 ∧ ¬ bitOf new 32 then { s with sf := { s.sf with stopAsked := s.sf.running } }
  else s

/-- SF_PG_ACC as it reads: the ADDR last written and that step (R130). -/
def pgAcc (s : State) : Word := place s.sf.acc 32 12 ||| (pgStep s s.sf.acc).setWidth 64

/-- A write to SF_PG_ACC (R105, R130). -/
def pgAccWrite (d en : Word) (s : State) : State :=
  if s.sf.running then wdisc s
  else
    let w := putBits (pgAcc s) d (maskOf 0 44) en
    { s with sf := { s.sf with acc := fld w 32 12, ram := tabSet s.sf.ram (fld w 32 12) (w.setWidth 32) } }

/-- The step executing, when the generator runs and the step has this operation. -/
def atOp (s : State) (op : Nat) : Option (BitVec 32) :=
  let w := pgStep s s.sf.step
  if s.sf.running ∧ pgOp w = op then some w else none

/-- Go on to another step. -/
def goStep (k : Nat) (s : State) : State := { s with sf := { s.sf with step := k % 4096 } }

/-- RUN (R102): SF_TO0 to SF_TO15 take their levels. -/
def patternRun (s : State) : State :=
  match atOp s 0 with
  | some w => goStep (s.sf.step + 1) { s with sf := { s.sf with outs := (s.sf.outs &&& 0xFFFF0000) ||| (w &&& 0xFFFF) } }
  | none => s

/-- SETHI (R102, R107): SF_TO16 to SF_TO31; bit 15 is ignored while SF_TO31 carries SF_FEED_HOLD. -/
def patternSethi (s : State) : State :=
  match atOp s 1 with
  | some w =>
    let m : BitVec 32 := if s.sf.holdPin then 0x7FFF0000 else 0xFFFF0000
    goStep (s.sf.step + 1) { s with sf := { s.sf with outs := (s.sf.outs &&& ~~~ m) ||| ((w <<< 16) &&& m) } }
  | none => s

/-- LOOPn (R102): back to TARGET COUNT further times, then on, the counter reloading. DESIGN CHOICE: each LOOP step has a counter of its own, kept
by its address; the spec does not say whether steps of one LOOPn share it (log 69). -/
def patternLoop (op : Nat) (s : State) : State :=
  match atOp s op with
  | some w =>
    let k := s.sf.step
    let c := tabGet s.sf.loops k (pgHi w)
    if c = 0 then goStep (k + 1) { s with sf := { s.sf with loops := tabDel s.sf.loops k } }
    else goStep (pgTarget w) { s with sf := { s.sf with loops := tabSet s.sf.loops k (c - 1) } }
  | none => s

/-- WAIT_LINE (R103): the pending trigger is consumed and the step releases; without one it waits. Later captures belong to this trigger's line
(R110). -/
def patternWait (s : State) : State :=
  match atOp s 4 with
  | some _ => if s.sf.trig then goStep (s.sf.step + 1) { s with sf := { s.sf with trig := false, trigs := s.sf.trigs + 1 } } else s
  | none => s

/-- CAPTURE (R110): each head of the mask opens a capture with the colour tag in force, for the line of the last trigger. -/
def patternCapture (s : State) : State :=
  match atOp s 5 with
  | some w => goStep (s.sf.step + 1) { s with sf := { s.sf with
      caps := s.sf.caps ++ (bitsOf (w.toNat % 16) 4).map (fun h => (s.sf.trigs, h, s.sf.tag)) } }
  | none => s

/-- COLOUR (R110): the tag of later captures. -/
def patternColour (s : State) : State :=
  match atOp s 6 with
  | some w => goStep (s.sf.step + 1) { s with sf := { s.sf with tag := w.setWidth 2 } }
  | none => s

/-- END (R102, R105): back to START, or the generator stops with its outputs kept. DESIGN CHOICE: a pending line trigger is dropped with the stop,
and triggers arise only while the generator runs (log 69). -/
def patternEnd (s : State) : State :=
  match atOp s 7 with
  | some _ =>
    let s := goStep (pgStart s) s
    if s.sf.stopAsked then { s with sf := { s.sf with running := false, stopAsked := false, trig := false } } else s
  | none => s

/-- A line trigger (R103, R131): SF_LINE as last written applies; a second pending trigger is lost and counted. -/
def lineTrigger (s : State) : State :=
  let s := match s.sf.defer.find? (fun e => e.1 == 0x7C08) with
    | some (_, w) => { s with sf := { s.sf with regs := tabSet s.sf.regs 0x7C08 w, defer := tabDel s.sf.defer 0x7C08 } }
    | none => s
  if s.sf.trig then sfCount 0 1 s else { s with sf := { s.sf with trig := true } }

/-- The line period ends (R103). -/
def linePeriod (s : State) : State := if s.sf.running ∧ ¬ bitOf s.sf.pgCtl 31 then lineTrigger s else s

/-- A rising edge of SF_ENC (R103). -/
def encoderEdge (s : State) : State :=
  if s.sf.running ∧ bitOf s.sf.pgCtl 31 then
    let n := fld (sfReg s 0x7C08) 32 8
    let div := if n = 0 then 256 else n
    if div ≤ s.sf.edges + 1 then lineTrigger { s with sf := { s.sf with edges := 0 } }
    else { s with sf := { s.sf with edges := s.sf.edges + 1 } }
  else s

/-- A lane found 0xF0 on 64 successive samples (R109): of an AFE that a claimed head enables, while TRAIN is set. -/
def laneLock (lane : Nat) (s : State) : State :=
  let a := lane / 2
  let en := claimed s (0x05000000 + a) && (List.range 4).any (fun h => (fld (sfHead s h) 56 8).testBit a)
  if bitOf s.sf.pgCtl 33 ∧ en then { s with sf := { s.sf with lanes := s.sf.lanes ||| (1#16 <<< lane) } } else s

/-! ### Geometry -/

/-- Segments of a door as (POS, reversed, FIRST, COUNT) (R116). -/
def segs (s : State) (d : Nat) : List (Nat × Bool × Nat × Nat) :=
  if d < 4 then (List.range (fld (sfHead s d) 52 4 + 1)).map (fun k =>
    let w := sfSeg s d k
    (fld w 40 24, bitOf w 39, fld w 16 16, fld w 0 16))
  else [(0, false, 0, fld (sfCam s (d - 4)) 16 16)]

/-- Least position of a door's segments (R116). -/
def posMin (sg : List (Nat × Bool × Nat × Nat)) : Nat :=
  match sg.filter (fun g => g.2.2.2 != 0) with | [] => 0 | g :: r => r.foldl (fun m x => min m x.1) g.1

/-- Insert a placed sample by position. -/
def insPos (x : Nat × Nat) : List (Nat × Nat) → List (Nat × Nat)
  | [] => [x]
  | y :: r => if x.1 < y.1 then x :: y :: r else y :: insPos x r

/-- The remaining samples, as (position, raw index) in order of position; `dead` raw indices are dropped (R116). -/
def placed (sg : List (Nat × Bool × Nat × Nat)) (dead : Nat → Bool) : List (Nat × Nat) :=
  let one := fun (g : Nat × Bool × Nat × Nat) =>
    let lim := (sg.filter (fun x => decide (g.1 < x.1) && x.2.2.2 != 0)).map (·.1)
    ((List.range g.2.2.2).map (fun j => (g.1 + 256 * j, if g.2.1 then g.2.2.1 + (g.2.2.2 - 1 - j) else g.2.2.1 + j))).filter
      (fun x => lim.all (fun l => decide (x.1 < l)) && !(dead x.2))
  let order := sg.foldr (fun g l => (l.takeWhile (fun x => decide (x.1 < g.1))) ++ [g] ++ l.dropWhile (fun x => decide (x.1 < g.1))) []
  order.foldl (fun l g =>
    let n := one g
    match l.getLast?, n with
    | some a, b :: _ => if a.1 ≤ b.1 then l ++ n else n.foldl (fun l x => insPos x l) l
    | _, _ => l ++ n) []

/-- Native stitched width W (R116). -/
def stitchW (sg : List (Nat × Bool × Nat × Nat)) (pl : List (Nat × Nat)) : Nat :=
  match pl.getLast? with | some e => (e.1 - posMin sg) / 256 + 1 | none => 0

/-- Output pixels of one line: each between its neighbours among the remaining samples; before the first remaining sample the value
is not stated and `free` gives it (R116). -/
def stitchLine (pmin : Nat) (val : Nat → Nat) (free : Nat → Nat) : Nat → Nat → Option (Nat × Nat) → List (Nat × Nat) → List Nat
  | 0, _, _, _ => []
  | n + 1, x, last, rest =>
    let p := pmin + 256 * x
    let a := match (rest.takeWhile (fun e => decide (e.1 ≤ p))).getLast? with | some e => some e | none => last
    let rest := rest.dropWhile (fun e => decide (e.1 ≤ p))
    let v := match a, rest.head? with
      | some a, some b => if a.1 = p then val a.2 else rneNat ((b.1 - p) * val a.2 + (p - a.1) * val b.2) (b.1 - a.1)
      | some a, none => val a.2
      | none, _ => free x
    v :: stitchLine pmin val free n (x + 1) a rest

/-! ### Line correction -/

/-- Samples of a tag in a line. -/
def tagOf (l : RawLine) (tag : BitVec 2) : Option (List (BitVec 16)) := (l.find? (fun e => e.1 == tag)).map (·.2)

/-- Place of a tag among those the line carries: the plane number of the shading table (R112). -/
def planeNo (l : RawLine) (tag : BitVec 2) : Nat := (l.filter (fun e => decide (e.1.toNat < tag.toNat))).length

/-- Shading entries (dark, gain) of a plane of S samples (R112). -/
def shadeTab (s : State) (d c n : Nat) : List (Nat × Nat) :=
  let b := swBytes s (fld (sfShade s d) 6 27 * 64 + c * n * 4) (4 * n)
  (List.range n).map (fun i => let e := b.drop (4 * i); (leAt e 0 2, leAt e 2 2))

/-- Shading of one sample (R112). -/
def shade (v dark gain : Nat) : Nat := clampNat (rneInt (((v : Int) - dark) * gain) 4096) 65535

/-- Plane tags that an arming takes of the tags that a door's lines carry (R98). -/
def usedTags (planes : Bool) (tags : List Nat) : List Nat := if planes then [0, 1, 2] else if tags.contains 3 then [3] else [1]

/-- Tags of a line. -/
def lineTags (l : RawLine) : List Nat := l.map (fun e => e.1.toNat)

/-- Samples that one plane of a door's raw line holds (R110, R127). -/
def planeSamples (s : State) (d : Nat) : Nat :=
  if d < 4 then fld (sfHead s d) 32 16 * (bitsOf (fld (sfHead s d) 56 8) 8).length else fld (sfCam s (d - 4)) 16 16

/-- Dead raw indices of plane `c` of a door: gain 0 in the table in force (R114, R116). -/
def deadIn (s : State) (d c : Nat) : Nat → Bool :=
  if bitOf (sfShade s d) 33 then let tab := shadeTab s d c (planeSamples s d); fun i => (nth tab i (0, 4096)).2 == 0
  else fun _ => false

/-- Native stitched width W of a door whose lines carry `tags`, for the planes `used` (R116). DESIGN CHOICE: where dead pixels leave the planes
different widths the least counts (log 69). -/
def doorWidth (s : State) (d : Nat) (tags used : List Nat) : Nat :=
  let sg := segs s d
  match used.map (fun t => stitchW sg (placed sg (deadIn s d (tags.filter (· < t)).length))) with
  | [] => 0
  | w :: r => r.foldl min w

/-- Shaded, aligned and stitched native line of one plane: `prev` is the page's line before (R112, R115, R116). -/
def nativeLine (s : State) (d : Nat) (tag : BitVec 2) (l prev : RawLine) : List Nat :=
  let v := (tagOf l tag).getD []
  let u := (tagOf prev tag).getD v
  let en := bitOf (sfShade s d) 33
  let tab := if en then shadeTab s d (planeNo l tag) v.length else []
  let f := sfDelay s d tag.toNat % 16
  let y := fun (x : BitVec 16) (i : Nat) => if en then (let e := nth tab i (0, 4096); shade x.toNat e.1 e.2) else x.toNat
  let al := ((List.range v.length).zip (v.zip (u ++ v.drop u.length))).map (fun e =>
    if f = 0 then y e.2.1 e.1 else rneNat ((16 - f) * y e.2.1 e.1 + f * y e.2.2 e.1) 16)
  let sg := segs s d
  let pl := placed sg (fun i => en && (nth tab i (0, 4096)).2 == 0)
  stitchLine (posMin sg) (fun i => nth al i 0) (fun x => (Config.freeWord (s.freeTick + x)).toNat % 65536) (stitchW sg pl) 0 none pl

/-- Averaged 8-bit output row of YAVG native lines (R117). -/
def averageRows (xavg : Nat) (rows : List (List Nat)) : Bytes :=
  let w := (rows.map List.length).foldl min (rows.headD []).length
  let col := ((List.range w).map (fun x => (rows.map (fun r => nth r x 0)).sum))
  (List.range (w / xavg)).map (fun x =>
    BitVec.ofNat 8 (min 255 (rneNat (rneNat ((col.drop (x * xavg)).take xavg).sum (xavg * rows.length)) 256)))

/-- The arming that a page was admitted under. -/
def armOf (s : State) (d : Nat) (cseq : BitVec 32) : Option Arming := (door s d).arms.find? (fun a => a.cseq == cseq)

/-- Output lines `a` to `b` of a page from its raw lines (R111 to R117). -/
def correctLines (s : State) (d : Nat) (planes : Bool) (xavg yavg : Nat) (raw : List RawLine) (a b : Nat) : List (List Bytes) :=
  let grp := ((List.range b).drop a).map (fun n => (List.range yavg).map (fun j => n * yavg + j))
  grp.map (fun idx =>
    (usedTags planes (lineTags (nth raw (nth idx 0 0) []))).map (fun t =>
      averageRows xavg (idx.map (fun m => nativeLine s d (BitVec.ofNat 2 t) (nth raw m []) (nth raw (m - 1) [])))))

/-- The scan front as its registers stood for a page (R131). -/
def sfFor (p : Page) (s : State) : State := { s with sf := { s.sf with regs := p.sfRegs } }

/-- One intake stripe commits: its output lines are in the page buffer, behind the frame (R96, R122, R142). After the last the page goes to
preparation. -/
def intakeStripe (pid : BitVec 32) (s : State) : State :=
  match page? s pid with
  | none => s
  | some p =>
    if p.stage ≠ .intake ∨ ¬ (p.door = 1 ∨ p.door = 2) then s else
    let upto := 64 * (p.stripes + 1)
    let n := p.raw.length
    if n < upto ∧ ¬ p.dataEnd then s else
    match queue? s p.queue with
    | none => s
    | some r =>
      let d := scanDoor r
      let (xa, ya) := pageAvg p
      let planes := ((armOf s d p.cseq).map (·.planes)).getD false
      let rows := correctLines (sfFor p s) d planes xa ya p.raw (min n (64 * p.stripes) / ya) (min n upto / ya)
      let tags := lineTags (p.raw.headD [])
      let w := doorWidth (sfFor p s) d tags (usedTags planes tags) / xa
      let fin := p.dataEnd && decide (n ≤ upto)
      let head := match p.frame with | some f => frameBytes f ++ List.replicate 32 0 | none => List.replicate 64 0
      let p := { p with buf := head ++ p.buf.drop 64 ++ rows.flatMap (lineBytes w), stripes := if fin then 0 else p.stripes + 1,
                        stage := if fin then .prep else .intake, raw := if fin then [] else p.raw }
      grantPairs (setPage p { s with freeTick := s.freeTick + 65536 })

/-! ### Arming and reservation -/

/-- Steps that may follow a step: a loop with a COUNT goes to its TARGET and also on (R102). -/
def pgNext (s : State) (k : Nat) : List Nat :=
  let w := pgStep s k
  match pgOp w with
  | 7 => [pgStart s]
  | 2 | 3 => if pgHi w = 0 then [k + 1] else [pgTarget w, k + 1]
  | _ => [k + 1]

/-- Steps that run from the steps `todo` on, or, with `cut`, before the next COLOUR. -/
def pgReach (s : State) (cut : Bool) : Nat → List Nat → List Nat → List Nat
  | 0, _, seen => seen
  | _ + 1, [], seen => seen
  | n + 1, k :: todo, seen =>
    if 4096 ≤ k ∨ seen.contains k ∨ (cut ∧ pgOp (pgStep s k) = 6) then pgReach s cut n todo seen
    else pgReach s cut n (pgNext s k ++ todo) (k :: seen)

/-- Tags that the captures of a door carry: the camera's channels, or the captures of the pattern in its steady state, each with the COLOUR that
runs last before it (R98, R102). -/
def doorTags (s : State) (d : Nat) : List Nat :=
  if d < 4 then
    let all := pgReach s false 12288 [pgStart s] []
    let cols := all.filter (fun k => pgOp (pgStep s k) == 6)
    let takes := fun (ks : List Nat) => ks.any (fun k => pgOp (pgStep s k) == 5 && (pgStep s k).toNat.testBit d)
    if cols = [] then (if takes all then [s.sf.tag.toNat] else [])
    else (List.range 4).filter (fun t => cols.any (fun k => (pgStep s k).toNat % 4 == t && takes (pgReach s true 12288 [k + 1] [])))
  else if (bitsOf (fld (sfCam s (d - 4)) 56 4) 4).length = 3 then [0, 1, 2] else [3]

/-- Colour delay SRAM that a door needs (R111). -/
def delayNeed (s : State) (d : Nat) : Nat :=
  let tags := doorTags s d
  let k := (tags.map (fun t => sfDelay s d t / 16)).foldl max 0
  k * doorWidth s d tags tags * 2 * tags.length

/-- Colour delay SRAM that other armed doors hold. -/
def delayHeld (s : State) (d : Nat) : Nat :=
  ((List.range 6).filter (fun e => e != d && !(door s e).arms.isEmpty)).foldl (fun n e => n + delayNeed s e) 0

/-- The arming that a SCAN_ARM describes (R98). -/
def armFrom (seq : BitVec 32) (d : Bytes) : Arming :=
  let w := leAt d 0x14 4
  let one := fun n => if n = 0 then 1 else n
  let dpi := fun n => if n = 0 then 300 else n
  { left := BitVec.ofNat 32 (leAt d 0x10 4), profile := w % 65536, xavg := one (w / 65536 % 16), yavg := one (w / 2 ^ 20 % 16),
    planes := w.testBit 24, dpiX := dpi (leAt d 0x18 2), dpiY := dpi (leAt d 0x1A 2), cseq := seq, first := true, ended := false }

/-- Codes that refuse a SCAN_ARM (R98, R111, R137, R361). -/
def armCode (s : State) (r : Queue) (a : Arming) : Nat :=
  let d := scanDoor r
  let tags := doorTags s d
  let w := doorWidth s d tags (usedTags a.planes tags) / max 1 a.xavg
  let ca := ppClassA s r.cls
  pickCode [
    if 4 < a.xavg ∨ 4 < a.yavg then cDimLimit else 0,
    if ppWmax ca < w ∨ r.quota * 4096 < w * ppHmax ca then cDimLimit else 0,
    if a.planes ∧ ¬ (0 ∈ tags ∧ 2 ∈ tags) then cVersion else 0,
    if doorEnabled s d then 0 else cClaim,
    if 2 ^ 23 < delayHeld s d + delayNeed s d then cQuota else 0]

/-- Registers of a door that wait for its page boundary apply (R131), and the next decision is open (R123). -/
def boundary (d : Nat) (s : State) : State :=
  let mine := s.sf.defer.filter (fun e => e.1 != 0x7C08 && sfDoor e.1 == d)
  let s := { s with sf := { s.sf with
    regs := mine.foldl (fun t e => tabSet t e.1 e.2) s.sf.regs
    defer := s.sf.defer.filter (fun e => e.1 == 0x7C08 || sfDoor e.1 != d) } }
  setDoor d { door s d with expect := !(door s d).free } s

/-- SCAN_ARM with a nonzero COUNT (R98, R99, R123): the new arming governs, its record waits for its pages. At an idle door the moment is a page
boundary. -/
def doScanArm (q : Nat) (s : State) : State :=
  match current s q 4 with
  | none => s
  | some (r, cmd) =>
    let a := armFrom cmd.seq cmd.desc
    if a.left = 0 then s else
    let s := clearCur q s
    let c := armCode s r a
    if c ≠ 0 then pushCmdRec q cmd.seq c true s
    else
      let d := scanDoor r
      let s := if (door s d).page.isNone ∧ ¬ (door s d).lost ∧ ¬ (door s d).free then boundary d s else s
      let x := door s d
      let live := x.arms.filter (fun b => !b.ended)
      let s := setDoor d { x with arms := x.arms.map (fun b => { b with ended := true }) ++ [a],
                                  armDone := x.armDone ++ live.map (·.cseq) } s
      settleArms q (pushCmdRec q cmd.seq cOk false s)

/-- SCAN_ARM with COUNT 0 (R99): the arming in force ends; its own record is written at once. -/
def doScanDisarm (q : Nat) (s : State) : State :=
  match current s q 4 with
  | none => s
  | some (r, cmd) =>
    let a := armFrom cmd.seq cmd.desc
    if a.left ≠ 0 then s else
    let s := clearCur q s
    let tags := doorTags s (scanDoor r)
    let c := pickCode [if 4 < a.xavg ∨ 4 < a.yavg then cDimLimit else 0, if a.planes ∧ ¬ (0 ∈ tags ∧ 2 ∈ tags) then cVersion else 0]
    if c ≠ 0 then pushCmdRec q cmd.seq c true s
    else settleArms q (pushCmdRec q cmd.seq cOk true (disarm (scanDoor r) s))

/-- Raw lines that a page may hold under an arming (R120). -/
def rawLimit (ppA : Word) (yavg : Nat) : Nat := ppHmax ppA * yavg

/-- Reservation of a scan-front page (R534). -/
def scanBufBytes (s : State) (d cls : Nat) (a : Arming) : Nat :=
  let tags := doorTags s d
  let samples := planeSamples s d * tags.length
  let h := ppHmax (ppClassA s cls)
  let p := linePitch (doorWidth s d tags (usedTags a.planes tags) / a.xavg) (if a.planes then 3 else 1)
  64 + 2 * samples * (h * a.yavg) + p * h

/-- The decision on the next page at a boundary, or later while it is still open (R123). -/
def reservation (d : Nat) (s : State) : State :=
  match doorQueue s d with
  | none => s
  | some (q, r) =>
    let x := door s d
    match x.arms.getLast? with
    | none => s
    | some a =>
      let need := resvOf s r (scanBufBytes s d r.cls a)
      let s := holdCheck q s
      if x.free ∨ ¬ x.expect ∨ a.ended ∨ a.left = 0 ∨ x.cal ≠ 0 ∨ qstate s q ≠ .opened ∨ draining s r.part ∨ r2free s < need.total then s
      else
        let left := if a.left = 0xFFFFFFFF then a.left else a.left - 1
        let a' := { a with left := left, ended := left == 0 }
        let s := r2take need.total s
        setDoor d { x with free := true, freeBytes := need, freeArm := a.cseq, seen := x.page.isNone && !x.lost && !x.skip && decide (0 < x.run), expect := false, arms := x.arms.dropLast ++ [a'],
                           armDone := if left = 0 then x.armDone ++ [a.cseq] else x.armDone } s

/-! ### Pages at a door -/

/-- A page starts on the door's reservation (R13, R123): it is admitted under the reservation's arming. -/
def startPage (d : Nat) (s : State) : State :=
  match doorQueue s d with
  | none => s
  | some (q, r) =>
    let x := door s d
    match armOf s d x.freeArm with
    | none => s
    | some a =>
      let claim : Claim := ⟨0, a.cseq.toNat, 0, a.xavg, a.yavg, 0, a.dpiX⟩
      let (pid, s) := admitPage q r a.cseq a.profile a.first claim none x.freeBytes s
      setDoor d { x with free := false, freeBytes := Resv.none, seen := false, page := some pid, count := 0, lastPaper := 0, bands := [], span := none,
                         edge := none, nonRun := 0,
                         arms := x.arms.map (fun b => if b.cseq = a.cseq then { b with first := false } else b) } s

/-- A sheet or window without a reservation is a lost page (R125). -/
def startLost (d : Nat) (s : State) : State :=
  let q := doorQueue s d
  let s := sfCount 1 1 s
  let s := barker 0x0201 1 { part := (q.map (·.2.part)).getD 0, queue := (q.map (·.1)).getD 0xFFFF, detail := d } s
  setDoor d { door s d with lost := true, nonRun := 0 } s

/-- Least-squares sums of points: N, sum of x, of y, of xx, of xy. -/
def lsSums (pts : List (Int × Int)) : Int × Int × Int × Int × Int :=
  pts.foldl (fun a p => (a.1 + 1, a.2.1 + p.1, a.2.2.1 + p.2, a.2.2.2.1 + p.1 * p.1, a.2.2.2.2 + p.1 * p.2)) (0, 0, 0, 0, 0)

/-- Slope as a fraction with a nonnegative denominator; 0/0 of points without spread. -/
def lsSlope (pts : List (Int × Int)) : Int × Int :=
  let (n, sx, sy, sxx, sxy) := lsSums pts
  (n * sxy - sx * sy, n * sxx - sx * sx)

/-- Residual of a point times N times the slope's denominator. -/
def lsRes (pts : List (Int × Int)) (t : Int × Int) (p : Int × Int) : Int :=
  let (n, sx, sy, _, _) := lsSums pts
  t.2 * (n * p.2 - sy) - t.1 * (n * p.1 - sx)

/-- Skew of the bands seen (R121): SKEW, RESID and SKEW_UNSURE. x is in 1/32 pixel. -/
def skewFit (pts : List (Int × Int)) : Int × Nat × Bool :=
  let t0 := lsSlope pts
  let n0 : Int := pts.length
  let keep := if t0.2 = 0 then pts else pts.filter (fun p => decide ((lsRes pts t0 p).natAbs ≤ 8 * (n0 * t0.2).natAbs))
  let t := lsSlope keep
  if keep.length < 4 ∨ t.2 = 0 then (0, 0, true)
  else
    let n : Int := keep.length
    let ss := (keep.map (fun p => (lsRes keep t p) * (lsRes keep t p))).sum.toNat
    let den := (n * t.2).natAbs
    let sq := ss * 256 / (keep.length * den * den)
    let root := Nat.sqrt sq
    let resid := if (2 * root + 1) * (2 * root + 1) * (keep.length * den * den) < 4 * ss * 256 then root + 1 else root
    let big := decide (t.2.natAbs < 4 * (32 * t.1.natAbs))
    let sk := if big then (if t.1 < 0 then -8192 else 8192) else rneInt (t.1 * 32 * 32768) t.2.natAbs
    (sk, min resid 65535, big)

/-- The page frame of a page that ends now (R122). -/
def frameOf (s : State) (d : Nat) (p : Page) (x : Door) (cut : Bool) : Frame :=
  let a := armOf s d p.cseq
  let (xa, ya) := pageAvg p
  let planes := (a.map (·.planes)).getD false
  let tags := lineTags (p.raw.headD [])
  let w := doorWidth s d tags (usedTags planes tags)
  let cam := decide (4 ≤ d)
  let pts := match x.span with
    | some (l, r) => x.bands.map (fun b => (((32 * l + (2 * b.1 + 1) * (r - l) : Nat) : Int), ((b.2 : Nat) : Int)))
    | none => []
  let (sk, res, unsure) := if cam then (0, 0, false) else skewFit pts
  { pid := p.id, width := w / xa, lines := x.count / ya, lead := if cam then 0 else x.lead, trail := if cam then x.count - 1 else x.lastPaper,
    left := if cam then 0 else (x.edge.map (·.1)).getD 0, right := if cam then w / xa else (x.edge.map (·.2)).getD 0,
    skew := sk, resid := res, long := cut, unsure := unsure, repaired := x.repaired, door := d,
    planes := planes, dpiX := (a.map (·.dpiX)).getD 300, dpiY := (a.map (·.dpiY)).getD 300 }

/-- The page in progress, or the lost page, ends (R17, R119, R120, R123), with its last line captured at `t`. The frame goes to the start of the
page buffer (R122). -/
def endScan (d : Nat) (cut : Bool) (t : BitVec 64) (s : State) : State :=
  let x := door s d
  let q := doorQueue s d
  let s := match x.page with
    | some pid =>
      let s := modPage pid (fun p =>
        let f := frameOf s d p x cut
        { p with frame := some f, buf := frameBytes f ++ List.replicate 32 0 ++ p.buf.drop 64, start := some t, dataEnd := true }) s
      if cut then barker 0x0202 0 { part := (q.map (·.2.part)).getD 0, queue := (q.map (·.1)).getD 0xFFFF, detail := pid.toNat } s else s
    | none => s
  boundary d (setDoor d { x with page := none, lost := false, skip := cut, run := 0, nonRun := 0, count := 0, repaired := false } s)

/-- Lines of a page appended to its page buffer (R96). -/
def addRaw (d : Nat) (ls : List RawLine) (s : State) : State :=
  let x := door s d
  let s := match x.page with
    | some pid => modPage pid (fun p => if p.stage = .intake then { p with raw := p.raw ++ ls } else p) s
    | none => s
  setDoor d { x with count := x.count + ls.length } s

/-- The height limit of the page in progress is reached (R120). -/
def atLimit (s : State) (d : Nat) : Bool :=
  let x := door s d
  match x.page.bind (page? s) with
  | some p => decide (rawLimit p.ppA (pageAvg p).2 ≤ x.count)
  | none => false

/-! ### CIS heads -/

/-- A sample is paper (R119). -/
def isPaper (e : Word) (v : BitVec 16) : Bool := decide (v.toNat < fld e 48 16 ∨ fld e 32 16 < v.toNat)

/-- Samples of the edge tag. -/
def edgeSamples (s : State) (h : Nat) (l : RawLine) : List (BitVec 16) := (tagOf l (BitVec.ofNat 2 (fld (sfHead s h) 48 2))).getD []

/-- A line is a paper line (R119). -/
def paperLine (s : State) (h : Nat) (l : RawLine) : Bool :=
  decide (fld (sfEdge s h) 16 16 ≤ ((edgeSamples s h l).filter (isPaper (sfEdge s h))).length)

/-- Paper by native output pixel: (x, is paper) of each remaining sample of the edge tag. -/
def paperPixels (s : State) (h : Nat) (l : RawLine) : List (Nat × Bool) :=
  let v := edgeSamples s h l
  let sg := segs s h
  (placed sg (fun _ => false)).map (fun e => ((e.1 - posMin sg) / 256, isPaper (sfEdge s h) (nth v e.2 0)))

/-- Least paper x and greatest paper x plus 1 seen so far, with one more line (R122). -/
def seenEdge (px : List (Nat × Bool)) (e : Option (Nat × Nat)) : Option (Nat × Nat) :=
  let paper := px.filter (·.2)
  match e, paper.head?, paper.getLast? with
  | some e, some a, some b => some (min e.1 a.1, max e.2 (b.1 + 1))
  | none, some a, some b => some (a.1, b.1 + 1)
  | e, _, _ => e

/-- One line of a page in edge detection (R119, R121, R122): counts, the paper's edges, and from the leading edge on the bands. `n` is the line's
number on the page. -/
def edgeLine (s : State) (h : Nat) (l : RawLine) (n : Nat) (x : Door) : Door :=
  let px := paperPixels s h l
  let paper := px.filter (·.2)
  let line := paperLine s h l
  if n < x.lead then { x with edge := seenEdge px x.edge } else
  let span := match x.span, paper.head?, paper.getLast? with
    | some v, _, _ => some v
    | none, some a, some b => some (a.1, b.1 + 1)
    | none, _, _ => none
  let since := n - x.lead
  let bands := match span with
    | some (a, b) =>
      if since < 256 then (List.range 16).foldl (fun bs k =>
        if bs.any (fun e => e.1 == k) then bs else
        let mine := px.filter (fun e => decide (16 * a + k * (b - a) ≤ 16 * e.1 ∧ 16 * e.1 < 16 * a + (k + 1) * (b - a)))
        if mine ≠ [] ∧ mine.length ≤ 2 * (mine.filter (·.2)).length then bs ++ [(k, since)] else bs) x.bands
      else x.bands
    | none => x.bands
  { x with span := span, edge := seenEdge px x.edge, bands := bands, nonRun := if line then 0 else x.nonRun + 1,
           lastPaper := if line then n else x.lastPaper }

/-- A line after the whole-line colour delay (R111): each plane from k lines before; lines before the first capture have no stated
samples. -/
def delayed (s : State) (d : Nat) (past : List RawLine) (l : RawLine) : RawLine × Nat :=
  l.foldl (fun (a : RawLine × Nat) e =>
    let k := sfDelay s d e.1.toNat / 16
    if k = 0 then (a.1 ++ [e], a.2)
    else match (past[k - 1]?).bind (fun p => tagOf p e.1) with
      | some v => (a.1 ++ [(e.1, v)], a.2)
      | none => (a.1 ++ [(e.1, (List.range e.2.length).map (fun i => (Config.freeWord (s.freeTick + a.2 + i)).setWidth 16))], a.2 + e.2.length))
    ([], 0)

/-- A leading edge stands at the first of the last LEAD_RUN lines (R119, R125). -/
def leadingEdge (h n : Nat) (s : State) : State :=
  let s := if (door s h).free then startPage h s else startLost h s
  let x := door s h
  match x.page with
  | none => s
  | some _ =>
    let pre := fld (sfEdge s h) 10 6
    let ls := (x.pre.take (pre + n)).reverse
    let lead := ls.length - min n ls.length
    let x := { x with lead := lead, count := 0 }
    let x := ((List.range ls.length).zip ls).foldl (fun x e => edgeLine s h e.2 e.1 x) x
    addRaw h ls (setDoor h x s)

/-- A line of a head that is not calibrating: edge detection, and the page buffer of the page in progress (R119, R120, R125). DESIGN CHOICE: a
detection line at which the page also reaches its height limit ends the page without LONG (log 69). -/
def headLine (h : Nat) (l : RawLine) (s : State) : State :=
  let e := sfEdge s h
  let leadRun := max 1 (fld e 5 5)
  let trailRun := max 1 (fld e 0 5)
  let x := door s h
  let x := { x with pre := (l :: x.pre).take 128 }
  let s := setDoor h x s
  if x.page.isSome ∨ x.lost then
    let s := setDoor h (edgeLine s h l x.count x) s
    let s := addRaw h [l] s
    if trailRun ≤ (door s h).nonRun then endScan h false s.now s
    else if atLimit s h then endScan h true s.now s else s
  else
    let paper := paperLine s h l
    if x.skip then
      let n := if paper then 0 else x.nonRun + 1
      setDoor h { x with nonRun := n, skip := decide (n < trailRun), run := 0 } s
    else
      let n := if paper then x.run + 1 else 0
      let s := setDoor h { x with run := n, seen := x.seen || (x.free && paper) } s
      if leadRun ≤ n then
        let s := leadingEdge h n s
        if atLimit s h then endScan h true s.now s else s
      else s

/-- A page of the door still has raw lines to correct (R113). -/
def rawLeft (s : State) (d : Nat) : Bool :=
  match doorQueue s d with
  | some (q, _) => s.pp.pages.any (fun e => e.2.queue == q && e.2.stage == .intake)
  | none => false

/-- The captures of head `h` that follow its oldest open line trigger: their trigger and their tags, in order (R110). -/
def openCaps (s : State) (h : Nat) : Option (Nat × List (BitVec 2)) :=
  let mine := s.sf.caps.filter (fun c => c.2.1 == h)
  match mine with
  | [] => none
  | c :: _ => some (c.1, (mine.filter (fun x => x.1 == c.1)).map (·.2.2))

/-- The line of each tag that those captures form: for each capture of the tag SAMPLES samples of each AFE (R110); none while a tag's samples are
not all there. -/
def capturedLine (s : State) (h : Nat) (tags : List (BitVec 2)) (planes : RawLine) : Option RawLine :=
  (tags.dedup.map (fun t =>
    let n := planeSamples s h * tags.count t
    match tagOf planes t with
    | some v => if n ≤ v.length then some (t, v.take n) else none
    | none => none)).mapM id

/-- A captured raw line of head `h` completes: all that its captures after one line trigger took (R110, R113, R119). DESIGN CHOICE: edge detection
sees the line as it leaves the whole-line colour delay (log 69). -/
def scanLine (h : Nat) (planes : RawLine) (s : State) : State :=
  match openCaps s h with
  | none => s
  | some (g, tags) =>
  match capturedLine s h tags planes with
  | none => s
  | some mine =>
  if ¬ doorEnabled s h then s else
  let s := { s with sf := { s.sf with caps := s.sf.caps.filter (fun c => !(c.2.1 == h && c.1 == g)) } }
  let x := door s h
  let (l, k) := delayed s h x.past mine
  let s := { s with freeTick := s.freeTick + k }
  let x := { x with past := (mine :: x.past).take 64 }
  let ready := x.cal != 0 && x.page.isNone && !x.lost && !x.free && !(rawLeft s h)
  if x.calOn ∨ ready then
    setDoor h { x with calOn := true, calLines := if x.calLines.length < 64 then x.calLines ++ [mine] else x.calLines } s
  else headLine h l (setDoor h x s)

/-! ### Calibration -/

/-- A shading entry of the table after a calibration: dark reference, or gain against the dark value now in the table, and whether
the pixel is dead (R113, R114). -/
def calEntry (kind target sum : Nat) (old : Nat × Nat) : (Nat × Nat) × Bool :=
  let avg := rneNat sum 64
  if kind = 1 then ((avg, old.2), false)
  else if avg ≤ old.1 then ((old.1, 0), true)
  else ((old.1, min (rneNat (target * 4096) (avg - old.1)) 0xFFFF), false)

/-- Store bytes in the staged window through the depot; only the backed window takes them. -/
def swStore (a : Nat) (bs : Bytes) (s : State) : State :=
  if backedRange s a bs.length then heal .dram 0 (swDev s a) bs.length (setDram s (Memory.writeBytes s.mem.dram (swDev s a) bs)) else s

/-- The shading table is written and CAL reads 0 (R113, R114). -/
def calibrationDone (h : Nat) (s : State) : State :=
  let x := door s h
  if x.cal = 0 ∨ x.calLines.length < 64 then s else
  let first := nth x.calLines 0 []
  let s := first.foldl (fun s e =>
    let n := e.2.length
    let c := planeNo first e.1
    let old := shadeTab s h c n
    let rows := x.calLines.map (fun l => (tagOf l e.1).getD [])
    let sums := rows.foldl (fun acc r => (acc.zip (r ++ List.replicate (n - r.length) 0)).map (fun z => z.1 + z.2.toNat)) (List.replicate n 0)
    let out := (sums.zip old).map (fun z => calEntry x.cal (fld (sfHead s h) 0 16) z.1 z.2)
    let s := swStore (fld (sfShade s h) 6 27 * 64 + c * n * 4) (out.flatMap (fun z => leBytes 2 z.1.1 ++ leBytes 2 z.1.2)) s
    sfCount 3 (out.filter (·.2)).length s) s
  setDoor h { door s h with cal := 0, calOn := false, calLines := [], run := 0 } s

/-! ### Cameras -/

/-- Pixels of one plane line, left-justified to 16 bits (R112). -/
def camPixels (dt : Nat) (px : List (BitVec 16)) : List (BitVec 16) := px.map (fun (v : BitVec 16) => v <<< (if dt = 0x2A then 8 else if dt = 0x2B then 6 else 4 : Nat))

/-- Tag of a virtual channel that a camera takes: mono, or R, G, B in ascending channel order (R127). -/
def camTag (s : State) (c vc : Nat) : Option (BitVec 2) :=
  let vcs := bitsOf (fld (sfCam s c) 56 4) 4
  if ¬ vc ∈ vcs then none
  else if vcs.length = 3 then some (BitVec.ofNat 2 (vcs.idxOf vc)) else some 3

/-- A whole camera line (R129): the page starts with its first line, the window's own length ends it, and so does the height. -/
def camLine (c : Nat) (l : RawLine) (s : State) : State :=
  let d := 4 + c
  let w := sfCam s c
  let x := door s d
  let (l', k) := delayed s d x.past l
  let s := { s with freeTick := s.freeTick + k }
  let s := setDoor d { x with past := (l :: x.past).take 64, window := true, await := false, lastAt := if x.skip then x.lastAt else s.now } s
  let x := door s d
  if x.skip then s else
  let s := if x.page.isNone ∧ ¬ x.lost then (if x.free then startPage d s else startLost d s) else s
  let s := addRaw d [l'] s
  if bitOf w 55 ∧ fld w 32 16 ≤ (door s d).count then
    let s := endScan d false s.now s
    setDoor d { door s d with window := false } s
  else if atLimit s d then endScan d true s.now s else s

/-- Frame Start (R125, R129). -/
def frameStart (c : Nat) (s : State) : State :=
  let d := 4 + c
  let x := door s d
  if ¬ bitOf (sfCam s c) 54 ∨ ¬ doorEnabled s d ∨ x.window then s
  else if bitOf (sfCam s c) 55 then
    setDoor d { x with await := true, skip := false, half := [], lastPl := [], repaired := false } s
  else
    let s := setDoor d { x with window := true, skip := false, half := [], lastPl := [], repaired := false } s
    if x.free then s else startLost d s

/-- Frame End (R129): the window in progress ends, its deadline running from its last line (R17); without a line it leaves the reservation. -/
def frameEnd (c : Nat) (s : State) : State :=
  let d := 4 + c
  let x := door s d
  let s := if x.page.isSome ∨ x.lost then endScan d false x.lastAt s else s
  setDoor d { door s d with window := false, await := false, skip := false } s

/-- One plane line is taken: damaged lines are replaced (R128); a line is whole when each channel has given its plane. -/
def camPlane (c : Nat) (tag : BitVec 2) (good : Bool) (px : List (BitVec 16)) (s : State) : State :=
  let d := 4 + c
  let x := door s d
  let px' := if good then px else (((x.lastPl.find? (fun e => e.1 == tag)).map (·.2)).getD (List.replicate (fld (sfCam s c) 16 16) 0xFFFF))
  let s := if good then s else sfCount 2 1 s
  let tags : List (BitVec 2) := if (bitsOf (fld (sfCam s c) 56 4) 4).length = 3 then [0, 1, 2] else [3]
  let half := x.half ++ [(tag, px')]
  let x := { x with half := half, lastPl := (x.lastPl.filter (fun e => e.1 != tag)) ++ [(tag, px')], repaired := x.repaired || (!good && !x.skip) }
  if tags.all (fun t => half.any (fun e => e.1 == t)) then
    let l := tags.filterMap (fun t => (half.find? (fun e => e.1 == t)))
    let rest := l.foldl (fun h e => h.erase e) half
    camLine c l (setDoor d { x with half := rest } s)
  else setDoor d x s

/-- A long packet of a line (R126 to R129). Outside a window, on another channel or while disabled it is not taken; a data type other
than the configured one is discarded and counted. -/
def linePacket (c : Nat) (vc : BitVec 2) (dt : Byte) (hdrOk crcOk : Bool) (px : List (BitVec 16)) (s : State) : State :=
  let d := 4 + c
  let w := sfCam s c
  let x := door s d
  if ¬ bitOf w 54 ∨ ¬ doorEnabled s d then s
  else match camTag s c vc.toNat with
    | none => s
    | some tag =>
      if hdrOk ∧ dt.toNat ≠ 0x2A + fld w 60 2 then sfCount 2 1 s
      else if ¬ (x.window ∨ x.await) then s
      else camPlane c tag (hdrOk && crcOk && decide (px.length = fld w 16 16)) (camPixels (0x2A + fld w 60 2) px) s

/-- Any other packet (R126): Line Start, Line End and generic short packets are ignored, the rest is discarded and counted. -/
def otherPacket (c : Nat) (dt : Byte) (s : State) : State :=
  if ¬ bitOf (sfCam s c) 54 ∨ ¬ doorEnabled s (4 + c) then s
  else if dt.toNat < 4 ∨ (8 ≤ dt.toNat ∧ dt.toNat < 0x10) ∨ (0x2A ≤ dt.toNat ∧ dt.toNat ≤ 0x2C) then s
  else sfCount 2 1 s

/-! ### SF_ registers -/

/-- SF_PG_STAT (R130). -/
def pgStat (s : State) : Word :=
  place s.sf.len.toNat 32 32 ||| place s.sf.code.toNat 16 8 ||| place s.sf.step 4 12 ||| place (if feedHold s then 1 else 0) 1 1 |||
    place (if s.sf.running then 1 else 0) 0 1

/-- An SF_ register that a door or the line clock uses stands at this offset. -/
def sfPlain (off : Nat) : Bool :=
  decide (off = 0x7C08 ∨ (0x7C40 ≤ off ∧ off < 0x7CB0) ∨ (0x7D00 ≤ off ∧ off < 0x7F40))

/-- Read an SF_ register; none where no register stands (R130). -/
def sfRead (off : Nat) (s : State) : Option (Word × State) :=
  if 0x7000 ≤ off ∧ off < 0x7C00 then some (tabGet s.sf.slots (off - 0x7000) 0, s)
  else if off = 0x7C00 then some ((s.sf.pgCtl &&& ~~~ maskOf 30 1) ||| place (if s.sf.holdPin then 1 else 0) 30 1, s)
  else if off = 0x7C10 then some (pgStat s, s)
  else if off = 0x7C18 then some (pgAcc s, s)
  else if off = 0x7F40 then some (s.sf.lanes.setWidth 64, s)
  else if 0x7F48 ≤ off ∧ off < 0x7F68 then
    let k := (off - 0x7F48) / 8
    some ((tabGet s.sf.cnt k 0).setWidth 64, { s with sf := { s.sf with cnt := tabSet s.sf.cnt k 0 } })
  else if sfPlain off then
    let w := sfSeen s off
    some (if 0x7C40 ≤ off ∧ off < 0x7C60 then w ||| place (door s (sfDoor off)).cal 50 2 else w, s)
  else none

/-- Write a register of a door or SF_LINE: at once, or from the door's next page boundary or the next trigger (R131). -/
def sfStore (off : Nat) (d en : Word) (s : State) : State :=
  let w := putBits (sfSeen s off) d (sfRw off) en
  let x := door s (sfDoor off)
  let wait : Bool := if off = 0x7C08 then s.sf.running else x.free || x.page.isSome
  if wait then { s with sf := { s.sf with defer := tabSet s.sf.defer off w } }
  else { s with sf := { s.sf with regs := tabSet s.sf.regs off w, defer := tabDel s.sf.defer off } }

/-- A write to SF_HEAD, whose CAL field asks for a calibration (R113, R130). -/
def headWrite (h : Nat) (d en : Word) (s : State) : State :=
  let s := sfStore (0x7C40 + h * 8) d en s
  let c := fld (d &&& en) 50 2
  let x := door s h
  if x.cal = 0 ∧ (c = 1 ∨ c = 2) then setDoor h { x with cal := c } s else s

/-- Write an SF_ register; none where no register stands (R130); a receiver is not enabled while its clock is gated (R478). -/
def sfWrite (off : Nat) (d en : Word) (s : State) : Option State :=
  if 0x7000 ≤ off ∧ off < 0x7C00 then
    some { s with sf := { s.sf with slots := tabSet s.sf.slots (off - 0x7000) (putBits (tabGet s.sf.slots (off - 0x7000) 0) d (~~~ 0) en) } }
  else if off = 0x7C00 then some (pgCtlWrite d en s)
  else if off = 0x7C18 then some (pgAccWrite d en s)
  else if 0x7C40 ≤ off ∧ off < 0x7C60 then some (headWrite ((off - 0x7C40) / 8) d en s)
  else if 0x7F00 ≤ off ∧ off < 0x7F10 ∧ bitOf (d &&& en) 54 ∧ ¬ bitOf (sfSeen s off) 54 ∧ ¬ gateOn s 8 then some (ckRefuse cClaim s)
  else if sfPlain off then some (sfStore off d en s)
  else match sfRead off s with
    | some _ => some s
    | none => none

/-! ### Meanings -/

def execScanArm (q : BitVec 16) (s : State) : Host.Outcome State Fault Refusal := run s (doScanArm q.toNat)
def execScanDisarm (q : BitVec 16) (s : State) : Host.Outcome State Fault Refusal := run s (doScanDisarm q.toNat)
def execGeneratorRun (w : RegWr) (s : State) : Host.Outcome State Fault Refusal := run s (whenRun 0x7C00 w (pgCtlWrite w.data (enMask w.be)))
def execGeneratorStop (w : RegWr) (s : State) : Host.Outcome State Fault Refusal := run s (whenRun 0x7C00 w (pgCtlWrite w.data (enMask w.be)))
def execPatternRamWrite (w : RegWr) (s : State) : Host.Outcome State Fault Refusal := run s (whenRun 0x7C18 w (pgAccWrite w.data (enMask w.be)))
def execPatternRun (s : State) : Host.Outcome State Fault Refusal := run s patternRun
def execSethi (s : State) : Host.Outcome State Fault Refusal := run s patternSethi
def execLoop0 (s : State) : Host.Outcome State Fault Refusal := run s (patternLoop 2)
def execLoop1 (s : State) : Host.Outcome State Fault Refusal := run s (patternLoop 3)
def execWaitLine (s : State) : Host.Outcome State Fault Refusal := run s patternWait
def execCapture (s : State) : Host.Outcome State Fault Refusal := run s patternCapture
def execColour (s : State) : Host.Outcome State Fault Refusal := run s patternColour
def execPatternEnd (s : State) : Host.Outcome State Fault Refusal := run s patternEnd
def execLinePeriod (s : State) : Host.Outcome State Fault Refusal := run s linePeriod
def execEncoderEdge (s : State) : Host.Outcome State Fault Refusal := run s encoderEdge
def execLaneTrain (w : RegWr) (s : State) : Host.Outcome State Fault Refusal := run s (whenRun 0x7C00 w (pgCtlWrite w.data (enMask w.be)))
def execLaneLock (lane : BitVec 4) (s : State) : Host.Outcome State Fault Refusal := run s (laneLock lane.toNat)
def execReservation (d : Nat) (s : State) : Host.Outcome State Fault Refusal := run s (reservation d)
def execCalibrationDone (h : BitVec 2) (s : State) : Host.Outcome State Fault Refusal := run s (calibrationDone h.toNat)
def execCsi2FrameStart (c : BitVec 1) (s : State) : Host.Outcome State Fault Refusal := run s (frameStart c.toNat)
def execCsi2FrameEnd (c : BitVec 1) (s : State) : Host.Outcome State Fault Refusal := run s (frameEnd c.toNat)

def execScanLine (h : BitVec 2) (planes : List (BitVec 2 × List (BitVec 16))) (s : State) : Host.Outcome State Fault Refusal :=
  run s (scanLine h.toNat planes)

def execCalibrateDark (h : BitVec 2) (w : RegWr) (s : State) : Host.Outcome State Fault Refusal :=
  run s (whenRun (0x7C40 + h.toNat * 8) w (headWrite h.toNat w.data (enMask w.be)))

def execCalibrateWhite (h : BitVec 2) (w : RegWr) (s : State) : Host.Outcome State Fault Refusal :=
  run s (whenRun (0x7C40 + h.toNat * 8) w (headWrite h.toNat w.data (enMask w.be)))

def execCsi2LinePacket (c : BitVec 1) (vc : BitVec 2) (dt : Byte) (hdrOk crcOk : Bool) (px : List (BitVec 16)) (s : State) :
    Host.Outcome State Fault Refusal := run s (linePacket c.toNat vc dt hdrOk crcOk px)

def execCsi2OtherPacket (c : BitVec 1) (dt : Byte) (s : State) : Host.Outcome State Fault Refusal := run s (otherPacket c.toNat dt)

end Sys2Proof.Machine
end

