-- ==== Sys2Proof/Machine/Clocks.lean ====
section
/-! DEFINITION. Clocks (17, R472 to R480): PLLs, spread spectrum, gate enables, source selection, the CK_ registers. -/

namespace Sys2Proof.Machine

/-- Only firmware, the management bus and JTAG write CK_ registers and PW_CTL (R479, R486, R487). -/
def ckSource (src : Src) : Bool := match src with | .host => false | _ => true

/-- VCO frequency and SCLK lie in their ranges, in units of 100 MHz / 65,536 (R475). -/
def pllSFits (w : Word) : Bool :=
  let m := fld w 32 8 * 65536 + fld w 40 16
  let r := fld w 56 2 + 1
  let o := fld w 0 9
  decide (16 * 65536 * r ≤ m ∧ m ≤ 32 * 65536 * r ∧ o ≠ 0 ∧ 65536 * (r * o) ≤ 10 * m ∧ m ≤ 4 * 65536 * (r * o))

/-- A write to CK_PLL_S (R475). -/
def pllSWrite (src : Src) (d en : Word) (s : State) : State :=
  if ¬ ckSource src then wdisc s
  else
    let w := putBits s.ck.pllS d (maskOf 63 1 ||| maskOf 40 18 ||| maskOf 32 8 ||| maskOf 0 9) en
    let code := pickCode [if pllSFits w then 0 else cDimLimit, if bitOf s.ck.sel 2 then cClaim else 0]
    if code ≠ 0 then ckRefuse code s
    else { s with ck := { s.ck with pllS := w, ready := s.ck.ready &&& ~~~ maskOf 2 1 } }

/-- A PLL locks (R473, R475): it has its reference and is enabled; the PLLs are off in DEEP_SLEEP, and in LEAVING until the arena rail has
settled (R481, R500). -/
def pllLock (k : Nat) (s : State) : State :=
  let on := if k = 2 then bitOf s.ck.pllS 63 else true
  let powered := s.pw.mode ≠ modeDeep ∧ (s.pw.mode = modeLeaving → s.pw.avs.isNone)
  if on ∧ powered ∧ bitOf s.ck.ready 5 then { s with ck := { s.ck with ready := s.ck.ready ||| maskOf k 1 } } else s

/-- A PLL's lock detector drops (R480). -/
def lossOfLock (k : Nat) (s : State) : State :=
  if bitOf s.ck.ready k then { s with ck := { s.ck with ready := s.ck.ready &&& ~~~ maskOf k 1, stat := s.ck.stat ||| maskOf (4 + k) 1 } } else s

/-- No REFCLK edge for 10 µs (R480). -/
def refclkLoss (s : State) : State :=
  { s with ck := { s.ck with ready := s.ck.ready &&& ~~~ maskOf 5 1, stat := s.ck.stat ||| maskOf 1 1 } }

/-- REFCLK edges arrive (R480). -/
def refclkReturn (s : State) : State := { s with ck := { s.ck with ready := s.ck.ready ||| maskOf 5 1 } }

/-- A write to CK_SS (R476). -/
def ssWrite (src : Src) (d en : Word) (s : State) : State :=
  if ¬ ckSource src then wdisc s
  else
    let old := s.ck.ss
    let w := putBits old d (maskOf 63 1 ||| maskOf 8 6 ||| maskOf 0 5) en
    let moved := fld w 0 5 ≠ fld old 0 5 ∨ fld w 8 6 ≠ fld old 8 6
    let code := pickCode [
      if 20 < fld w 0 5 ∨ fld w 8 6 < 24 then cDimLimit else 0,
      if bitOf old 63 ∧ moved then cClaim else 0,
      if bitOf w 63 ∧ ¬ claimed s 0x08000000 then cClaim else 0,
      if bitOf w 63 ∧ s.sf.running ∧ ¬ bitOf s.sf.pgCtl 31 then cClaim else 0]
    if code ≠ 0 then ckRefuse code s else { s with ck := { s.ck with ss := w } }

/-- A CSI-2 receiver is enabled (R478, R483). -/
def camOn (s : State) : Bool := bitOf (sfCam s 0) 54 || bitOf (sfCam s 1) 54

/-- A write to CK_GATE of a domain (R477, R478). -/
def gateWrite (dom : Nat) (src : Src) (d en : Word) (s : State) : State :=
  if ¬ ckSource src then wdisc s
  else if dom < 8 ∨ 10 < dom then s
  else
    let old := gateOf s dom
    let w := putBits old d 3 en
    let cleared := (old &&& ~~~ w) != 0
    let busy := if dom = 8 then s.sf.running || camOn s || s.dq.queues.any (fun e => (e.2.door == 1 || e.2.door == 2) && e.2.st != .closed)
      else bitOf (tabGet s.cv.port (dom - 9) 0) 63
    if cleared ∧ busy then ckRefuse cClaim s else { s with ck := { s.ck with gate := tabSet s.ck.gate dom w } }

/-- Boot has reached stage 0x04 (R451, R479). -/
def bootedDram (s : State) : Bool := let b := bootStage s; decide ((4 ≤ b ∧ b ≤ 9) ∨ b = 0xE4)

/-- A CIS door holds a reservation or has a page in progress (R479). -/
def cisBusy (s : State) : Bool := (List.range 4).any (fun h => (door s h).free || (door s h).page.isSome)

/-- A write to CK_SEL (R479): each domain that it switches is checked, and one refusal refuses the write. -/
def selWrite (src : Src) (d en : Word) (s : State) : State :=
  if ¬ ckSource src then wdisc s
  else
    let old := s.ck.sel
    let w := putBits old d (maskOf 0 4) en
    let bad := (List.range 4).any (fun k =>
      let ready := fun (b : Nat) => bitOf s.ck.ready b
      let pll := match k with | 0 => 0 | 1 => 1 | 2 => 2 | _ => 3
      bitOf w k != bitOf old k &&
        (!(if bitOf w k then ready pll else ready 5) ||
         (k != 2 && !(bitOf w k) && bootedDram s) ||
         (k == 2 && (s.sf.running || cisBusy s))))
    if bad then ckRefuse cClaim s else { s with ck := { s.ck with sel := w } }

/-- Read a CK_ register; none where no register stands (R486). -/
def ckRead (off : Nat) (s : State) : Option (Word × State) :=
  if off = 0xFD00 then some (s.ck.ready, s)
  else if off = 0xFD08 then some (s.ck.sel, s)
  else if off = 0xFD10 then some (s.ck.stat, s)
  else if off = 0xFD18 then some (s.ck.pllS, s)
  else if off = 0xFD20 then some (s.ck.ss, s)
  else if 0xFD40 ≤ off ∧ off < 0xFD98 then some (gateOf s ((off - 0xFD40) / 8), s)
  else none

/-- Write a CK_ register (R486). -/
def ckWrite (src : Src) (off : Nat) (d en : Word) (s : State) : Option State :=
  if off = 0xFD08 then some (selWrite src d en s)
  else if off = 0xFD10 then
    some (if ckSource src then { s with ck := { s.ck with stat := s.ck.stat &&& ~~~ (d &&& en &&& (maskOf 4 4 ||| maskOf 0 2)) } } else wdisc s)
  else if off = 0xFD18 then some (pllSWrite src d en s)
  else if off = 0xFD20 then some (ssWrite src d en s)
  else if 0xFD40 ≤ off ∧ off < 0xFD98 then some (gateWrite ((off - 0xFD40) / 8) src d en s)
  else if off = 0xFD00 then some (if ckSource src then s else wdisc s)
  else none

/-! ### Meanings -/

def execPllSProgram (w : RegWr) (s : State) : Host.Outcome State Fault Refusal := run s (whenRun 0xFD18 w (pllSWrite w.src w.data (enMask w.be)))
def execPllLock (pll : BitVec 2) (s : State) : Host.Outcome State Fault Refusal := run s (pllLock pll.toNat)
def execLossOfLock (pll : BitVec 2) (s : State) : Host.Outcome State Fault Refusal := run s (lossOfLock pll.toNat)
def execRefclkLoss (s : State) : Host.Outcome State Fault Refusal := run s refclkLoss
def execRefclkReturn (s : State) : Host.Outcome State Fault Refusal := run s refclkReturn
def execSpreadSpectrumWrite (w : RegWr) (s : State) : Host.Outcome State Fault Refusal := run s (whenRun 0xFD20 w (ssWrite w.src w.data (enMask w.be)))
def execClockSelect (w : RegWr) (s : State) : Host.Outcome State Fault Refusal := run s (whenRun 0xFD08 w (selWrite w.src w.data (enMask w.be)))
def execGateEnableWrite (dom : BitVec 4) (w : RegWr) (s : State) : Host.Outcome State Fault Refusal :=
  run s (whenRun (0xFD40 + dom.toNat * 8) w (gateWrite dom.toNat w.src w.data (enMask w.be)))

end Sys2Proof.Machine
end

