-- ==== Sys2Proof/Machine/HostPort.lean ====
section
/-! DEFINITION. The host port (02): mode registers, training, the address map, the Turnstile, stage-then-read, HP_ registers. -/

namespace Sys2Proof.Machine

/-- Power-on value of a mode register (R32; the JESD209-5 defaults and field places are those of the family, log 8); MR5 is
loaded from package memory (R452). -/
def mrReset (s : State) (mr : Nat) : Byte :=
  match mr with
  | 3 => 0x16 | 4 => 0x09 | 5 => if bootStage s = 0 ∨ bootStage s = 0xE2 then 0 else Memory.read s.mem.pm 0x05 | 6 => 0xA1 | 7 => 0x03 | 8 => 0x18 | 20 => 0x02
  | 31 => 0x55 | 32 => 0x55 | 33 => 0x5A | 34 => 0x3C | _ => 0

/-- Mode registers that take writes (R32). -/
def mrRw (mr : Nat) : Bool := mr ∈ [1, 2, 3, 16, 18, 20, 22, 31, 32, 33, 34]

/-- Key of a mode register: one for each channel and frequency set point; MR16 is common to the set points (R23). The number has the seven bits of
the family's MA field, for the spec gives no width (PRESUMED, log 8). -/
def mrKey (ch fsp mr : Nat) : Nat := if mr = 16 then ch * 512 + 16 else ch * 512 + fsp * 128 + mr

/-- A mode register of a channel at a set point. -/
def mrGet (s : State) (ch fsp mr : Nat) : Byte := tabGet s.hp.mrs (mrKey ch fsp mr) (mrReset s mr)

/-- The set point that writes go to (FSP-WR) and the active one (FSP-OP), MR16 (R32). -/
def fspWr (s : State) (ch : Nat) : Nat := (mrGet s ch 0 16).toNat % 4
def fspOp (s : State) (ch : Nat) : Nat := (mrGet s ch 0 16).toNat / 4 % 4

/-- What a write leaves in a mode register: unsupported features read back as off (R24, R32; field places log 8). -/
def mrStored (mr : Nat) (v : Byte) : Byte :=
  match mr with
  | 18 => v &&& 0x7F
  | 22 => v &&& 0x0F
  | 3 => if v.toNat / 8 % 4 = 1 ∨ v.toNat / 8 % 4 = 3 then (v &&& 0xE7) ||| 0x10 else v
  | 16 =>
    let a := if v.toNat % 4 = 3 then v &&& 0xFC else v
    if a.toNat / 4 % 4 = 3 then a &&& 0xF3 else a
  | _ => v

/-- A mode register write (R24, R32). -/
def modeRegisterWrite (ch : BitVec 2) (mr : BitVec 7) (v : Byte) (s : State) : State :=
  let m := mr.toNat
  let ign := { s with hp := { s.hp with mrwIgn := satAdd s.hp.mrwIgn 1 } }
  if mrRw m then
    let k := mrStored m v
    let s' := if k = v then s else ign
    { s' with hp := { s'.hp with mrs := tabSet s.hp.mrs (mrKey ch.toNat (fspWr s ch.toNat) m) k } }
  else ign

/-- Read latency in nCK that MR2 programs, for the 4:1 ratio, with read DBI off or on (JESD209-5, log 8). -/
def readLatency (s : State) (ch : Nat) : Nat :=
  let f := fspOp s ch
  let code := (mrGet s ch f 2).toNat % 16
  if (mrGet s ch f 3).toNat.testBit 6 then nth [3, 4, 5, 7, 8, 10, 11, 13, 14, 16, 17, 18, 22, 25] code 25
  else nth [3, 4, 5, 6, 8, 9, 10, 12, 13, 15, 16, 17, 20, 23] code 23

/-- Minimum read latency of a speed bin (R26). -/
def minRl : SpeedBin → Nat
  | .r3200 => 9 | .r4267 => 12 | .r5500 => 16 | .r6400 => 18 | .r7500 => 22 | .r8533 => 24

/-- Bits of HP_TRAIN_STAT in a channel's byte: 0 CBT, 1 WCKL, 2 RDC, 3 WFF, 4 RL_LOW (R58). -/
def trainBit (ch i : Nat) : Word := maskOf (8 * ch + i) 1

/-- A training step starts (R29, R31, R58): the channel is in training; when training begins again its status clears. It begins
again with command bus training, or with a step that is done already or comes before one that is done (log 4). -/
def trainEnter (ch : BitVec 2) (step : Nat) (s : State) : State :=
  let c := ch.toNat
  let again := step = 0 ∨ fld s.hp.train (8 * c + step) (4 - step) ≠ 0
  let t := if again then s.hp.train &&& ~~~ maskOf (8 * c) 8 else s.hp.train
  { s with hp := { s.hp with train := t, training := s.hp.training ||| (1#4 <<< c), trainOf := tabSet s.hp.trainOf c step } }

/-- A channel is in a training step. -/
def inStep (s : State) (c step : Nat) : Bool := s.hp.training.getLsbD c && tabGet s.hp.trainOf c 4 == step

/-- A training step completes (R29): its bit is set and the channel leaves training. A step that was not entered last changes nothing, so that
one skipped leaves its bit clear (log 2). -/
def trainComplete (ch : BitVec 2) (step : Nat) (s : State) : State :=
  let c := ch.toNat
  if inStep s c step then
    { s with hp := { s.hp with train := s.hp.train ||| trainBit c step, training := s.hp.training &&& ~~~ (1#4 <<< c) } }
  else s

/-- What the device drives for the bytes of a read: with read DBI on, a byte of five ones or more goes out inverted with DMI high (R23, log 8). -/
def driveDq (s : State) (ch : Nat) (bs : Bytes) : DqReply :=
  let dmi := bs.map (fun b => (mrGet s ch (fspOp s ch) 3).getLsbD 6 && decide (4 < ((List.range 8).filter (b.getLsbD ·)).length))
  ⟨(bs.zip dmi).map (fun x => if x.2 then ~~~ x.1 else x.1), dmi, readLatency s ch⟩

/-- The bytes and enables that a write burst carries (R23): with write DBI on no byte is masked, and one with DMI high comes inverted (log 8). -/
def received (s : State) (b : Burst) : Burst :=
  let ch := b.addr.ch.toNat
  if (mrGet s ch (fspOp s ch) 3).getLsbD 7 then
    { b with data := (b.data.zip b.mask).map (fun x => if x.2 then x.1 else ~~~ x.1), mask := b.mask.map (fun _ => true) }
  else b

/-- One BL16 burst of read DQ calibration (R29): beat k carries bit k of MR33, then of MR34, on every DQ, inverted on the lanes that MR31 (lower byte)
and MR32 (upper byte) name (log 8). -/
def calibrationBytes (s : State) (ch : Nat) : Bytes :=
  let mr := mrGet s ch (fspOp s ch)
  (List.range 16).flatMap (fun k =>
    let one : Bool := if k < 8 then (mr 33).getLsbD k else (mr 34).getLsbD (k - 8)
    [31, 32].map (fun m => if one then ~~~ mr m else mr m))

/-- Read DQ calibration: at completion the device has driven the patterns (R29). -/
def rdcStep (ch : BitVec 2) (ph : Phase) (s : State) : State :=
  match ph with
  | .enter => trainEnter ch 2 s
  | .complete =>
    if inStep s ch.toNat 2 then
      let s := trainComplete ch 2 s
      let bs := calibrationBytes s ch.toNat
      { s with hp := { s.hp with dq := some ⟨bs, bs.map (fun _ => false), readLatency s ch.toNat⟩ } }
    else s

/-- A training step in either phase. -/
def trainStep (ch : BitVec 2) (step : Nat) (ph : Phase) (s : State) : State :=
  match ph with | .enter => trainEnter ch step s | .complete => trainComplete ch step s

/-- Write DQ FIFO training: 64 bytes of the channel's FIFO stored, and returned at completion (R29). -/
def wffStep (ch : BitVec 2) (data : Bytes) (ph : Phase) (s : State) : State :=
  match ph with
  | .enter =>
    let s := trainEnter ch 3 s
    { s with hp := { s.hp with fifo := tabSet s.hp.fifo ch.toNat (data.take 64) } }
  | .complete =>
    if inStep s ch.toNat 3 then
      let s := trainComplete ch 3 s
      let bs := tabGet s.hp.fifo ch.toNat []
      { s with hp := { s.hp with dq := some ⟨bs, bs.map (fun _ => false), readLatency s ch.toNat⟩ } }
    else s

/-- RESET_n resets the port's mode registers and training state and nothing else (R25). -/
def hostPortReset (s : State) : State :=
  { s with hp := { s.hp with mrs := [], train := 0, training := 0, trainOf := [], fifo := [], zq := 0 } }

/-- Interleave granularity G (R33, R58). -/
def gran (s : State) : Nat := nth [256, 512, 1024, 4096] (fld s.hp.cfg 0 2) 256

/-- Channel-local offset of a bus access (R34). -/
def localOff (s : State) (a : BusAddr) : Nat :=
  let bank := if bitOf s.hp.cfg 3 then a.bank ^^^ a.row.setWidth 4 else a.bank
  if bitOf s.hp.cfg 2 then bank.toNat * 2 ^ 27 + a.row.toNat * 2 ^ 11 + a.col.toNat
  else a.row.toNat * 2 ^ 15 + bank.toNat * 2 ^ 11 + a.col.toNat

/-- Window address of a channel-local offset: the inverse of R33. -/
def windowAddr (g ch l : Nat) : Nat := (l / g) * (4 * g) + ch * g + l % g

/-- Window address of a bus access (R33, R34). -/
def busWindow (s : State) (a : BusAddr) : Nat := windowAddr (gran s) a.ch.toNat (localOff s a)

/-- Units of credit that remain (R44, R45). -/
def creditLeft (s : State) : Nat := (s.hp.wcred - s.hp.used).toNat

/-- Bytes merged into the sorted valid bytes of a combining-buffer entry (R42). -/
def putValid (l : List Host.Cell) (o : Nat) (b : Byte) : List Host.Cell := tabSet l o b

/-- The lowest 1 KiB of the combining buffer that no entry takes. -/
def freeSlot (comb : List CombEntry) : Nat := ((List.range 4096).find? (fun i => !(comb.any (fun e => e.slot == i)))).getD 4095

/-- A burst of bytes enters the combining-buffer entry of its block and costs it one unit (R42, R43). -/
def combine (comb : List CombEntry) (a : Nat) (bs : Bytes) (mask : List Bool) : List CombEntry :=
  let blk := a / 1024
  let e := (comb.find? (fun e => e.block == blk)).getD ⟨blk, freeSlot comb, [], 0⟩
  let cells := ((List.range bs.length).zip (bs.zip mask)).filter (fun c => c.2.2)
  let e := { e with bytes := cells.foldl (fun l c => putValid l (a % 1024 + c.1) c.2.1) e.bytes, units := e.units + 1 }
  if comb.any (fun x => x.block == blk) then comb.map (fun x => if x.block = blk then e else x) else comb ++ [e]

/-- A write burst to the staged window: above the limit discarded; without credit dropped; else combined (R41 to R45). -/
def stagedWrite (a : Nat) (bs : Bytes) (mask : List Bool) (s : State) : State :=
  if ¬ backed s a then wdisc s
  else if creditLeft s = 0 then dropAt a { s with hp := { s.hp with wdrop := satAdd s.hp.wdrop 1 } }
  else { s with hp := { s.hp with used := s.hp.used + 1, comb := combine s.hp.comb a bs mask } }

/-- The entry's space and units are free again (R42). -/
def grantEntry (e : CombEntry) (s : State) : State :=
  { s with hp := { s.hp with comb := s.hp.comb.filter (fun x => x.block != e.block), wcred := s.hp.wcred + BitVec.ofNat 32 e.units } }

/-- An entry with an uncorrectable word is dropped whole (R424). -/
def dropEntry (e : CombEntry) (s : State) : State :=
  let s := heal .combining 0 (e.slot * 1024) 1024 (grantEntry e s)
  dropAt (e.block * 1024) { s with hp := { s.hp with wdrop := satAdd s.hp.wdrop 16 } }

/-- The 64-byte words of an entry that are valid whole (R341). -/
def CombEntry.whole (e : CombEntry) : List Nat :=
  (List.range 16).filter (fun w => (List.range 64).all (fun i => e.bytes.any (fun c => c.1 == 64 * w + i)))

/-- A combining-buffer entry drains into DRAM (R42, R341): one with a word that is not valid whole first reads its block and merges. The words
written get fresh check bits, but an uncorrectable one that the entry does not cover whole stays so (DEDUCED, log 68). An entry
with an uncorrectable word of its own is dropped (R424). -/
def drainEntry (e : CombEntry) (s : State) : State :=
  let (ue, s) := readCheck .combining 0 (e.slot * 1024) 1024 s
  if ue then dropEntry e s
  else
    let dev := swDev s (e.block * 1024)
    let s := if e.whole.length = 16 then s else (readCheck .dram 0 dev 1024 s).2
    let s := heal .combining 0 (e.slot * 1024) 1024 (grantEntry e s)
    let s := setDram s (Memory.writeCells s.mem.dram (e.bytes.map (fun c => (dev + c.1, c.2))))
    (List.range 16).foldl (fun s w => heal .dram 0 (dev + 64 * w) (if e.whole.contains w then 64 else 1) s) s

/-- No older entry of the combining buffer waits for the channel of a block (R339). -/
def oldestOn (s : State) (blk : Nat) : Bool :=
  let ch := fun (b : Nat) => dramChannel (swDev s (b * 1024))
  (s.hp.comb.find? (fun e => ch e.block == ch blk)).any (fun e => e.block == blk)

/-- COMBINING_DRAIN (R42, R339, R341, R424): the oldest entry of its channel drains, or is lost to the uncorrectable error that `ue` brings; it
drains in RUN or SLEEP (R485). -/
def combiningDrain (blk : Nat) (ue : Bool) (s : State) : State :=
  match s.hp.comb.find? (fun e => e.block == blk) with
  | none => s
  | some e =>
    if s.pw.mode = modeDeep ∨ s.pw.mode = modeLeaving ∨ ¬ oldestOn s blk then s
    else drainEntry e (if ue then addDamage .combining [⟨0, e.slot * 128, true⟩] s else s)

/-- A stage slot. -/
def stageSlot (s : State) (k : Nat) : StageSlot := tabGet s.hp.slots k StageSlot.init

/-- Replace a stage slot. -/
def setSlot (k : Nat) (r : StageSlot) (s : State) : State := { s with hp := { s.hp with slots := tabSet s.hp.slots k r } }

/-- A stage slot is busy (R48). -/
def slotBusy (r : StageSlot) : Bool := fld r.stat 0 8 == 1

/-- First window address of stage buffer k (R38). -/
def stageBuf (k : Nat) : Nat := 0x01900000 + k * 0x20000

/-- STAT of a slot (R48). -/
def stageStat (tag code st : Nat) : Word := place tag 32 32 ||| place code 8 8 ||| place st 0 8

/-- Take a stage request (R49 to R51) whose GO found the combining buffer `comb`: refused at once, or the copy of LEN units starts. Of a
reserved field and a LEN above 2,048 the lower code is reported (R9; R50 gives no order, DEDUCED, log 68). -/
def takeStage (k : Nat) (comb : List CombEntry) (s : State) : State :=
  let r := stageSlot s k
  let tag := fld r.ctl 16 32
  let len := fld r.ctl 0 12
  let refuse := fun c => alert 3 (setSlot k { r with stat := stageStat tag c 2, done := s.now } s)
  if 2048 < len then refuse cDimLimit
  else if fld r.src 32 32 ≠ 0 ∨ fld r.src 0 6 ≠ 0 ∨ fld r.ctl 48 16 ≠ 0 ∨ fld r.ctl 13 3 ≠ 0 then refuse cReserved
  else
    let n := (if len = 0 then 2048 else len) * 64
    let a := fld r.src 0 32
    let flush := (comb.filter (fun e => decide (a < (e.block + 1) * 1024 ∧ e.block * 1024 < a + n))).map (·.block)
    let s := setSlot k { r with stat := stageStat tag 0 1, snap := swSlice s comb a n, len := n, taken := s.now,
                                bound := s.hp.stageBound.toNat, flush := flush, hurt := false } s
    { s with hp := { s.hp with stageQ := s.hp.stageQ ++ [k] } }

/-- A host write to a word of stage control record k; its RO words ignore writes (R6, R48, R49). -/
def stageCtlWrite (k off : Nat) (d en : Word) (s : State) : State :=
  let r := stageSlot s k
  if off = 0 then setSlot k { r with src := putBits r.src d (~~~ 0) en } s
  else if off = 8 then
    if bitOf (d &&& en) 12 then
      if slotBusy r then wdisc s
      else
        let s := setSlot k { r with ctl := putBits r.ctl d (~~~ maskOf 12 1) en } s
        if holds s then { s with held := s.held ++ [⟨.host, 0x10000 + k * 64 + 8, maskOf 12 1, 2, s.hp.comb⟩] } else takeStage k s.hp.comb s
    else setSlot k { r with ctl := putBits r.ctl d (~~~ maskOf 12 1) en } s
  else s

/-- A word of stage control record k as the host reads it (R48). -/
def stageCtlRead (s : State) (k off : Nat) : Word :=
  let r := stageSlot s k
  if off = 0 then r.src else if off = 8 then r.ctl else if off = 0x10 then r.stat else if off = 0x18 then r.done else 0

/-- Damage that strikes bytes of a copy in progress, counted from its start (R53; log 25): the DRAM words they stand in. -/
def strike (a n : Nat) (errs : List Span) (s : State) : State :=
  let bytes := errs.flatMap (fun e => (List.range (min e.len (n - e.first))).map (e.first + ·))
  let words := ((bytes.filter (fun o => backed s (a + o))).map (fun o => swDev s (a + o) / 64)).dedup
  addDamage .dram (words.map (⟨0, ·, true⟩)) s

/-- One block of a stage copy is served (R342): its entry that stood at GO drains first, any other is read from DRAM. -/
def serveBlock (flush : List Nat) (blk : Nat) (s : State) : State :=
  match s.hp.comb.find? (fun e => e.block == blk && flush.contains blk) with
  | some e => drainEntry e s
  | none => if backed s (blk * 1024) then (readCheck .dram 0 (swDev s (blk * 1024)) 1024 s).2 else s

/-- Offsets in a copy of the bytes that stand in uncorrectable DRAM words (R53). -/
def lostBytes (s : State) (a n : Nat) : List Nat :=
  let bad := (s.dm.damage.filter (fun d => d.mem == .dram && d.ue)).map (·.word)
  if bad.isEmpty then [] else (List.range n).filter (fun o => backed s (a + o) && bad.contains (swDev s (a + o) / 64))

/-- A stage copy completes, in the order taken (R50, R52, R53, R342, R423): the buffer holds the copied bytes, zero where an error struck. A
slot that waits for an attestation report is done with it (R466). -/
def stageDone (k : Nat) (errs : List Span) (s : State) : State :=
  if s.hp.stageQ.head? ≠ some k then s
  else
    let r := stageSlot s k
    let a := fld r.src 0 32
    let s := strike a r.len errs s
    let s := (List.range ((a + r.len + 1023) / 1024 - a / 1024)).foldl (fun s i => serveBlock r.flush (a / 1024 + i) s) s
    let r := stageSlot s k
    let lost := lostBytes s a r.len
    let good := r.snap.filter (fun c => ¬ lost.contains c.1)
    let s := heal .aperture 0 (stageBuf k) r.len (setAp s (Memory.blit s.mem.ap (stageBuf k) r.len good))
    let s := { s with hp := { s.hp with stageQ := s.hp.stageQ.tail } }
    alert 3 (setSlot k { r with stat := stageStat (fld r.stat 32 32) (if ¬ lost.isEmpty ∨ r.hurt then cInputLost else 0) 2, done := s.now,
                                snap := [], flush := [] } s)

/-- HP_ID (R58). -/
def hpId : Word := 0x0003A101

/-- HP_CFG as it reads: BGMODE follows MR3 of the active set point of HP0 (R58, log 8). -/
def hpCfg (s : State) : Word :=
  if (mrGet s 0 (fspOp s 0) 3).toNat / 8 % 4 = 0 then s.hp.cfg ||| maskOf 4 1 else s.hp.cfg

/-- Read an HP_ register; none where no register stands (R58). -/
def hpRead (off : Nat) (s : State) : Option (Word × State) :=
  let w := fun c : BitVec 32 => c.setWidth 64
  if off = 0x4000 then some (hpId, s)
  else if off = 0x4008 then some (hpCfg s, s)
  else if off = 0x4010 then some (s.hp.limit, s)
  else if off = 0x4018 then some (w s.hp.wcred, s)
  else if off = 0x4020 then some (w s.hp.wdrop, s)
  else if off = 0x4028 then some (s.hp.dropLast, s)
  else if off = 0x4030 then some (w s.hp.wdisc, { s with hp := { s.hp with wdisc := 0 } })
  else if off = 0x4038 then some (w s.hp.rzero, { s with hp := { s.hp with rzero := 0 } })
  else if off = 0x4040 then some (s.hp.train, s)
  else if off = 0x4048 then some (w s.hp.mrwIgn, { s with hp := { s.hp with mrwIgn := 0 } })
  else if off = 0x4050 then some (s.hp.stageBound, s)
  else if off = 0x4058 then some (s.hp.alertStat, s)
  else if off = 0x4060 then some (s.hp.alertEn, s)
  else if 0x4800 ≤ off ∧ off < 0x5000 then some (tabGet s.hp.ext ((off - 0x4800) / 8) 0, s)
  else none

/-- The boot hold of R454: configured, and HOLD set. -/
def inHold (s : State) : Bool := bootStage s == 0x06 && bitOf s.tr.bootCtl 0

/-- Firmware, or another source while the boot hold lasts, may write (R35, R58). -/
def fwOrHold (src : Src) (s : State) : Bool :=
  match src with | .firmware => true | .mgmt | .jtag => inHold s | .host => false

/-- Write HP_CFG field by field (R35, R58). -/
def hpCfgWrite (src : Src) (d en : Word) (s : State) : State :=
  let map := if fwOrHold src s ∧ ¬ locked s then maskOf 0 4 else 0
  let lock := if src = .firmware then maskOf 31 1 else 0
  let want := (maskOf 0 4 ||| maskOf 31 1) &&& en
  let cfg := putBits s.hp.cfg d map en ||| (d &&& en &&& lock)
  let s' := { s with hp := { s.hp with cfg := cfg } }
  if want &&& ~~~ (map ||| lock) = 0 then s' else wdisc s'

/-- Write an HP_ register; none where no register stands (R58). Writes to RO fields are ignored (R6). LIMIT_MIB is stored as written, also outside
32 to 4,096 (DESIGN CHOICE, log 68). -/
def hpWrite (src : Src) (off : Nat) (d en : Word) (s : State) : Option State :=
  if off = 0x4008 then some (hpCfgWrite src d en s)
  else if off = 0x4010 then
    if fwOrHold src s then some { s with hp := { s.hp with limit := putBits s.hp.limit d (maskOf 0 13) en } }
    else some (if maskOf 0 13 &&& en = 0 then s else wdisc s)
  else if off = 0x4058 then some { s with hp := { s.hp with alertStat := s.hp.alertStat &&& ~~~ (d &&& en) } }
  else if off = 0x4060 then some { s with hp := { s.hp with alertEn := putBits s.hp.alertEn d (maskOf 0 7) en } }
  else if 0x4800 ≤ off ∧ off < 0x5000 then
    let n := (off - 0x4800) / 8
    some { s with hp := { s.hp with ext := tabSet s.hp.ext n (putBits (tabGet s.hp.ext n 0) d (~~~ 0) en) } }
  else match hpRead off s with
    | some _ => some s
    | none => none

def execModeRegisterWrite (ch : BitVec 2) (mr : BitVec 7) (v : Byte) (s : State) : Host.Outcome State Fault Refusal :=
  run s (modeRegisterWrite ch mr v)

def execHostPortReset (s : State) : Host.Outcome State Fault Refusal := run s hostPortReset

def execCommandBusTraining (ch : BitVec 2) (ph : Phase) (s : State) : Host.Outcome State Fault Refusal :=
  run s (trainStep ch 0 ph)

def execWck2ckLevelling (ch : BitVec 2) (ph : Phase) (s : State) : Host.Outcome State Fault Refusal :=
  run s (trainStep ch 1 ph)

def execReadDqCalibration (ch : BitVec 2) (ph : Phase) (s : State) : Host.Outcome State Fault Refusal :=
  run s (rdcStep ch ph)

def execWriteDqFifoTraining (ch : BitVec 2) (data : Bytes) (ph : Phase) (s : State) : Host.Outcome State Fault Refusal :=
  run s (wffStep ch data ph)

/-- ZQ start changes nothing that is visible; latch takes the calibration of the background (R23). -/
def execZqCalibration (ch : BitVec 2) (latch : Bool) (s : State) : Host.Outcome State Fault Refusal :=
  run s (fun s => if latch then { s with hp := { s.hp with zq := s.hp.zq ||| (1#4 <<< ch.toNat) } } else s)

/-- Refresh commands have no effect and are not counted (R54). -/
def execRefresh (_ch : BitVec 2) (_kind : RefreshKind) (s : State) : Host.Outcome State Fault Refusal := run s id

/-- A write burst to the staged window (R30, R31, R43). -/
def execStagedWindowWrite (b : Burst) (s : State) : Host.Outcome State Fault Refusal :=
  run s (fun s =>
    let b := received s b
    let a := busWindow s b.addr
    let a := a - a % (if b.data.length = 32 then 32 else 64)
    if s.hp.training.getLsbD b.addr.ch.toNat ∨ ¬ locked s then s
    else if 0x02000000 ≤ a ∧ a < 0x100000000 then stagedWrite a b.data b.mask s else s)

def execCombiningDrain (blk : Nat) (ue : Bool) (s : State) : Host.Outcome State Fault Refusal :=
  run s (combiningDrain blk ue)

/-- A write to the word that holds GO of a stage slot (R49). -/
def execStageRequest (k : Nat) (w : RegWr) (s : State) : Host.Outcome State Fault Refusal :=
  run s (fun s => if k < 56 ∧ w.src = .host ∧ locked s then stageCtlWrite k 8 w.data (enMask w.be) s else s)

def execStageDone (k : Nat) (errs : List Span) (s : State) : Host.Outcome State Fault Refusal := run s (stageDone k errs)

end Sys2Proof.Machine
end

