-- ==== Sys2Proof/Machine/TileMatrix.lean ====
section
/-! DEFINITION. Matrix slots and the route slot of a tile (R170 to R174, R219 to R223, R250 to R257). -/

namespace Sys2Proof.Machine

/-- Exact sum of the 64 products of column j, in units of 2^-40, rounded once (R255): an exact zero gives +0. -/
def columnSum (x : List Nat) (rows : List Lanes) (j : Nat) : BitVec 32 :=
  let n := (x.zip rows).foldl (fun (a : Int) e => a + k12Int e.1 * k12Int (nth e.2.toList j 0).toNat) 0
  if n = 0 then 0 else to32 (.fin (decide (n < 0)) n.natAbs (-40))

/-- FP32 product of a Stilts input and weight, both BF16 codes (R255). -/
def stiltsProd (u v : Nat) : BitVec 32 := to32 (Fv.mul (Fv.decode fmtBf u) (Fv.decode fmtBf v))

/-- Q of column j: (q0 + q1) + (q2 + q3) (R255). -/
def stiltsSum (u : List Nat) (rows : List Lanes) (j : Nat) : BitVec 32 :=
  let q := fun r => stiltsProd (nth u r 0) (toStilts (nth (nth rows r zeros).toList j 0).toNat).code
  f32add (f32add (q 0) (q 1)) (f32add (q 2) (q 3))

/-- MUL (R170, R219, R251, R255): the row lands 6 issue cycles later; SAT and NAN_IN come from inputs and Stilts values (R248). -/
def doMul (l : Nat) (o : Op) (t : Tile) (s : State) : State :=
  if t.off o then s else
  let x := (t.readV o.srcA).toList.map (arrayInput (o.fieldOf 4 2))
  let w := if o.flag 1 then 1 else 0
  let rows := (List.range 64).map (fun i => tabGet t.wbuf (w * 64 + i) zeros)
  let codes := x.map (·.code)
  let p : Lanes := Vector.ofFn (fun k : Fin 64 => columnSum codes rows k.val)
  let c := t.readS o.srcC
  let u := (List.range 4).map (fun r => toStilts (fld c (16 * r) 16))
  let st := (List.range 4).map (fun r => tabGet t.stilts r zeros)
  let wt := st.flatMap (fun r => r.toList.map (fun z => toStilts z.toNat))
  let q : Option Lanes := if o.flag 3 then some (Vector.ofFn (fun k : Fin 64 => stiltsSum (u.map (·.code)) st k.val)) else none
  let all := if o.flag 3 then x ++ u ++ wt else x
  let s := raiseFlags l [(.sat, all.any (·.sat)), (.nanIn, all.any (·.nan))] s
  let row := (if o.flag 0 then 64 else 0) + (t.readA o.srcB).toNat % 64
  lands l o 6 (.mul row p q (o.flag 2)) s

/-- Scratchpad address a plus the sign-extended low half of IMM, modulo 4 MiB (R219, R222). -/
def offAddr (t : Tile) (o : Op) : Nat :=
  (((t.readA o.srcA).setWidth 22) + ((o.imm.setWidth 22))).toNat

/-- Start a fill: it takes the place of a running fill of the same buffer (R221). -/
def startFill (l : Nat) (f : Fill) (s : State) : State :=
  modTile l (fun t => { t with fills := t.fills.filter (fun g => g.buf != f.buf) ++ [f] }) s

/-- The 128 group scales of a vector (R247). -/
def scalesOf (v : Lanes) : List (BitVec 16) := v.toList.flatMap (fun (x : BitVec 32) => [x.setWidth 16, (x >>> 16).setWidth 16])

/-- A2V's row is read after every landing of the cycle; V2A's lands two cycles on (R220, R223). -/
def accRow (o : Op) (t : Tile) : Nat := (if o.flag 0 then 64 else 0) + (t.readA o.srcB).toNat % 64

def execMxMul (o : Op) (s : State) : Host.Outcome State Fault Refusal := run s (issue (mulOk o) o (fun l t => doMul l o t))

def execWfill (o : Op) (s : State) : Host.Outcome State Fault Refusal :=
  run s (issue (fillOk rowWfill o) o (fun l t s =>
    if t.off o then s else
    startFill l ⟨if o.flag 1 then 1 else 0, t.cyc, offAddr t o / 256 * 256, scalesOf (t.readV o.srcB), o.flag 4, false, false, []⟩ s))

def execSfill (o : Op) (s : State) : Host.Outcome State Fault Refusal :=
  run s (issue (fillOk rowSfill o) o (fun l t s =>
    if t.off o then s else startFill l ⟨2, t.cyc, offAddr t o / 256 * 256, [], false, false, false, []⟩ s))

def execA2v (o : Op) (s : State) : Host.Outcome State Fault Refusal :=
  run s (issue (o.ok rowA2v) o (fun l t => putV l o 2 (tabGet t.acc (accRow o t) zeros) (t.pred o)))

/-- V2A's destination is an accumulator row: predication acts on the whole (R214). -/
def execV2a (o : Op) (s : State) : Host.Outcome State Fault Refusal :=
  run s (issue (o.ok rowV2a) o (fun l t s => if t.off o then s else lands l o 2 (.accw (accRow o t) (t.readV o.srcA)) s))

def execVmov (o : Op) (s : State) : Host.Outcome State Fault Refusal :=
  run s (issue (o.ok rowVmov) o (fun l t => putV l o 1 (t.readV o.srcA) (t.pred o)))

def execV2s (o : Op) (s : State) : Host.Outcome State Fault Refusal :=
  run s (issue (laneOk rowV2s o) o (fun l t s =>
    if t.off o then s else putS l o 1 ((nth (t.readV o.srcA).toList o.imm.toNat 0).setWidth 64) s))

/-- S2V writes one lane of a vector, governed lane by lane (R214, R223). -/
def execS2v (o : Op) (s : State) : Host.Outcome State Fault Refusal :=
  run s (issue (laneOk rowS2v o) o (fun l t =>
    putV l o 1 (Vector.replicate 64 ((t.readS o.srcA).setWidth 32)) (t.pred o &&& (1 <<< o.imm.toNat))))

end Sys2Proof.Machine
end

