-- ==== Sys2Proof/Machine/TileMemory.lean ====
section
/-! DEFINITION. Load and store slots of a tile, its transfers and its mesh port (R178 to R182, R195, R222, R230 to R236). -/

namespace Sys2Proof.Machine

/-- The post-increment of operand a: IMM[63:32], sign-extended, none when zero (R222). -/
def postInc (l : Nat) (o : Op) (t : Tile) (s : State) : State :=
  let i : BitVec 32 := (o.imm >>> 32).setWidth 32
  if i = 0 ∨ o.srcA = 0xFF then s else lands l o 1 (.areg (o.srcA.toNat - 0x40) (t.readA o.srcA + i.signExtend 48)) s

/-- A local access counts toward the bundle's bank conflicts (R181). -/
def useBank (l a : Nat) (s : State) : State := modTile l (fun t => { t with banks := t.banks ++ [a / 256 % 32] }) s

/-- Transfers into tile space that are in flight, of every tile, with the partition whose window they read (R234). -/
def inbound (s : State) : List (PartDef × Xfer × Bool) :=
  s.tl.tiles.flatMap (fun e => match e.2.cmd.bind (fun c => part? s c.part) with
    | some pd => (e.2.xfers.filter (fun x => !x.out)).map (fun x => (pd, x, false)) ++ (e.2.sxfers.filter (fun x => !x.out)).map (fun x => (pd, x, true))
    | none => [])

/-- Bytes of a scratchpad as a local access sees them: a byte that a transfer in flight will write may be seen with either value
(R182, R234). -/
def spadSeen (l a n : Nat) (s : State) : Bytes × State :=
  let base := l * 0x400000 + a
  let xs := (inbound s).filter (fun x => decide (tsAddr (base - x.2.1.addr + 2 ^ 28) < x.2.1.len ∨ tsAddr (x.2.1.addr - base + 2 ^ 28) < n))
  let old := tsRead s base n
  if xs = [] then (old, s)
  else
    let pick := fun (i : Nat) (b : Byte) => xs.foldl (fun b x =>
      let k := tsAddr (base + i + 2 ^ 28 - x.2.1.addr)
      if k < x.2.1.len ∧ (Config.freeWord (s.freeTick + i)).getLsbD 0 then
        (if x.2.2 then nth (stgWinRead s x.1 x.2.1.depot (x.2.1.off + k) 1) 0 b
         else if x.2.1.slotAt.isSome then nth x.2.1.data k b
         else nth (dramWinRead s x.1 (x.2.1.off + k) 1) 0 b)
      else b) b
    (((List.range n).zip old).map (fun e => pick e.1 e.2), { s with freeTick := s.freeTick + n })

/-- A local read meets the words' check bits: an uncorrectable one fails the command (R183). -/
def readSpad (l a n : Nat) (s : State) : Bytes × State :=
  let (ue, s) := readCheck .spad l a n s
  spadSeen l a n (readFails l ue s)

/-- Access size of a scalar load or store: MOD[2:1] (R222). -/
def accSize (o : Op) : Nat := 2 ^ o.fieldOf 1 2

/-- A refused access to another partition's tiles (R230). -/
def crossPart (l part : Nat) (s : State) : State :=
  let s := { s with tl := { s.tl with xpart := satAdd s.tl.xpart 1, xpartAt := l } }
  barker 0x0305 2 { part := part, uclass := 0x01, unit := l, detail := l } s

/-- Tile-space address of PUT, XFER and SXFER, its low byte ignored (R222, R232, R236). -/
def tsOperand (t : Tile) (o : Op) : Nat := ((t.readA o.srcA).setWidth 28 + o.imm.setWidth 28).toNat / 256 * 256

/-- The command's own use of a token is noted, with the owner it found (R418). -/
def noteTok (l t added taken : Nat) (s : State) : State :=
  modTile l (fun x =>
    let u := (x.toks.find? (fun u => u.t == t)).getD ⟨t, 0, 0, (tok s t).owner⟩
    { x with toks := x.toks.filter (fun u => u.t != t) ++ [{ u with added := u.added + added, taken := u.taken + taken }] }) s

/-- The token of a transfer that is done (R233, R235): the depot posts it. -/
def xferPost (l : Nat) (k : Option Nat) (s : State) : State :=
  match k with | some t => post depotPoster t 1 (noteTok l t 1 0 s) | none => s

/-- Everything that left the tile is done (R224). -/
def Tile.quiet (t : Tile) : Bool := t.xfers.isEmpty && t.sxfers.isEmpty && t.puts.isEmpty

/-- Lines that wait in the port queue (R236). -/
def Tile.lines (t : Tile) : Nat := (t.puts.filter (fun i => match i with | .line _ _ => true | _ => false)).length

/-- Whether a full lane, staging or port queue has room for what waits for it, and the tile once it goes (R213, R233, R235, R236). A waiting PUT
line stands in the port queue already. -/
def Tile.thawOne (f : Freeze) (t : Tile) : Bool × Tile :=
  match f with
  | .lane x => if (t.xfers.filter (fun y => y.lane == x.lane)).length < 8 then (true, { t with xfers := t.xfers ++ [x] }) else (false, t)
  | .staging x => if t.sxfers.length < 2 then (true, { t with sxfers := t.sxfers ++ [x] }) else (false, t)
  | .port => (decide (t.lines ≤ 64), t)
  | _ => (false, t)

/-- Causes of a freeze end when what they wait for has room or is done (R213, R224, R234 to R236); FENCE last. -/
def thaw (l : Nat) (s : State) : State :=
  let t := tile s l
  if t.freeze = [] then s else
  let r := t.freeze.foldl (fun (a : List Freeze × Tile) f => let x := a.2.thawOne f; (if x.1 then a.1 else a.1 ++ [f], x.2)) ([], t)
  let full := r.1.any (fun f => match f with | .lane _ | .staging _ | .port => true | _ => false)
  setTile l { r.2 with freeze := if r.2.quiet && !full then r.1.filter (· != .fence) else r.1 } s

/-- Issue a transfer of a tile's own partition, or refuse one that leaves it (R230 to R235). -/
def startXfer (l : Nat) (staging : Bool) (x : Xfer) (s : State) : State :=
  let t := tile s l
  match t.cmd.bind (fun c => (part? s c.part).map (fun pd => (c, pd))) with
  | none => s
  | some (c, pd) =>
    if ¬ tsInside pd x.addr x.len then xferPost l x.tok (crossPart l c.part s)
    else
      let x := { x with data := if x.out then tsRead s x.addr x.len else [] }
      let range := if staging ∧ x.out then [(x.depot, stgAddr pd x.depot x.off, x.len)] else []
      let s := setTile l { t with
        cmd := some { c with stgOut := c.stgOut ++ range }, freeze := t.freeze ++ [if staging then .staging x else .lane x] } s
      let (ue, s) := if x.out then tsCheck x.addr x.len s else (false, s)
      thaw l (readFails l ue s)

/-- The tiles that a tile-space range touches take packets now (R202, R204). -/
def tsOpen (s : State) (a n : Nat) : Bool :=
  !(tileHeld s (tsAddr a / 0x400000)) && !(tileHeld s (tsAddr (a + n - 1) / 0x400000))

/-- The oldest transfer of a lane is done once its slot has been (R233): the bytes that the slot read, the token, room on the lane. -/
def xferDone (l lane : Nat) (s : State) : State :=
  let t := tile s l
  match t.xfers.find? (fun x => x.lane == lane) with
  | some x =>
    match x.slotAt with
    | none => s
    | some at' =>
      if s.now.toNat < at'.toNat + (if x.out then 16 else 0) ∨ (¬ x.out ∧ ¬ tsOpen s x.addr x.len) then s
      else
        let s := if x.out then s else tsWrite x.addr x.data s
        let s := modTile l (fun t => { t with xfers := t.xfers.erase x }) s
        thaw l (xferPost l x.tok s)
  | none => s

/-- The staging range of a transfer meets its damage. -/
def stgCheck (pd : PartDef) (depot off n : Nat) (s : State) : Bool × State :=
  readCheck (if depot = 0 then .stg0 else .stg1) 0 (stgAddr pd depot off) n s

/-- A staging transfer is done (R235). -/
def sxferDone (l idx : Nat) (s : State) : State :=
  let t := tile s l
  match t.sxfers[idx]?, t.cmd.bind (fun c => part? s c.part) with
  | some x, some pd =>
    if ¬ x.out ∧ ¬ tsOpen s x.addr x.len then s
    else
      let s := if x.out then stgWinWrite pd x.depot x.off x.data s
        else
          let (ue, s) := stgCheck pd x.depot x.off x.len s
          tsWrite x.addr (stgWinRead s pd x.depot x.off x.len) (readFails l ue s)
      let s := modTile l (fun t => { t with sxfers := t.sxfers.eraseIdx idx }) s
      thaw l (xferPost l x.tok s)
  | _, _ => s

/-- POSTs at the head of a port queue have nothing left to wait for (R195). -/
def flushPosts (l : Nat) : Nat → State → State
  | 0, s => s
  | n + 1, s =>
    let t := tile s l
    match t.puts, t.cmd with
    | .post k c :: r, some cmd => flushPosts l n (post (ownerCode cmd.part cmd.slot) k c (noteTok l k c 0 (setTile l { t with puts := r } s)))
    | _, _ => s

/-- The line at the head of a port queue is written at its target, unless the target is under remap (R199, R202, R236). -/
def putArrival (l : Nat) (s : State) : State :=
  let t := tile s l
  match t.puts with
  | .line a v :: r =>
    if tileHeld s (a / 0x400000) then s
    else
      let s := tsWrite a (laneBytes v) (setTile l { t with puts := r } s)
      thaw l (flushPosts l (r.length + 1) s)
  | _ => s

def execLdv (o : Op) (s : State) : Host.Outcome State Fault Refusal :=
  run s (issue (o.ok rowLdv) o (fun l t s =>
    let a := offAddr t o / 256 * 256
    let (b, s) := readSpad l a 256 (useBank l a s)
    postInc l o t (putV l o 2 (bytesLanes b) (t.pred o) s)))

def execLds (o : Op) (s : State) : Host.Outcome State Fault Refusal :=
  run s (issue (o.ok rowLds) o (fun l t s =>
    if t.off o then s else
    let n := accSize o
    let a := offAddr t o / n * n
    let (b, s) := readSpad l a n (useBank l a s)
    let w := leNat b
    let v := if o.flag 3 ∧ 2 ^ (8 * n - 1) ≤ w then BitVec.ofInt 64 ((w : Int) - 2 ^ (8 * n)) else BitVec.ofNat 64 w
    postInc l o t (putS l o 2 v s)))

def execStv (o : Op) (s : State) : Host.Outcome State Fault Refusal :=
  run s (issue (o.ok rowStv) o (fun l t s =>
    let a := offAddr t o / 256 * 256
    postInc l o t (lands l o 1 (.store a (laneBytes (t.readV o.srcB)) (t.pred o)) (useBank l a s))))

def execSts (o : Op) (s : State) : Host.Outcome State Fault Refusal :=
  run s (issue (o.ok rowSts) o (fun l t s =>
    if t.off o then s else
    let n := accSize o
    let a := offAddr t o / n * n
    postInc l o t (lands l o 1 (.store a (leBytes n (t.readS o.srcB).toNat) (~~~ 0)) (useBank l a s))))

def execPut (o : Op) (s : State) : Host.Outcome State Fault Refusal :=
  run s (issue (o.ok rowStv) o (fun l t s =>
    if t.off o then s else
    let a := tsOperand t o
    match t.cmd.bind (fun c => (part? s c.part).map (fun pd => (c, pd))) with
    | none => s
    | some (c, pd) =>
      let s := if tsInside pd a 256 then thaw l (modTile l (fun t => { t with puts := t.puts ++ [.line a (t.readV o.srcB)], freeze := t.freeze ++ [.port] }) s)
        else crossPart l c.part s
      postInc l o t s))

def execXfer (o : Op) (s : State) : Host.Outcome State Fault Refusal :=
  run s (issue (xferOk o) o (fun l t s =>
    if t.off o then s else
    let x : Xfer := {
      lane := o.fieldOf 1 3, out := o.flag 0, addr := tsOperand t o, off := (t.readS o.srcB).toNat / 1024 * 1024,
      len := o.fieldOf 4 5 * 1024, depot := 0, tok := (if o.flag 9 then some (l * 256 + o.fieldOf 10 8) else none), data := ([] : Bytes),
      issue := s.now, slotAt := none }
    postInc l o t (startXfer l false x s)))

def execSxfer (o : Op) (s : State) : Host.Outcome State Fault Refusal :=
  run s (issue (sxferOk o) o (fun l t s =>
    if t.off o then s else
    let x : Xfer := {
      lane := 8, out := o.flag 0, addr := tsOperand t o, off := (t.readS o.srcB).toNat / 256 * 256,
      len := o.fieldOf 2 5 * 256, depot := o.fieldOf 1 1, tok := (if o.flag 7 then some (l * 256 + o.fieldOf 8 8) else none), data := ([] : Bytes),
      issue := s.now, slotAt := none }
    postInc l o t (startXfer l true x s)))

def execPutArrival (l : BitVec 6) (s : State) : Host.Outcome State Fault Refusal := run s (putArrival l.toNat)
def execXferDone (l : BitVec 6) (lane : BitVec 3) (s : State) : Host.Outcome State Fault Refusal := run s (xferDone l.toNat lane.toNat)
def execSxferDone (l : BitVec 6) (idx : Nat) (s : State) : Host.Outcome State Fault Refusal := run s (sxferDone l.toNat idx)

end Sys2Proof.Machine
end

