-- ==== Sys2Proof/Machine/Failing.lean ====
section
/-! DEFINITION. What a failing command leaves (15, R417 to R420, R425): tokens, banks, the queue of commands to run again. -/

namespace Sys2Proof.Machine

/-- The fused chain whose tokens a routine of a tile claims (R278, R365): its place in the route table. -/
def chainOf (s : State) (part cls l : Nat) (toks : List Nat) : Option Nat :=
  (List.range s.si.conf.chains.length).find? (fun i =>
    match s.si.conf.chains[i]? with
    | some c => c.part == part && c.cls == cls && (c.prod == l || c.cons == l) && (toks.contains c.inTok || toks.contains c.freeTok)
    | none => false)

/-- A token of the fused chain of a running command (R418). -/
def chainTok (s : State) (c : TileCmd) (t : Nat) : Bool :=
  match c.group.bind (fun g => s.si.conf.chains[g]?) with
  | some ch => ch.inTok == t || ch.freeTok == t
  | none => false

/-- Everything that a failing command has in flight is carried out, so that its tokens can be restored (R418; log 23). -/
def drainTile (l : Nat) (s : State) : State :=
  let t := tile s l
  match t.cmd.bind (fun c => part? s c.part) with
  | none => s
  | some pd =>
    let s := t.xfers.foldl (fun s x =>
      if x.out then (if x.slotAt.isSome then s else dramWinWrite pd x.off x.data s)
      else tsWrite x.addr (if x.slotAt.isSome then x.data else dramWinRead s pd x.off x.len) s) s
    let s := t.sxfers.foldl (fun s x => if x.out then stgWinWrite pd x.depot x.off x.data s
      else tsWrite x.addr (stgWinRead s pd x.depot x.off x.len) s) s
    t.puts.foldl (fun s i => match i with | .line a v => tsWrite a (laneBytes v) s | .post _ _ => s) s

/-- The tokens a failing command touched return to what they would be without it (R418); a chain's are set at group restart. -/
def restoreToks (l : Nat) (c : TileCmd) (s : State) : State :=
  (tile s l).toks.foldl (fun s u =>
    if chainTok s c u.t then s
    else
      let r := tok s u.t
      setTok u.t { r with count := r.count + BitVec.ofNat 32 u.taken - BitVec.ofNat 32 u.added, owner := u.owner } s) s

/-- Take a failed command off its tile: tokens restored, live banks from their shadows, nothing pending (R417, R418). -/
def takeOff (l : Nat) (s : State) : State :=
  match (tile s l).cmd with
  | none => s
  | some c =>
    let s := restoreToks l c (drainTile l s)
    let live := ((job? s (c.part, c.slot)).map (·.live)).getD 0
    modTile l (fun t => { Tile.init with
      acc := putRows live t.shadow t.acc, shadow := t.shadow, wbuf := t.wbuf, stilts := t.stilts, s := t.s, a := t.a, v := t.v, p := t.p,
      cyc := t.cyc, pc := t.pc }) s

/-- The decoder sequences that a decoder job's command serves are lost (R308, R425). -/
def loseSeqs (part dec : Nat) (s : State) : State :=
  let ids := (s.kv.steps.filter (fun x => x.part == part && x.dec == dec)).flatMap (fun x => x.list.map (·.1))
  { s with kv := { s.kv with seqs := s.kv.seqs.map (fun e => if ids.contains e.1 then (e.1, { e.2 with lost := true }) else e) } }

/-- The last allowed run has failed (R425). -/
def retryLimit (c : TileCmd) (pages : List (BitVec 32)) (l : Nat) (s : State) : State :=
  let s := pages.foldl (fun s p => endLost p s) s
  let s := match c.decoder with | some d => loseSeqs c.part d s | none => s
  barker 0x0403 2 { status := cInputLost, part := c.part, queue := c.queue.getD 0xFFFF, uclass := 0x01, unit := l, detail := c.runs } (snCount 4 1 s)

/-- A page is served by a re-run: its records carry FAULT_RETRIED unless a stronger code applies (R9, R427). -/
def markRetried (pages : List (BitVec 32)) (s : State) : State :=
  pages.foldl (fun s p => modPage p (fun x => { x with retried := true }) s) s

/-- Put a failed command in front of those that wait, to run again (R418). -/
def runAgain (c : TileCmd) (l : Nat) (s : State) : State :=
  let s := snCount 1 1 (markRetried c.pages s)
  let s := barker 0x0402 0 { part := c.part, queue := c.queue.getD 0xFFFF, uclass := 0x01, unit := l, detail := c.runs } s
  { s with rm := { s.rm with ready := (c.req, c.runs) :: s.rm.ready } }

/-- A group restarts (R419): its running commands fail, both tokens are zero and free, its commands wait again in their order. -/
def groupRestart (g : Nat) (s : State) : State :=
  match s.rm.groups.find? (fun x => x.chain == g), s.si.conf.chains[g]? with
  | some gr, some ch =>
    let tiles := [ch.prod, ch.cons].filter (fun l => ((tile s l).cmd.bind (·.group)) == some g)
    let cmds := tiles.filterMap (fun l => (tile s l).cmd)
    let s := tiles.foldl (fun s l => snCount 0 1 (takeOff l s)) s
    let zero := fun (t : Nat) (s : State) => setTok t { tok s t with count := 0, owner := 0xFFFF } s
    let s := zero ch.freeTok (zero ch.inTok s)
    let s := { s with rm := { s.rm with jobs := s.rm.jobs.map (fun (j : Job) => { j with held := j.held.filter (fun h => h.1 != ch.inTok && h.1 != ch.freeTok) })
                                        groups := s.rm.groups.filter (fun x => x.chain != g) } }
    let s := { s with tl := { s.tl with held := s.tl.held.filter (fun h => h.2.1 != ch.inTok && h.2.1 != ch.freeTok) } }
    let pages := gr.reqs.flatMap (·.pages)
    let s := if 4 ≤ gr.runs then
        match cmds with
        | c :: _ => retryLimit { c with runs := gr.runs } pages ch.cons s
        | [] => s
      else
        let s := snCount 1 gr.reqs.length (snCount 2 1 (markRetried pages s))
        let s := barker 0x0402 0 { part := ch.part, uclass := 0x01, unit := ch.cons, detail := gr.runs } s
        { s with rm := { s.rm with ready := gr.reqs.map (fun r => (r, gr.runs)) ++ s.rm.ready } }
    wakeJobs (settleOwing (tiles.foldl (fun s l => afterCommand l s) s))
  | _, _ => s

/-- A running command fails and is to run again, at most four times (R418, R419, R425). -/
def failCommand (l : Nat) (s : State) : State :=
  match (tile s l).cmd with
  | none => s
  | some c =>
    match c.group with
    | some g => groupRestart g s
    | none =>
      let s := snCount 0 1 (takeOff l s)
      let s := if 4 ≤ c.runs then retryLimit c c.pages l s else runAgain c l s
      wakeJobs (settleOwing (afterCommand l s))

/-- The tiles that run a command of the commit group of a tile's command, and the pages that the group serves (R419). -/
def groupOf (s : State) (l : Nat) (c : TileCmd) : List Nat × List (BitVec 32) :=
  match c.group with
  | none => ([l], c.pages)
  | some g => ((List.range 64).filter (fun k => ((tile s k).cmd.bind (·.group)) == some g),
      (((s.rm.groups.filter (fun x => x.chain == g)).flatMap (fun x => x.reqs.flatMap (·.pages))) ++ c.pages).dedup)

/-- A command fails for good, and every running command of its commit group with it, whose chain's tokens are then zero and free (R282, R419). -/
def dropCommands (tiles : List Nat) (c : TileCmd) (s : State) : State :=
  let s := tiles.foldl (fun s l => snCount 0 1 (takeOff l s)) s
  match c.group.bind (fun g => s.si.conf.chains[g]?) with
  | some ch =>
    let zero := fun (t : Nat) (s : State) => setTok t { tok s t with count := 0, owner := 0xFFFF } s
    let s := zero ch.freeTok (zero ch.inTok s)
    { s with rm := { s.rm with groups := s.rm.groups.filter (fun x => some x.chain != c.group) } }
  | none => s

/-- A WAIT that needs a donation that is refused fails its command for good (R380): no re-run, the job's slot is freed, each page served
ends with its one record. -/
def failDonation (l : Nat) (s : State) : State :=
  match (tile s l).cmd with
  | none => s
  | some c =>
    let (tiles, pages) := groupOf s l c
    let s := dropCommands tiles c s
    let s := endJobs (fun j => j.key == (c.part, c.slot)) s
    let s := pages.foldl (fun s p => endPage p cDonation s) s
    let s := barker 0x0302 1 { status := cDonation, part := c.part, queue := c.queue.getD 0xFFFF, uclass := 0x01, unit := l, detail := l } s
    wakeJobs (settleOwing (tiles.foldl (fun s k => afterCommand k s) s))

end Sys2Proof.Machine
end

