-- ==== Sys2Proof/Machine/Kv.lean ====
section
/-! DEFINITION. The KV cache (10, R289 to R299, R313 to R326): pools, runs, page tables, the active sequence table, the Carousel and the
KV_ registers. -/

namespace Sys2Proof.Machine

/-! ### Pools and runs -/

/-- The pools of a partition (R292, R297). -/
def poolDef (s : State) (p : Nat) : Option PoolDef := (s.si.conf.pools.find? (fun e => e.1 == p)).map (·.2)

/-- Runs of a partition's pool in a tier: 1 staging of a depot, 2 DRAM (R292). -/
def poolRuns (d : PoolDef) (tier depot : Nat) : Nat := if tier = 2 then d.dramRuns else if depot = 0 then d.stg.1 else d.stg.2

/-- First pool page of a partition: the pages of the lower-numbered ones (R292). -/
def poolBase (s : State) (p tier depot : Nat) : Nat :=
  ((s.si.conf.pools.filter (fun e => decide (e.1 < p))).map (fun e => poolRuns e.2 tier depot * e.2.l)).sum

/-- Pages of all staging pools of a depot. -/
def stgPages (s : State) (depot : Nat) : Nat := (s.si.conf.pools.map (fun e => poolRuns e.2 1 depot * e.2.l)).sum

/-- A page table entry (R294). -/
def ptEntry (tier depot run : Nat) : BitVec 32 := BitVec.ofNat 32 (tier * 2 ^ 30 + depot * 2 ^ 29 + run)
def entTier (e : BitVec 32) : Nat := e.toNat / 2 ^ 30
def entDepot (e : BitVec 32) : Nat := e.toNat / 2 ^ 29 % 2
def entRun (e : BitVec 32) : Nat := e.toNat % 2 ^ 21

/-- The entry of a run that lies in host memory (R294). -/
def entOut : BitVec 32 := 0xC0000000

/-- Memory, its damage unit, and the byte address of page `k` of the run that an entry names (R292, R328; log 21). -/
def pageAt (s : State) (e : BitVec 32) (k : Nat) : MemKind × Nat :=
  let g := entRun e + k
  if entTier e = 2 then (.dram, regionBase s 3 + g * 16384)
  else (if entDepot e = 0 then .stg0 else .stg1, 0x3C00000 + g * 16384 - stgPages s (entDepot e) * 16384)

/-- Bytes of a memory that holds runs, and a write there. -/
def runRead (s : State) (m : MemKind) (a n : Nat) : Bytes :=
  Memory.readBytes (match m with | .dram => s.mem.dram | .stg0 => s.mem.stg0 | _ => s.mem.stg1) a n

def runWrite (m : MemKind) (a : Nat) (bs : Bytes) (s : State) : State :=
  heal m 0 a bs.length (match m with
    | .dram => setDram s (Memory.writeBytes s.mem.dram a bs)
    | .stg0 => setStg0 s (Memory.writeBytes s.mem.stg0 a bs)
    | _ => setStg1 s (Memory.writeBytes s.mem.stg1 a bs))

/-! ### Tables and entries -/

/-- An entry of the active sequence table (R297). -/
def seqEnt (s : State) (i : Nat) : SeqEntry := tabGet s.kv.seqs i SeqEntry.init

/-- Replace or change an entry. -/
def setSeq (i : Nat) (e : SeqEntry) (s : State) : State := { s with kv := { s.kv with seqs := tabSet s.kv.seqs i e } }
def modSeq (i : Nat) (f : SeqEntry → SeqEntry) (s : State) : State := setSeq i (f (seqEnt s i)) s

/-- A page table (R294). -/
def tabOf (s : State) (t : Nat) : PageTab := tabGet s.kv.tabs t ⟨[], 0, false⟩

/-- Replace a page table. -/
def setTab (t : Nat) (x : PageTab) (s : State) : State := { s with kv := { s.kv with tabs := tabSet s.kv.tabs t x } }

/-- Memory of a depot's staging SRAM. -/
def stgKind (depot : Nat) : MemKind := if depot = 0 then .stg0 else .stg1

/-- Entries of a table are written: the words they stand in get fresh check bits as R351 says. -/
def putTab (t : Nat) (bs : List Nat) (x : PageTab) (s : State) : State :=
  bs.foldl (fun s b => heal (stgKind (tabDepot t)) 0 (tabAddr t + 4 * b) 4 s) (setTab t x s)

/-- A whole table is written to its slot (R299, R316). -/
def newTab (t : Nat) (x : PageTab) (s : State) : State := heal (stgKind (tabDepot t)) 0 (tabAddr t) 512 (setTab t x s)

/-- Entry `b` of a table. -/
def PageTab.ent (x : PageTab) (b : Nat) : BitVec 32 := tabGet x.ents b 0

/-- The table with entry `b` written; none leaves no entry. -/
def PageTab.put (x : PageTab) (b : Nat) (e : BitVec 32) : PageTab :=
  { x with ents := if e = 0 then tabDel x.ents b else tabSet x.ents b e }

/-- Count an event of KV_CNT (R326). -/
def kvCount (k n : Nat) (s : State) : State := { s with kv := { s.kv with cnt := cntAdd s.kv.cnt k n } }

/-- Home depot of an entry (R295). -/
def home (i : Nat) : Nat := i % 2

/-- The lowest free table slot of a depot, as a table number (R295). -/
def freeTable (s : State) (depot : Nat) : Option Nat :=
  ((List.range 8192).map (8192 * depot + ·)).find? (fun t => !(s.kv.tabs.any (fun x => x.1 == t)))

/-- Runs that a sequence owns or that its table names (R296, R318, R321, R325); those of a victim are free once all its pages are copied. -/
def seqRuns (s : State) (i : Nat) (e : SeqEntry) : List (BitVec 32) :=
  if e.st = .free then []
  else
    let t := (tabOf s e.table).ents.filter (fun x => entTier x.2 == 1 || entTier x.2 == 2)
    let t := if e.st = .outPend then t.filter (fun x => e.moving.any (fun m => m.1 == x.1)) else t
    t.map (·.2) ++ e.held.toList ++ tabGet s.kv.resv i []

/-- Runs that are not free: those of every sequence, and those a replaced table names while steps read it (R316). -/
def usedRuns (s : State) : List (BitVec 32) :=
  s.kv.seqs.flatMap (fun e => seqRuns s e.1 e.2) ++ (s.kv.tabs.filter (fun t => t.2.old)).flatMap (fun t => t.2.ents.map (·.2))

/-- Runs of a pool, the lowest first pool page first. -/
def poolEntries (s : State) (p tier depot : Nat) : List (BitVec 32) :=
  match poolDef s p with
  | none => []
  | some d => (List.range (poolRuns d tier depot)).map (fun j => ptEntry tier (if tier = 1 then depot else 0) (poolBase s p tier depot + j * d.l))

/-- Free runs of a pool. -/
def freeRuns (s : State) (p tier depot : Nat) : List (BitVec 32) :=
  let used := usedRuns s
  (poolEntries s p tier depot).filter (fun r => !(used.contains r))

/-- The run that R318 takes for a sequence: staging of its home depot first, then DRAM, the lowest page first. -/
def pickRun (s : State) (p depot : Nat) : Option (BitVec 32) :=
  let used := usedRuns s
  match (poolEntries s p 1 depot).find? (fun r => !(used.contains r)) with
  | some r => some r
  | none => (poolEntries s p 2 0).find? (fun r => !(used.contains r))

/-- The decoder of a sequence. -/
def decDef (s : State) (p d : Nat) : Option DecDef := s.si.conf.decs.find? (fun x => x.part == p && x.num == d)

/-- Streams that a sequence's decoder keeps (R290, R291). -/
def streams (s : State) (e : SeqEntry) : Nat := match decDef s e.part e.dec with | some d => d.layers * d.kvh | none => 0

/-! ### Life of a sequence -/

/-- SEQUENCE_ALLOC (R299): the first waiting segment of the partition takes the lowest free entry of the range whose home depot has a free
table slot. -/
def sequenceAlloc (p : Nat) (s : State) : State :=
  match s.kv.segs.find? (fun g => g.1 == p), poolDef s p with
  | some (_, pid, line), some d =>
    match page? s pid with
    | none => { s with kv := { s.kv with segs := s.kv.segs.erase (p, pid, line) } }
    | some pg =>
      match ((List.range d.count).map (d.base + ·)).find? (fun i => (seqEnt s i).st == .free && (freeTable s (home i)).isSome) with
      | none => s
      | some i =>
        let c := classOf s.si.conf pg.cls
        let t := (freeTable s (home i)).getD 0
        let e : SeqEntry := { SeqEntry.init with
          st := .ready, part := p, queue := pg.queue, page := pid, line := line, dec := (c.map (·.dec)).getD 0, prio := (c.map (·.prio)).getD 0,
          created := s.now, table := t, epoch := (seqEnt s i).epoch + 1 }
        newTab t ⟨[], 0, false⟩ (setSeq i e { s with kv := { s.kv with segs := s.kv.segs.erase (p, pid, line) } })
  | _, _ => s

/-- A sequence ends (R300, R306): DONE with its strongest code, its runs free; the line's recognition is done. -/
def seqDone (i code : Nat) (s : State) : State :=
  let e := seqEnt s i
  let s := newTab e.table { tabOf s e.table with ents := [] } s
  let s := setSeq i { e with st := .done, held := none, moving := [] } s
  let s := { s with kv := { s.kv with resv := tabDel s.kv.resv i, owed := s.kv.owed.filter (fun o => o.2 != i) } }
  freeSeqs (segmentEnded e.page e.line (pickCode [code, if e.rowEmpty then cRowEmpty else 0]) s)

/-- A run freed by a swap-out goes to the first sequence owed that can hold it (R295, R318). -/
def giveRun (p : Nat) (r : BitVec 32) (s : State) : State :=
  let takes := fun (o : Nat × Nat) =>
    let e := seqEnt s o.2
    o.1 == p && e.st == .ready && e.n % 64 == 0 && e.held.isNone && (tabOf s e.table).ent (e.n / 64) == 0 &&
      (entTier r == 2 || entDepot r == home o.2)
  match s.kv.owed.find? takes with
  | some o => modSeq o.2 (fun e => { e with held := some r }) { s with kv := { s.kv with owed := s.kv.owed.erase o } }
  | none => s

/-! ### Carousel slots -/

/-- A Carousel slot, its state and its ticket (R323, R326). -/
def carSlot (s : State) (k : Nat) : CarSlot := tabGet s.kv.slots k CarSlot.init
def CarSlot.state (x : CarSlot) : Nat := fld x.word 0 8
def CarSlot.ticket (x : CarSlot) : Nat := fld x.word 32 32

/-- Replace a slot. -/
def setCarSlot (k : Nat) (x : CarSlot) (s : State) : State := { s with kv := { s.kv with slots := tabSet s.kv.slots k x } }

/-- Window address of a slot (R38). -/
def carAddr (k : Nat) : Nat := 0x01100000 + k * 0x4000

/-- A page's ticket (R322). -/
def ticket (epoch : Byte) (stream block i : Nat) : Nat := epoch.toNat * 2 ^ 24 + stream * 2 ^ 20 + block * 2 ^ 13 + i

/-- KV_CSLOT of a slot (R326). -/
def slotWord (tick part st : Nat) : Word := place tick 32 32 ||| place part 28 4 ||| place st 0 8

/-- The lowest-numbered free slot (R321). -/
def lowestFree (s : State) : Option Nat := (List.range 512).find? (fun k => (carSlot s k).state == 0)

/-- Slots in state 0x01; slots not free; pages that victims still have to copy. -/
def slotsOut (s : State) : Nat := (s.kv.slots.filter (fun x => x.2.state == 1)).length
def slotsHeld (s : State) : Nat := (s.kv.slots.filter (fun x => x.2.state != 0)).length
def pagesPending (s : State) : Nat := (s.kv.outq.map (fun i => (seqEnt s i).moving.length)).sum

/-- Free slots that no page of a chosen victim will take (R320, R325). -/
def freeSlots (s : State) : Nat := 512 - slotsHeld s - pagesPending s

/-- Enter a state that asks the host driver for something: CAROUSEL is set (R323). -/
def askHost (k : Nat) (x : CarSlot) (s : State) : State := alert 4 (setCarSlot k x s)

/-- Blocks of a table that name runs in a pool, or that lie in host memory. -/
def liveBlocks (x : PageTab) : List Nat := (x.ents.filter (fun e => entTier e.2 == 1 || entTier e.2 == 2)).map (·.1)
def outBlocks (x : PageTab) : List Nat := (x.ents.filter (fun e => entTier e.2 == 3)).map (·.1)

/-- Every page of some blocks, block by block (R291). -/
def pagesOf (blocks : List Nat) (n : Nat) : List (Nat × Nat) := blocks.flatMap (fun b => (List.range n).map (fun k => (b, k)))

/-- All pages of a victim are out: OUT, its entries in tier 0b11 (R321). -/
def outDone (i : Nat) (s : State) : State :=
  let e := seqEnt s i
  let t := tabOf s e.table
  let s := putTab e.table (t.ents.map (·.1)) { t with ents := t.ents.map (fun x => (x.1, entOut)) } s
  setSeq i { e with st := .out, moving := [] } { s with kv := { s.kv with outq := s.kv.outq.filter (· != i) } }

/-- Choose one victim if its pages fit (R320, R321): runs covered, runs freed at once, the state after. -/
def takeVictim (i : Nat) (acc : Nat × List (BitVec 32) × State) : Nat × List (BitVec 32) × State :=
  let (k, freed, s) := acc
  let e := seqEnt s i
  let blocks := liveBlocks (tabOf s e.table)
  let pages := pagesOf blocks (streams s e)
  let covers := blocks.length + e.held.toList.length
  if k = 0 ∨ covers = 0 ∨ freeSlots s < pages.length ∨ 448 < slotsOut s + pagesPending s + pages.length then acc
  else
    let s := setSeq i { e with st := .outPend, held := none, moving := pages } s
    let s := { s with kv := { s.kv with outq := s.kv.outq ++ [i] } }
    (k - covers, freed ++ e.held.toList, if pages.isEmpty then outDone i s else s)

/-- READY sequences of a partition in the order in which victims are chosen (R320). -/
def victimOrder (s : State) (p : Nat) (given : List Nat) : List Nat :=
  let may := s.kv.seqs.filter (fun e => e.2.st == .ready && e.2.part == p && !(e.2.returned) && !(given.contains e.1))
  (sortBy (fun (a b : Nat × SeqEntry) =>
    decide (a.2.prio < b.2.prio) || (a.2.prio == b.2.prio && (decide (b.2.created.toNat < a.2.created.toNat) ||
      (a.2.created == b.2.created && decide (b.1 < a.1))))) may).map (·.1)

/-- Victims for the candidates left without runs (R320); runs freed by the choice go to those owed (R318). -/
def chooseVictims (p : Nat) (left given : List Nat) (s : State) : State :=
  if left.isEmpty then s
  else
    let (_, freed, s) := (victimOrder s p given).foldl (fun a i => takeVictim i a) (left.length, [], s)
    let need := left.filter (fun i => (seqEnt s i).st == .ready && !(s.kv.owed.contains (p, i)))
    let s := { s with kv := { s.kv with owed := s.kv.owed ++ need.map (fun i => (p, i)) } }
    freed.foldl (fun s r => giveRun p r s) s

/-- CAROUSEL_PAGE_OUT (R321, R322): the next page of the oldest victim goes into the lowest-numbered free slot. -/
def carouselPageOut (k : Nat) (s : State) : State :=
  match s.kv.outq with
  | [] => s
  | i :: _ =>
    let e := seqEnt s i
    match e.moving with
    | [] => s
    | (b, st) :: rest =>
      if lowestFree s ≠ some k ∨ 448 ≤ slotsOut s then s
      else
        let r := (tabOf s e.table).ent b
        let (m, a) := pageAt s r st
        let (ue, s) := readCheck m 0 a 16384 s
        let bytes := runRead s m a 16384
        let tick := ticket e.epoch st b i
        let s := heal .aperture 0 (carAddr k) 16384 (setAp s (Memory.writeBytes s.mem.ap (carAddr k) bytes))
        let s := kvCount 4 1 (askHost k ⟨slotWord tick e.part 1, crc32 (leBytes 4 tick ++ bytes), i⟩ s)
        let s := setSeq i { e with moving := rest, lost := e.lost || ue } s
        let s := if rest.any (fun x => x.1 == b) then s else giveRun e.part r s
        if rest.isEmpty then outDone i s else s

/-- The host releases a slot in state 0x01 (R323). -/
def carRelease (k : Nat) (s : State) : State :=
  let x := carSlot s k
  if x.state = 1 then setCarSlot k { x with word := setFld x.word 0 8 0 } s else wdisc s

/-- The host returns the page of a slot in state 0x02 (R323, R324). -/
def carReturn (k : Nat) (s : State) : State :=
  let x := carSlot s k
  if x.state = 2 then setCarSlot k { x with word := setFld x.word 0 8 3 } s else wdisc s

/-- Every page of a returning sequence is back (R325): entries written, READY, VER once; the further run stays outside the table. -/
def inDone (i : Nat) (s : State) : State :=
  let e := seqEnt s i
  let rs := tabGet s.kv.resv i []
  let t := tabOf s e.table
  let blocks := outBlocks t
  let s := putTab e.table blocks { t with ents := t.ents.map (fun x => if entTier x.2 = 3 then (x.1, nth rs (blocks.findIdx (· == x.1)) 0) else x) } s
  let s := { s with kv := { s.kv with resv := tabDel s.kv.resv i } }
  setSeq i { e with st := .ready, ver := e.ver + 1, held := rs[blocks.length]?, returned := true, moving := [] } s

/-- CAROUSEL_CHECK (R322, R324, R325, R422): a page that passes goes into its reserved run, one that fails is wanted again. -/
def carouselCheck (k : Nat) (s : State) : State :=
  let x := carSlot s k
  if x.state ≠ 3 then s
  else
    let (ue, s) := readCheck .aperture 0 (carAddr k) 16384 s
    let bytes := Memory.readBytes s.mem.ap (carAddr k) 16384
    if ue ∨ crc32 (leBytes 4 x.ticket ++ bytes) ≠ x.crc then
      kvCount 6 1 (askHost k { x with word := setFld x.word 0 8 2 } s)
    else
      let i := x.seq
      let e := seqEnt s i
      let b := x.ticket / 2 ^ 13 % 128
      let st := x.ticket / 2 ^ 20 % 16
      let s := kvCount 5 1 (setCarSlot k { x with word := setFld x.word 0 8 0 } s)
      if e.st ≠ .inPend ∨ ¬ e.moving.contains (b, st) then s
      else
        let r := nth (tabGet s.kv.resv i []) ((outBlocks (tabOf s e.table)).findIdx (· == b)) 0
        let (m, a) := pageAt s r st
        let s := runWrite m a bytes s
        let s := setSeq i { e with moving := e.moving.erase (b, st) } s
        if (e.moving.erase (b, st)).isEmpty then inDone i s else s

/-! ### Swap-in -/

/-- Reserve `n` runs for a sequence (R318, R325). -/
def reserveRuns (p i : Nat) : Nat → State → State
  | 0, s => s
  | n + 1, s =>
    match pickRun s p (home i) with
    | some r => reserveRuns p i n { s with kv := { s.kv with resv := tabSet s.kv.resv i (tabGet s.kv.resv i [] ++ [r]) } }
    | none => s

/-- Swap-ins in order; the first that cannot start ends them (R325). -/
def swapIns (p : Nat) : List Nat → State → State
  | [], s => s
  | i :: r, s =>
    let e := seqEnt s i
    if e.lost then swapIns p r (seqDone i cInputLost s)
    else
      let blocks := outBlocks (tabOf s e.table)
      let need := blocks.length + (if e.n % 64 = 0 then 1 else 0)
      let pages := pagesOf blocks (streams s e)
      if (freeRuns s p 2 0).length + (freeRuns s p 1 (home i)).length < need ∨ freeSlots s < pages.length then s
      else
        let s := reserveRuns p i need (setSeq i { e with st := .inPend, moving := pages } s)
        let s := pages.foldl (fun s g => match lowestFree s with
          | some k => askHost k ⟨slotWord (ticket e.epoch g.2 g.1 i) p 2, (carSlot s k).crc, i⟩ s
          | none => s) s
        swapIns p r (if pages.isEmpty then inDone i s else s)

/-- OUT sequences of a partition: highest priority, then earliest creation (R325). -/
def swapInOrder (s : State) (p : Nat) : List Nat :=
  (sortBy (fun (a b : Nat × SeqEntry) =>
    decide (b.2.prio < a.2.prio) || (a.2.prio == b.2.prio && (decide (a.2.created.toNat < b.2.created.toNat) ||
      (a.2.created == b.2.created && decide (a.1 < b.1))))) (s.kv.seqs.filter (fun e => e.2.st == .out && e.2.part == p))).map (·.1)

/-! ### Editing a table -/

/-- An entry word is well formed (R315 check 6). -/
def entOk (w : BitVec 32) : Bool :=
  decide (w.toNat / 2 ^ 21 % 256 = 0) && (entDepot w == 0 || entTier w == 1) && (entRun w == 0 || entTier w != 0) && entTier w != 3

/-- An entry names runs exactly where R296 requires: in STEP one more entry may stand (R315 check 7). -/
def entPlace (e : SeqEntry) (b : Nat) (w : BitVec 32) : Bool :=
  let n := if e.st = .step then e.n / 64 + 1 else ceilDiv e.n 64
  (entTier w != 0) == decide (b < n)

/-- A named run begins a run of the partition's pool, lies on the home depot if in staging, and is free or the sequence's (R315 check 8). -/
def entOwned (s : State) (i : Nat) (w : BitVec 32) : Bool :=
  let e := seqEnt s i
  entTier w == 0 ||
    ((poolEntries s e.part (entTier w) (entDepot w)).contains w && (entTier w == 2 || entDepot w == home i) &&
      (!((usedRuns s).contains w) || (seqRuns s i e).contains w))

/-- A sequence may be edited (R315 check 4). -/
def editable (e : SeqEntry) : Bool := e.st == .ready || e.st == .step

/-- A direct write of one entry (R313, R315, R316): its code and the state after. -/
def directWrite (w : Word) (s : State) : Nat × State :=
  let i := fld w 36 13
  let b := fld w 49 7
  let v : BitVec 32 := w.setWidth 32
  let e := seqEnt s i
  let t := tabOf s e.table
  if t.walk ≠ 0 ∨ ¬ editable e then (cTableBusy, s)
  else if ¬ entOk v then (cReserved, s)
  else if ¬ entPlace e b v then (cDimLimit, s)
  else if ¬ entOwned s i v ∨ (v ≠ 0 ∧ t.ents.any (fun x => x.1 != b && x.2 == v)) then (cClaim, s)
  else
    let e := { e with ver := e.ver + 1, held := if e.held = some v then none else e.held }
    (cOk, setSeq i e (putTab e.table [b] (t.put b v) s))

/-- The 128 entries of a table image. -/
def imgEnts (img : Bytes) : List (BitVec 32) := (List.range 128).map (fun b => BitVec.ofNat 32 (leAt img (4 * b) 4))

/-- Checks 3 to 10 of a table swap and its effects (R315, R316): its code and the state after. -/
def swapTable (i : Nat) (expect : BitVec 16) (owner : Option Nat) (img : Bytes) (s : State) : Nat × State :=
  let e := seqEnt s i
  let es := imgEnts img
  let named := es.filter (· ≠ 0)
  let idx := (List.range 128).zip es
  let mine : Bool := match owner with | some q => e.st != .free && e.queue == q | none => true
  if ¬ mine then (cClaim, s)
  else if ¬ editable e ∨ e.ver ≠ expect then (cTableBusy, s)
  else if ¬ es.all entOk then (cReserved, s)
  else if ¬ idx.all (fun x => entPlace e x.1 x.2) then (cDimLimit, s)
  else if ¬ es.all (entOwned s i) ∨ named.eraseDups.length ≠ named.length then (cClaim, s)
  else if e.st = .step ∧ nth es (e.n / 64) 0 ≠ (tabOf s e.table).ent (e.n / 64) then (cTableBusy, s)
  else
    match freeTable s (home i) with
    | none => (cQuota, s)
    | some t =>
      let old := tabOf s e.table
      let s := if old.walk = 0 then dropTabs [e.table] s else setTab e.table { old with old := true } s
      let s := newTab t ⟨idx.filter (fun x => x.2 ≠ 0), 0, false⟩ s
      let held := e.held.bind (fun r => if es.contains r then none else some r)
      (cOk, setSeq i { e with table := t, ver := e.ver + 1, held := held } s)

/-- KV_TABLE_SWAP on a queue (R314, R315). Over Caravan the table comes with the command (R407). -/
def kvTableSwap (q : Nat) (s : State) : State :=
  match current s q 5 with
  | none => s
  | some (_, cmd) =>
    let d := cmd.desc
    let src := leAt d 0x10 8
    let i := leAt d 0x18 2 % 8192
    let v := BitVec.ofNat 16 (leAt d 0x1A 2)
    let (code, s) := match cmd.attach with
      | some b =>
        if src ≠ 0 then (cReserved, s) else if b.length ≠ 512 then (cDimLimit, s) else swapTable i v (some q) b s
      | none =>
        if src % 64 ≠ 0 then (cReserved, s) else match cmd.image with
          | none => (cDimLimit, s)
          | some b => swapTable i v (some q) b s
    pushCmdRec q cmd.seq code true (clearCur q s)

/-! ### KV_ registers -/

/-- A source that may write KV_PT_WR and KV_PT_SWAP: firmware, and the management ports (R313, R326). -/
def ptSource (src : Src) : Bool := src != .host

/-- A write to KV_PT_WR (R313, R326): GO makes the direct write. -/
def ptWrWrite (src : Src) (d en : Word) (s : State) : State :=
  if ¬ ptSource src then wdisc s
  else
    let w := putBits s.kv.ptWr d (maskOf 36 20 ||| maskOf 0 32) en
    let s := { s with kv := { s.kv with ptWr := w } }
    if bitOf (d &&& en) 63 then
      let (code, s) := directWrite w s
      { s with kv := { s.kv with ptStat := place code 0 8 } }
    else s

/-- A write to KV_PT_SWAP (R314, R315, R326): GO makes the swap from staging SRAM of the home depot. -/
def ptSwapWrite (src : Src) (d en : Word) (s : State) : State :=
  if ¬ ptSource src then wdisc s
  else
    let w := putBits s.kv.ptSwap d (maskOf 32 29 ||| maskOf 6 20) en
    let s := { s with kv := { s.kv with ptSwap := w } }
    if bitOf (d &&& en) 63 then
      let i := fld w 48 13
      let a := fld w 6 20 * 64
      let (_, s) := readCheck (stgKind (home i)) 0 a 512 s
      let (code, s) := if 0x4000000 < a + 512 then (cDimLimit, s)
        else swapTable i (BitVec.ofNat 16 (fld w 32 16)) none (stgBytes s (home i) a 512) s
      { s with kv := { s.kv with ptStat := place code 0 8 } }
    else s

/-- A write to KV_CSLOT (R323, R532): only a write that reaches STATE has an effect. -/
def cslotWrite (k : Nat) (d en : Word) (s : State) : State :=
  if fld en 0 8 = 0 then s
  else match fld d 0 8 with
    | 0 => carRelease k s
    | 3 => carReturn k s
    | _ => wdisc s

/-- The host writes STATE of a Carousel slot; before RUN is reached the write waits (R323, R485). -/
def cslotHost (k : Nat) (v : Word) (s : State) : State :=
  if 512 ≤ k then s
  else if holds s then { s with held := s.held ++ [⟨.host, 0xC000 + k * 16, v, 1, []⟩] } else cslotWrite k v (maskOf 0 8) s

/-- A write to KV_CCRC (R326): in state 0x02 only. -/
def ccrcWrite (k : Nat) (d en : Word) (s : State) : State :=
  let x := carSlot s k
  if fld en 0 32 = 0 then s
  else if x.state = 2 then setCarSlot k { x with crc := (putBits (x.crc.setWidth 64) d (maskOf 0 32) en).setWidth 32 } s
  else wdisc s

/-- Value of a sequence state (R298). -/
def SeqState.value : SeqState → Nat
  | .free => 0 | .ready => 1 | .step => 2 | .outPend => 3 | .out => 4 | .inPend => 5 | .done => 6

/-- KV_SEQ_VAL of an entry (R326). -/
def seqVal (s : State) (i : Nat) : Word :=
  let e := seqEnt s i
  place e.st.value 61 3 ||| place e.prio 57 4 ||| place e.part 53 4 ||| place (if e.rowEmpty then 1 else 0) 52 1 ||| place e.n 38 14 |||
    place e.table 24 14 ||| place e.ver.toNat 8 16 ||| place (tabOf s e.table).walk 4 4

/-- Slots 64 j to 64 j + 63 that are in state 0x01 or 0x02 (R326). -/
def carPend (s : State) (j : Nat) : Word :=
  (s.kv.slots.filter (fun x => x.1 / 64 == j && (x.2.state == 1 || x.2.state == 2))).foldl (fun w x => w ||| maskOf (x.1 % 64) 1) 0

/-- Read a KV_ register; none where no register stands (R326). -/
def kvRead (off : Nat) (s : State) : Option (Word × State) :=
  if 0xB000 ≤ off ∧ off < 0xB080 then
    some (match poolDef s ((off - 0xB000) / 8) with
      | some d => place d.l 59 5 ||| place d.dramRuns 32 21 ||| place d.stg.2 20 12 ||| place d.stg.1 8 12
      | none => 0, s)
  else if 0xB080 ≤ off ∧ off < 0xB100 then
    some (match poolDef s ((off - 0xB080) / 8) with | some d => place d.count 16 14 ||| place d.base 0 13 | none => 0, s)
  else if 0xB100 ≤ off ∧ off < 0xB180 then
    let p := (off - 0xB100) / 8
    let outs := s.kv.seqs.filter (fun e => e.2.part == p && (e.2.st == .outPend || e.2.st == .out || e.2.st == .inPend))
    some (place (freeRuns s p 2 0).length 43 21 ||| place (freeRuns s p 1 1).length 31 12 ||| place (freeRuns s p 1 0).length 19 12 |||
      place outs.length 5 14, s)
  else if off = 0xB180 then some (s.kv.seqSel, s)
  else if off = 0xB188 then some (seqVal s (fld s.kv.seqSel 0 13), s)
  else if off = 0xB190 then some (s.kv.ptWr, s)
  else if off = 0xB198 then some (s.kv.ptSwap, s)
  else if off = 0xB1A0 then some (s.kv.ptStat, s)
  else if 0xB1A8 ≤ off ∧ off < 0xB1E8 then some (carPend s ((off - 0xB1A8) / 8), s)
  else if 0xB1E8 ≤ off ∧ off < 0xB228 then
    let k := (off - 0xB1E8) / 8
    some ((tabGet s.kv.cnt k 0).setWidth 64, { s with kv := { s.kv with cnt := tabSet s.kv.cnt k 0 } })
  else if 0xC000 ≤ off ∧ off < 0xE000 then
    let x := carSlot s ((off - 0xC000) / 16)
    some (if off / 8 % 2 = 0 then x.word else x.crc.setWidth 64, s)
  else none

/-- Write a KV_ register (R326). -/
def kvWrite (src : Src) (off : Nat) (d en : Word) (s : State) : Option State :=
  if off = 0xB180 then some { s with kv := { s.kv with seqSel := putBits s.kv.seqSel d (maskOf 0 13) en } }
  else if off = 0xB190 then some (ptWrWrite src d en s)
  else if off = 0xB198 then some (ptSwapWrite src d en s)
  else if 0xC000 ≤ off ∧ off < 0xE000 then
    some (if off / 8 % 2 = 0 then cslotWrite ((off - 0xC000) / 16) d en s else ccrcWrite ((off - 0xC000) / 16) d en s)
  else match kvRead off s with
    | some _ => some s
    | none => none

/-! ### Meanings -/

def execSequenceAlloc (part : BitVec 4) (s : State) : Host.Outcome State Fault Refusal := run s (sequenceAlloc part.toNat)
def execKvTableSwap (q : BitVec 16) (s : State) : Host.Outcome State Fault Refusal := run s (kvTableSwap q.toNat)
def execPtDirectWrite (w : RegWr) (s : State) : Host.Outcome State Fault Refusal := run s (whenRun 0xB190 w (ptWrWrite w.src w.data (enMask w.be)))
def execPtSwap (w : RegWr) (s : State) : Host.Outcome State Fault Refusal := run s (whenRun 0xB198 w (ptSwapWrite w.src w.data (enMask w.be)))
def execCarouselPageOut (k : Nat) (s : State) : Host.Outcome State Fault Refusal := run s (carouselPageOut k)
def execCarouselRelease (k : Nat) (s : State) : Host.Outcome State Fault Refusal := run s (hostAct (cslotHost k 0))
def execCarouselReturn (k : Nat) (s : State) : Host.Outcome State Fault Refusal := run s (hostAct (cslotHost k 3))
def execCarouselCheck (k : Nat) (s : State) : Host.Outcome State Fault Refusal := run s (carouselCheck k)

end Sys2Proof.Machine
end

