-- ==== Sys2Proof/Machine/Walker.lean ====
section
/-! DEFINITION. The KV walker (10, R301 to R312, R383): open, attend and close of a decoder step, and the attention arithmetic. -/

namespace Sys2Proof.Machine

/-! ### Command words -/

/-- Fields of a walker command (R301). -/
structure WalkCmd where
  kop : Nat
  dec : Nat
  layer : Nat
  first : Nat
  count : Nat
  inStg : Nat
  outStg : Nat
  tok : Word
  zero : Bool

/-- Read the argument words (R301); staging offsets are line-aligned. -/
def walkCmd (ws : List Word) : WalkCmd :=
  let w := fun i => nth ws i 0
  { kop := fld (w 0) 0 2, dec := fld (w 0) 4 4, layer := fld (w 0) 8 8, first := fld (w 0) 16 10, count := fld (w 0) 26 10,
    inStg := fld (w 1) 0 26 / 256 * 256, outStg := fld (w 2) 0 26 / 256 * 256, tok := w 3,
    zero := (w 0 &&& ~~~ (maskOf 0 2 ||| maskOf 4 32)) == 0 && fld (w 1) 26 38 == 0 && fld (w 2) 26 38 == 0 && fld (w 3) 15 49 == 0 }

/-- The open step of a decoder, or the record of its last one (R302). -/
def stepRec (s : State) (p d : Nat) : Option StepRec := s.kv.steps.find? (fun x => x.part == p && x.dec == d)

/-- Replace the step record of a decoder. -/
def setStep (x : StepRec) (s : State) : State :=
  { s with kv := { s.kv with steps := s.kv.steps.filter (fun y => !(y.part == x.part && y.dec == x.dec)) ++ [x] } }

/-- A decoder's step is open (R302). -/
def stepOpen (s : State) (p d : Nat) : Bool := ((stepRec s p d).map (·.opened)).getD false

/-! ### Open -/

/-- Scan order of an open (R303 step 1). -/
def scanOrder (last : Option Nat) (ready : List Nat) : List Nat :=
  match last with
  | some l => ready.filter (fun i => decide (l < i)) ++ ready.filter (fun i => decide (i ≤ l))
  | none => ready

/-- A candidate takes the run it needs (R303 step 3, R316, R318): whether it has one, whether it took one, the state after. -/
def allocRun (i : Nat) (s : State) : Bool × Bool × State :=
  let e := seqEnt s i
  let b := e.n / 64
  let t := tabOf s e.table
  if e.n % 64 ≠ 0 ∨ t.ent b ≠ 0 then (true, false, s)
  else
    let r := match e.held with | some r => some r | none => pickRun s e.part (home i)
    match r with
    | none => (false, false, s)
    | some r =>
      let s := setSeq i { e with held := none, ver := e.ver + 1 } (putTab e.table [b] (t.put b r) s)
      (true, true, { s with kv := { s.kv with owed := s.kv.owed.filter (fun o => o.2 != i) } })

/-- The allocation of an open over its candidates in scan order: those left without runs, those given one, the state. -/
def allocAll (cands : List Nat) (s : State) : List Nat × List Nat × State :=
  cands.foldl (fun a i =>
    let (ok, took, s) := allocRun i a.2.2
    (if ok then a.1 else a.1 ++ [i], if took then a.2.1 ++ [i] else a.2.1, s)) ([], [], s)

/-- The list area (R303): a header with the position count, then a word for each position. -/
def listArea (s : State) (l : List Nat) : Bytes :=
  leBytes 16 l.length ++ l.flatMap (fun i => leBytes 8 (i + (seqEnt s i).n * 65536))

/-- An open commits its list (R303): table numbers snapshotted, in-walk counts, STEP. A table that is lost marks its sequence lost (R420). -/
def listSeq (i : Nat) (s : State) : State :=
  let e := seqEnt s i
  let (ue, s) := readCheck (if home i = 0 then .stg0 else .stg1) 0 (0x3C00000 + e.table % 8192 * 512) 512 s
  let t := tabOf s e.table
  setSeq i { e with st := .step, returned := false, lost := e.lost || ue } (setTab e.table { t with walk := t.walk + 1 } s)

/-- What refuses a walker command (R301, R302): nonzero reserved bits, KOP 3, an open of an open step, an attend or a close without one; 0 for
none. -/
def walkRefusal (s : State) (p kop : Nat) (c : WalkCmd) : Nat :=
  pickCode [if c.zero then 0 else cReserved, if c.kop = 3 then cVersion else 0, if stepOpen s p c.dec = (kop == 0) then cClaim else 0]

/-- KV_OPEN (R302, R303, R318, R320, R325). -/
def kvOpen (p : Nat) (ws : List Word) (s : State) : State :=
  let c := walkCmd ws
  let no := walkRefusal s p 0 c
  if no ≠ 0 then completed 3 p no s
  else match decDef s p c.dec, part? s p with
  | some d, some pd =>
    if c.kop ≠ 0 then s
    else
      let last := (stepRec s p c.dec).bind (·.last)
      let ready := (s.kv.seqs.filter (fun e => e.2.st == .ready && e.2.part == p && e.2.dec == c.dec)).map (·.1)
      let scan := (scanOrder last ready).filter (fun i => decide ((seqEnt s i).n < 8192))
      let cands := scan.take d.listMax
      let (left, given, s) := allocAll cands s
      let s := chooseVictims p left given s
      let listed := cands.filter (fun i => !(left.contains i) && (seqEnt s i).st == .ready)
      let s := swapIns p (swapInOrder s p) s
      let list := sortBy (fun a b => decide (a < b)) listed
      let s := stgWinWrite pd 1 c.inStg (listArea s list) (stgWinWrite pd 0 c.inStg (listArea s list) s)
      let recs := list.map (fun i => (i, (seqEnt s i).table))
      let s := list.foldl (fun s i => listSeq i s) s
      let s := setStep ⟨p, c.dec, true, recs, if listed.isEmpty then last else listed.getLast?⟩ s
      completed 3 p cOk (enginePost c.tok s)
  | _, _ => s

/-! ### Attention arithmetic -/

/-- FP32 value of a BF16 code of a byte string. -/
def bf16At (b : Bytes) (o : Nat) : BitVec 32 := BitVec.ofNat 32 (leAt b o 2 * 65536)

/-- Minus infinity, and the greatest finite FP32 value. -/
def negInf : BitVec 32 := 0xFF800000
def maxFin : BitVec 32 := 0x7F7FFFFF

/-- The score of a key for a query row, and whether it was replaced (R309). -/
def attScore (q k : List (BitVec 32)) (scale : BitVec 32) : BitVec 32 × Nat :=
  let sum := (q.zip k).foldl (fun (a : Fv) x => Fv.add a (Fv.mul (f32 x.1) (f32 x.2))) (.fin true 0 0)
  match f32 (f32mul (to32 sum) scale) with
  | .nan => (negInf, 1)
  | .inf false => (maxFin, 1)
  | _ => (f32mul (to32 sum) scale, 0)

/-- The running state of one row (R310): maximum, sum, partial output, scores replaced, rescale factors of +0. -/
structure RowAcc where
  m : BitVec 32
  l : BitVec 32
  acc : List (BitVec 32)
  replaced : Nat
  zeros : Nat

/-- The row before its first block. -/
def RowAcc.init : RowAcc := ⟨negInf, 0, List.replicate 64 0, 0, 0⟩

/-- One block of a row (R310): keys with their values in token order. -/
def attBlock (q : List (BitVec 32)) (scale : BitVec 32) (kvs : List (List (BitVec 32) × List (BitVec 32))) (r : RowAcc) : RowAcc :=
  let sc := kvs.map (fun x => (attScore q x.1 scale, x.2))
  let r := { r with replaced := r.replaced + (sc.map (·.1.2)).sum }
  let mb := sc.foldl (fun m x => if Fv.lt (f32 m) (f32 x.1.1) then x.1.1 else m) negInf
  if mb = negInf then r
  else
    let r := if Fv.lt (f32 r.m) (f32 mb) then
        let c := kvExp (f32sub r.m mb)
        { r with acc := r.acc.map (fun a => f32mul a c), l := f32mul r.l c, m := mb, zeros := r.zeros + (if c = 0 then 1 else 0) }
      else r
    sc.foldl (fun r x =>
      let p := kvExp (f32sub x.1.1 r.m)
      { r with l := f32add r.l p, acc := (r.acc.zip x.2).map (fun a => f32fma p a.2 a.1) }) r

/-- The blocks of 64 tokens of a row, in ascending order (R310). -/
def attBlocks (q : List (BitVec 32)) (scale : BitVec 32) : Nat → List (List (BitVec 32) × List (BitVec 32)) → RowAcc → RowAcc
  | 0, _, r => r
  | n + 1, kvs, r => if kvs.isEmpty then r else attBlocks q scale n (kvs.drop 64) (attBlock q scale (kvs.take 64) r)

/-- The output row, whether every score was -INF, and the counts (R310, R312). -/
def attRow (q : List (BitVec 32)) (scale : BitVec 32) (kvs : List (List (BitVec 32) × List (BitVec 32))) : List (BitVec 32) × Bool × RowAcc :=
  let r := attBlocks q scale 128 kvs RowAcc.init
  if r.m = negInf then (List.replicate 64 0, true, r) else (r.acc.map (fun a => f32div a r.l), false, r)

/-! ### Attend -/

/-- Memory and address of token slot `t` of a stream of a snapshot table (R290, R291, R305). -/
def slotAt (s : State) (tab : PageTab) (stream t : Nat) : MemKind × Nat :=
  let (m, a) := pageAt s (tab.ent (t / 64)) stream
  (m, a + t % 64 * 256)

/-- The list positions of an attend: place in the list, sequence, snapshot table. -/
def attPositions (s : State) (a : Attend) : List (Nat × Nat × Nat) :=
  match stepRec s a.part a.dec with
  | some x => (((List.range x.list.length).zip x.list).map (fun y => (y.1, y.2.1, y.2.2))).filter (fun y => decide (a.first ≤ y.1 ∧ y.1 < a.first + a.count))
  | none => []

/-- Blocks that a walker serves for an attend: one for each head and each 64 tokens of its positions (R305, R307). -/
def attBlockCount (s : State) (d : DecDef) (a : Attend) (depot : Nat) : Nat :=
  (((attPositions s a).filter (fun y => home y.2.1 == depot)).map (fun y => d.kvh * ((seqEnt s y.2.1).n / 64 + 1))).sum

/-- A command that has not committed has begun to write input records of an attend: the Ringmaster does not dispatch the attend yet (R304). -/
def attHeld (s : State) (a : Attend) : Bool :=
  match decDef s a.part a.dec, part? s a.part with
  | some d, some pd =>
    let meets := fun (depot lo n : Nat) =>
      let base := stgAddr pd depot (a.inStg + a.first * d.kvh * 1280)
      decide (lo < base + a.count * d.kvh * 1280 ∧ base < lo + n)
    s.tl.tiles.any (fun e => match e.2.cmd with
      | some c => c.part == a.part && c.stgOut.any (fun r => meets r.1 r.2.1 r.2.2)
      | none => false) ||
      s.dm.cmds.any (fun c => c.part == a.part && (match c.stgOut with | some r => meets c.depot (stgAddr pd c.depot r.1) r.2 | none => false))
  | _, _ => false

/-- What one position costs its walker in ns (R307, R345): a block whose run lies in DRAM waits for the walker lane of its depot. -/
def posCost (s : State) (d : DecDef) (i t : Nat) : Nat :=
  let tab := tabOf s t
  let blocks := (List.range ((seqEnt s i).n / 64 + 1)).map (fun b =>
    if entTier (tab.ent b) = 2 then max 88 (16 * laneGap s.dm.cal (0x2010 + home i)) else 88)
  d.kvh * (40 + blocks.sum)

/-- One more position joins the last attend of a layer while the attend's bound stays within 64 us, else it begins a new one (R307). Attends are
kept last first, as first position, count and each walker's sum. -/
def attGrow (acc : List (Nat × Nat × Nat × Nat)) (i a b : Nat) : List (Nat × Nat × Nat × Nat) :=
  match acc with
  | (f, n, x, y) :: r => if 300 + max (x + a) (y + b) ≤ 64000 then (f, n + 1, x + a, y + b) :: r else (i, 1, a, b) :: acc
  | [] => [(i, 1, a, b)]

/-- The attends into which the Ringmaster divides the positions of a layer (R307; log 71), as first position and count, in order. -/
def attSplit (s : State) (d : DecDef) (a : Attend) : List (Nat × Nat) :=
  let list := ((stepRec s a.part a.dec).map (·.list)).getD []
  let cost := fun (i depot : Nat) => match list[i]? with
    | some y => if home y.1 = depot then posCost s d y.1 y.2 else 0
    | none => 0
  (((List.range a.count).foldl (fun acc k => attGrow acc (a.first + k) (cost (a.first + k) 0) (cost (a.first + k) 1)) []).map
    (fun x => (x.1, x.2.1))).reverse

/-- Input and output record of a position and head (R304). -/
def inRecord (a : Attend) (d : DecDef) (i h : Nat) : Nat := a.inStg + (i * d.kvh + h) * 1280
def outRecord (a : Attend) (d : DecDef) (i h : Nat) : Nat := a.outStg + (i * d.kvh + h) * 2048

/-- One head of one position (R305, R308 to R312): the slot is written, then each row computed. -/
def attHead (a : Attend) (d : DecDef) (pd : PartDef) (y : Nat × Nat × Nat) (h : Nat) (s : State) : State :=
  let (i, q, t) := y
  let e := seqEnt s q
  if e.lost then stgWinWrite pd (home q) (outRecord a d i h) (List.replicate (d.qrows * 256) 0) s
  else
    let tab := tabOf s t
    let stream := a.layer * d.kvh + h
    let rec1 := stgWinRead s pd (home q) (inRecord a d i h) (256 + d.qrows * 128)
    let (m, ad) := slotAt s tab stream e.n
    let s := runWrite m ad (rec1.take 256) s
    let kvs := (List.range (e.n + 1)).map (fun k =>
      let (m, ad) := slotAt s tab stream k
      let b := runRead s m ad 256
      ((List.range 64).map (fun j => bf16At b (2 * j)), (List.range 64).map (fun j => bf16At b (128 + 2 * j))))
    (List.range d.qrows).foldl (fun s r =>
      let qv := (List.range 64).map (fun j => bf16At rec1 (256 + r * 128 + 2 * j))
      let (out, empty, acc) := attRow qv d.scale kvs
      let s := kvCount 3 acc.replaced (kvCount 2 acc.zeros (kvCount 1 (if empty then 1 else 0) s))
      let s := if empty then modSeq q (fun e => { e with rowEmpty := true }) s else s
      stgWinWrite pd (home q) (outRecord a d i h + r * 256) (out.flatMap (fun x => leBytes 4 x.toNat)) s) s

/-- Reading the runs and input records of a position (R308, R427): an uncorrectable word fails the attend, and one in a run marks the sequence
lost. -/
def attCheck (a : Attend) (d : DecDef) (pd : PartDef) (y : Nat × Nat × Nat) (s : State) : Bool × State :=
  let e := seqEnt s y.2.1
  if e.lost then (false, s)
  else
    let tab := tabOf s y.2.2
    let (bad, s) := (List.range d.kvh).foldl (fun (x : Bool × State) h => (List.range (e.n / 64 + 1)).foldl (fun (x : Bool × State) b =>
      let (m, ad) := slotAt x.2 tab (a.layer * d.kvh + h) (64 * b)
      let (ue, s) := readCheck m 0 ad (256 * (min 64 (e.n - 64 * b))) x.2
      (x.1 || ue, s)) x) (false, s)
    let (ue, s) := readCheck (if home y.2.1 = 0 then .stg0 else .stg1) 0 (stgAddr pd (home y.2.1) (inRecord a d y.1 0)) (d.kvh * 1280) s
    (bad || ue, if bad then
        barker 0x0404 1 { status := cInputLost, part := a.part, queue := e.queue, detail := y.2.1 } (modSeq y.2.1 (fun e => { e with lost := true }) s)
      else s)

/-- A failed walker command is to run again (R420, R427): counted, logged, the pages served marked. -/
def walkerFails (p : Nat) (pages : List (BitVec 32)) (runs : Nat) (s : State) : State :=
  barker 0x0402 0 { part := p, detail := runs } (markRetried pages (snCount 1 1 (snCount 0 1 s)))

/-- Both walkers are done with an attend (R305, R308, R420, R425): it commits, or it fails and starts again within the step. -/
def attFinish (a : Attend) (s : State) : State :=
  let drop := fun (s : State) => { s with kv := { s.kv with attends := s.kv.attends.erase a } }
  match decDef s a.part a.dec, part? s a.part with
  | some d, some pd =>
    let ys := attPositions s a
    let (bad, s) := ys.foldl (fun (x : Bool × State) y => let (b, s) := attCheck a d pd y x.2; (x.1 || b, s)) (false, s)
    if bad then
      let s := walkerFails a.part (ys.map (fun y => (seqEnt s y.2.1).page)) a.runs s
      let s := if 4 ≤ a.runs then
          barker 0x0403 2 { status := cInputLost, part := a.part, detail := a.runs } (snCount 4 1
            (ys.foldl (fun s y => modSeq y.2.1 (fun e => { e with lost := true }) s) s))
        else s
      let again := { a with runs := a.runs + 1, left := (attBlockCount s d a 0, attBlockCount s d a 1), busy := (false, false) }
      { s with kv := { s.kv with attends := s.kv.attends.map (fun x => if x = a then again else x) } }
    else
      let s := ys.foldl (fun s y => (List.range d.kvh).foldl (fun s h => attHead a d pd y h s) s) s
      completed 3 a.part cOk (enginePost a.tok (drop s))
  | _, _ => drop s

/-- Blocks of an attend that a walker has still to complete, and whether it works on one of them. -/
def Attend.leftOn (a : Attend) (depot : Nat) : Nat := if depot = 0 then a.left.1 else a.left.2
def Attend.busyOn (a : Attend) (depot : Nat) : Bool := if depot = 0 then a.busy.1 else a.busy.2

/-- The attend with a walker at work on one of its blocks, or not. -/
def Attend.setBusy (a : Attend) (depot : Nat) (b : Bool) : Attend := { a with busy := if depot = 0 then (b, a.busy.2) else (a.busy.1, b) }

/-- Replace an attend. -/
def putAttend (a b : Attend) (s : State) : State := { s with kv := { s.kv with attends := s.kv.attends.map (fun x => if x = a then b else x) } }

/-- An idle walker takes a block of the partition its cycle picks, of the partition's oldest attend that is dispatched (R304, R383 to R385). -/
def startBlock (depot : Nat) (s : State) : State :=
  let ws := s.kv.attends.filter (fun a => a.leftOn depot != 0 && !(attHeld s a))
  if s.kv.attends.any (fun a => a.busyOn depot) then s
  else match grantPick s (4 + depot) (ws.map (·.part)) with
  | none => s
  | some (p, x) =>
    match ws.find? (fun a => a.part == p) with
    | none => s
    | some a => putAttend a (a.setBusy depot true) (setEngine (4 + depot) x s)

/-- The block that a walker works on is complete; an attend commits with its last one. -/
def endBlock (depot : Nat) (s : State) : State :=
  match s.kv.attends.find? (fun a => a.busyOn depot) with
  | none => s
  | some a =>
    let b := { a.setBusy depot false with left := if depot = 0 then (a.left.1 - 1, a.left.2) else (a.left.1, a.left.2 - 1) }
    let s := putAttend a b s
    if b.left = (0, 0) then attFinish b s else s

/-- SHARED_ENGINE_GRANT of a walker: the block in progress is complete and the next is granted (R383, R384). -/
def grantBlock (depot : Nat) (s : State) : State := startBlock depot (endBlock depot s)

/-- Attends that wait no more start: one without a block commits at once, and idle walkers take a block at once (R304, R385). -/
def startAttends (s : State) : State :=
  let empty := s.kv.attends.filter (fun a => a.left == (0, 0) && !(attHeld s a))
  startBlock 1 (startBlock 0 (empty.foldl (fun s a => attFinish a s) s))

/-- KV_ATTEND (R302, R305, R307): the command is divided and its attends wait for their blocks to be granted; the token is posted with the last.
A field outside its range is refused with DIM_LIMIT (log 36). -/
def kvAttend (p : Nat) (ws : List Word) (s : State) : State :=
  let c := walkCmd ws
  let no := walkRefusal s p 1 c
  if no ≠ 0 then completed 3 p no s
  else match decDef s p c.dec with
  | some d =>
    if c.kop ≠ 1 then s
    else if d.layers ≤ c.layer ∨ 511 < c.first ∨ c.count = 0 ∨ 512 < c.count then completed 3 p cDimLimit s
    else
      let whole : Attend := ⟨p, c.dec, c.layer, c.first, c.count, c.inStg, c.outStg, c.tok, (0, 0), (false, false), 1⟩
      let parts := attSplit s d whole
      let made := ((List.range parts.length).zip parts).map (fun x =>
        let a : Attend := { whole with first := x.2.1, count := x.2.2, tok := if x.1 + 1 = parts.length then c.tok else 0 }
        { a with left := (attBlockCount s d a 0, attBlockCount s d a 1) })
      startAttends { s with kv := { s.kv with attends := s.kv.attends ++ made } }
  | none => s

/-! ### Close -/

/-- A table leaves one step (R313, R316): a replaced one whose in-walk count reaches zero gives up its slot and its runs. -/
def leaveTable (t : Nat) (s : State) : State :=
  let x := tabOf s t
  if x.old ∧ x.walk ≤ 1 then dropTabs [t] s else setTab t { x with walk := x.walk - 1 } s

/-- One listed sequence at a close (R306, R308). -/
def closeSeq (i t : Nat) (stop : Bool) (s : State) : State :=
  let s := leaveTable t s
  let e := seqEnt s i
  let n := e.n + 1
  let s := setSeq i { e with n := n, st := .ready } s
  let limit := decide (n = 8192) && !stop
  if e.lost || stop || limit then
    kvCount 7 (if limit then 1 else 0) (seqDone i (pickCode [if e.lost then cInputLost else 0, if limit then cLengthLimit else 0]) s)
  else s

/-- KV_CLOSE (R302, R306): every listed sequence together. Attends of the step are done first. -/
def kvClose (p : Nat) (ws : List Word) (s : State) : State :=
  let c := walkCmd ws
  let no := walkRefusal s p 2 c
  if no ≠ 0 then completed 3 p no s
  else match stepRec s p c.dec, part? s p with
  | some x, some pd =>
    if c.kop ≠ 2 ∨ s.kv.attends.any (fun a => a.part == p && a.dec == c.dec) then s
    else
      let ys := (List.range x.list.length).zip x.list
      let off := fun (i : Nat) => c.inStg + 16 + 4 * i
      let (bad, s) := ys.foldl (fun (b : Bool × State) y =>
        let d := home y.2.1
        let (ue, s) := readCheck (if d = 0 then .stg0 else .stg1) 0 (stgAddr pd d (off y.1)) 4 b.2
        (b.1 || ue, s)) (false, s)
      if bad then walkerFails p (ys.map (fun y => (seqEnt s y.2.1).page)) 1 s
      else
        let s := ys.foldl (fun s y =>
          let b := stgWinRead s pd (home y.2.1) (off y.1) 4
          closeSeq y.2.1 y.2.2 (leAt b 0 1 % 2 == 1) s) s
        completed 3 p cOk (enginePost c.tok (kvCount 0 1 (setStep { x with opened := false, list := [] } s)))
  | _, _ => s

def execKvOpen (part : BitVec 4) (words : List (BitVec 64)) (s : State) : Host.Outcome State Fault Refusal := run s (kvOpen part.toNat words)
def execKvAttend (part : BitVec 4) (words : List (BitVec 64)) (s : State) : Host.Outcome State Fault Refusal := run s (kvAttend part.toNat words)
def execKvClose (part : BitVec 4) (words : List (BitVec 64)) (s : State) : Host.Outcome State Fault Refusal := run s (kvClose part.toNat words)

/-- SHARED_ENGINE_GRANT (R383, R384): the engine picks and starts its next unit. -/
def sharedEngineGrant (e : Nat) (s : State) : State :=
  if e < 4 then grantPair e s else if e < 6 then grantBlock (e - 4) s else grantCmd e s

def execSharedEngineGrant (e : BitVec 4) (s : State) : Host.Outcome State Fault Refusal := run s (sharedEngineGrant e.toNat)

end Sys2Proof.Machine
end

