-- ==== Sys2Proof/Machine/Zr.lean ====
section
/-! DEFINITION. ZR64 rows (09, R283 to R286): packing and checked unpacking of one row. -/

namespace Sys2Proof.Machine

/-- Element size of a form: 0 FP32, 1 BF16, 2 Q8, 3 K12 (R284). -/
def zrElem (form : Nat) : Nat := match form with | 0 => 4 | 2 => 1 | _ => 2

/-- Slot size T of a row of `w` lines (R283). -/
def zrSlot (form w : Nat) : Nat := 1024 * ceilDiv (16 + w * (8 + 64 * zrElem form)) 1024

/-- The value of a lane that is stored, and whether the lane is absent (R243, R284). -/
def zrValue (form v : Nat) : Nat × Bool :=
  match form with
  | 0 => (v, v % 2 ^ 31 == 0)
  | 1 => (v % 2 ^ 16, v % 2 ^ 15 == 0)
  | 2 => (v % 2 ^ 8, v % 2 ^ 8 == 0)
  | _ => (v % 2 ^ 12, v % 2 ^ 11 == 0)

/-- One block: mask, present values, padding (R284); and its absent lanes. -/
def zrPackLine (form : Nat) (line : Bytes) : Bytes × Nat :=
  let vs := (List.range 64).map (fun k => zrValue form (leAt line (4 * k) 4))
  let mask := ((List.range 64).zip vs).foldl (fun m x => if x.2.2 then m else m + 2 ^ x.1) 0
  let here := (vs.filter (fun x => !x.2)).flatMap (fun x => leBytes (zrElem form) x.1)
  (leBytes 8 mask ++ here ++ List.replicate (8 * ceilDiv here.length 8 - here.length) 0, (vs.filter (·.2)).length)

/-- The row header (R283). -/
def zrHeader (form w row cblk payload : Nat) : Bytes :=
  leBytes 4 payload ++ leBytes 2 w ++ leBytes 2 form ++ leBytes 2 row ++ leBytes 2 cblk ++ leBytes 4 0

/-- A row packed into its slot's header and blocks, and its absent lanes (R283, R284). -/
def zrPackRow (form row cblk : Nat) (lines : List Bytes) : Bytes × Nat :=
  let bs := lines.map (zrPackLine form)
  let payload := bs.flatMap (·.1)
  (zrHeader form lines.length row cblk payload.length ++ payload, (bs.map (·.2)).sum)

/-- Bytes of a block with mask `m` (R284). -/
def zrBlockLen (form m : Nat) : Nat := 8 + 8 * ceilDiv ((bitsOf m 64).length * zrElem form) 8

/-- Ends of the blocks of a row, or the first block that ends beyond PAYLOAD (R286 check 3). -/
def zrWalk (form payload : Nat) (bs : Bytes) : Nat → Nat → Nat → Nat ⊕ Nat
  | 0, _, at' => .inr at'
  | n + 1, k, at' =>
    if payload < at' + 8 then .inl k
    else
      let e := at' + zrBlockLen form (leAt bs at' 8)
      if payload < e then .inl k else zrWalk form payload bs n (k + 1) e

/-- A stored value in its lane (R243, R285). -/
def zrLane (form v : Nat) : Nat := match form with | 2 => if 128 ≤ v then v + (2 ^ 32 - 256) else v | 3 => v % 2 ^ 12 | _ => v

/-- The lines of a checked row (R285). -/
def zrLines (form : Nat) (bs : Bytes) : Nat → Nat → List Bytes
  | 0, _ => []
  | n + 1, at' =>
    let m := leAt bs at' 8
    let e := zrElem form
    let here := bitsOf m 64
    let line := (List.range 64).flatMap (fun k =>
      if m.testBit k then leBytes 4 (zrLane form (leAt bs (at' + 8 + e * here.findIdx (· == k)) e)) else leBytes 4 0)
    line :: zrLines form bs n (at' + zrBlockLen form m)

/-- Check a row and unpack it (R286): the first failing block, 0xFFFF for checks 1 and 2, or the lines. -/
def zrUnpackRow (form w row cblk : Nat) (slot : Bytes) : Nat ⊕ List Bytes :=
  let payload := leAt slot 0 4
  if leAt slot 4 2 ≠ w ∨ leAt slot 6 2 ≠ form ∨ leAt slot 8 2 ≠ row ∨ leAt slot 0xA 2 ≠ cblk ∨ leAt slot 0xC 4 ≠ 0 then .inl 0xFFFF
  else if w * (8 + 64 * zrElem form) < payload then .inl 0xFFFF
  else
    let bs := (slot.drop 16).take payload
    match zrWalk form payload bs w 0 0 with
    | .inl k => .inl k
    | .inr e => if e = payload then .inr (zrLines form bs w 0) else .inl (w - 1)

end Sys2Proof.Machine
end

