-- ==== Sys2Proof/Machine/Depot.lean ====
section
/-! DEFINITION. Memory tiers (11): the calendar, haulers, the ZR64 codec (09), scrubbing, the DM_ registers. -/

namespace Sys2Proof.Machine

/-! ### The calendar -/

/-- Owner of a position in the calendar in force (R336, R353). -/
def calOwner (s : State) (p : Nat) : Nat := tabGet s.dm.cal p s.dm.calDef

/-- Positions of an owner in the calendar in force. -/
def ownerPositions (s : State) (o : Nat) : List Nat := (List.range 4096).filter (fun p => calOwner s p == o)

/-- The largest number of slots from one of a list of rising positions to the next, counted cyclically (R231). -/
def cyclicGap (ps : List Nat) : Nat :=
  match ps with
  | [] => 0
  | p :: r => ((p :: r).zip (r ++ [p + 4096])).foldl (fun g x => max g (x.2 - x.1)) 0

/-- Gap of gate lane 0 (R342, R353). -/
def gapG0 (s : State) : Nat := cyclicGap (ownerPositions s 0x3000)

/-- Positions fixed in every calendar: refresh and housekeeping (R335). -/
def fixedCal : List (Nat × Nat) :=
  (List.range 4096).filterMap (fun p => if p % 128 = 127 then some (p, 1) else if p % 512 = 63 then some (p, 2) else none)

/-- HP_STAGE_BOUND of a calendar (R342). -/
def stageBoundOf (g0 : Nat) : Word := BitVec.ofNat 64 (912 + max (7168 * g0) 28672)

/-- A calendar applies (R338, R342): GEN counts it and HP_STAGE_BOUND is recomputed. -/
def applyCal (cal : List (Nat × Nat)) (d : Nat) (s : State) : State :=
  let s := { s with dm := { s.dm with cal := cal, calDef := d, calOn := true, gen := s.dm.gen + 1, next := none } }
  { s with hp := { s.hp with stageBound := stageBoundOf (gapG0 s) } }

/-- Position in progress (R334). -/
def calPos (s : State) : Nat := s.now.toNat / 16 % 4096

/-- The slot of a transfer moves its DRAM bytes (R233, R340): a write's bytes are stored, a read's are taken, and its damage is met. -/
def slotMoves (l : Nat) (x : Xfer) (s : State) : Xfer × State :=
  let x := { x with slotAt := some s.now }
  match (tile s l).cmd.bind (fun c => part? s c.part) with
  | none => (x, s)
  | some pd =>
    if x.out then (x, dramWinWrite pd x.off x.data s)
    else
      let (ue, s) := dramCheck pd x.off x.len s
      ({ x with data := dramWinRead s pd x.off x.len }, readFails l ue s)

/-- A lane's position serves its oldest transfer that is ready, once the slot of the one before has ended (R233). -/
def serveLane (l n : Nat) (s : State) : State :=
  let t := tile s l
  let mine := t.xfers.filter (fun x => x.lane == n)
  let free := mine.all (fun x => match x.slotAt with | some a => decide (a.toNat + 16 ≤ s.now.toNat) | none => true)
  match mine.find? (fun x => x.slotAt.isNone) with
  | some x =>
    if free ∧ readyAt x ≤ s.now.toNat * 256 then
      let i := t.xfers.findIdx (fun y => y.lane == n && y.slotAt.isNone)
      let (x, s) := slotMoves l x s
      modTile l (fun t => { t with xfers := updWith t.xfers i (fun _ => x) }) s
    else s
  | none => s

/-- CALENDAR_POSITION (R334, R335): the position that starts now serves its owner. -/
def calendarPosition (s : State) : State :=
  if s.now.toNat % 16 ≠ 0 ∨ ¬ s.dm.calOn then s
  else
    let o := calOwner s (calPos s)
    if o = 1 then { s with dm := { s.dm with refreshRow := (s.dm.refreshRow + 1) % 8192 } }
    else if 0x1000 ≤ o ∧ o < 0x1200 then serveLane ((o - 0x1000) / 8) (o % 8) s
    else s

/-- An owner's lane has transfers that are not done (R338): gate lane 0 serves the stage requests taken; what the other gate lanes carry moves
within single commands of the model. -/
def laneBusy (s : State) (o : Nat) : Bool :=
  let runs := fun (h : Bool) (d lane : Nat) => s.dm.cmds.any (fun c => c.engine.isSome && c.hauler == h && c.depot == d &&
    (!h || fld (nth c.words 0 0) 6 2 == lane))
  if 0x1000 ≤ o ∧ o < 0x1200 then (tile s ((o - 0x1000) / 8)).xfers.any (fun x => x.lane == o % 8)
  else if 0x2000 ≤ o ∧ o < 0x2004 then runs false ((o - 0x2000) / 2) 0
  else if 0x2010 ≤ o ∧ o < 0x2012 then !(s.kv.attends.isEmpty)
  else if 0x2020 ≤ o ∧ o < 0x2024 then runs true ((o - 0x2020) / 2) (o % 2)
  else o == 0x3000 && !(s.hp.stageQ.isEmpty)

/-- Owners of the positions that a new calendar changes. -/
def changedOwners (s : State) (cal : List (Nat × Nat)) : List Nat :=
  ((List.range 4096).flatMap (fun p =>
    let a := calOwner s p
    let b := tabGet cal p 0
    if a = b then [] else [a, b])).eraseDups

/-- A command of the partitions that a load in progress changes is running, on a tile, an engine or a walker (R338). -/
def reloadedRuns (s : State) : Bool :=
  match s.si.job with
  | some j =>
    let mine := fun (p : Nat) => j.whole || p == j.part
    s.tl.tiles.any (fun e => match e.2.cmd with | some c => mine c.part | none => false) ||
      s.dm.cmds.any (fun c => c.engine.isSome && mine c.part) || s.kv.attends.any (fun a => mine a.part)
  | none => false

/-- CALENDAR_APPLY (R338, R342): at position 0 of a turn, once the lanes that change are done. -/
def calendarApply (s : State) : State :=
  match s.dm.next with
  | none => s
  | some cal =>
    if s.now.toNat % 65536 ≠ 0 ∨ reloadedRuns s ∨ (changedOwners s cal).any (laneBusy s) then s else applyCal cal 0 s

/-! ### Windows as ranges -/

/-- A range of a window as runs of consecutive addresses, with their offsets in the range; a window of size `n` wraps (R230). -/
def pieces (base n : Nat) : Nat → Nat → Nat → Nat → List (Nat × Nat × Nat)
  | 0, _, _, _ => []
  | f + 1, off, o, len =>
    if len = 0 ∨ n = 0 then []
    else
      let a := off % n
      let k := min len (n - a)
      (o, base + a, k) :: pieces base n f (off + k) (o + k) (len - k)

/-- Pieces of a partition's DRAM window (kind 0) or of its staging window on a depot (kind 1). -/
def windowPieces (s : State) (pd : PartDef) (kind depot off len : Nat) : List (Nat × Nat × Nat) :=
  let base := if kind = 0 then regionBase s 4 + pd.dramBase * 0x100000 else (if depot = 0 then pd.stgBase.1 else pd.stgBase.2) * 0x10000
  let n := if kind = 0 then pd.dramSize * 0x100000 else (if depot = 0 then pd.stgSize.1 else pd.stgSize.2) * 0x10000
  pieces base n (len / max 1 n + 2) off 0 len

/-- The memory of a window. -/
def windowMem (kind depot : Nat) : MemKind := if kind = 0 then .dram else if depot = 0 then .stg0 else .stg1
def memOf (s : State) (kind depot : Nat) : Memory := if kind = 0 then s.mem.dram else stg s depot
def setMemOf (s : State) (kind depot : Nat) (m : Memory) : State := if kind = 0 then setDram s m else setStg s depot m

/-- A range of a window as a sparse slice; and whether it meets an uncorrectable word. -/
def windowSlice (s : State) (pd : PartDef) (kind depot off len : Nat) : Memory :=
  (windowPieces s pd kind depot off len).flatMap (fun p => (Memory.slice (memOf s kind depot) p.2.1 p.2.2).map (fun c => (c.1 + p.1, c.2)))

def windowCheck (pd : PartDef) (kind depot off len : Nat) (s : State) : Bool × State :=
  (windowPieces s pd kind depot off len).foldl (fun x p => let (ue, s) := readCheck (windowMem kind depot) 0 p.2.1 p.2.2 x.2; (x.1 || ue, s)) (false, s)

/-- Store a sparse slice into a range of a window. -/
def windowBlit (pd : PartDef) (kind depot off len : Nat) (sl : Memory) (s : State) : State :=
  (windowPieces s pd kind depot off len).foldl (fun s p =>
    heal (windowMem kind depot) 0 p.2.1 p.2.2 (setMemOf s kind depot (Memory.blit (memOf s kind depot) p.2.1 p.2.2 (Memory.slice sl p.1 p.2.2)))) s

/-! ### Haulers -/

/-- Fields of a hauler command (R347). -/
def hSrcT (c : EngineCmd) : Nat := fld (nth c.words 0 0) 1 2
def hDstT (c : EngineCmd) : Nat := fld (nth c.words 0 0) 3 2
def hLen (c : EngineCmd) : Nat := fld (nth c.words 3 0) 0 32

/-- What refuses a hauler command (R347), 0 for none: nonzero reserved bits; LANE 2, and a window type that is not defined; a LEN outside its
range (log 36). -/
def haulerCode (ws : List Word) : Nat :=
  let w := fun i => nth ws i 0
  let len := fld (w 3) 0 32
  let zero := fld (w 0) 8 56 == 0 && fld (w 1) 48 16 == 0 && fld (w 2) 48 16 == 0 && fld (w 3) 32 32 == 0 && fld (w 5) 15 49 == 0
  pickCode [if zero then 0 else cReserved, if fld (w 0) 6 2 = 2 ∨ 1 < fld (w 0) 1 2 ∨ 1 < fld (w 0) 3 2 then cVersion else 0,
    if len % 256 ≠ 0 ∨ len < 256 ∨ 0x10000000 < len then cDimLimit else 0]

/-- A codec or hauler command waits for an engine and takes an idle one at once (R384, R385). -/
def addCmd (c : EngineCmd) (s : State) : State := grantCmds { s with dm := { s.dm with cmds := s.dm.cmds ++ [c] } }

/-- HAULER_COPY and HAULER_FILL (R347, R348). An unlaned command comes from firmware: check 14 keeps it out of every queue class (R349). -/
def haulerTake (op p : Nat) (ws : List Word) (s : State) : State :=
  if fld (nth ws 0 0) 0 1 ≠ op ∨ (part? s p).isNone then s
  else if haulerCode ws ≠ 0 then completed 2 p (haulerCode ws) s
  else addCmd ⟨true, none, p, [], ws, 1⟩ s

/-- The engine command in progress on an engine is over; the next one starts, and attends that waited for what it wrote (R304, R384). -/
def engineFree (c : EngineCmd) (s : State) : State := startAttends (grantCmds { s with dm := { s.dm with cmds := s.dm.cmds.erase c } })

/-- An engine command that fails runs again, at most four times (R425, R427). -/
def engineFails (c : EngineCmd) (s : State) : State :=
  let s := snCount 0 1 s
  if 4 ≤ c.runs then
    let s := c.pages.foldl (fun s p => endLost p s) s
    engineFree c (barker 0x0403 2 { status := cInputLost, part := c.part, detail := c.runs } (snCount 4 1 s))
  else
    let s := barker 0x0402 0 { part := c.part, detail := c.runs } (snCount 1 1 (markRetried c.pages s))
    { s with dm := { s.dm with cmds := s.dm.cmds.map (fun x => if x = c then { c with runs := c.runs + 1 } else x) } }

/-- HAULER_DONE (R347, R348): the bytes are in place and the token is posted. -/
def haulerDone (idx : Nat) (s : State) : State :=
  match s.dm.cmds.find? (fun c => c.engine == some (8 + idx)) with
  | none => s
  | some c =>
    match part? s c.part with
    | none => engineFree c s
    | some pd =>
      let w := fun i => nth c.words i 0
      let len := hLen c
      let copy := fld (w 0) 0 1 = 0
      let (ue, s) := if copy then windowCheck pd (hSrcT c) c.depot (fld (w 1) 0 48) len s else (false, s)
      if ue then engineFails c s
      else
        let pat := leBytes 8 (w 4).toNat
        let sl := if copy then windowSlice s pd (hSrcT c) c.depot (fld (w 1) 0 48) len
          else if w 4 = 0 then [] else Memory.cells 0 ((List.range (len / 8)).flatMap (fun _ => pat))
        completed 2 c.part cOk <| engineFree c (enginePost (w 5) (windowBlit pd (hDstT c) c.depot (fld (w 2) 0 48) len sl s))

/-! ### The ZR64 codec -/

/-- Fields of a codec command (R287). -/
def zForm (c : EngineCmd) : Nat := fld (nth c.words 0 0) 2 2
def zW (c : EngineCmd) : Nat := fld (nth c.words 0 0) 16 16
def zRow0 (c : EngineCmd) : Nat := fld (nth c.words 0 0) 32 16
def zRows (c : EngineCmd) : Nat := fld (nth c.words 0 0) 48 16
def zStg (c : EngineCmd) : Nat := fld (nth c.words 1 0) 0 26 / 256 * 256
def zCblk (c : EngineCmd) : Nat := fld (nth c.words 1 0) 32 10
def zDram (c : EngineCmd) : Nat := fld (nth c.words 2 0) 0 48

/-- What refuses a codec command (R287), 0 for none: nonzero reserved bits, or W or NROWS outside its range (log 36). -/
def codecCode (ws : List Word) : Nat :=
  let w := fun i => nth ws i 0
  let zero := fld (w 0) 4 12 == 0 && fld (w 1) 26 6 == 0 && fld (w 1) 42 22 == 0 && fld (w 2) 48 16 == 0 && fld (w 3) 15 49 == 0
  pickCode [if zero then 0 else cReserved, if fld (w 0) 16 16 < 1 ∨ 32768 < fld (w 0) 16 16 ∨ fld (w 0) 48 16 < 1 then cDimLimit else 0]

/-- Height of the feature map at a DRAM offset of a partition: as the operator commands that name it give it (R262, R283; log 21). -/
def mapHeight (s : State) (part off : Nat) : Nat :=
  match s.rm.maps.find? (fun e => e.1 == part * 2 ^ 48 + off) with | some e => e.2 | none => Config.mapHeight part off

/-- DRAM offset of the slot of a row (R283). -/
def zrAt (s : State) (c : EngineCmd) (row : Nat) : Nat :=
  zDram c + (zCblk c * mapHeight s c.part (zDram c) + row) * zrSlot (zForm c) (zW c)

/-- Count events of DM_ZR_CNT (R288). -/
def zrCount (k n : Nat) (s : State) : State := { s with dm := { s.dm with zrCnt := cntAdd s.dm.zrCnt k n } }

/-- Absent lanes, counted in units of 64 (R288). -/
def zrAbsent (n : Nat) (s : State) : State :=
  let t := s.dm.zrRem + n
  zrCount 3 (t / 64) { s with dm := { s.dm with zrRem := t % 64 } }

/-- One row is packed (R284). -/
def packRow (c : EngineCmd) (pd : PartDef) (k : Nat) (s : State) : State :=
  let w := zW c
  let plain := stgWinRead s pd c.depot (zStg c + k * w * 256) (w * 256)
  let (row, absent) := zrPackRow (zForm c) (zRow0 c + k) (zCblk c) ((List.range w).map (fun x => (plain.drop (256 * x)).take 256))
  zrCount 0 1 (zrAbsent absent (dramWinWrite pd (zrAt s c (zRow0 c + k)) row s))

/-- Rows to unpack, checked in order: the first that fails with its block, or all lines (R286). -/
def unpackRows (c : EngineCmd) (pd : PartDef) (s : State) : Nat → Nat → List Bytes → (Nat × Nat) ⊕ List Bytes
  | 0, _, acc => .inr acc
  | n + 1, k, acc =>
    let slot := dramWinRead s pd (zrAt s c (zRow0 c + k)) (zrSlot (zForm c) (zW c))
    match zrUnpackRow (zForm c) (zW c) (zRow0 c + k) (zCblk c) slot with
    | .inl b => .inl (k, b)
    | .inr ls => unpackRows c pd s n (k + 1) (acc ++ ls)

/-- Uncorrectable words among what an unpacking reads: each row's header and PAYLOAD (R286). -/
def unpackTouch (c : EngineCmd) (pd : PartDef) (s : State) : Bool × State :=
  (List.range (zRows c)).foldl (fun (a : Bool × State) k =>
    let at' := zrAt a.2 c (zRow0 c + k)
    let n := 16 + min (leNat (dramWinRead a.2 pd at' 4)) (zrSlot (zForm c) (zW c) - 16)
    let (ue, s) := dramCheck pd at' n a.2
    (a.1 || ue, s)) (false, s)

/-- An operator or codec command ends its pages with a code (R264). -/
def operatorFail (pages : List (BitVec 32)) (part code : Nat) (s : State) : State :=
  barker 0x0301 1 { status := code, part := part } (pages.foldl (fun s p => endPage p code s) s)

/-- CODEC_PACK and CODEC_UNPACK are taken, or refused (R264, R287). -/
def codecTake (dir p : Nat) (pages : List (BitVec 32)) (ws : List Word) (s : State) : State :=
  if fld (nth ws 0 0) 0 1 ≠ dir ∨ (part? s p).isNone then s
  else if codecCode ws ≠ 0 then operatorFail pages p (codecCode ws) (completed 1 p (codecCode ws) s)
  else addCmd ⟨false, none, p, pages, ws, 1⟩ s

/-- CODEC_DONE (R283 to R288, R346): the rows are in place and the token is posted; or a row fails its checks and the command its pages. -/
def codecDone (idx : Nat) (s : State) : State :=
  match s.dm.cmds.find? (fun c => c.engine == some (6 + idx)) with
  | none => s
  | some c =>
    match part? s c.part with
    | none => engineFree c s
    | some pd =>
      let w := zW c
      let n := zRows c
      let done := fun (s : State) => completed 1 c.part cOk (engineFree c (enginePost (nth c.words 3 0) s))
      if fld (nth c.words 0 0) 0 1 = 0 then
        let (ue, s) := windowCheck pd 1 c.depot (zStg c) (n * w * 256) s
        if ue then engineFails c s else done ((List.range n).foldl (fun s k => packRow c pd k s) s)
      else
        let (ue, s) := unpackTouch c pd s
        if ue then engineFails c s
        else match unpackRows c pd s n 0 [] with
          | .inr ls => done (zrCount 1 n (stgWinWrite pd c.depot (zStg c) (ls.flatMap id) s))
          | .inl (k, b) =>
            let last := place b 48 16 ||| place (zRow0 c + k) 32 16 ||| place (zCblk c) 22 10 ||| place c.part 18 4 ||| place c.depot 17 1
            let s := { s with dm := { s.dm with zrLast := last } }
            completed 1 c.part cZrMismatch (engineFree c (operatorFail c.pages c.part cZrMismatch (snCount 0 1 (zrCount 2 1 s))))

/-! ### DM_ registers -/

/-- DM_CAL_STAT (R353). -/
def calStat (s : State) : Word :=
  place s.dm.gen.toNat 48 16 ||| place (calPos s) 32 12 |||
    (if s.dm.calOn then place (gapG0 s) 19 13 ||| place (ownerPositions s 0).length 0 13 else 0)

/-- Read a DM_ register; none where no register stands (R288, R353). -/
def dmRead (off : Nat) (s : State) : Option (Word × State) :=
  if 0xB800 ≤ off ∧ off < 0xB820 then
    let k := (off - 0xB800) / 8
    some ((tabGet s.dm.zrCnt k 0).setWidth 64, { s with dm := { s.dm with zrCnt := tabSet s.dm.zrCnt k 0 } })
  else if off = 0xB820 then some (s.dm.zrLast, s)
  else if off = 0xB840 then some (s.dm.calSel, s)
  else if off = 0xB848 then some (BitVec.ofNat 64 (calOwner s (fld s.dm.calSel 0 12)), s)
  else if off = 0xB850 then some (calStat s, s)
  else if 0xB860 ≤ off ∧ off < 0xB8A0 then some (tabGet s.dm.regions ((off - 0xB860) / 8) 0, s)
  else if 0xB8A0 ≤ off ∧ off < 0xB8C8 then
    let k := (off - 0xB8A0) / 8
    some ((tabGet s.dm.ce k 0).setWidth 64, { s with dm := { s.dm with ce := tabSet s.dm.ce k 0 } })
  else if 0xB8C8 ≤ off ∧ off < 0xB8F0 then
    let k := (off - 0xB8C8) / 8
    some ((tabGet s.dm.ue k 0).setWidth 64, { s with dm := { s.dm with ue := tabSet s.dm.ue k 0 } })
  else if off = 0xB8F0 then some (place s.dm.dramPass.toNat 32 32 ||| place s.dm.stgPass.toNat 0 32, s)
  else if off = 0xB8F8 then some (place (spareRows s 1) 32 16 ||| place (spareRows s 0) 0 16, s)
  else none

/-- Write a DM_ register (R353). -/
def dmWrite (off : Nat) (d en : Word) (s : State) : Option State :=
  if off = 0xB840 then some { s with dm := { s.dm with calSel := putBits s.dm.calSel d (maskOf 0 12) en } }
  else match dmRead off s with
    | some _ => some s
    | none => none

/-! ### Meanings -/

def execCalendarPosition (s : State) : Host.Outcome State Fault Refusal := run s calendarPosition
def execCalendarApply (s : State) : Host.Outcome State Fault Refusal := run s calendarApply
def execHaulerCopy (part : BitVec 4) (words : List (BitVec 64)) (s : State) : Host.Outcome State Fault Refusal := run s (haulerTake 0 part.toNat words)
def execHaulerFill (part : BitVec 4) (words : List (BitVec 64)) (s : State) : Host.Outcome State Fault Refusal := run s (haulerTake 1 part.toNat words)
def execHaulerDone (idx : Nat) (s : State) : Host.Outcome State Fault Refusal := run s (haulerDone idx)
def execCodecPack (part : BitVec 4) (pages : List (BitVec 32)) (words : List (BitVec 64)) (s : State) : Host.Outcome State Fault Refusal :=
  run s (codecTake 0 part.toNat pages words)
def execCodecUnpack (part : BitVec 4) (pages : List (BitVec 32)) (words : List (BitVec 64)) (s : State) : Host.Outcome State Fault Refusal :=
  run s (codecTake 1 part.toNat pages words)
def execCodecDone (idx : Nat) (s : State) : Host.Outcome State Fault Refusal := run s (codecDone idx)

end Sys2Proof.Machine
end

