-- ==== Sys2Proof/Machine/Operator.lean ====
section
/-! DEFINITION. Operator commands (09, R262 to R275): the descriptor, its checks, and the output map that the command commits. -/

namespace Sys2Proof.Machine

/-- An operator descriptor (R262). -/
structure Oper where
  kind : Nat
  pad : Nat
  relu : Bool
  bias : Bool
  div : Bool
  zrIn : Bool
  zrOut : Bool
  inForm : Nat
  outForm : Nat
  hIn : Nat
  wIn : Nat
  cIn : Nat
  cOut : Nat
  kh : Nat
  kw : Nat
  sh : Nat
  sw : Nat
  g : Nat
  pt : Nat
  pb : Nat
  pl : Nat
  pr : Nat
  inOff : Nat
  outOff : Nat
  wOff : Nat
  bOff : Nat
  outInv : BitVec 32
  inScale : BitVec 32
  row0 : Nat
  nRows : Nat
  col0 : Nat
  nCols : Nat
  inTok : Nat
  fused : Bool
  freeTok : Nat
  freeEn : Bool
  ringB : Nat
  ringBase : Nat

/-- The descriptor in argument words 0 to 13 (R262). -/
def operOf (a : List Word) : Oper :=
  let w := fun i => nth a i 0
  { kind := fld (w 0) 0 8, pad := fld (w 0) 8 2, relu := bitOf (w 0) 10, bias := bitOf (w 0) 11, div := bitOf (w 0) 12,
    zrIn := bitOf (w 0) 13, zrOut := bitOf (w 0) 14, inForm := fld (w 0) 15 3, outForm := fld (w 0) 18 3,
    hIn := fld (w 1) 0 16, wIn := fld (w 1) 16 16, cIn := fld (w 1) 32 16, cOut := fld (w 1) 48 16,
    kh := fld (w 2) 0 8, kw := fld (w 2) 8 8, sh := fld (w 2) 16 8, sw := fld (w 2) 24 8, g := fld (w 2) 32 12,
    pt := fld (w 3) 0 16, pb := fld (w 3) 16 16, pl := fld (w 3) 32 16, pr := fld (w 3) 48 16,
    inOff := fld (w 4) 0 48, outOff := fld (w 5) 0 48, wOff := fld (w 6) 0 48, bOff := fld (w 7) 0 48,
    outInv := BitVec.ofNat 32 (fld (w 8) 0 32), inScale := BitVec.ofNat 32 (fld (w 8) 32 32),
    row0 := fld (w 9) 0 16, nRows := fld (w 9) 16 16, col0 := fld (w 9) 32 16, nCols := fld (w 9) 48 16, inTok := fld (w 10) 0 14,
    fused := bitOf (w 10) 14, freeTok := fld (w 10) 16 14, freeEn := bitOf (w 10) 30, ringB := fld (w 10) 32 16, ringBase := fld (w 11) 0 22 / 256 * 256 }

/-- Reserved bits, and fields that the KIND does not use, that are not zero (R262, R263 check 2). -/
def operReserved (a : List Word) : Bool :=
  let w := fun i => nth a i 0
  let o := operOf a
  let conv := o.kind == 1
  fld (w 0) 21 43 != 0 || fld (w 2) 44 20 != 0 || (List.range 4).any (fun i => fld (w (4 + i)) 48 16 != 0) || bitOf (w 10) 15 ||
    bitOf (w 10) 31 || fld (w 10) 48 16 != 0 || fld (w 11) 22 42 != 0 || w 12 != 0 || w 13 != 0 ||
    (!conv && (o.relu || o.bias || w 6 != 0 || w 7 != 0)) || (o.kind != 3 && o.div)

/-- Output size on an axis (R265); sizes of 0 or less are one empty output (R266). -/
def outSize (h p q k st : Nat) : Nat := (Int.fdiv ((h : Int) + p + q - k) st + 1).toNat

def Oper.oh (o : Oper) : Nat := if o.hIn = 0 ∨ o.wIn = 0 then 0 else outSize o.hIn o.pt o.pb o.kh o.sh
def Oper.ow (o : Oper) : Nat := if o.hIn = 0 ∨ o.wIn = 0 then 0 else outSize o.wIn o.pl o.pr o.kw o.sw

/-- The checks of R263 in order: the first code that fails, 0 when all pass. -/
def operCheck (a : List Word) : Nat :=
  let o := operOf a
  if o.kind = 0 ∨ 3 < o.kind ∨ o.pad = 3 ∨ 4 < o.inForm ∨ 3 < o.outForm then cVersion
  else if operReserved a then cReserved
  else if o.kh = 0 ∨ o.kw = 0 ∨ o.sh = 0 ∨ o.sw = 0 ∨ o.cIn = 0 ∨ o.cOut = 0 ∨ o.g = 0 ∨ 32768 < o.hIn ∨ 32768 < o.wIn then cDimLimit
  else if o.cIn % o.g ≠ 0 ∨ o.cOut % o.g ≠ 0 ∨ (o.kind ≠ 1 ∧ o.cIn ≠ o.cOut) then cDimLimit
  else if o.kind ≠ 1 ∧ o.pad = 0 ∧ ¬ (o.pt < o.kh ∧ o.pb < o.kh ∧ o.pl < o.kw ∧ o.pr < o.kw) then cDimLimit
  else if o.oh < o.row0 + o.nRows ∨ o.ow < o.col0 + o.nCols then cDimLimit
  else 0

/-- Input coordinate that a tap reads on an axis of size `h`, none for a zero-padded tap (R267). -/
def resolve (pad h : Nat) (i : Int) : Option Nat :=
  if 0 ≤ i ∧ i < h then some i.toNat
  else match pad with
    | 0 => none
    | 1 => some (if i < 0 then 0 else h - 1)
    | _ =>
      if h ≤ 1 then some 0
      else
        let m := (i % (2 * h - 2 : Nat)).toNat
        some (if m < h then m else 2 * h - 2 - m)

/-- The input map of an operator: lane bits of channel `c` at (y, x) (R269). -/
abbrev InMap := Nat → Nat → Nat → BitVec 32

/-- Input coordinates on an axis of size `h` that `n` output positions from `n0` on name (R267, R268). -/
def namedOn (pad h n0 n st p k : Nat) : List Nat :=
  ((List.range n).flatMap (fun i => (List.range k).filterMap (fun t => resolve pad h ((((n0 + i) * st : Nat) : Int) - (p : Int) + (t : Int))))).eraseDups

/-- Input rows and columns that a command reads (R268), rising; no tap names a pixel outside them. -/
def Oper.rowsIn (o : Oper) : List Nat := sortBy (fun a b => decide (a < b)) (namedOn o.pad o.hIn o.row0 o.nRows o.sh o.pt o.kh)
def Oper.colsIn (o : Oper) : List Nat := sortBy (fun a b => decide (a < b)) (namedOn o.pad o.wIn o.col0 o.nCols o.sw o.pl o.kw)

/-- Channel blocks of the input map (R269). -/
def Oper.blocksIn (o : Oper) : Nat := ceilDiv o.cIn 64

/-- DRAM offset of a ZR64 row of the input map (R283). -/
def Oper.zrRowAt (o : Oper) (b y : Nat) : Nat := o.inOff + (b * o.hIn + y) * zrSlot o.inForm o.wIn

/-- The input map (R269): the prepared page, a ZR64 map, or plain lines in DRAM. -/
def inMap (s : State) (pd : PartDef) (o : Oper) (page : Option Page) : InMap :=
  if o.inForm = 4 then
    let rows := ((page.bind (·.prep)).map (·.image.rows)).getD []
    fun _ y x => (nth (nth rows y []) x 0).setWidth 32
  else if o.zrIn then fun c y x =>
    match zrUnpackRow o.inForm o.wIn y (c / 64) (dramWinRead s pd (o.zrRowAt (c / 64) y) (zrSlot o.inForm o.wIn)) with
    | .inr ls => BitVec.ofNat 32 (leAt (nth ls x []) (4 * (c % 64)) 4)
    | .inl _ => 0
  else fun c y x => BitVec.ofNat 32 (leNat (dramWinRead s pd (o.inOff + ((c / 64 * o.hIn + y) * o.wIn + x) * 256 + 4 * (c % 64)) 4))

/-- A Q8 lane's FP32 value (R270). -/
def q8Value (o : Oper) (v : BitVec 32) : BitVec 32 := f32mul (f32int (v.setWidth 8).toInt) o.inScale

/-- The K12 value that a tap enters the array with, and what its rounding raises (R248, R270). -/
def tapK12 (o : Oper) (v : BitVec 32) : Narrow :=
  match o.inForm with
  | 0 | 1 => arrayInput o.inForm v
  | 2 => toK12 (f32 (q8Value o v))
  | 3 => ⟨v.toNat % 4096, false, false⟩
  | _ => toK12 (.fin (decide (v.toNat < 128)) ((v.toNat : Int) - 128).natAbs (-7))

/-- The FP32 value of a tap (R274). -/
def tapF32 (o : Oper) (v : BitVec 32) : BitVec 32 :=
  match o.inForm with
  | 0 => v
  | 1 => to32 (Fv.decode fmtBf (v.toNat % 65536))
  | 2 => q8Value o v
  | 3 => let n := k12Int (v.toNat % 4096); to32 (.fin (v.getLsbD 11) n.natAbs (-20))
  | _ => f32int v.toNat

/-- The BF16 code with which a tap enters the Stilts lane (R254). -/
def tapBf (o : Oper) (v : BitVec 32) : Nat :=
  match o.inForm with
  | 1 => v.toNat % 65536
  | 4 => (Fv.fin (decide (v.toNat < 128)) ((v.toNat : Int) - 128).natAbs (-7)).encode fmtBf
  | _ => (f32 (tapF32 o v)).encode fmtBf

/-- Packed weights of a layer: K12 code in bits [11:0]; bit 15 marks an outlier channel, Stilts row in [13:12], BF16 weight in [31:16]
(log 20). -/
abbrev Weights := Nat → Nat → Nat → Nat → Nat

/-- The packed weights at W_OFF (R262), one 4-byte word for each output channel, channel of the group, filter row and column (log 20). -/
def weightsOf (s : State) (pd : PartDef) (o : Oper) : Weights := fun oc i ky kx =>
  leNat (dramWinRead s pd (o.wOff + 4 * (((oc * (o.cIn / o.g) + i) * o.kh + ky) * o.kw + kx)) 4)

/-- The bias of an output channel at B_OFF (R262). -/
def biasOf (s : State) (pd : PartDef) (o : Oper) (oc : Nat) : BitVec 32 := BitVec.ofNat 32 (leNat (dramWinRead s pd (o.bOff + 4 * oc) 4))

/-- Taps of an output pixel in the order of R271: filter row, filter column, and the input position or none. -/
def tapsOf (o : Oper) (y x : Nat) : List (Nat × Nat × Option (Nat × Nat)) :=
  (List.range o.kh).flatMap (fun (ky : Nat) => (List.range o.kw).map (fun (kx : Nat) =>
    let iy := resolve o.pad o.hIn (((y * o.sh : Nat) : Int) - (o.pt : Int) + (ky : Int))
    let ix := resolve o.pad o.wIn (((x * o.sw : Nat) : Int) - (o.pl : Int) + (kx : Int))
    (ky, kx, match iy, ix with | some a, some b => some (a, b) | _, _ => none)))

/-- The MULs of an output pixel and channel, each as (tap, channel within the group) of its lanes (R271, R272). -/
def mulsOf (o : Oper) (y x : Nat) : List (List ((Nat × Nat × Option (Nat × Nat)) × Nat)) :=
  let gw := o.cIn / o.g
  let taps := tapsOf o y x
  if o.g = 1 ∧ o.cIn * o.kh * o.kw ≤ 64 then [taps.flatMap (fun t => (List.range gw).map (fun i => (t, i)))]
  else taps.flatMap (fun t => (List.range (ceilDiv gw 64)).map (fun b =>
    ((List.range (min 64 (gw - 64 * b))).map (fun k => (t, 64 * b + k)))))

/-- Exact sum of products, rounded once (R255). -/
def sumRound (ps : List Int) : BitVec 32 :=
  let n := ps.foldl (· + ·) 0
  if n = 0 then 0 else to32 (.fin (decide (n < 0)) n.natAbs (-40))

/-- A tap of an output pixel and a channel within its group. -/
abbrev TapLane := (Nat × Nat × Option (Nat × Nat)) × Nat

/-- Input value of a lane for an output channel; none for a zero-padded tap. -/
def laneIn (o : Oper) (inp : InMap) (oc : Nat) (l : TapLane) : Option (BitVec 32) :=
  l.1.2.2.map (fun p => inp (oc / (o.cOut / o.g) * (o.cIn / o.g) + l.2) p.1 p.2)

/-- One MUL of an output channel: P and Q (R255). -/
def mulPQ (o : Oper) (inp : InMap) (wt : Weights) (oc : Nat) (lanes : List TapLane) : BitVec 32 × Option (BitVec 32) :=
  let ws := lanes.map (fun l => (l, wt oc l.2 l.1.1 l.1.2.1))
  let p := sumRound (ws.map (fun w => match laneIn o inp oc w.1 with | some v => k12Int (tapK12 o v).code * k12Int (w.2 % 4096) | none => 0))
  let outs := ws.filter (fun w => w.2.testBit 15)
  let q := fun (r : Nat) => match outs.find? (fun w => w.2 / 4096 % 4 == r) with
    | some w => stiltsProd (match laneIn o inp oc w.1 with | some v => (toStilts (tapBf o v)).code | none => 0) (toStilts (w.2 / 65536)).code
    | none => 0
  (p, if outs.isEmpty then none else some (f32add (f32add (q 0) (q 1)) (f32add (q 2) (q 3))))

/-- What an accumulator row holds for an output channel after each MUL of a pixel (R255, R271). -/
def accSteps (o : Oper) (inp : InMap) (wt : Weights) (y x oc : Nat) : List (BitVec 32) :=
  ((mulsOf o y x).foldl (fun (a : List (BitVec 32)) m =>
    let (p, q) := mulPQ o inp wt oc m
    let v := match a with | a :: _ => f32add a p | [] => p
    (match q with | some q => f32add v q | none => v) :: a) []).reverse

/-- Accumulator value of an output pixel and channel (R255, R271). -/
def convAcc (o : Oper) (inp : InMap) (wt : Weights) (y x oc : Nat) : BitVec 32 := (accSteps o inp wt y x oc).getLastD 0

/-- Convolution's output before conversion (R273). -/
def convOut (o : Oper) (inp : InMap) (wt : Weights) (bias : Nat → BitVec 32) (y x oc : Nat) : BitVec 32 :=
  let v := convAcc o inp wt y x oc
  let v := if o.bias then f32add v (bias oc) else v
  if o.relu then f32max v 0 else v

/-- A pooled value before conversion (R274, R275). -/
def poolOut (o : Oper) (inp : InMap) (y x c : Nat) : BitVec 32 :=
  let taps := (tapsOf o y x).map (fun t => t.2.2.map (fun p => tapF32 o (inp c p.1 p.2)))
  let here := taps.filterMap id
  if o.kind = 2 then (match here with | v :: r => r.foldl f32max v | [] => 0)
  else
    let vs := if o.div then here else taps.map (fun t => t.getD 0)
    let n := if o.div then here.length else o.kh * o.kw
    match vs with
    | v :: r => f32mul (r.foldl f32add v) (f32div (f32int 1) (f32int n))
    | [] => 0

/-- A value in the output form, and what its conversion raises (R259, R273). -/
def toForm (o : Oper) (v : BitVec 32) : BitVec 32 × Bool × Bool :=
  match o.outForm with
  | 0 => (v, false, false)
  | 1 => cvtLane 2 v 0
  | 2 => cvtLane 4 v o.outInv
  | _ => cvtLane 5 v 0

/-- An operator over its input map, weights and bias: the FP32 value of an output pixel and channel before conversion (R271 to R275). -/
def operOut (o : Oper) (inp : InMap) (wt : Weights) (bias : Nat → BitVec 32) (y x c : Nat) : BitVec 32 :=
  if o.kind = 1 then convOut o inp wt bias y x c else poolOut o inp y x c

/-- Channels of an output block. -/
def Oper.blockOut (o : Oper) (b : Nat) : List Nat := ((List.range 64).map (64 * b + ·)).filter (fun c => decide (c < o.cOut))

/-- One output line: 64 channels of a block, lanes beyond C_OUT zero (R269). -/
def outLine (o : Oper) (f : Nat → BitVec 32) (b : Nat) : Bytes :=
  (List.range 64).flatMap (fun k => leBytes 4 (if 64 * b + k < o.cOut then (toForm o (f (64 * b + k))).1.toNat else 0))

/-! ### Flags -/

/-- Channels of an output block that one MUL serves: all of them, or those of one group at a time (R272). -/
def mulChannels (o : Oper) (b : Nat) : List (List Nat) :=
  let cs := o.blockOut b
  if o.g = 1 ∨ o.cIn = o.g then [cs]
  else ((cs.map (fun c => c / (o.cOut / o.g))).eraseDups).map (fun g => cs.filter (fun c => c / (o.cOut / o.g) == g))

/-- What one MUL raises: SAT and NAN_IN from its inputs and Stilts values, ACC_INF and ACC_NAN where it lands (R248, R256, R260). -/
def mulFlags (o : Oper) (inp : InMap) (wt : Weights) (y x : Nat) (cs : List Nat) (m : Nat) : List (NFlag × Bool) :=
  let lanes := nth (mulsOf o y x) m []
  let ins := cs.flatMap (fun c => lanes.filterMap (fun l => (laneIn o inp c l).map (tapK12 o)))
  let outs := cs.flatMap (fun c => (lanes.filter (fun l => (wt c l.2 l.1.1 l.1.2.1).testBit 15)).flatMap (fun l =>
    ((laneIn o inp c l).map (fun v => toStilts (tapBf o v))).toList ++ [toStilts (wt c l.2 l.1.1 l.1.2.1 / 65536)]))
  let acc := cs.map (fun c => nth (accSteps o inp wt y x c) m 0)
  [(.sat, (ins ++ outs).any (·.sat)), (.nanIn, (ins ++ outs).any (·.nan)), (.accInf, acc.any isInf32), (.accNan, acc.any isNan32)]

/-- What the operations of one output pixel and block raise, in order: each MUL, then the conversion (R260, R273). -/
def pixelFlags (o : Oper) (inp : InMap) (wt : Weights) (bias : Nat → BitVec 32) (y x b : Nat) : List (List (NFlag × Bool)) :=
  let muls := if o.kind = 1 then
      (mulChannels o b).flatMap (fun cs => (List.range (mulsOf o y x).length).map (mulFlags o inp wt y x cs))
    else []
  let cvt := (o.blockOut b).map (fun c => (toForm o (operOut o inp wt bias y x c)).2)
  muls ++ [[(.sat, cvt.any (·.1)), (.nanIn, cvt.any (·.2))]]

/-! ### Division among tiles and fused chains -/

/-- First row and rows of band `k` of `n` over `O` rows: the first O mod n bands take one row more (R276, R277). -/
def bandOf (O n k : Nat) : Nat × Nat := (k * (O / n) + min k (O % n), O / n + (if k < O % n then 1 else 0))

/-- Rows of layer A that a consumer needs for its output rows 0 to r (R279); `r` counts one up, so that 0 is N(-1) = 0. -/
def rowsNeeded (o : Oper) (r : Nat) : Nat :=
  if r = 0 then 0 else (min (max ((((r - 1) * o.sh : Nat) : Int) - (o.pt : Int) + (o.kh : Int)) 0) (o.hIn : Int)).toNat

/-- The count that a consumer waits for on IN_TOK before its output row `r` (R279). -/
def rowWait (o : Oper) (r : Nat) : Nat := rowsNeeded o (r + 1) - rowsNeeded o r

/-- Rows of layer A below which all are released once output rows 0 to r - 1 are finished (R280). -/
def rowsFreed (o : Oper) (r : Nat) : Nat := (((r * o.sh : Nat) : Int) - (o.pt : Int)).toNat

/-- The counts that a consumer posts to FREE_TOK when it has finished output row `r` (R280). -/
def rowFree (o : Oper) (r : Nat) : Nat :=
  ((List.range (rowsFreed o (r + 1) - rowsFreed o r)).filter (fun i => decide (rowsFreed o r + i + o.ringB < o.hIn))).length

/-- The counts of a whole chain on IN_TOK and on FREE_TOK (R282). -/
def chainCounts (o : Oper) : Nat × Nat := (o.hIn, o.hIn - o.ringB)

/-- Tile-space address of row `j` of layer A in the ring of a consumer on tile `l`, for rows of `n` bytes (R278). -/
def ringAddr (o : Oper) (l j n : Nat) : Nat := l * 0x400000 + o.ringBase + j % max 1 o.ringB * n

/-! ### What a command reads -/

/-- Uncorrectable words among what a command reads from DRAM (R268): named input pixels, weights and bias; of a ZR64 row the header and
PAYLOAD. -/
def operTouch (pd : PartDef) (o : Oper) (s : State) : Bool × State :=
  let rows := (List.range o.blocksIn).flatMap (fun b => o.rowsIn.map (fun y => (b, y)))
  let ranges := if o.fused ∨ o.inForm = 4 then []
    else if o.zrIn then rows.map (fun x => (o.zrRowAt x.1 x.2, 16 + min (leNat (dramWinRead s pd (o.zrRowAt x.1 x.2) 4)) (zrSlot o.inForm o.wIn - 16)))
    else rows.flatMap (fun x => o.colsIn.map (fun c => (o.inOff + ((x.1 * o.hIn + x.2) * o.wIn + c) * 256, 256)))
  let fixed := (if o.kind = 1 then [(o.wOff, 4 * o.cOut * (o.cIn / o.g) * o.kh * o.kw)] else []) ++ (if o.bias then [(o.bOff, 4 * o.cOut)] else [])
  (ranges ++ fixed).foldl (fun (a : Bool × State) x => let (ue, s) := dramCheck pd x.1 x.2 a.2; (a.1 || ue, s)) (false, s)

/-- A ZR64 row has failed its checks (R264, R286, R288): counted, and noted with its first failing block. -/
def zrFailed (part depot row cblk b : Nat) (s : State) : State :=
  let last := place b 48 16 ||| place row 32 16 ||| place cblk 22 10 ||| place part 18 4 ||| place depot 17 1
  snCount 0 1 (zrCount 2 1 { s with dm := { s.dm with zrLast := last } })

/-- The ZR64 rows that a command names are checked in order and counted (R268, R286, R288): whether one fails. The depot whose codec unpacks
a row is not given (log 20). -/
def zrTake (pd : PartDef) (part : Nat) (o : Oper) (s : State) : Bool × State :=
  ((List.range o.blocksIn).flatMap (fun b => o.rowsIn.map (fun y => (b, y)))).foldl (fun (a : Bool × State) x =>
    if a.1 then a
    else match zrUnpackRow o.inForm o.wIn x.2 x.1 (dramWinRead a.2 pd (o.zrRowAt x.1 x.2) (zrSlot o.inForm o.wIn)) with
      | .inr _ => (false, zrCount 1 1 a.2)
      | .inl b =>
        let (w, s) := fresh a.2
        (true, zrFailed part (w.toNat % 2) x.2 x.1 b s)) (false, s)

/-- What a command that is to commit finds in the data that it reads (R264, R268, R286). -/
inductive OperFound where
  | clean | hurt | mismatch
  deriving DecidableEq, Repr

/-- The output of an operator is empty: it reads and writes nothing (R266). -/
def Oper.empty (o : Oper) : Bool := o.oh == 0 || o.ow == 0

/-- The data of a command that is an operator command are read. -/
def operJudge (r : DispatchReq) (s : State) : OperFound × State :=
  let o := operOf r.args
  if ¬ s.rm.opers.contains r ∨ o.empty then (.clean, s)
  else match part? s r.part.toNat with
    | none => (.clean, s)
    | some pd =>
      let (ue, s) := operTouch pd o s
      if ue then (.hurt, s)
      else if o.zrIn ∧ ¬ o.fused then (let (bad, s) := zrTake pd r.part.toNat o s; (if bad then .mismatch else .clean, s))
      else (.clean, s)

/-! ### Output -/

/-- Store the command's part of one output row: plain lines, or the row's ZR64 slot with them in place (R269, R283, R288). -/
def putOutRow (pd : PartDef) (o : Oper) (b y : Nat) (lines : List Bytes) (s : State) : State :=
  if o.zrOut then
    let at' := o.outOff + (b * o.oh + y) * zrSlot o.outForm o.ow
    let old := match zrUnpackRow o.outForm o.ow y b (dramWinRead s pd at' (zrSlot o.outForm o.ow)) with
      | .inr ls => ls
      | .inl _ => List.replicate o.ow (List.replicate 256 0)
    let (row, absent) := zrPackRow o.outForm y b (old.take o.col0 ++ lines ++ old.drop (o.col0 + lines.length))
    zrCount 0 1 (zrAbsent absent (dramWinWrite pd at' row s))
  else dramWinWrite pd (o.outOff + ((b * o.oh + y) * o.ow + o.col0) * 256) (lines.flatMap id) s

/-- The output map's rows and columns of a command over an input map (R265 to R275): stored, and the flags of its operations raised. -/
def operRun (r : DispatchReq) (inp : InMap) (s : State) : State :=
  let o := operOf r.args
  match part? s r.part.toNat with
  | none => s
  | some pd =>
    let f := operOut o inp (weightsOf s pd o) (biasOf s pd o)
    let flags := pixelFlags o inp (weightsOf s pd o) (biasOf s pd o)
    (List.range (ceilDiv o.cOut 64)).foldl (fun t b => (List.range o.nRows).foldl (fun t i =>
      let y := o.row0 + i
      let xs := (List.range o.nCols).map (o.col0 + ·)
      let t := xs.foldl (fun t x => (flags y x b).foldl (fun t fs => raiseFlags r.tile.toNat fs t) t) t
      putOutRow pd o b y (xs.map (fun x => outLine o (f y x) b)) t) t) s

/-- An operator command outside a fused chain commits: its output becomes visible (R266, R413). -/
def operCommit (r : DispatchReq) (s : State) : State :=
  let o := operOf r.args
  if ¬ s.rm.opers.contains r then s
  else
    let s := { s with rm := { s.rm with opers := s.rm.opers.filter (· != r) } }
    if o.empty then completed 0 r.part.toNat cEmpty s
    else match part? s r.part.toNat with
      | none => s
      | some pd => completed 0 r.part.toNat cOk (operRun r (inMap s pd o ((r.pages.head?).bind (page? s))) s)

/-- The lines of row `y` of layer A as they stand in a ring, block by block (R269, R278). -/
def ringRow (o : Oper) (f : Nat → Nat → Nat → BitVec 32) (y : Nat) : Bytes :=
  (List.range (ceilDiv o.cOut 64)).flatMap (fun b => (List.range o.ow).flatMap (fun x => outLine o (f y x) b))

/-- The operator commands of a fused chain commit together (R278 to R282, R413): layer B is computed from layer A's map, whose last rows
stand in the ring. -/
def chainCommit (ch : ChainRoute) (reqs : List DispatchReq) (s : State) : State :=
  let mine := reqs.filter s.rm.opers.contains
  let s := { s with rm := { s.rm with opers := s.rm.opers.filter (fun e => !(mine.contains e)) } }
  let prods := mine.filter (fun r => r.tile.toNat == ch.prod)
  let cons := mine.filter (fun r => r.tile.toNat == ch.cons)
  match prods.head?, part? s ch.part with
  | some p, some pd =>
    let a := operOf p.args
    let f := operOut a (inMap s pd a ((p.pages.head?).bind (page? s))) (weightsOf s pd a) (biasOf s pd a)
    let layerA : InMap := fun c y x => if c < a.cOut then (toForm a (f y x c)).1 else 0
    let flags := pixelFlags a (inMap s pd a ((p.pages.head?).bind (page? s))) (weightsOf s pd a) (biasOf s pd a)
    let s := prods.foldl (fun s r =>
      let o := operOf r.args
      (List.range (ceilDiv o.cOut 64)).foldl (fun s b => (List.range o.nRows).foldl (fun s i => (List.range o.nCols).foldl (fun s j =>
        (flags (o.row0 + i) (o.col0 + j) b).foldl (fun s fs => raiseFlags r.tile.toNat fs s) s) s) s) s) s
    let s := match cons.head? with
      | some c =>
        let b := operOf c.args
        let n := ceilDiv a.cOut 64 * a.ow * 256
        (List.range (min b.ringB a.oh)).foldl (fun s i =>
          let j := a.oh - min b.ringB a.oh + i
          tsWrite (ringAddr b ch.cons j n) (ringRow a f j) s) s
      | none => s
    let s := cons.foldl (fun s r => if (operOf r.args).empty then s else operRun r layerA s) s
    mine.foldl (fun s r => completed 0 r.part.toNat (if (operOf r.args).empty then cEmpty else cOk) s) s
  | _, _ => s

/-- The rows of layer A that the consumer's commands of a chain have waited for are all of them, in each strip (R282). -/
def chainDone (ch : ChainRoute) (reqs : List DispatchReq) : Bool :=
  let os := (reqs.filter (fun r => r.tile.toNat == ch.cons)).map (fun r => operOf r.args)
  let waits := fun (o : Oper) => ((List.range o.nRows).map (fun i => rowWait o (o.row0 + i))).sum
  ((os.map (·.col0)).eraseDups).all (fun c =>
    let mine := os.filter (fun o => o.col0 == c)
    (mine.head?.map (fun o => decide ((chainCounts o).1 ≤ (mine.map waits).sum))).getD true)

/-! ### The descriptors that the pipeline program builds -/

/-- A descriptor comes from a template of the class: only the words that depend on the page's size differ (R262, R366; log 72). -/
def tplMatch (tpl : Bytes) (a : List Word) : Bool :=
  (List.range 14).all (fun k =>
    let keep := if k = 1 then maskOf 32 32 else if k = 9 then 0 else if k = 13 then maskOf 0 63 else maskOf 0 64
    (BitVec.ofNat 64 (leAt tpl (8 * k) 8) &&& keep) == (nth a k 0 &&& keep))

/-- ROW0, NROWS, COL0 and NCOLS are a band of the layer for the tile, and a strip of it (R276, R277); into how many strips a band falls follows
from its scratchpad allowance, which the spec does not give (log 72). -/
def bandFits (a : List Word) (tiles : List Nat) (l : Nat) : Bool :=
  let o := operOf a
  let strips := Config.strips ((List.range 14).map (fun k => if k = 9 then nth a 9 0 &&& maskOf 0 32 else nth a k 0)) + 1
  (o.row0, o.nRows) == bandOf o.oh (max 1 tiles.length) (tiles.findIdx (· == l)) &&
    (List.range strips).any (fun k => (o.col0, o.nCols) == bandOf o.ow strips k)

end Sys2Proof.Machine
end

