-- ==== Sys2Proof/Machine/TileScalar.lean ====
section
/-! DEFINITION. Scalar and address slots of a tile (R215, R216). -/

namespace Sys2Proof.Machine

/-- A scalar operation on a and b/i with latency `n` (R215). -/
def scalarOp (n : Nat) (f : BitVec 64 → BitVec 64 → BitVec 64) (o : Op) : State → State :=
  issue (o.ok rowScalar) o (fun l t s => if t.off o then s else putS l o n (f (t.readS o.srcA) (t.scalarB o)) s)

/-- Shift amount b[6:0] (R215). -/
def shamt (b : BitVec 64) : Nat := b.toNat % 128

def shlValue (a b : BitVec 64) : BitVec 64 := if 64 ≤ shamt b then 0 else a <<< shamt b
def shrValue (a b : BitVec 64) : BitVec 64 := if 64 ≤ shamt b then 0 else a >>> shamt b
def sarValue (a b : BitVec 64) : BitVec 64 := a.sshiftRight (min 63 (shamt b))
def sminValue (a b : BitVec 64) : BitVec 64 := if a.toInt ≤ b.toInt then a else b
def smaxValue (a b : BitVec 64) : BitVec 64 := if a.toInt ≤ b.toInt then b else a

/-- TL_ACLK: one count each 3.125 ns of the timebase, modulo 2^48 (R241). -/
def aclk (s : State) : Nat := s.now.toNat * 8 / 25 % 2 ^ 48

/-- An operation of the scalar slots with its own operands (R215). -/
def scalarOp' (ok : Bool) (o : Op) (f : Nat → Tile → State → State) : State → State :=
  issue ok o (fun l t s => if t.off o then s else f l t s)

/-- Operand b of an address operation: A or S register, or immediate, 48 bits (R216). -/
def Tile.addrB (t : Tile) (o : Op) : BitVec 48 :=
  if o.flag 0 then o.imm.setWidth 48
  else if o.srcB.toNat < 0x40 then (t.sReg o.srcB.toNat).setWidth 48 else t.readA o.srcB

/-- WRAP (R216). -/
def wrapValue (a : BitVec 48) (imm : BitVec 64) (bits : Nat) : BitVec 48 :=
  let m : BitVec 48 := BitVec.ofNat 48 (2 ^ bits - 1)
  (a &&& ~~~ m) ||| ((a + imm.setWidth 48) &&& m)

def execAdd (o : Op) (s : State) : Host.Outcome State Fault Refusal := run s (scalarOp 1 (· + ·) o)
def execSub (o : Op) (s : State) : Host.Outcome State Fault Refusal := run s (scalarOp 1 (· - ·) o)
def execSand (o : Op) (s : State) : Host.Outcome State Fault Refusal := run s (scalarOp 1 (· &&& ·) o)
def execSor (o : Op) (s : State) : Host.Outcome State Fault Refusal := run s (scalarOp 1 (· ||| ·) o)
def execSxor (o : Op) (s : State) : Host.Outcome State Fault Refusal := run s (scalarOp 1 (· ^^^ ·) o)
def execShl (o : Op) (s : State) : Host.Outcome State Fault Refusal := run s (scalarOp 1 shlValue o)
def execShr (o : Op) (s : State) : Host.Outcome State Fault Refusal := run s (scalarOp 1 shrValue o)
def execSar (o : Op) (s : State) : Host.Outcome State Fault Refusal := run s (scalarOp 1 sarValue o)
def execSmin (o : Op) (s : State) : Host.Outcome State Fault Refusal := run s (scalarOp 1 sminValue o)
def execSmax (o : Op) (s : State) : Host.Outcome State Fault Refusal := run s (scalarOp 1 smaxValue o)
def execScalarMul (o : Op) (s : State) : Host.Outcome State Fault Refusal := run s (scalarOp 3 (· * ·) o)

def execMovi (o : Op) (s : State) : Host.Outcome State Fault Refusal :=
  run s (scalarOp' (o.ok rowMovi) o (fun l _ => putS l o 1 o.imm))

def execCmp (o : Op) (s : State) : Host.Outcome State Fault Refusal :=
  run s (scalarOp' (cmpOk o) o (fun l t =>
    putP l o 1 (if scalarCmp (o.fieldOf 1 4) (t.readS o.srcA) (t.scalarB o) then ~~~ 0 else 0)))

def execSel (o : Op) (s : State) : Host.Outcome State Fault Refusal :=
  run s (scalarOp' (o.ok rowSel) o (fun l t => putS l o 1 (if (t.readP o.srcC).getLsbD 0 then t.readS o.srcA else t.readS o.srcB)))

def execCyc (o : Op) (s : State) : Host.Outcome State Fault Refusal :=
  run s (scalarOp' (o.ok rowDst) o (fun l _ s => putS l o 1 (BitVec.ofNat 64 (aclk s)) s))

def execOpTime (o : Op) (s : State) : Host.Outcome State Fault Refusal :=
  run s (scalarOp' (o.ok rowDst) o (fun l _ s => putS l o 2 s.now s))

def execAmov (o : Op) (s : State) : Host.Outcome State Fault Refusal :=
  run s (scalarOp' (o.ok rowAmov) o (fun l t => putS l o 1 ((t.readA o.srcA).setWidth 64)))

def execAdda (o : Op) (s : State) : Host.Outcome State Fault Refusal :=
  run s (scalarOp' (o.ok rowAdda) o (fun l t => putA l o 1 (t.readA o.srcA + t.addrB o)))

def execMova (o : Op) (s : State) : Host.Outcome State Fault Refusal :=
  run s (scalarOp' (o.ok rowMova) o (fun l t => putA l o 1 ((t.readS o.srcA).setWidth 48)))

def execSeta (o : Op) (s : State) : Host.Outcome State Fault Refusal :=
  run s (scalarOp' (setaOk o) o (fun l _ => putA l o 1 (o.imm.setWidth 48)))

def execWrap (o : Op) (s : State) : Host.Outcome State Fault Refusal :=
  run s (scalarOp' (wrapOk o) o (fun l t => putA l o 1 (wrapValue (t.readA o.srcA) o.imm (o.fieldOf 1 5))))

end Sys2Proof.Machine
end

