-- ==== Sys2Proof/Machine/TileSync.lean ====
section
/-! DEFINITION. The sync and control slots of a tile (R192 to R196, R224 to R229). -/

namespace Sys2Proof.Machine

/-- Count of a token operation: IMM[31:16], or the low half word of an S register (R224). -/
def tokCount (t : Tile) (o : Op) : Nat := if o.flag 0 then (t.readS o.srcA).toNat % 65536 else o.imm.toNat / 65536 % 65536

/-- Token number of a token operation (R224). -/
def tokNum (o : Op) : Nat := o.imm.toNat % 16384

/-- A token of the command's own tile that the command itself both posts and waits for, or that its transfers post (R418). -/
def ownTok (s : State) (l : Nat) (c : TileCmd) (t : Nat) : Bool :=
  t / 256 == l && (match routineOf s.si.conf c.part c.routine with
    | some r => ((syncToks r.code r.nb 1).contains t && (syncToks r.code r.nb 2).contains t) || (xferToks r.code r.nb).contains (t % 256)
    | none => false)

/-- A job that posts a token holds it no more (R378). -/
def dropHeld (k : Nat × Nat) (t : Nat) (s : State) : State :=
  modJob k (fun j => { j with held := j.held.filter (fun h => h.1 != t) }) s

/-- A token whose stored state is lost fails every command that operates on it (R422). -/
def tokCheck (l t : Nat) (s : State) : Bool × State :=
  let (ue, s) := readCheck .token 0 (8 * t) 8 s
  (ue, if ue then modTile l (fun x => { x with cmd := x.cmd.map (fun c => { c with failed := true, tokBad := true }) }) s else s)

/-- A POST of a running command (R193, R195, R418): at once, behind the lines of its port queue, or held for its commit. -/
def postOp (l t k : Nat) (s : State) : State :=
  match (tile s l).cmd with
  | none => s
  | some c =>
    let (ue, s) := tokCheck l t s
    if ue then s
    else if chainTok s c t || ownTok s l c t then
      let s := dropHeld (c.part, c.slot) t s
      let x := tile s l
      if x.puts.isEmpty then post (ownerCode c.part c.slot) t k (noteTok l t k 0 s)
      else setTile l { x with puts := x.puts ++ [.post t k] } s
    else modTile l (fun x => { x with posts := x.posts ++ [(t, k)] }) s

/-- The waiters of a token: tile, count, arrival order. -/
def waiters (s : State) (t : Nat) : List (Nat × Nat × Nat) :=
  s.tl.tiles.flatMap (fun e => e.2.freeze.filterMap (fun f => match f with
    | .token u k n => if u = t then some (e.1, k, n) else none
    | _ => none))

/-- A WAIT takes its count and its job becomes the owner (R193). -/
def takeTok (l t k : Nat) (s : State) : State :=
  match (tile s l).cmd with
  | none => s
  | some c =>
    let s := noteTok l t 0 k s
    let r := tok s t
    setTok t { r with count := r.count - BitVec.ofNat 32 k, owner := ownerCode c.part c.slot, last := l } s

/-- A WAIT reaches its token: satisfied at once, or the tile freezes and the Ringmaster may donate (R193, R196, R379, R380). -/
def tryWait (l t k : Nat) (s : State) : State :=
  let (ue, s) := tokCheck l t s
  if ue then s
  else if k ≤ (tok s t).count.toNat ∧ waiters s t = [] then takeTok l t k s
  else
    let s := modTile l (fun x => { x with freeze := x.freeze ++ [.token t k s.tl.order] }) s
    let s := { s with tl := { s.tl with order := s.tl.order + 1 } }
    match donate l t s with
    | (.refused, s) => failDonation l s
    | (_, s) => s

/-- Distance of a tile from the one after that last granted, in round-robin order (R196). -/
def rrRank (last l : Nat) : Nat := (l + 63 - last % 64) % 64

/-- A frozen WAIT is granted (R195, R196): it and every earlier waiter can be satisfied, and its turn comes first. -/
def waitSatisfied (l : Nat) (s : State) : State :=
  match (tile s l).freeze.find? (fun f => match f with | .token _ _ _ => true | _ => false) with
  | some (.token t k n) =>
    let r := tok s t
    let ws := waiters s t
    let fits := fun (w : Nat × Nat × Nat) => decide (w.2.1 ≤ r.count.toNat)
    let ready := ws.filter (fun w => fits w && ws.all (fun v => !(decide (v.2.2 < w.2.2)) || fits v))
    if ready.contains (l, k, n) ∧ ready.all (fun w => decide (rrRank r.last l ≤ rrRank r.last w.1)) ∧ ¬ tileHeld s (t / 256) then
      takeTok l t k (modTile l (fun x => { x with freeze := x.freeze.erase (.token t k n) }) s)
    else s
  | _ => s

/-- The sync fabric answers a WAIT or TEST of another tile's token, unless that tile is under remap (R225, R240). -/
def fabricAnswer (l : Nat) (s : State) : State :=
  let x := tile s l
  match x.freeze.find? (fun f => match f with | .askWait _ _ | .askTest _ _ => true | _ => false) with
  | some (.askWait t k) => if tileHeld s (t / 256) then s else tryWait l t k (setTile l { x with freeze := x.freeze.erase (.askWait t k) } s)
  | some (.askTest t d) =>
    if tileHeld s (t / 256) then s
    else
      let (ue, s) := tokCheck l t s
      modTile l (fun x => { x with
        freeze := x.freeze.erase (.askTest t d)
        land := if ue ∨ d = 0xFF then x.land else insLand ⟨x.cyc + 1, x.cyc, 14, .sreg d ((tok s t).count.setWidth 64)⟩ x.land }) s
  | _ => s

def execPost (o : Op) (s : State) : Host.Outcome State Fault Refusal :=
  run s (issue (tokOk o) o (fun l t s => if t.off o ∨ tokCount t o = 0 then s else postOp l (tokNum o) (tokCount t o) s))

def execWait (o : Op) (s : State) : Host.Outcome State Fault Refusal :=
  run s (issue (tokOk o) o (fun l t s =>
    let k := tokCount t o
    let n := tokNum o
    if t.off o ∨ k = 0 then s
    else if n / 256 = l then tryWait l n k s
    else setTile l { t with freeze := t.freeze ++ [.askWait n k] } s))

def execWaitSatisfied (l : BitVec 6) (s : State) : Host.Outcome State Fault Refusal := run s (waitSatisfied l.toNat)

def execTokTest (o : Op) (s : State) : Host.Outcome State Fault Refusal :=
  run s (issue (testOk o) o (fun l t s =>
    let n := tokNum o
    if t.off o then s
    else if n / 256 = l then
      let (ue, s) := tokCheck l n s
      if ue then s else putS l o 2 ((tok s n).count.setWidth 64) s
    else setTile l { t with freeze := t.freeze ++ [.askTest n o.dst.toNat] } s))

def execSyFence (o : Op) (s : State) : Host.Outcome State Fault Refusal :=
  run s (issue (o.ok rowFence) o (fun l t s => if t.off o then s else thaw l (setTile l { t with freeze := t.freeze ++ [.fence] } s)))

def execSyncFabricAnswer (l : BitVec 6) (s : State) : Host.Outcome State Fault Refusal := run s (fabricAnswer l.toNat)

def execJump (o : Op) (s : State) : Host.Outcome State Fault Refusal :=
  run s (issue (jOk o) o (fun l t s => if t.off o then s else setTile l { t with jump := some (o.imm.toNat % 1024) } s))

/-- LOOP (R228). -/
def loopOp (l : Nat) (t : Tile) (o : Op) (s : State) : State :=
  let c := t.readS o.srcA
  let n := tabGet t.loops t.pc 0
  let bound := o.imm.toNat / 65536 % 65536
  let again := c - 1 ≠ 0
  let s := if o.srcA = 0xFF then s else lands l o 1 (.sreg o.srcA.toNat (c - 1)) s
  if again ∧ n < bound then
    modTile l (fun t => { t with jump := some (o.imm.toNat % 1024), loops := tabSet t.loops t.pc (n + 1) }) s
  else
    let s := modTile l (fun t => { t with loops := tabDel t.loops t.pc }) s
    if again then
      let s := { s with tl := { s.tl with clamp := satAdd s.tl.clamp 1, clampAt := l } }
      barker 0x0303 1 { part := (t.cmd.map (·.part)).getD 0, uclass := 0x01, unit := l, detail := bound } s
    else s

def execTileLoop (o : Op) (s : State) : Host.Outcome State Fault Refusal :=
  run s (issue (loopOk o) o (fun l t s => if t.off o then s else loopOp l t o s))

/-- END: no later bundle of the command issues (R229). -/
def execTileEnd (o : Op) (s : State) : Host.Outcome State Fault Refusal :=
  run s (issue (o.ok rowEnd) o (fun l t s =>
    if t.off o then s else setTile l { t with cmd := t.cmd.map (fun c => { c with ended := true }) } s))

end Sys2Proof.Machine
end

