-- ==== Sys2Proof/Machine/Ringmaster.lean ====
section
/-! DEFINITION. The Ringmaster (13): dispatch and commit of commands, declared demand, RM_ and TL_ registers. -/

namespace Sys2Proof.Machine

/-! ### Dispatch -/

/-- Argument words as the routine finds them in S0 to S13: bit 63 of word 13 holds the commit parity when the routine keeps state
(R175, R416). -/
def argWords (r : DispatchReq) (keeps parity : Bool) : List (BitVec 64) :=
  let a := (List.range 14).map (fun i => nth r.args i 0)
  if keeps then a.set 13 (setFld (nth a 13 0) 63 1 (if parity then 1 else 0)) else a

/-- The registers at a command's first bundle (R175). -/
def firstRegs (s : State) (r : DispatchReq) (j : Job) (keeps : Bool) : List (Nat × BitVec 64) :=
  let w := argWords r keeps j.parity ++ [place r.tile.toNat 0 6 ||| place r.part.toNat 8 4 ||| place j.slot 16 12, s.now]
  ((List.range 16).zip w).filter (fun e => e.2 != 0)

/-- The commit group of a chain gains a command (R419). -/
def joinGroup (g : Nat) (r : DispatchReq) (runs : Nat) (s : State) : State :=
  match s.rm.groups.find? (fun x => x.chain == g) with
  | some _ => { s with rm := { s.rm with groups := s.rm.groups.map (fun x => if x.chain = g then { x with reqs := x.reqs ++ [r] } else x) } }
  | none => { s with rm := { s.rm with groups := s.rm.groups ++ [⟨g, [r], runs, [], []⟩] } }

/-- The dispatch word arrives (R175, R176, R186, R221, R378). -/
def launch (r : DispatchReq) (j : Job) (runs : Nat) (s : State) : State :=
  let l := r.tile.toNat
  let x := routineOf s.si.conf j.part r.routine.toNat
  let keeps := ((x.map (·.bspad)).getD 0) != 0
  let cls := (j.queue.bind (fun q => queue? s q)).map (·.cls)
  let g := cls.bind (fun c => chainOf s j.part c l ((x.map (·.toks)).getD []))
  let s := { s with rm := { s.rm with ready := s.rm.ready.filter (fun e => e.1 != r) } }
  let s := batchSent r j.key (restoreHeld j.key s)
  let s := match g with | some g => joinGroup g r (runs + 1) s | none => s
  let entry := (x.map (·.entry)).getD 0
  let c : TileCmd := {
    part := j.part, slot := j.slot, queue := j.queue, decoder := j.decoder, stage := j.stage, routine := r.routine.toNat, args := r.args,
    pages := r.pages, runs := runs + 1, arrived := s.now, bound := (x.map (·.d)).getD 0, ended := false, failed := false, tokBad := false,
    group := g, req := r, stgOut := [] }
  let t := tile s l
  let s := setTile l { Tile.init with cmd := some c, pc := entry, s := firstRegs s r j keeps, acc := t.acc, shadow := t.shadow } s
  let (ue, s) := readCheck .instr l (256 * entry) (256 * ((x.map (·.nb)).getD 0)) s
  if ue then modTile l (fun t => { t with cmd := t.cmd.map (fun c => { c with failed := true }) }) s else s

/-- A command can go to its tile now (R176, R202, R204, R374, R375). -/
def mayLaunch (s : State) (r : DispatchReq) (j : Job) : Bool :=
  let l := r.tile.toNat
  let x := sched s l
  x.run == some j.key && x.sw.isNone && (tile s l).cmd.isNone && !(tileHeld s l) && !(s.tl.leaving.any (fun y => y.1 == l)) && s.pw.mode == modeRun && inputsIn s r

/-- DISPATCH (R374 to R376, R482): the command is listed, and a job that it makes ready takes its place in the ring; it goes to its tile once its
job has the turn there and no command runs. -/
def dispatch (r : DispatchReq) (s : State) : State :=
  match jobFor s r with
  | none => s
  | some j =>
    let listed := s.rm.ready.find? (fun e => e.1 == r)
    let runs := (listed.map (·.2)).getD 0
    let s := if listed.isSome then s else { s with rm := { s.rm with ready := s.rm.ready ++ [(r, 0)] } }
    let s := wakeJobs (leaveSleep s)
    match job? s j.key with
    | some j => if mayLaunch s r j then launch r j runs s else s
    | none => s

/-- The tiles among which the routine of a request is divided: those of its route entries (R276, R365). -/
def operTiles (s : State) (r : DispatchReq) (j : Job) : List Nat :=
  bitsOf ((s.si.conf.routes.filter (fun e => e.part == j.part && e.stage == j.stage && e.routine == r.routine.toNat && e.tiles.getLsbD j.tile &&
    (jobClasses s j).contains e.cls)).foldl (fun (m : BitVec 64) e => m ||| e.tiles) 0).toNat 64

/-- The chain whose tokens the command of a request would use. -/
def operChain (s : State) (r : DispatchReq) (j : Job) : Option Nat :=
  (jobClasses s j).findSome? (fun c => chainOf s j.part c r.tile.toNat (((routineOf s.si.conf j.part r.routine.toNat).map (·.toks)).getD []))

/-- The pipeline program forms the descriptor of a request (R262, R276, R277, R366): it fills a template of the job's class from the prepared
page and, outside a fused chain, takes the tile's band of the layer (log 72). -/
def operFormed (s : State) (r : DispatchReq) (j : Job) : Bool :=
  let o := operOf r.args
  let page := (r.pages.head?).bind (page? s)
  (s.si.conf.classes.filter (fun k => k.part == j.part && (jobClasses s j).contains k.cls)).any (fun k => k.tpls.any (fun t => tplMatch t r.args)) &&
    (o.inForm != 4 || (match page.bind (·.prep) with | some im => o.hIn == im.h && o.wIn == im.w | none => false)) &&
    ((operChain s r j).isSome || bandFits r.args (operTiles s r j) j.tile)

/-- OPERATOR_COMMAND (R262 to R264): the descriptor in the request's argument words is checked; the command is dispatched, or refused and its
pages end with the code. A descriptor that the pipeline program does not form is no command of its (R366). -/
def operatorCommand (r : DispatchReq) (s : State) : State :=
  let o := operOf r.args
  let code := operCheck r.args
  match jobFor s r with
  | none => s
  | some j =>
    if code ≠ 0 then operatorFail r.pages r.part.toNat code (completed 0 r.part.toNat code s)
    else if ¬ operFormed s r j then s
    else
      let at' := fun off => r.part.toNat * 2 ^ 48 + off
      dispatch r { s with rm := { s.rm with
        opers := s.rm.opers.filter (· != r) ++ [r]
        maps := tabSet (tabSet s.rm.maps (at' o.inOff) o.hIn) (at' o.outOff) o.oh } }

/-! ### Commit -/

/-- A token whose stored state is lost is set to count 0 and owner none once no command of a job that claims it runs (R422). -/
def settleTokens (s : State) : State :=
  let bad := (s.dm.damage.filter (fun d => d.mem == .token && d.ue)).map (·.word)
  bad.foldl (fun s t =>
    let busy := s.tl.tiles.any (fun e => match e.2.cmd with
      | some c => ((routineOf s.si.conf c.part c.routine).map (fun x => x.toks.contains t)).getD false
      | none => false)
    if busy then s
    else setTok t { tok s t with count := 0, owner := 0xFFFF }
      { s with dm := { s.dm with damage := s.dm.damage.filter (fun d => !(d.mem == .token && d.word == t)) } }) s

/-- What a commit reports fits the command's stage and pages (R365). -/
def outFits (c : TileCmd) : StageOut → Bool
  | .none => true
  | .intakeStripe pid => c.stage == 1 && c.pages.contains pid
  | .layout pid _ => c.stage == 3 && c.pages.contains pid
  | .cutout pid _ => c.stage == 4 && c.pages.contains pid
  | .encoder _ => c.stage == 4 && c.queue.isSome
  | .structuring pid _ _ _ => c.stage == 5 && c.pages.contains pid

/-- A structuring commit on a fabric queue first needs its result frames; without them the queue holds (R62, R411). -/
def framesGranted (c : TileCmd) (out : StageOut) (s : State) : Bool × State :=
  match out with
  | .structuring pid lines bad lost =>
    match page? s pid with
    | none => (true, s)
    | some p =>
      match queue? s p.queue with
      | none => (true, s)
      | some q =>
        if q.door ≠ 3 ∨ p.segsLeft ≠ 0 then (true, s)
        else
          let lens := (pageRecords p (q.gen == 1) lines bad lost).map (fun r => r.text.length)
          let (ok, s) := acquireFrames q.sel (c.part, c.slot) (framesFor (flow s q.sel).m lens) s
          if ok then (true, if q.st = .hold ∨ q.st = .stalled then moveQueue p.queue .opened s else s)
          else (false, if q.st = .opened then moveQueue p.queue .hold s else s)
  | _ => (true, s)

/-- The output of a stage becomes visible (R11, R413). -/
def applyOut (k : Nat × Nat) (out : StageOut) (s : State) : State :=
  match out with
  | .none => s
  | .intakeStripe pid => intakeStripe pid s
  | .layout pid lines => commitLayout pid lines s
  | .cutout pid bad => commitCutout pid bad s
  | .encoder hits => commitEncoder k hits s
  | .structuring pid lines bad lost => commitStructuring pid lines bad lost s

/-- Multiplies, V2A moves and stores that have issued take effect in the order of their cycles, and the conflicts of END's own bundle are counted;
register results still pending are discarded (R172, R181, R229). -/
def settleLand (l : Nat) (s : State) : State :=
  let t := tile s l
  let keep := t.land.filter (fun x => match x.eff with | .accw _ _ | .mul _ _ _ _ | .store _ _ _ => true | _ => false)
  let inTime := sortBy (fun (a b : Land) => decide (a.at' < b.at') || (a.at' == b.at' && decide (a.key < b.key))) keep
  inTime.foldl (fun s x => landOne l x.eff s) (setTile l { t with land := [], fills := [] } (countFreeze l s))

/-- Tokens that name the job return to no owner and enter its held set (R193, R282, R378). -/
def holdTokens (k : Nat × Nat) (s : State) : State :=
  let mine := (s.tl.toks.filter (fun e => e.2.owner == ownerCode k.1 k.2)).map (·.1)
  mine.foldl (fun s t =>
    let n := s.tl.order
    let s := setTok t { tok s t with owner := 0xFFFF } { s with tl := { s.tl with order := n + 1 } }
    modJob k (fun j => { j with held := if j.held.any (fun h => h.1 == t) then j.held else j.held ++ [(t, n)] }) s) s

/-- POSTs that were held for the commit are released (R418). -/
def releasePosts (ps : List (BitVec 16 × Nat × Nat)) (s : State) : State :=
  ps.foldl (fun s p => post p.1 p.2.1 p.2.2 (dropHeld (p.1.toNat / 4096, p.1.toNat % 4096) p.2.1 s)) s

/-- Both tokens of a chain stand at zero, its producer runs nothing and the rows of its layers are done: the group's last command has committed
(R282, R419; log 24). -/
def groupEnds (s : State) (g l : Nat) : Bool :=
  match s.si.conf.chains[g]? with
  | some ch => ch.cons == l && (tok s ch.inTok).count == 0 && (tok s ch.freeTok).count == 0 && ((tile s ch.prod).cmd.bind (·.group)) != some g &&
    ((s.rm.groups.find? (fun x => x.chain == g)).map (fun gr => chainDone ch (gr.reqs.filter s.rm.opers.contains))).getD true
  | none => true

/-- The last command of a group has committed: everything that the group's commands held back becomes visible (R282, R413, R418, R419). -/
def endGroup (g : Nat) (k : Nat × Nat) (s : State) : State :=
  match s.rm.groups.find? (fun x => x.chain == g), s.si.conf.chains[g]? with
  | some gr, some ch =>
    let s := releasePosts gr.posts { s with rm := { s.rm with groups := s.rm.groups.filter (fun x => x.chain != g) } }
    gr.outs.foldl (fun s o => applyOut k o.2 s) (chainCommit ch gr.reqs s)
  | _, _ => s

/-- Tiles frozen on a token that the committed job now only holds ask for a donation (R379); one that is refused fails its command (R380). -/
def lateDonations (k : Nat × Nat) (s : State) : State :=
  (List.range 64).foldl (fun s l => (tile s l).freeze.foldl (fun s f =>
    match f with
    | .token t _ _ => if holderOf s t = some k then
        (match donate l t s with | (.refused, s) => failDonation l s | (_, s) => s)
      else s
    | _ => s) s) s

/-- What the command of a tile did becomes visible (R172, R175, R229, R240, R378, R413 to R418). -/
def commitEffects (l : Nat) (c : TileCmd) (out : StageOut) (s : State) : State :=
  let s := settleLand l s
  let k := (c.part, c.slot)
  let x := routineOf s.si.conf c.part c.routine
  let live := (x.map (·.live)).getD 0
  let t := tile s l
  let s := setTile l { Tile.init with s := t.s, a := t.a, v := t.v, p := t.p, cyc := t.cyc, pc := t.pc, acc := t.acc,
                                      shadow := putRows live t.acc t.shadow } s
  let s := modJob k (fun j => { j with parity := if j.bspad = 0 then j.parity else !j.parity }) s
  let s := if c.bound * 25 < (s.now.toNat - c.arrived.toNat) * 8 ∧ x.isSome then
      { s with tl := { s.tl with overrun := satAdd s.tl.overrun 1, overrunAt := l } } else s
  let posts := t.posts.map (fun p => (ownerCode c.part c.slot, p.1, p.2))
  match c.group with
  | none => applyOut k out (operCommit c.req (holdTokens k (releasePosts posts s)))
  | some g =>
    let s := holdTokens k s
    let s := { s with rm := { s.rm with groups := s.rm.groups.map (fun x =>
      if x.chain = g then { x with posts := x.posts ++ posts, outs := x.outs ++ [(c.pages, out)] } else x) } }
    if groupEnds s g l then endGroup g k s else s

/-- The ZR64 rows that an operator command reads fail their checks (R264, R286): it ends for good, and its pages with it. -/
def operMismatch (l : Nat) (c : TileCmd) (s : State) : State :=
  let (tiles, pages) := groupOf s l c
  let s := dropCommands tiles c s
  let s := { s with rm := { s.rm with opers := s.rm.opers.filter (· != c.req) } }
  let s := operatorFail pages c.part cZrMismatch (completed 0 c.part cZrMismatch s)
  tiles.foldl (fun s k => afterCommand k s) s

/-- What follows a commit in the whole machine (R20, R304, R374, R422): tokens and space that waited for it, attends and jobs that it makes
ready. -/
def afterCommit (s : State) : State := wakeJobs (startAttends (settleTokens (settleOwing s)))

/-- A layout command has read an uncorrectable word of a prepared page (R422): the stripes are prepared again from the page buffer. -/
def pagesHurt (c : TileCmd) (s : State) : Bool × State :=
  if c.stage ≠ 3 then (false, s)
  else c.pages.foldl (fun (a : Bool × State) pid =>
    match (page? a.2 pid).bind (·.prep) with
    | none => a
    | some im =>
      let at' := regionBase a.2 2 + Config.region2 1 pid
      let n := (im.stripes.map (fun b => (b.map List.length).getD 0)).sum
      let (ue, s) := readCheck .dram 0 at' n a.2
      if ue then (true, markRetried [pid] (heal .dram 0 at' n s)) else (a.1, s)) (false, s)

/-- COMMAND_COMMIT (R229, R240, R264, R413 to R419): the command has ended and nothing of it is outstanding. -/
def commandCommit (l : Nat) (out : StageOut) (s : State) : State :=
  match (tile s l).cmd with
  | none => s
  | some c =>
    if ¬ c.ended ∨ c.failed ∨ ¬ (tile s l).quiet ∨ (tile s l).freeze ≠ [] ∨ ¬ outFits c out then s
    else if (framesGranted c out s).1 = false then (framesGranted c out s).2
    else if (pagesHurt c s).1 then failCommand l (pagesHurt c s).2
    else match operJudge c.req s with
      | (.hurt, s) => failCommand l s
      | (.mismatch, s) => afterCommit (operMismatch l c s)
      | (.clean, s) => afterCommit (afterCommand l (lateDonations (c.part, c.slot) (commitEffects l c out (framesGranted c out s).2)))

/-! ### RM_ registers -/

/-- RM_DECL as it reads (R394). -/
def declOff (off : Nat) : Nat := (off - 0xF000) / 8

/-- A write to RM_DECL (R388): discarded whole when a field would lie outside its range. -/
def declWrite (c : Nat) (d en : Word) (s : State) : State :=
  let w := putBits (declOf s c) d (maskOf 16 48) en
  let steps := fld w 16 16
  if fld w 32 16 = 0 ∨ steps = 0 ∨ 8192 < steps then wdisc s else { s with rm := { s.rm with decl := tabSet s.rm.decl c w } }

/-- Counts and terms of the selected queue; none stand for a queue that was never opened (R394). -/
def selStat (s : State) : QStat := tabGet s.rm.qstat (fld s.rm.qsel 0 16) QStat.init

/-- Pop one entry of RM_SWEVT (R394). -/
def popSwevt (s : State) : Word × State :=
  match s.rm.swevt with
  | w :: r => (w, { s with rm := { s.rm with swevt := r } })
  | [] => (0, s)

/-- Read an RM_ register; none where no register stands (R394). -/
def rmRead (off : Nat) (s : State) : Option (Word × State) :=
  if 0xF000 ≤ off ∧ off < 0xF800 then some (declOf s (declOff off), s)
  else if off = 0xF800 then some (s.rm.qsel, s)
  else if off = 0xF808 then some ((selStat s).wait, s)
  else if off = 0xF810 then some ((selStat s).preempt.setWidth 64, s)
  else if off = 0xF818 then some ((selStat s).bound, s)
  else if 0xF820 ≤ off ∧ off < 0xF840 then some (nth (selStat s).terms ((off - 0xF820) / 8) 0, s)
  else if off = 0xF840 then some (popSwevt s)
  else if off = 0xF848 then some (s.rm.swLost.setWidth 64, { s with rm := { s.rm with swLost := 0 } })
  else if off = 0xF850 then
    some (place s.rm.swOver.toNat 32 32 ||| place s.rm.swCount.toNat 0 32, { s with rm := { s.rm with swOver := 0 } })
  else if off = 0xF858 then
    some (place s.rm.depthFail.toNat 32 32 ||| place s.rm.donated.toNat 0 32, { s with rm := { s.rm with depthFail := 0, donated := 0 } })
  else if 0xF880 ≤ off ∧ off < 0xF900 then
    let p := (off - 0xF880) / 8
    some (place (((part? s p).map (fun d => grantPeriod d.share)).getD 0) 32 11 ||| place ((s.rm.jobs.filter (fun j => j.part == p)).length) 8 12, s)
  else none

/-- Write an RM_ register (R388, R394). -/
def rmWrite (off : Nat) (d en : Word) (s : State) : Option State :=
  if 0xF000 ≤ off ∧ off < 0xF800 then some (declWrite (declOff off) d en s)
  else if off = 0xF800 then some { s with rm := { s.rm with qsel := putBits s.rm.qsel d (maskOf 0 20) en } }
  else match rmRead off s with
    | some _ => some s
    | none => none

/-! ### Logical and physical tiles, TL_ registers -/

/-- Read a TL_ register; none where no register stands (R206, R241, R261). -/
def tlRead (off : Nat) (s : State) : Option (Word × State) :=
  let t := s.tl
  let pair := fun (at' : Nat) (c : BitVec 32) => place at' 32 14 ||| c.setWidth 64
  if 0xA000 ≤ off ∧ off < 0xA200 then
    let l := (off - 0xA000) / 8
    some (place (physOf s l) 0 7 ||| (if t.vacant.getLsbD l then maskOf 15 1 else 0), s)
  else if 0xA200 ≤ off ∧ off < 0xA440 then
    let p := (off - 0xA200) / 8
    some (place (tabGet t.bankOut p 0xFF) 16 8 ||| place (logicalOf s p) 8 8 ||| place (physState s p) 0 3, s)
  else if off = 0xA440 then
    some (place ((List.range 72).filter (fun p => physState s p == 3)).length 16 8 ||| place (freeSpares s).length 8 8 |||
      place (bitsOf t.vacant.toNat 64).length 0 8, s)
  else if off = 0xA448 then some (t.eccCe.setWidth 64, { s with tl := { t with eccCe := 0 } })
  else if off = 0xA450 then some (t.frozen.setWidth 64, { s with tl := { t with frozen := 0 } })
  else if off = 0xA458 then some (pair t.tokErrAt t.tokErr, { s with tl := { t with tokErr := 0 } })
  else if off = 0xA460 then some (t.tokSel, s)
  else if off = 0xA468 then
    let r := tok s (fld t.tokSel 0 14)
    some (place r.owner.toNat 32 16 ||| r.count.setWidth 64, s)
  else if off = 0xA470 then some (BitVec.ofNat 64 (aclk s), s)
  else if off = 0xA478 then some (pair t.clampAt t.clamp, { s with tl := { t with clamp := 0 } })
  else if off = 0xA480 then some (pair t.overrunAt t.overrun, { s with tl := { t with overrun := 0 } })
  else if off = 0xA488 then some (pair t.xpartAt t.xpart, { s with tl := { t with xpart := 0 } })
  else if off = 0xA490 then some (t.nflag, s)
  else none

/-- Write a TL_ register (R206, R241, R261). -/
def tlWrite (off : Nat) (d en : Word) (s : State) : Option State :=
  if off = 0xA460 then some { s with tl := { s.tl with tokSel := putBits s.tl.tokSel d (maskOf 0 14) en } }
  else if off = 0xA490 then some (nflagWrite d en s)
  else match tlRead off s with
    | some _ => some s
    | none => none

/-! ### Meanings -/

def execDispatch (r : DispatchReq) (s : State) : Host.Outcome State Fault Refusal := run s (dispatch r)
def execOperatorCommand (r : DispatchReq) (desc : List Word) (s : State) : Host.Outcome State Fault Refusal :=
  run s (operatorCommand { r with args := desc })
def execCommandCommit (l : BitVec 6) (out : StageOut) (s : State) : Host.Outcome State Fault Refusal := run s (commandCommit l.toNat out)

/-- A read of RM_SWEVT by any source pops one entry (R394). -/
def execSwevtPop (src : Src) (s : State) : Host.Outcome State Fault Refusal := run s (popBy src popSwevt)

def execDeclWrite (c : Byte) (w : RegWr) (s : State) : Host.Outcome State Fault Refusal :=
  run s (whenRun (0xF000 + c.toNat * 8) w (declWrite c.toNat w.data (enMask w.be)))

/-- READMISSION (R368, R390): the non-vacant tiles of a partition became fewer or more; at once, or at the end of a load in progress. -/
def execReadmission (part : BitVec 4) (fewer : Bool) (s : State) : Host.Outcome State Fault Refusal :=
  run s (fun s =>
    if s.si.job.isSome then { s with si := { s.si with retryJudge := s.si.retryJudge ++ [(part.toNat, fewer)] } }
    else reserveFlows (readmit part.toNat fewer s))

end Sys2Proof.Machine
end

