-- ==== Sys2Proof/Machine/Safety.lean ====
section
/-! DEFINITION. The Safety net (15): errors and the units blamed for them, tests and spares, scrubbing, remaps, the repair map, ageing, the SN_
registers. -/

namespace Sys2Proof.Machine

/-! ### Units, tests and spares -/

/-- A unit is retired (R429, R431): logged, counted, and noted for the repair map. -/
def retire (u : Nat × Nat) (s : State) : State :=
  let n := s.sn
  barker 0x0503 1 (unitRef u) (snCount 6 1 { s with sn := { n with
    retired := n.retired ++ [u], toMap := n.toMap ++ [u], hourRetired := n.hourRetired + 1, monthRetired := n.monthRetired + 1 } })

/-- A test failed, or passed a third time within 24 hours: the unit goes to its spare for good, and stays in service where none covers it
(R429, R433). -/
def testFailed (t : UnitTest) (s : State) : State :=
  if t.cls = 1 then retire (1, t.idx) (setPhys t.idx 3 s)
  else if t.cls = 2 then
    if t.cover = some 0xFF then retire (2, t.idx) s else retire (1, t.idx / 32) (setPhys (t.idx / 32) 3 s)
  else if t.cover.isNone then barker 0x0504 2 (unitRef (t.cls, t.idx)) s
  else retire (t.cls, t.idx) s

/-- The unit returns to service: a tile as a free spare (R203, R430). -/
def testPassed (t : UnitTest) (s : State) : State :=
  if t.cls = 1 then useSpare t.idx (setPhys t.idx 1 s)
  else if t.cls = 2 then
    if t.cover = some 0xFF then { s with tl := { s.tl with bankOut := tabDel s.tl.bankOut (t.idx / 32) } }
    else useSpare (t.idx / 32) (setPhys (t.idx / 32) 1 s)
  else useLine s

/-- SELF_TEST_DONE (R429). -/
def selfTestDone (u : Nat × Nat) (pass : Bool) (s : State) : State :=
  match s.sn.tests.find? (fun t => t.cls == u.1 && t.idx == u.2) with
  | none => s
  | some t =>
    if s.sn.dueTests.contains u then s
    else
      let s := { s with sn := { s.sn with tests := s.sn.tests.erase t } }
      if pass then
        let old : List (Nat × Nat × BitVec 64) := s.sn.passes.filter (fun x => decide ((s.now - x.2.2).toNat < dayNs))
        let s := { s with sn := { s.sn with passes := old ++ [(u.1, u.2, s.now)] } }
        let s := barker 0x0502 0 (unitRef u) (snCount 5 1 s)
        if 2 ≤ (old.filter (fun x => x.1 == u.1 && x.2.1 == u.2)).length then testFailed t s else testPassed t s
      else testFailed t s

/-! ### Failing commands -/

/-- INPUT_LOST is logged for data that R422 gives up. -/
def logLost (part queue unit : Nat) (s : State) : State :=
  barker 0x0404 1 { status := cInputLost, part := part, queue := queue, uclass := 0x01, unit := unit } s

/-- The range of a job's committed persistent copy in its tile's scratchpad (R416, R422; log 22). -/
def committedCopy (j : Job) : Nat × Nat := ((if j.parity then j.bspad / 2 else 0), j.bspad / 2)

/-- The job's committed persistent copy holds an uncorrectable word (R422). -/
def copyHurt (s : State) (l : Nat) (j : Job) : Bool :=
  (damageIn s .spad l (committedCopy j).1 (committedCopy j).2).any (·.ue)

/-- A lost committed copy is cleared to zero (R422). -/
def clearCopy (l : Nat) (j : Job) (s : State) : State :=
  let (a, n) := committedCopy j
  heal .spad l a n (setSpad s (Memory.blit s.mem.spad (l * 0x400000 + a) n []))

/-- The Barker entry of a failed command, unless the read that failed it has logged the damage (R427). -/
def logFailure (c : TileCmd) (u : Nat × Nat) (s : State) : State :=
  if c.failed then s else barker 0x0401 1 { unitRef u with part := c.part, queue := c.queue.getD 0xFFFF } s

/-- A command fails for good: its tokens return, it does not run again, its pages end INPUT_LOST (R20, R422). -/
def failLost (l : Nat) (c : TileCmd) (s : State) : State :=
  let s := snCount 0 1 (takeOff l s)
  let s := c.pages.foldl (fun s p => endLost p s) s
  afterCommand l (logLost c.part (c.queue.getD 0xFFFF) l s)

/-- COMMAND_FAIL (R202, R203, R418 to R422, R425, R427): the running command fails, its tokens and banks return, it waits to run again or its pages end;
then the blamed unit is handled. -/
def commandFail (f : FailReport) (s : State) : State :=
  let l := f.tile.toNat
  let u := (f.unit.cls.toNat, f.unit.idx)
  let s := match (tile s l).cmd with
    | none => s
    | some c =>
      let s := logFailure c u s
      let job := job? s (c.part, c.slot)
      let hurt := match job with | some j => c.group.isNone && (f.cause == 3 || copyHurt s l j) | none => false
      if c.group.isNone ∧ (c.tokBad ∨ f.cause = 1) then failLost l c s
      else if hurt then
        match job with
        | some j => failLost l c (clearCopy l j s)
        | none => failCommand l s
      else if f.cause = 2 then failCommand l (markRetried c.pages s)
      else failCommand l s
  let s := if u.1 = 1 then heal .instr l 0 0x40000 s else s
  unitError u (f.spare.map (·.toNat)) (settleTokens s)

/-- MIDWAY_PARITY_CHECK (R191): a frame with a parity error fails the running command, takes the tile out of service and is rewritten from
the structure image. -/
def midwayParity (l : Nat) (bad : Bool) (s : State) : State :=
  if bad ∧ ¬ s.tl.vacant.getLsbD l then
    let u := (1, physOf s l)
    let s := match (tile s l).cmd with
      | some c => failCommand l (logFailure c u s)
      | none => barker 0x0401 1 (unitRef u) s
    unitError u none s
  else s

/-! ### Remaps -/

/-- Bytes of persistent scratchpad that stand on a tile: those of the job that ran last (R202, R373; log 22). -/
def persistOn (s : State) (l : Nat) : Nat := (((sched s l).last.bind (job? s)).map (·.bspad)).getD 0

/-- What a remap does not copy is not preserved (R202, R205; log 19): the scratchpad beyond the persistent bytes holds free values. -/
def freeScratch (l : Nat) (s : State) : State :=
  let n := persistOn s l
  let (bs, s) := freshBytes (0x400000 - n) s
  setSpad s (Memory.writeBytes s.mem.spad (l * 0x400000 + n) bs)

/-- REMAP_DONE (R202): the new map entry applies, a vacant tile is vacant no more, held POSTs are delivered in order. -/
def remapDone (l : Nat) (s : State) : State :=
  match s.tl.remaps.find? (fun r => r.1 == l) with
  | none => s
  | some r =>
    let n := persistOn s l
    let s := freeScratch l s
    let mine := s.tl.held.filter (fun h => h.2.1 / 256 == l)
    let s := { s with
      tl := { s.tl with
        map := tabSet s.tl.map l r.2.2
        vacant := s.tl.vacant &&& ~~~ (1#64 <<< l)
        remaps := s.tl.remaps.erase r
        held := s.tl.held.filter (fun h => h.2.1 / 256 != l) }
      dm := { s.dm with damage := s.dm.damage.filter (fun d => !(d.unit == l && (d.mem == .spad && decide (n ≤ 8 * d.word)))) } }
    mine.foldl (fun s h => landPost h.1 h.2.1 h.2.2 s) s

/-! ### Scrubbing -/

/-- Steps of one scrub pass (R350). -/
def scrubLen : MemKind → Nat
  | .spad => 16384
  | .instr => 1024
  | .stg0 | .stg1 => 262144
  | .aperture | .combining => 147456
  | .dram => 1048576
  | _ => 0

/-- Place of a memory's scrub pointer in the table of pointers. -/
def scrubKey : MemKind → Nat
  | .spad => 0 | .instr => 1 | .stg0 => 2 | .stg1 => 3 | .aperture | .combining => 4 | .dram => 5 | _ => 6

/-- Scrubbing of a memory goes on in the present mode: the tiles' stands in SLEEP, all of it in DEEP_SLEEP and LEAVING, and none starts while
a swap quiesces (R468, R477, R484). -/
def scrubs (m : MemKind) (s : State) : Bool :=
  let st := swapState s
  let tiles := match m with | .spad | .instr => true | _ => false
  decide (st ≠ 2 ∧ st ≠ 3) && (s.pw.mode == modeRun || (s.pw.mode == modeSleep && !tiles))

/-- Damage that one scrub step reads: a line of every tile, a bundle of every tile, one line, one block of every channel (R350). The combining
buffer's 16,384 lines follow the 131,072 of the aperture in one pass. -/
def scrubFinds (s : State) (m : MemKind) (p : Nat) : List Damage :=
  s.dm.damage.filter (fun d =>
    d.mem == m && (match m with
      | .dram => d.word * 64 / 32768 == p
      | .spad | .instr | .stg0 | .stg1 => d.word * 8 / 256 == p
      | _ => false)) ++
  (if scrubKey m = 4 then s.dm.damage.filter (fun d =>
    (d.mem == .aperture && d.word * 8 / 256 == p) || (d.mem == .combining && d.word * 8 / 256 + 131072 == p)) else [])

/-- Rings, text and stage buffers of the aperture keep their damage until it is rewritten; a stage buffer's slot says so (R423). -/
def stageHurt (a : Nat) (s : State) : State :=
  if 0x01900000 ≤ a ∧ a < 0x02000000 then
    let k := (a - 0x01900000) / 0x20000
    let r := stageSlot s k
    if slotBusy r then
      if a < stageBuf k + r.len then s else setSlot k { r with hurt := true } s
    else setSlot k { r with stat := setFld r.stat 8 8 cInputLost } s
  else s

/-- A Carousel page in state 0x01 with a damaged word: its sequence is lost (R422). -/
def carouselHurt (a : Nat) (s : State) : State :=
  if 0x01100000 ≤ a ∧ a < 0x01900000 then
    let x := carSlot s ((a - 0x01100000) / 0x4000)
    if x.state = 1 then
      let e := seqEnt s x.seq
      logLost e.part e.queue 0 (modSeq x.seq (fun e => { e with lost := true }) s)
    else s
  else s

/-- What an uncorrectable word does beside its unit (R422, R423, R424, R427): a Carousel page or stage buffer is hurt, a combining-buffer entry is
dropped, a running command of a damaged instruction memory fails. -/
def scrubUe (d : Damage) (s : State) : State :=
  let byte := d.word * wordSize d.mem
  let s := if d.mem = .aperture then carouselHurt byte (stageHurt byte s) else s
  if d.mem = .instr ∧ (tile s d.unit).cmd.isSome then
    modTile d.unit (fun t => { t with cmd := t.cmd.map (fun c => { c with failed := true }) }) s
  else if d.mem = .instr then heal .instr d.unit byte 8 s
  else if d.mem = .combining then
    match s.hp.comb.find? (fun e => e.slot == byte / 1024) with
    | some e => dropEntry e s
    | none => heal .combining 0 byte 8 s
  else s

/-- Errors in control state (R427): one copy is repaired from the other and counted; with both copies of an item damaged CONTROL_LOST is logged,
a queue's pointers are free values and an entry of the active sequence table is a lost sequence (R422; log 74). -/
def controlStep (hits : List ScrubHit) (s : State) : State :=
  let bad := hits.filter (·.ue)
  ((bad.map (·.word)).dedup).foldl (fun s w =>
    let copies := (((bad.filter (fun h => h.word == w)).map (fun h => h.unit % 2)).dedup).length
    if copies < 2 then snCount 7 1 s
    else if w < 0x10000 then
      let (c, s) := fresh s
      let (r, s) := fresh s
      barker 0x0701 3 { queue := w } (modQueue w (fun q => { q with c := c.setWidth 32, t := (c >>> 32).setWidth 32, rseq := r.setWidth 32 }) s)
    else
      let i := w - 0x10000
      let e := seqEnt s i
      barker 0x0701 3 { part := e.part, queue := e.queue } (modSeq i (fun e => { e with lost := true }) s)) s

/-- SCRUB_STEP (R350 to R352, R424, R427, R428): the words that became damaged, then one step of the memory's scrub reads its line. -/
def scrubStep (m : MemKind) (hits : List ScrubHit) (s0 : State) : State :=
  let s := addDamage m hits s0
  let n := scrubLen m
  if m = .control then controlStep hits s0
  else if n = 0 ∨ ¬ scrubs m s then s
  else
    let p := tabGet s.dm.scrub (scrubKey m) 0
    let ds := scrubFinds s m p
    let s := ds.foldl (fun s d => foundDamage d s) s
    let s := (ds.filter (·.ue)).foldl (fun s d => scrubUe d s) s
    let s := { s with dm := { s.dm with scrub := tabSet s.dm.scrub (scrubKey m) ((p + 1) % n) } }
    if p + 1 = n then
      match m with
      | .dram => { s with dm := { s.dm with dramPass := satAdd s.dm.dramPass 1 } }
      | .stg0 => { s with dm := { s.dm with stgPass := satAdd s.dm.stgPass 1 } }
      | _ => s
    else s

/-- RECORD_REWRITE (R422, R423): a damaged ring record or text is written again from its reservation copy. -/
def recordRewrite (a : Nat) (s : State) : State :=
  if (damageIn s .aperture 0 a 1).any (·.ue) then
    let put := fun (at' : Nat) (bs : Bytes) (s : State) => heal .aperture 0 at' bs.length (setAp s (Memory.writeBytes s.mem.ap at' bs))
    s.dq.rings.foldl (fun s r => r.2.kept.foldl (fun s k =>
      let ra := 0x00100000 + r.1 * 0x8000 + k.idx.toNat % 512 * 64
      let ta := 0x00900000 + k.off
      if ra ≤ a ∧ a < ra + 64 then put ra k.bytes s
      else if ta ≤ a ∧ a < ta + k.text.length then heal .aperture 0 (ta / 8 * 8) (k.text.length + 15) (put ta k.text s)
      else s) s) s
  else s

/-! ### Firmware's work -/

/-- REPAIR_MAP_WRITE (R431): retirements reach the repair map; none is written while a swap quiesces (R468). -/
def repairMapWrite (s : State) : State :=
  if swapState s = 2 ∨ swapState s = 3 then s
  else { s with sn := { s.sn with toMap := [] }, pk := s.pk.setRepair (s.pk.repair ++ s.sn.toMap) }

/-- SPARE_DAILY_TEST (R433): each free spare tile is tested. -/
def spareDailyTest (s : State) : State :=
  (freeSpares s).foldl (fun s p => beginTest (1, p) none (setPhys p 2 s)) s

/-- Fields of SN_AGE and SN_AGE_LIM (R441). -/
def setpoint (s : State) : Nat := fld s.sn.age 32 12
def vMax (s : State) : Nat := fld s.sn.ageLim 32 12
def vMin (s : State) : Nat := fld s.sn.ageLim 16 12
def slackTarget (s : State) : Nat := fld s.sn.ageLim 0 8

/-- A setpoint goes to the regulator, one write at a time; in DEEP_SLEEP and LEAVING it waits for RUN (R499 to R501). -/
def avsWrite (v : Nat) (s : State) : State :=
  if s.pw.mode = modeDeep ∨ s.pw.mode = modeLeaving ∨ s.pw.avs.isSome then { s with sn := { s.sn with plan := s.sn.plan ++ [v] } }
  else { s with pw := { s.pw with req := v, avs := some v } }

/-- A rise or fall of 5 mV (R436). -/
def marginStep (v : Nat) (s : State) : State :=
  barker 0x0601 0 { uclass := 0x08, detail := v } (avsWrite v { s with sn := { s.sn with age := setFld s.sn.age 32 12 v } })

/-- The limit is reached and a rise is needed (R436). -/
def marginCeiling (s : State) : State := barker 0x0602 2 { uclass := 0x08, detail := setpoint s } s

/-- SLACK_SAMPLE (R435, R436, R501): lowest slack of the arena, of the other dies, and the highest Tj. -/
def slackSample (ps others : Int) (tj : Nat) (s : State) : State :=
  let (mv, s) := fresh s
  let sl := (BitVec.ofInt 12 ps).toNat
  let age := setFld (setFld s.sn.age 16 12 sl) 8 8 (max (fld s.sn.age 8 8) tj)
  let th := setFld (setFld s.pw.therm 32 8 tj) 40 8 (max (fld s.pw.therm 40 8) tj)
  let n := s.sn
  let t : Int := slackTarget s
  let low := if ps < t then n.low + 1 else 0
  let lowOther := if others < t then n.lowOther + 1 else 0
  let high := if t + 30 < ps then some (n.high.getD s.now) else none
  let rise := decide (10 ≤ low)
  let fall : Bool := match high with | some h => decide (dayNs ≤ (s.now - h).toNat) | none => false
  let s := { s with
    pw := { s.pw with therm := th, meas := fld mv 0 12 }
    sn := { n with age := age, otherSlack := others, low := if rise then 0 else low, lowOther := if 10 ≤ lowOther then 0 else lowOther,
                   high := if fall then some s.now else high } }
  let s := if s.pw.avs.isNone ∧ s.pw.inForce ≠ setpoint s ∧ (s.pw.mode = modeRun ∨ s.pw.mode = modeSleep) then avsWrite (setpoint s) s else s
  let s := if 10 ≤ lowOther then marginCeiling s else s
  if rise then
    if vMax s ≤ setpoint s then marginCeiling s else marginStep (min (vMax s) (setpoint s + 5)) s
  else if fall ∧ vMin s < setpoint s then marginStep (max (vMin s) (setpoint s - 5)) s
  else s

/-- AGEING_SAMPLE (R437): one hourly sample in package memory, each month a summary, and the forecast; none while a swap quiesces (R468). -/
def ageingSample (s : State) : State :=
  if swapState s = 2 ∨ swapState s = 3 then s
  else
    let n := s.sn
    let hours := s.pk.hours + 1
    let sl := fld n.age 16 12
    let slack : Int := (BitVec.ofNat 12 sl).toInt
    let w := place hours 0 24 ||| place (setpoint s) 24 12 ||| place sl 36 12 ||| place (fld n.age 8 8) 48 8 ||| place (min 255 n.hourRetired) 56 8
    let s := setPm s (Memory.writeWord s.mem.pm (0x3000 + 8 * (hours % 2048)) w)
    let sum := n.monthSum + slack
    let k := n.monthN + 1
    let least := if n.monthN = 0 then slack else min n.monthLeast slack
    let top := max n.monthSet (setpoint s)
    let ended := hours % 730 = 0
    let months := if ended then (s.pk.months ++ [(Int.fdiv sum k, least, top, n.monthRetired)]).drop (s.pk.months.length - 191) else s.pk.months
    let fc := (Config.forecast (months.map (fun m => (m.1, m.2.1, m.2.2.1)))).toNat
    { s with
      pk := { s.pk with hours := hours, months := months }
      sn := { s.sn with
        age := setFld (setFld s.sn.age 48 16 fc) 8 8 (fld s.pw.therm 32 8), hourRetired := 0, monthSum := if ended then 0 else sum,
        monthN := if ended then 0 else k, monthLeast := least, monthSet := if ended then 0 else top,
        monthRetired := if ended then 0 else n.monthRetired } }

/-! ### SN_ registers -/

/-- Read an SN_ register; none where no register stands (R441). -/
def snRead (off : Nat) (s : State) : Option (Word × State) :=
  if 0xFA00 ≤ off ∧ off < 0xFA40 then
    let k := (off - 0xFA00) / 8
    some ((tabGet s.sn.cnt k 0).setWidth 64, { s with sn := { s.sn with cnt := tabSet s.sn.cnt k 0 } })
  else if off = 0xFA40 then some (place s.sn.lost.toNat 32 32 ||| place (if s.sn.wrapped then 1 else 0) 14 1 ||| place s.sn.head.toNat 0 14, s)
  else if off = 0xFA48 then some (s.sn.logSel, s)
  else if 0xFA50 ≤ off ∧ off < 0xFA70 then
    some (nth (tabGet s.sn.log (fld s.sn.logSel 0 14) []) ((off - 0xFA50) / 8) 0, s)
  else if off = 0xFA70 then some (setFld s.sn.age 0 8 (s.sn.tests.length - s.sn.dueTests.length), s)
  else if off = 0xFA78 then some (s.sn.ageLim, s)
  else none

/-- Write an SN_ register (R441). -/
def snWrite (off : Nat) (d en : Word) (s : State) : Option State :=
  if off = 0xFA48 then some { s with sn := { s.sn with logSel := putBits s.sn.logSel d (maskOf 0 14) en } }
  else match snRead off s with
    | some _ => some s
    | none => none

/-! ### Meanings -/

def execCommandFail (f : FailReport) (s : State) : Host.Outcome State Fault Refusal := run s (commandFail f)
def execRemapDone (l : BitVec 6) (s : State) : Host.Outcome State Fault Refusal := run s (remapDone l.toNat)
def execMidwayParityCheck (l : BitVec 6) (_frame : BitVec 9) (bad : Bool) (s : State) : Host.Outcome State Fault Refusal :=
  run s (midwayParity l.toNat bad)
def execSelfTestDone (u : UnitId) (pass : Bool) (s : State) : Host.Outcome State Fault Refusal := run s (selfTestDone (u.cls.toNat, u.idx) pass)
def execScrubStep (m : MemKind) (hits : List ScrubHit) (s : State) : Host.Outcome State Fault Refusal := run s (scrubStep m hits)
def execCeWriteBack (m : MemKind) (s : State) : Host.Outcome State Fault Refusal := run s (fun s => startDue (ceWriteBack m s))
def execRecordRewrite (addr : BitVec 32) (s : State) : Host.Outcome State Fault Refusal := run s (recordRewrite addr.toNat)
def execRepairMapWrite (s : State) : Host.Outcome State Fault Refusal := run s repairMapWrite
def execSpareDailyTest (s : State) : Host.Outcome State Fault Refusal := run s spareDailyTest
def execSlackSample (ps others : Int) (tj : Byte) (s : State) : Host.Outcome State Fault Refusal := run s (slackSample ps others tj.toNat)
def execAgeingSample (s : State) : Host.Outcome State Fault Refusal := run s ageingSample

end Sys2Proof.Machine
end

