-- ==== Sys2Proof/Machine/Power.lean ====
section
/-! DEFINITION. Power modes (17, R481 to R487), reset and rails (18, R493 to R503), the PW_ registers. -/

namespace Sys2Proof.Machine

/-! ### Reset -/

/-- The whole device is reset (R496): every register, queue, SRAM and the timebase; DRAM holds nothing that was written; package memory and the
boot flash keep theirs, and so does the JTAG TAP, which TRST_N resets (R498). Commands that wait come from outside and wait on. -/
def resetDevice (s : State) : State :=
  let r := State.reset
  { r with
    mem := { r.mem with pm := s.mem.pm, flash := s.mem.flash }, pk := s.pk, freeTick := s.freeTick, pending := s.pending
    mg := { r.mg with tlr := s.mg.tlr, ir := s.mg.ir, dr := s.mg.dr, bsr := s.mg.bsr, pins := s.mg.pins } }

/-- PORST_N is asserted for 1 µs or more (R496). -/
def powerOnReset (s : State) : State :=
  let r := resetDevice s
  { r with pw := { r.pw with porst := true, rails := s.pw.rails } }

/-- A monitored rail is below its limit (R494): 0 VDD_ARENA, 1 VDD_DEPOT, 2 VDD_DRAM, 3 VDD_GATE, 4 VDD_AON. -/
def railUndervoltage (k : Nat) (s : State) : State :=
  if 4 < k then s
  else
    let r := resetDevice s
    { r with pw := { r.pw with porst := s.pw.porst, rails := if s.pw.rails.contains k then s.pw.rails else s.pw.rails ++ [k] } }

/-- The reset ends: the boot ROM runs at stage 0x00 with the references present (R451, R472, R496). -/
def released (s : State) : State :=
  if inReset s then s else { s with ck := { s.ck with ready := s.ck.ready ||| maskOf 5 2 } }

/-- PORST_N is released (R451, R496), and boundary scan drives the pins no longer (R521). -/
def porstRelease (s : State) : State :=
  if s.pw.porst then released { s with pw := { s.pw with porst := false }, mg := { s.mg with pins := false } } else s

/-- A rail has been back within its limits for 1 ms (R494). -/
def railRecovery (k : Nat) (s : State) : State :=
  if s.pw.rails.contains k then released { s with pw := { s.pw with rails := s.pw.rails.erase k } } else s

/-- 100 µs after the release of PORST_N (R498). -/
def spiResetRelease (s : State) : State := if inReset s then s else { s with pw := { s.pw with spiReset := false } }

/-! ### SLEEP and DEEP_SLEEP -/

/-- ns spent in a mode that were not read yet: 2 SLEEP, 3 DEEP_SLEEP (R487). -/
def modeNs (s : State) (k : Nat) : Nat := tabGet s.pw.acc k 0 + (if s.pw.mode = k then (s.now - s.pw.since).toNat else 0)

/-- The device enters a mode, and the time in the one before is noted (R481, R487). -/
def enterMode (m : Nat) (s : State) : State :=
  let p := s.pw
  let acc := if p.mode = 2 ∨ p.mode = 3 then tabSet p.acc p.mode (modeNs s p.mode) else p.acc
  { s with pw := { p with mode := m, acc := acc, since := s.now,
                          sleeps := if m = 2 then satAdd p.sleeps 1 else p.sleeps, deeps := if m = 3 then satAdd p.deeps 1 else p.deeps } }

/-- No command runs or is ready on any logical tile, and no remap is in progress (R482). -/
def tilesIdle (s : State) : Bool := s.tl.tiles.all (fun e => e.2.cmd.isNone) && s.rm.ready.isEmpty && s.tl.remaps.isEmpty

/-- SLEEP_ENTRY (R482). -/
def sleepEntry (s : State) : State := if s.pw.mode = modeRun ∧ tilesIdle s then enterMode modeSleep s else s

/-- SLEEP_EXIT (R482). -/
def sleepExit (s : State) : State := if s.pw.mode = modeSleep ∧ ¬ tilesIdle s then enterMode modeRun s else s

/-- A request to the security block is in progress (R461, R465, R468). -/
def securityBusy (s : State) : Bool := swapping s || bitOf s.tr.ownStat 0 || bitOf s.tr.attStat 0 || !s.tr.waiting.isEmpty

/-- The conditions of R483 that hold, by row. -/
def deepConds (s : State) : List Bool :=
  [bitOf s.pw.ctl 63,
   s.dq.queues.all (fun e => e.2.st == .closed),
   s.dm.cmds.isEmpty && s.kv.attends.isEmpty && s.kv.steps.isEmpty && s.pp.pages.all (fun e => e.2.stage != .prep),
   s.si.job.isNone && !(securityBusy s),
   s.dq.busy.isNone && s.hp.slots.all (fun e => !(slotBusy e.2)),
   s.kv.slots.all (fun e => !([1, 2, 3].contains e.2.state)),
   !s.sf.running && !(camOn s),
   s.sn.tests.isEmpty,
   s.hp.comb.isEmpty,
   s.hp.idle.isSome]

/-- PW_STAT.BLOCK (R483, R487). -/
def blockBits (s : State) : Nat :=
  ((List.range 10).zip (deepConds s)).foldl (fun n e => if e.2 then n else n + 2 ^ e.1) 0

/-- Ethernet links go down (R481, R485). -/
def linksDown (s : State) : State :=
  { s with cv := { s.cv with port := s.cv.port.map (fun e => (e.1, setFld e.2 62 1 0)) } }

/-- DEEP_SLEEP_ENTRY (R483, R500): flows return to LISTEN, the clocks go to REFCLK, the PLLs stop, the arena rail goes to its retention
setpoint. -/
def deepEntry (s : State) : State :=
  if s.pw.mode = modeSleep ∧ blockBits s = 0 then
    let s := enterMode modeDeep (linksDown (listenAll s))
    { s with
      ck := { s.ck with sel := 0, ready := s.ck.ready &&& ~~~ maskOf 0 4 }
      pw := { s.pw with selBefore := s.ck.sel, req := s.pw.ret, avs := none, inForce := s.pw.ret } }
  else s

/-- A wake trigger (R484, R500): 1 host port, 2 I3C, 3 JTAG, 4 the hour. LEAVING begins with the arena rail's operating setpoint. -/
def wakeUp (k : Nat) (s : State) : State :=
  if s.pw.mode = modeDeep then
    let s := enterMode modeLeaving s
    { s with pw := { s.pw with wake := k, req := setpoint s, avs := some (setpoint s) } }
  else s

/-- Code of a wake trigger in PW_STAT.WAKE (R487). -/
def wakeCode : WakeTrigger → Nat
  | .hostExit => 1 | .i3cWrite => 2 | .jtagLeaveReset => 3 | .hour => 4

/-- The host port idles (R55). -/
def hostIdleEntry (m : IdleMode) (s : State) : State := { s with hp := { s.hp with idle := some m } }

/-- The host port leaves its idle mode, which is a wake trigger (R55, R484). -/
def hostIdleExit (s : State) : State :=
  if s.hp.idle.isSome then wakeUp 1 { s with hp := { s.hp with idle := none } } else s

/-! ### The arena rail -/

/-- The next setpoint change that waits is written (R501). -/
def nextPlan (s : State) : State :=
  match s.sn.plan with
  | v :: rest => avsWrite v { s with sn := { s.sn with plan := rest } }
  | [] => s

/-- AVS_TRANSITION_DONE (R500, R501). -/
def avsDone (s : State) : State :=
  match s.pw.avs with
  | some v =>
    let s := { s with pw := { s.pw with avs := none, inForce := v } }
    if s.pw.mode = modeLeaving then s else nextPlan s
  | none => s

/-- AVS_TIMEOUT (R501): the setpoint before stays in force. -/
def avsTimeout (s : State) : State :=
  match s.pw.avs with
  | some _ =>
    let e := if s.pw.err = 0xFFFF then s.pw.err else s.pw.err + 1
    let s := { s with pw := { s.pw with avs := none, err := e } }
    if s.pw.mode = modeLeaving then s else nextPlan s
  | none => s

/-! ### Heat -/

/-- Tj is read (R503, R507). -/
def noteTj (tj : Nat) (s : State) : State :=
  { s with pw := { s.pw with therm := setFld (setFld s.pw.therm 32 8 tj) 40 8 (max (fld s.pw.therm 40 8) tj) } }

/-- THERM_WARN (R503): THERM_N is asserted at TJ_WARN and released 5 °C below it. -/
def thermWarn (tj : Nat) (s : State) : State :=
  let s := noteTj tj s
  let w := fld s.pw.therm 48 8
  if w ≤ tj ∧ ¬ bitOf s.pw.therm 0 then
    { s with pw := { s.pw with therm := s.pw.therm ||| 1 }, mg := { s.mg with ibiStat := s.mg.ibiStat ||| maskOf 9 1 } }
  else if tj + 5 ≤ w then { s with pw := { s.pw with therm := s.pw.therm &&& ~~~ 1 } }
  else s

/-- THERMTRIP (R503): at 120 °C all PLLs stop, and no rule describes the device until PORST_N. -/
def thermtrip (tj : Nat) (s : State) : State :=
  let s := noteTj tj s
  if 120 ≤ tj then { s with pw := { s.pw with tripped := true }, ck := { s.ck with ready := s.ck.ready &&& ~~~ maskOf 0 4 } } else s

/-! ### PW_ registers -/

/-- A write to PW_CTL (R487). -/
def pwCtlWrite (src : Src) (d en : Word) (s : State) : State :=
  if ¬ ckSource src then wdisc s
  else { s with pw := { s.pw with ctl := putBits s.pw.ctl d (maskOf 63 1 ||| maskOf 32 16 ||| maskOf 0 16) en } }

/-- A write to PW_THERM (R507). -/
def thermWrite (src : Src) (d en : Word) (s : State) : State :=
  let w := putBits s.pw.therm d (maskOf 48 8) en
  if fld en 48 8 = 0 then s
  else if ¬ ckSource src then wdisc s
  else if fld w 48 8 < 60 ∨ 110 < fld w 48 8 then ckRefuse cDimLimit s
  else { s with pw := { s.pw with therm := w } }

/-- A count of ms or entries that a read clears (R487). -/
def pwCount (k : Nat) (s : State) : Word × State :=
  if k = 0 then (s.pw.sleeps.setWidth 64, { s with pw := { s.pw with sleeps := 0 } })
  else if k = 1 then (s.pw.deeps.setWidth 64, { s with pw := { s.pw with deeps := 0 } })
  else
    let ns := modeNs s k
    ((satAdd 0 (ns / 1000000)).setWidth 64,
      { s with pw := { s.pw with acc := tabSet s.pw.acc k (ns % 1000000), since := if s.pw.mode = k then s.now else s.pw.since } })

/-- Read a PW_ register; none where no register stands (R487, R507). -/
def pwRead (off : Nat) (s : State) : Option (Word × State) :=
  if off = 0xFE00 then some (s.pw.ctl, s)
  else if off = 0xFE08 then some (place (blockBits s) 16 10 ||| place s.pw.wake 8 3 ||| place s.pw.mode 0 3, s)
  else if 0xFE10 ≤ off ∧ off < 0xFE30 then some (pwCount ((off - 0xFE10) / 8) s)
  else if off = 0xFE30 then
    some (place s.pw.ret 40 12 ||| place s.pw.req 28 12 ||| place s.pw.meas 16 12 ||| place s.pw.err.toNat 0 16,
      { s with pw := { s.pw with err := 0 } })
  else if off = 0xFE38 then some (s.pw.therm, s)
  else none

/-- Write a PW_ register (R487, R507). -/
def pwWrite (src : Src) (off : Nat) (d en : Word) (s : State) : Option State :=
  if off = 0xFE00 then some (pwCtlWrite src d en s)
  else if off = 0xFE38 then some (thermWrite src d en s)
  else match pwRead off s with
    | some _ => some s
    | none => none

/-! ### Meanings -/

/-- PORST_N ends what THERMTRIP_N began (R503). -/
def execPowerOnReset (s : State) : Host.Outcome State Fault Refusal := .next (powerOnReset s)
def execRailUndervoltage (rail : BitVec 4) (s : State) : Host.Outcome State Fault Refusal := runHeld s (railUndervoltage rail.toNat)
def execPorstRelease (s : State) : Host.Outcome State Fault Refusal := runHeld s porstRelease
def execRailRecovery (rail : BitVec 4) (s : State) : Host.Outcome State Fault Refusal := runHeld s (railRecovery rail.toNat)
def execSpiResetRelease (s : State) : Host.Outcome State Fault Refusal := runHeld s spiResetRelease
def execPwCtlWrite (w : RegWr) (s : State) : Host.Outcome State Fault Refusal := run s (whenRun 0xFE00 w (pwCtlWrite w.src w.data (enMask w.be)))
def execSleepEntry (s : State) : Host.Outcome State Fault Refusal := run s sleepEntry
def execSleepExit (s : State) : Host.Outcome State Fault Refusal := run s sleepExit
def execDeepSleepEntry (s : State) : Host.Outcome State Fault Refusal := run s deepEntry
def execWake (t : WakeTrigger) (s : State) : Host.Outcome State Fault Refusal := run s (wakeUp (wakeCode t))
def execHourlyWake (s : State) : Host.Outcome State Fault Refusal := run s (wakeUp 4)
def execAvsTransitionDone (s : State) : Host.Outcome State Fault Refusal := run s avsDone
def execAvsTimeout (s : State) : Host.Outcome State Fault Refusal := run s avsTimeout
def execThermWarn (tj : Byte) (s : State) : Host.Outcome State Fault Refusal := run s (thermWarn tj.toNat)
def execThermtrip (tj : Byte) (s : State) : Host.Outcome State Fault Refusal := run s (thermtrip tj.toNat)
def execHostIdleEntry (m : IdleMode) (s : State) : Host.Outcome State Fault Refusal := run s (hostIdleEntry m)
def execHostIdleExit (s : State) : Host.Outcome State Fault Refusal := run s hostIdleExit

end Sys2Proof.Machine
end

