-- ==== Sys2Proof/Machine/Duration.lean ====
section
/-! DEFINITION. Certified duration (07, R237 to R239): the greatest sum of issue cycles and freeze charges over the paths of a routine. Times are
kept in units of 1/16 ns, of which an ACLK has 50. -/

namespace Sys2Proof.Machine

/-- A transfer of the path that is not known to be done: its lane (8 for staging), the token that it posts, when it is done. -/
structure DOut where
  lane : Nat
  tok : Option Nat
  done : Nat

/-- A path so far: ACLK since dispatch arrival, bundles issued, bundle address, times each LOOP was taken, transfers, the end of each lane's
last slot, when the port queue is empty, tokens posted, fills running (buffer, first issue cycle, Q4). -/
structure DPath where
  t : Nat
  ic : Nat
  pc : Nat
  loops : List (Nat × Nat)
  outs : List DOut
  ends : List (Nat × Nat)
  port : Nat
  posts : List Nat
  fills : List (Nat × Nat × Bool)

/-- What D depends on beside the path: the tile, the routine's place, code, proofs and wait bounds, the gap of each lane, the tokens that its
transfers post. -/
structure DRoutine where
  tile : Nat
  entry : Nat
  nb : Nat
  code : Bytes
  proof : Bytes
  waits : List (Nat × Nat)
  gap : Nat → Nat
  own : List Nat

/-- The path waits until a moment (R239: times in ns are rounded up to whole ACLK). -/
def DPath.until (p : DPath) (units : Nat) : DPath := { p with t := max p.t (ceilDiv units 50) }

/-- The time to cross the mesh for B bytes, 11 steps away: (B / 256 + 11) × 1.5625 ns (R233, R239). -/
def travel (bytes : Nat) : Nat := (bytes / 256 + 11) * 25

/-- Room for a transfer on a lane or staging queue of `most`: when it issues, the path having waited for the earliest to be done (R234, R235). -/
def DPath.room (p : DPath) (b lane most : Nat) : Nat × DPath :=
  let busy := p.outs.filter (fun o => o.lane == lane && decide (b * 50 < o.done))
  match busy with
  | o :: r =>
    if most ≤ busy.length then
      let first := r.foldl (fun m x => min m x.done) o.done
      (ceilDiv first 50, p.until first)
    else (b, p)
  | [] => (b, p)

/-- A load-store, transfer or PUT operation of the bundle that issues at ACLK `b` (R233, R235, R236). -/
def DPath.memory (c : DRoutine) (b : Nat) (p : DPath) (x : SlotOp) : DPath :=
  let o := x.op
  if x.opc = 5 then
    let room := p.port - 63 * 200
    let p := if b * 50 < room then p.until room else p
    { p with port := max p.port (max (b * 50) room) + 200 }
  else if x.opc = 6 then
    let lane := o.fieldOf 1 3
    let (at', p) := p.room b lane 8
    let bytes := o.fieldOf 4 5 * 1024
    let ready := at' * 50 + 640 + (if o.flag 0 then travel bytes else 0)
    let slot := max ready (tabGet p.ends lane 0) + 256 * c.gap lane
    { p with ends := tabSet p.ends lane (slot + 256)
             outs := p.outs ++ [⟨lane, if o.flag 9 then some (c.tile * 256 + o.fieldOf 10 8) else none,
                                 slot + 256 + (if o.flag 0 then 0 else travel bytes)⟩] }
  else if x.opc = 7 then
    let (at', p) := p.room b 8 2
    { p with outs := p.outs ++ [⟨8, if o.flag 7 then some (c.tile * 256 + o.fieldOf 8 8) else none, at' * 50 + 1200 * 16⟩] }
  else p

/-- When everything that the path has sent is done (R224, R229). -/
def DPath.allDone (p : DPath) : Nat := p.outs.foldl (fun m o => max m o.done) p.port

/-- The first `n` transfers that post a token give up their post. -/
def takePosts (t : Nat) : Nat → List DOut → List DOut
  | 0, l => l
  | _, [] => []
  | n + 1, o :: r => if o.tok = some t then { o with tok := none } :: takePosts t n r else o :: takePosts t (n + 1) r

/-- A sync operation of the bundle (R239). -/
def DPath.sync (c : DRoutine) (b : Nat) (p : DPath) (x : SlotOp) : DPath :=
  let o := x.op
  let t := o.imm.toNat % 16384
  let far := if t / 256 = c.tile then 0 else 15
  if x.opc = 1 then { p with posts := t :: p.posts }
  else if x.opc = 2 then
    if c.own.contains t then
      let mine := p.outs.filter (fun d => d.tok == some t)
      let k := if o.flag 0 then mine.length else min mine.length (o.imm.toNat / 65536 % 65536)
      let due := ((mine.take k).map (fun d => d.done + 960)).foldl max 0
      { p with t := p.t + ceilDiv (due - b * 50) 50, outs := takePosts t k p.outs }
    else if far = 0 ∧ p.posts.contains t then p
    else { p with t := p.t + far + ceilDiv (tabGet c.waits p.pc 0 * 16) 50 }
  else if x.opc = 3 then { p with t := p.t + far }
  else if x.opc = 4 then p.until p.allDone
  else p

/-- A fill that the bundle starts, in place of one that runs in its buffer (R221). -/
def certFill (ic : Nat) (fs : List (Nat × Nat × Bool)) (x : SlotOp) : List (Nat × Nat × Bool) :=
  if x.opc = 2 ∨ x.opc = 3 then
    let buf := if x.opc = 3 then 2 else if x.op.flag 1 then 1 else 0
    fs.filter (fun f => f.1 != buf) ++ [(buf, ic, x.opc == 2 && x.op.flag 4)]
  else fs

/-- Whether a fill reads a line in an issue cycle (R219). -/
def fillReads (ic : Nat) (f : Nat × Nat × Bool) : Bool :=
  let i := ic - f.2.1
  if f.1 = 2 then decide (i < 2) else decide (i < 16) && (!f.2.2 || i % 2 == 0)

/-- One bundle: the path after its issue cycle and its freeze charges (R239). -/
def DPath.bundle (c : DRoutine) (p : DPath) : DPath :=
  let ops := bundleOps c.code (p.pc - c.entry)
  let at' := fun (lo hi : Nat) => ops.filter (fun x => decide (lo ≤ x.slot ∧ x.slot ≤ hi))
  let fills := ((at' 8 9).foldl (certFill p.ic) p.fills).filter (fun f => decide (p.ic < f.2.1 + 16))
  let local' := ((at' 10 12).filter (fun x => decide (x.opc ≤ 4))).length + (fills.filter (fillReads p.ic)).length
  let proven := (nth c.proof ((p.pc - c.entry) / 8) 0).getLsbD ((p.pc - c.entry) % 8)
  let bank := if proven ∨ local' ≤ 2 then 0 else (local' + 1) / 2 - 1
  let b := p.t
  let q := (at' 10 12).foldl (DPath.memory c b) { p with t := b + 1 + bank, fills := fills }
  (at' 14 14).foldl (DPath.sync c b) q

/-- The path goes to a bundle: a LOOP whose body it leaves is counted anew when its body is entered again (R227, R239). -/
def DPath.goTo (c : DRoutine) (p : DPath) (pc : Nat) : DPath :=
  { p with
    pc := pc
    loops := p.loops.filter (fun e => decide ((slotOp c.code (e.1 - c.entry) 15).op.imm.toNat % 1024 ≤ pc ∧ pc ≤ e.1)) }

/-- Where a path goes after the bundle: it ends with a duration, or goes on (R226 to R229). A LOOP is taken as often as its bound. -/
def DPath.next (c : DRoutine) (p : DPath) : List (Nat ⊕ DPath) :=
  let q := { p.bundle c with ic := p.ic + 1 }
  let go := fun (pc : Nat) => (Sum.inr (q.goTo c pc) : Nat ⊕ DPath)
  match (bundleOps c.code (p.pc - c.entry)).find? (fun x => x.slot == 15) with
  | none => [go (p.pc + 1)]
  | some x =>
    let tgt := x.op.imm.toNat % 1024
    let done := (Sum.inl (max q.t (ceilDiv q.allDone 50) + 32) : Nat ⊕ DPath)
    if x.opc = 2 then
      let k := tabGet p.loops p.pc 0
      if k < x.op.imm.toNat / 65536 % 65536 then [Sum.inr ({ q with loops := tabSet p.loops p.pc (k + 1) }.goTo c tgt)]
      else [go (p.pc + 1)]
    else
      let taken := if x.opc = 1 then go tgt else done
      if x.op.pred = 0 then [taken] else [taken, go (p.pc + 1)]

/-- The greatest duration over the paths from a point, none where one has no end within the longest duration allowed (R238, R239). -/
def longest (c : DRoutine) : Nat → DPath → Option Nat
  | 0, _ => none
  | n + 1, p =>
    if 20480 < p.t ∨ p.pc < c.entry ∨ c.entry + c.nb ≤ p.pc then none
    else (p.next c).foldl (fun m x =>
      match m, (match x with | .inl d => some d | .inr q => longest c n q) with
      | some a, some d => some (max a d)
      | _, _ => none) (some 0)

/-- D of a routine on one logical tile; none where it exceeds 20,480 ACLK on some path (R238, R239). -/
def durationOn (c : DRoutine) : Option Nat :=
  longest c 20481 { t := 24, ic := 0, pc := c.entry, loops := [], outs := [], ends := [], port := 0, posts := [], fills := [] }

end Sys2Proof.Machine
end

