-- ==== Sys2Proof/Machine/Crypto.lean ====
section
/-! DEFINITION. The sponge functions of FIPS 202: SHA3-256, which R446 to R467 and R509 use, and the SHAKE functions that ML-DSA-44 uses. -/

namespace Sys2Proof.Machine

/-- The state of the permutation: five planes of five lanes, lane x of plane y. -/
abbrev Sponge := List (List (BitVec 64))

/-- A lane, coordinates modulo 5. -/
def Sponge.lane (a : Sponge) (x y : Nat) : BitVec 64 := nth (nth a (y % 5) []) (x % 5) 0

/-- The state whose lanes a function gives. -/
def Sponge.of (f : Nat → Nat → BitVec 64) : Sponge := (List.range 5).map (fun y => (List.range 5).map (fun x => f x y))

/-- The shift register behind the round constants, `n` steps after its start. -/
def iotaLfsr : Nat → Nat
  | 0 => 1
  | n + 1 => let r := 2 * iotaLfsr n; if 256 ≤ r then r ^^^ 0x171 else r

/-- The constant of round `i`: bit 2^j - 1 is output 7 i + j of the shift register. -/
def iotaConst (i : Nat) : BitVec 64 :=
  BitVec.ofNat 64 ((List.range 7).map (fun j => iotaLfsr (7 * i + j) % 2 * 2 ^ (2 ^ j - 1))).sum

/-- The 24 round constants. -/
def iotaConsts : List (BitVec 64) := (List.range 24).map iotaConst

/-- Rotations met on the walk from lane (x, y) through (y, 2x + 3y), as ((x, y), rotation), the first rotation being t (t + 1) / 2. -/
def rhoWalk : Nat → Nat → Nat → Nat → List ((Nat × Nat) × Nat)
  | 0, _, _, _ => []
  | n + 1, t, x, y => ((x, y), t * (t + 1) / 2 % 64) :: rhoWalk n (t + 1) y ((2 * x + 3 * y) % 5)

/-- Rotation of each lane; lane (0, 0) is not rotated. -/
def rhoTable : List ((Nat × Nat) × Nat) := ((0, 0), 0) :: rhoWalk 24 1 1 0

/-- The column parities that each lane takes up. -/
def Sponge.theta (a : Sponge) : Sponge :=
  let par := (List.range 5).map (fun x => (List.range 5).foldl (fun p y => p ^^^ a.lane x y) 0)
  Sponge.of (fun x y => a.lane x y ^^^ nth par ((x + 4) % 5) 0 ^^^ (nth par ((x + 1) % 5) 0).rotateLeft 1)

/-- Lanes rotated and moved: lane (x, y) comes from lane (x + 3y, x). -/
def Sponge.rhoPi (a : Sponge) : Sponge :=
  Sponge.of (fun x y =>
    let src := ((x + 3 * y) % 5, x)
    (a.lane src.1 src.2).rotateLeft (((rhoTable.find? (fun e => e.1 == src)).map (·.2)).getD 0))

/-- The nonlinear step on each plane. -/
def Sponge.chi (a : Sponge) : Sponge := Sponge.of (fun x y => a.lane x y ^^^ (a.lane (x + 2) y &&& ~~~ a.lane (x + 1) y))

/-- The permutation. -/
def Sponge.permute (a : Sponge) : Sponge :=
  iotaConsts.foldl (fun a rc =>
    let b := a.theta.rhoPi.chi
    Sponge.of (fun x y => if x = 0 ∧ y = 0 then b.lane 0 0 ^^^ rc else b.lane x y)) a

/-- The first `rate` bytes of the state. -/
def Sponge.bytes (a : Sponge) (rate : Nat) : Bytes := (a.flatMap (fun p => p.flatMap (fun w => leBytes 8 w.toNat))).take rate

/-- Take up `n` blocks of `rate` bytes. -/
def Sponge.absorb (rate : Nat) : Nat → Bytes → Sponge → Sponge
  | 0, _, a => a
  | n + 1, m, a =>
    let blk := m.take rate
    Sponge.absorb rate n (m.drop rate) (Sponge.permute (Sponge.of (fun x y => a.lane x y ^^^ BitVec.ofNat 64 (leAt blk (8 * (5 * y + x)) 8))))

/-- Give `n` blocks of `rate` bytes. -/
def Sponge.squeeze (rate : Nat) : Nat → Sponge → Bytes
  | 0, _ => []
  | n + 1, a => a.bytes rate ++ Sponge.squeeze rate n a.permute

/-- `n` bytes of the sponge over a message, with the bits that part the functions of FIPS 202 (0x06 SHA3, 0x1F SHAKE). -/
def spongeHash (rate part : Nat) (m : Bytes) (n : Nat) : Bytes :=
  let fill := rate - m.length % rate
  let tail := (List.range fill).map (fun i => BitVec.ofNat 8 ((if i = 0 then part else 0) + (if i + 1 = fill then 0x80 else 0)))
  ((Sponge.absorb rate ((m.length + fill) / rate) (m ++ tail) (Sponge.of (fun _ _ => 0))).squeeze rate (ceilDiv n rate)).take n

/-- SHA3-256. -/
def sha3 (m : Bytes) : Bytes := spongeHash 136 0x06 m 32

/-- SHAKE128 and SHAKE256. -/
def shake128 (m : Bytes) (n : Nat) : Bytes := spongeHash 168 0x1F m n
def shake256 (m : Bytes) (n : Nat) : Bytes := spongeHash 136 0x1F m n

/-- ASCII bytes of a label (R446). -/
def ascii (s : String) : Bytes := s.toList.map (fun c => BitVec.ofNat 8 c.toNat)

end Sys2Proof.Machine
end

