-- ==== Sys2Proof/Machine/MlDsa.lean ====
section
/-! DEFINITION. ML-DSA-44 of FIPS 204 with the empty context, which R359, R446, R447, R459, R460 and R467 name: key generation from a seed,
signing, verification. The rejection loops take the number of tries that FIPS 204 allows them to be cut at, or more (log 13). -/

namespace Sys2Proof.Machine

/-- A polynomial: 256 coefficients. -/
abbrev Poly := List Int

namespace MlDsa

def q : Int := 8380417
def gamma1 : Int := 131072
def gamma2 : Int := 95232

/-- The representative of least size, in (-a/2, a/2]. -/
def centred (x a : Int) : Int := if a < 2 * (x % a) then x % a - a else x % a

def polyAdd (a b : Poly) : Poly := (a.zip b).map (fun e => (e.1 + e.2) % q)
def polySub (a b : Poly) : Poly := (a.zip b).map (fun e => (e.1 - e.2) % q)

/-- Coefficient-wise product, the product of the ring under the transform. -/
def polyMul (a b : Poly) : Poly := (a.zip b).map (fun e => e.1 * e.2 % q)

/-- Eight bits in the opposite order. -/
def brv8 (m : Nat) : Nat := ((List.range 8).map (fun i => m / 2 ^ i % 2 * 2 ^ (7 - i))).sum

/-- The root of unity of node `m` of the transform; the roots' inverses are the powers that complete 512. -/
def zeta (m : Nat) : Int := ((1753 ^ brv8 m % 8380417 : Nat) : Int)
def zetaInv (m : Nat) : Int := ((1753 ^ (512 - brv8 m) % 8380417 : Nat) : Int)

/-- The transform from a node down, over 2^n coefficients: the halves a + z b and a - z b go to the two nodes below. -/
def nttNode : Nat → Nat → Poly → Poly
  | 0, _, w => w
  | n + 1, m, w =>
    let a := w.take (2 ^ n)
    let b := (w.drop (2 ^ n)).map (· * zeta m % q)
    nttNode n (2 * m) (polyAdd a b) ++ nttNode n (2 * m + 1) (polySub a b)

/-- Its inverse but for the factor 2^n. -/
def invNode : Nat → Nat → Poly → Poly
  | 0, _, w => w
  | n + 1, m, w =>
    let a := invNode n (2 * m) (w.take (2 ^ n))
    let b := invNode n (2 * m + 1) (w.drop (2 ^ n))
    polyAdd a b ++ (polySub a b).map (· * zetaInv m % q)

def ntt (w : Poly) : Poly := nttNode 8 1 w
def invNtt (w : Poly) : Poly := (invNode 8 1 w).map (· * 8347681 % q)

/-- Numbers of `w` bits in bytes, the least first, and back. -/
def pack (w : Nat) (l : List Nat) : Bytes := leBytes (l.length * w / 8) (l.foldr (fun v a => v % 2 ^ w + 2 ^ w * a) 0)
def unpack (w : Nat) (b : Bytes) : List Nat := let n := leNat b; (List.range (b.length * 8 / w)).map (fun i => n / 2 ^ (w * i) % 2 ^ w)

/-- A coefficient for each three bytes that give one below q. -/
def coeffs3 : Bytes → Poly
  | a :: b :: c :: r => let z := c.toNat % 128 * 65536 + b.toNat * 256 + a.toNat; if z < 8380417 then (z : Int) :: coeffs3 r else coeffs3 r
  | _ => []

/-- Coefficients of -2 to 2 from half bytes. -/
def coeffs2 (b : Bytes) : Poly :=
  (b.flatMap (fun x => [x.toNat % 16, x.toNat / 16])).filterMap (fun v => if v < 15 then some (2 - ((v % 5 : Nat) : Int)) else none)

/-- The matrix of a public seed, under the transform: row r, column s. -/
def expandA (rho : Bytes) : List (List Poly) :=
  (List.range 4).map (fun r => (List.range 4).map (fun s =>
    (coeffs3 (shake128 (rho ++ [BitVec.ofNat 8 s, BitVec.ofNat 8 r]) 1008)).take 256))

/-- A short secret polynomial. -/
def expandS (rho : Bytes) (i : Nat) : Poly := (coeffs2 (shake256 (rho ++ leBytes 2 i) 544)).take 256

/-- A masking polynomial. -/
def expandMask (rho : Bytes) (i : Nat) : Poly := (unpack 18 (shake256 (rho ++ leBytes 2 i) 576)).map (fun v => gamma1 - (v : Int))

/-- Place signs at positions drawn from bytes: for the positions i still to do, the first byte that is at most i is taken. -/
def ballStep : Bytes → List Nat → List Bool → Poly → Poly
  | [], _, _, c => c
  | b :: r, i :: is, sg :: sgs, c =>
    if i < b.toNat then ballStep r (i :: is) (sg :: sgs) c
    else ballStep r is sgs ((c.set i (nth c b.toNat 0)).set b.toNat (if sg then -1 else 1))
  | _ :: _, _, _, c => c

/-- The challenge polynomial of a hash: 39 coefficients of 1 or -1. -/
def sampleInBall (h : Bytes) : Poly :=
  let b := shake256 h 408
  let signs := leNat (b.take 8)
  ballStep (b.drop 8) ((List.range 39).map (217 + ·)) ((List.range 39).map signs.testBit) (List.replicate 256 0)

/-- High and low part of a coefficient about multiples of 2^13. -/
def power2Round (r : Int) : Int × Int := let lo := centred (r % q) 8192; ((r % q - lo) / 8192, lo)

/-- High and low part about multiples of 2 gamma2. -/
def decompose (r : Int) : Int × Int :=
  let lo := centred (r % q) (2 * gamma2)
  if r % q - lo = q - 1 then (0, lo - 1) else ((r % q - lo) / (2 * gamma2), lo)

def useHint (h : Bool) (r : Int) : Int :=
  let (hi, lo) := decompose r
  if h then (if 0 < lo then (hi + 1) % 44 else (hi - 1) % 44) else hi

/-- Every coefficient lies below a bound in size. -/
def small (b : Int) (p : Poly) : Bool := p.all (fun x => decide (((centred x q).natAbs : Int) < b))

/-- The hints as 84 bytes: positions, then where each polynomial's positions end. -/
def packHint (h : List (List Bool)) : Bytes :=
  let pos := h.map (fun p => (List.range 256).filter (fun i => nth p i false))
  let all := pos.flatMap id
  ((all ++ List.replicate (80 - all.length) 0) ++ (List.range 4).map (fun i => ((pos.take (i + 1)).map List.length).sum)).map (BitVec.ofNat 8)

/-- The hints of 84 bytes; none where the bytes are not those of any. -/
def unpackHint (b : Bytes) : Option (List (List Bool)) :=
  let at' := fun i => (nth b i 0).toNat
  let ends := 0 :: (List.range 4).map (fun i => at' (80 + i))
  let ok := (List.range 4).all (fun i =>
    let lo := nth ends i 0
    let hi := nth ends (i + 1) 0
    decide (lo ≤ hi ∧ hi ≤ 80) && (List.range (hi - lo - 1)).all (fun k => decide (at' (lo + k) < at' (lo + k + 1))))
  let rest := (List.range 80).all (fun i => decide (i < nth ends 4 0) || at' i == 0)
  if ok && rest then
    some ((List.range 4).map (fun i => (List.range 256).map (fun j =>
      (List.range (nth ends (i + 1) 0 - nth ends i 0)).any (fun k => at' (nth ends i 0 + k) == j))))
  else none

/-- Row of the matrix times a vector, all under the transform. -/
def dot (row : List Poly) (v : List Poly) : Poly := (row.zip v).foldl (fun a e => polyAdd a (polyMul e.1 e.2)) (List.replicate 256 0)

/-- The hash that binds the commitment: of mu and the high parts. -/
def commitHash (mu : Bytes) (w1 : List Poly) : Bytes := shake256 (mu ++ w1.flatMap (fun p => pack 6 (p.map Int.toNat))) 32

/-- The hash of a message under a public key, with the empty context. -/
def muOf (pk msg : Bytes) : Bytes := shake256 (shake256 pk 64 ++ [0, 0] ++ msg) 64

/-- A key pair: public seed, secret vectors, low part of t, the key of the masks, the public key. -/
structure Keys where
  rho : Bytes
  s1 : List Poly
  s2 : List Poly
  t0 : List Poly
  k : Bytes
  pk : Bytes

/-- Key generation from a seed. -/
def keyGen (xi : Bytes) : Keys :=
  let h := shake256 (xi ++ [4, 4]) 128
  let rho := h.take 32
  let s1 := (List.range 4).map (expandS ((h.drop 32).take 64))
  let s2 := (List.range 4).map (fun i => expandS ((h.drop 32).take 64) (4 + i))
  let hat := s1.map ntt
  let t := ((expandA rho).zip s2).map (fun e => (polyAdd (invNtt (dot e.1 hat)) e.2).map power2Round)
  { rho := rho, s1 := s1, s2 := s2, t0 := t.map (·.map (·.2)), k := (h.drop 96).take 32
    pk := rho ++ t.flatMap (fun p => pack 10 (p.map (fun e => e.1.toNat))) }

/-- One try at a signature from a count on; none where the try is rejected. -/
def trySign (x : Keys) (mu mask : Bytes) (kappa : Nat) : Option Bytes :=
  let y := (List.range 4).map (fun i => expandMask mask (kappa + i))
  let w := (expandA x.rho).map (fun row => invNtt (dot row (y.map ntt)))
  let ch := commitHash mu (w.map (·.map (fun r => (decompose r).1)))
  let c := ntt (sampleInBall ch)
  let times := fun (p : Poly) => invNtt (polyMul c (ntt p))
  let z := (y.zip x.s1).map (fun e => polyAdd e.1 (times e.2))
  let r := (w.zip x.s2).map (fun e => polySub e.1 (times e.2))
  let ct0 := x.t0.map times
  let hint := (r.zip ct0).map (fun e => (e.1.zip (polyAdd e.1 e.2)).map (fun v => (decompose v.2).1 != (decompose v.1).1))
  let low := r.all (fun p => p.all (fun v => decide (((decompose v).2.natAbs : Int) < gamma2 - 78)))
  if z.all (small (gamma1 - 78)) && low && ct0.all (small gamma2) && decide ((hint.map (fun p => p.countP id)).sum ≤ 80) then
    some (ch ++ z.flatMap (fun p => pack 18 (p.map (fun v => (gamma1 - centred v q).toNat))) ++ packHint hint)
  else none

/-- Tries until one is not rejected. -/
def signLoop (x : Keys) (mu mask : Bytes) : Nat → Nat → Bytes
  | 0, _ => []
  | n + 1, kappa => match trySign x mu mask kappa with
    | some sg => sg
    | none => signLoop x mu mask n (kappa + 4)

/-- A signature over a message, with the 32 bytes of randomness that FIPS 204 leaves to the signer. -/
def sign (xi msg rnd : Bytes) : Bytes :=
  let x := keyGen xi
  let mu := muOf x.pk msg
  signLoop x mu (shake256 (x.k ++ rnd ++ mu) 64) 1024 0

/-- A signature of 2,420 bytes verifies over a message under a public key of 1,312 bytes. -/
def verify (pk msg sg : Bytes) : Bool :=
  let rho := pk.take 32
  let t1 := (List.range 4).map (fun i => (unpack 10 ((pk.drop (32 + 320 * i)).take 320)).map (fun v => (v : Int) * 8192))
  let ch := sg.take 32
  let z := (List.range 4).map (fun i => (unpack 18 ((sg.drop (32 + 576 * i)).take 576)).map (fun v => gamma1 - (v : Int)))
  match unpackHint (sg.drop 2336) with
  | none => false
  | some h =>
    let c := ntt (sampleInBall ch)
    let w := ((expandA rho).zip t1).map (fun e => invNtt (polySub (dot e.1 (z.map ntt)) (polyMul c (ntt e.2))))
    let w1 := (h.zip w).map (fun e => (e.1.zip e.2).map (fun v => useHint v.1 v.2))
    pk.length == 1312 && sg.length == 2420 && z.all (small (gamma1 - 78)) && commitHash (muOf pk msg) w1 == ch

end MlDsa

end Sys2Proof.Machine
end

