-- ==== Sys2Proof/Machine/Image.lean ====
section
/-! DEFINITION. The bytes of a structure image (12): header, directory, sections, the configuration they give, and checks 1 to 14 of R358. -/

namespace Sys2Proof.Machine

/-! ### Layout -/

/-- A section as the directory gives it (R356). -/
structure Sect where
  idx : Nat
  ty : Nat
  part : Nat
  off : Nat
  size : Nat
  bytes : Bytes

/-- Header fields (R355). -/
def siLength (b : Bytes) : Nat := leAt b 8 4
def siNsect (b : Bytes) : Nat := leAt b 0x0C 2
def siFlags (b : Bytes) : Word := BitVec.ofNat 64 (leAt b 0x0C 4)
def siSigned (b : Bytes) : Bool := bitOf (siFlags b) 16
def siWhole (b : Bytes) : Bool := !(bitOf (siFlags b) 17)
def siPart (b : Bytes) : Nat := fld (siFlags b) 18 4
def siId (b : Bytes) : Nat := leAt b 0x10 4
def siVer (b : Bytes) : Nat := leAt b 0x14 4
def siSvn (b : Bytes) : Nat := leAt b 0x18 2

/-- The sections in directory order. -/
def sectsOf (b : Bytes) : List Sect :=
  if 1024 < siNsect b then []
  else (List.range (siNsect b)).map (fun i =>
    let e := 0x40 + 16 * i
    let off := leAt b (e + 4) 4
    let n := leAt b (e + 8) 4
    { idx := i, ty := leAt b e 2, part := leAt b (e + 2) 1, off := off, size := n, bytes := (b.drop off).take n })

/-- Word i of a section. -/
def Sect.word (x : Sect) (i : Nat) : Word := BitVec.ofNat 64 (leAt x.bytes (8 * i) 8)

/-- Bytes of a routine section before the padding in front of its bundles, and where the bundles begin (R363). -/
def Sect.nb (x : Sect) : Nat := fld (x.word 0) 32 11
def Sect.ntok (x : Sect) : Nat := fld (x.word 2) 40 8
def Sect.nwait (x : Sect) : Nat := fld (x.word 2) 48 8
def Sect.nlane (x : Sect) : Nat := fld (x.word 2) 56 8
def Sect.laneOff (x : Sect) : Nat := 0x20 + 4 * x.ntok
def Sect.waitOff (x : Sect) : Nat := x.laneOff + 4 * x.nlane
def Sect.proofOff (x : Sect) : Nat := x.waitOff + 8 * x.nwait
def Sect.codeOff (x : Sect) : Nat := ceilDiv (x.proofOff + 8 * ceilDiv x.nb 64) 256 * 256

/-- The class entries of a pipeline program, each with the templates that follow it, and whether the bytes end with the last (R366). -/
def classEntries : Nat → Bytes → List (Bytes × List Bytes) × Bool
  | 0, b => ([], b.isEmpty)
  | f + 1, b =>
    if b.isEmpty then ([], true)
    else
      let n := leAt b 0x0C 2
      if b.length < 64 + 112 * n then ([], false)
      else
        let (r, ok) := classEntries f (b.drop (64 + 112 * n))
        ((b.take 64, (List.range n).map (fun k => (b.drop (64 + 112 * k)).take 112)) :: r, ok)

/-- The size of a section matches its contents (R358 check 3). -/
def Sect.sizeOk (x : Sect) : Bool :=
  let known := fun (k : Nat) => match Config.siSection x.ty x.bytes with
    | some l => if k = 0 then l.length % 6 == 0 else l.length == k
    | none => false
  match x.ty with
  | 0x0001 => x.size == 512
  | 0x0002 => known 4
  | 0x0003 => x.size == 8192
  | 0x0004 => x.size % 8 == 0
  | 0x0005 => known 96
  | 0x0006 => known 0
  | 0x0010 => decide (0x20 ≤ x.size ∧ 1 ≤ x.nb ∧ x.nb ≤ 1024) && x.size == x.codeOff + 256 * x.nb
  | 0x0011 => x.size == 8 + 256 + 384 * 512
  | 0x0012 => x.size % 16 == 0
  | 0x0013 => (classEntries 256 x.bytes).2
  | _ => true

/-- Section types and whether each is device-wide (R356). -/
def sectTypes : List (Nat × Bool) :=
  [(0x0001, true), (0x0002, true), (0x0003, true), (0x0004, false), (0x0005, true), (0x0006, false), (0x0010, false), (0x0011, false),
   (0x0012, false), (0x0013, false)]

/-! ### The configuration an image gives -/

/-- Entry p of the partition table (R360). -/
def partEntry (x : Sect) (p : Nat) : Bool × PartDef :=
  let w := fun i => x.word (4 * p + i)
  (bitOf (w 3) 32,
   { tiles := w 0, pixq := fld (w 1) 0 32, slice := fld (w 1) 32 16, share := fld (w 1) 48 16, dramBase := fld (w 2) 0 16,
     dramSize := fld (w 2) 16 16, stgBase := (fld (w 2) 32 16, fld (w 3) 0 16), stgSize := (fld (w 2) 48 16, fld (w 3) 16 16) })

/-- The claims of a section: resource code and owner (R361). -/
def sectClaims (x : Sect) : List (Nat × Nat) := (List.range (x.size / 8)).map (fun i => (fld (x.word i) 0 32, fld (x.word i) 32 8))

/-- The positions of a calendar section that have an owner (R336). -/
def sectCal (x : Sect) : List (Nat × Nat) :=
  ((List.range 4096).map (fun i => (i, leAt x.bytes (2 * i) 2))).filter (fun e => e.2 != 0)

/-- The routine of a section (R363). -/
def sectRoutine (x : Sect) : Routine :=
  { part := x.part, id := fld (x.word 0) 0 16, entry := fld (x.word 0) 16 10, nb := x.nb, tiles := x.word 1, bspad := fld (x.word 2) 0 32,
    live := fld (x.word 2) 32 2, d := fld (x.word 3) 0 32,
    toks := (List.range x.ntok).map (fun i => leAt x.bytes (0x20 + 4 * i) 4 % 16384)
    lanes := (List.range x.nlane).map (fun i => (leAt x.bytes (x.laneOff + 4 * i) 4 % 8, leAt x.bytes (x.laneOff + 4 * i) 4 / 65536))
    waits := (List.range x.nwait).map (fun i => (leAt x.bytes (x.waitOff + 8 * i) 8 % 1024, leAt x.bytes (x.waitOff + 8 * i) 8 / 2 ^ 32))
    proof := (x.bytes.drop x.proofOff).take (ceilDiv x.nb 8)
    code := (x.bytes.drop x.codeOff).take (256 * x.nb) }

/-- The Midway configuration of a section (R364). -/
def sectMidway (x : Sect) : MidwayDef :=
  let w := fun i => leAt x.bytes (8 + 4 * i) 4
  { part := x.part, tiles := x.word 0, lat := (List.range 64).map (fun i => w i % 32), cells := (List.range 64).map (fun i => w i / 256 % 256),
    frames := Memory.cells 0 (x.bytes.drop 264) }

/-- Byte o of entry i of a route table (R365). -/
def routeAt (x : Sect) (i o n : Nat) : Nat := leAt x.bytes (16 * i + o) n

/-- The stage entries of a route table. -/
def sectRoutes (x : Sect) : List StageRoute :=
  ((List.range (x.size / 16)).filter (fun i => routeAt x i 0 1 == 1)).map (fun i =>
    { part := x.part, cls := routeAt x i 1 1, stage := routeAt x i 2 1, pos := routeAt x i 3 1, routine := routeAt x i 4 2,
      tiles := BitVec.ofNat 64 (routeAt x i 8 8) })

/-- The chain entries of a route table. -/
def sectChains (x : Sect) : List ChainRoute :=
  ((List.range (x.size / 16)).filter (fun i => routeAt x i 0 1 == 2)).map (fun i =>
    { part := x.part, cls := routeAt x i 1 1, prod := routeAt x i 2 1, cons := routeAt x i 3 1, inTok := routeAt x i 4 2,
      freeTok := routeAt x i 6 2, ringB := routeAt x i 8 2, kh := routeAt x i 10 1 })

/-- A class of the pipeline program (R366). -/
def classDef (e : Bytes × List Bytes) : ClassDef :=
  let w := fun (i : Nat) => BitVec.ofNat 64 (leAt e.1 (8 * i) 8)
  { cls := fld (w 0) 0 8, part := fld (w 0) 8 4, prio := fld (w 0) 12 4, deadline := fld (w 0) 16 16, batch := fld (w 0) 32 8,
    dec := fld (w 0) 40 4, reach := fld (w 0) 48 8, fallback := fld (w 1) 0 16, dramShare := fld (w 1) 16 16, ppA := w 2, ppB := w 3,
    tpls := e.2 }

/-- The classes of a section. -/
def sectClasses (x : Sect) : List ClassDef := (classEntries 256 x.bytes).1.map classDef

/-- The fields of a section whose layout the spec does not give (log 27). -/
def sectFields (x : Sect) : List Nat := (Config.siSection x.ty x.bytes).getD []

/-- The decoders of a section (R289). -/
def sectDecs (x : Sect) : List DecDef :=
  let l := sectFields x
  (List.range (l.length / 6)).map (fun i =>
    let f := fun k => nth l (6 * i + k) 0
    { part := x.part, num := f 0, layers := f 1, kvh := f 2, qrows := f 3, scale := BitVec.ofNat 32 (f 4), listMax := f 5 })

/-- The pools of a section (R292, R297). -/
def sectPools (x : Sect) : List (Nat × PoolDef) :=
  let l := sectFields x
  (List.range 16).map (fun p =>
    let f := fun k => nth l (6 * p + k) 0
    (p, { l := f 0, dramRuns := f 1, stg := (f 2, f 3), base := f 4, count := f 5 }))

/-- The configuration that results from an image: for scope 1, what R367 lets it replace in the configuration in force. -/
def imageConf (old : ImgConf) (b : Bytes) : ImgConf :=
  let ss := sectsOf b
  let all := fun {α : Type} (ty : Nat) (f : Sect → List α) => (ss.filter (fun x => x.ty == ty)).flatMap f
  let p := siPart b
  let base : ImgConf := if siWhole b then
      let reg := all 2 sectFields
      { ImgConf.none with
        parts := all 1 (fun x => ((List.range 16).filter (fun i => (partEntry x i).1)).map (fun i => (i, (partEntry x i).2)))
        region3 := (nth reg 0 0, nth reg 1 0), region4 := (nth reg 2 0, nth reg 3 0), pools := all 5 sectPools }
    else
      { old with
        claims := old.claims.filter (fun c => !(c.1 / 2 ^ 24 == 2 && c.2 == p)), decs := old.decs.filter (fun d => d.part != p)
        routines := old.routines.filter (fun d => d.part != p), midways := old.midways.filter (fun d => d.part != p)
        routes := old.routes.filter (fun d => d.part != p), chains := old.chains.filter (fun d => d.part != p)
        classes := old.classes.filter (fun d => d.part != p) }
  { base with
    cal := all 3 sectCal, claims := base.claims ++ all 4 sectClaims, decs := base.decs ++ all 6 sectDecs
    routines := base.routines ++ all 0x10 (fun x => [sectRoutine x]), midways := base.midways ++ all 0x11 (fun x => [sectMidway x])
    routes := base.routes ++ all 0x12 sectRoutes, chains := base.chains ++ all 0x12 sectChains
    classes := base.classes ++ all 0x13 sectClasses }

/-! ### Checks -/

/-- A failing check: its order number, the code, the section and the item (R358, R371). -/
abbrev SiErr := Nat × Nat × Nat × Nat

/-- A check that fails where a condition holds. -/
def errIf (bad : Bool) (check code sec item : Nat) : Option SiErr := if bad then some (check, code, sec, item) else none

/-- Items numbered from 0. -/
def numbered {α : Type} (l : List α) : List (Nat × α) := (List.range l.length).zip l

/-- Checks 1 and 2 (R355). -/
def check1 (b : Bytes) : Option SiErr := errIf (leAt b 0 4 != 0x4953564B || leAt b 4 1 != 2) 1 cVersion 0xFFFF 0
def check2 (b : Bytes) : Option SiErr := errIf (leAt b 6 2 != 3 || decide (0xA1 < leAt b 5 1)) 2 cVersion 0xFFFF 0

/-- Bytes of a signature block (R359). -/
def sigLen : Nat := 2436

/-- Check 3 (R354, R355). -/
def check3 (b : Bytes) : Option SiErr :=
  let n := siLength b
  let k := siNsect b
  let last := n - (if siSigned b then sigLen else 0)
  let bad := n % 64 != 0 || decide (0x04000000 < n ∨ k < 1 ∨ 1024 < k ∨ n < 64 + 16 * k + (if siSigned b then sigLen else 0))
  (errIf bad 3 cDimLimit 0xFFFF 0).or
    ((sectsOf b).findSome? (fun x =>
      let laps := (sectsOf b).any (fun y => decide (y.idx < x.idx ∧ y.off < x.off + x.size ∧ x.off < y.off + y.size))
      errIf (x.off % 64 != 0 || decide (x.off < 64 + 16 * k ∨ last < x.off + x.size) || laps || !x.sizeOk) 3 cDimLimit x.idx 0))

/-- A signature block verifies over all that stands before it (R359, R459, R460). -/
def signed (key b : Bytes) : Bool :=
  let n := b.length - sigLen
  let blk := b.drop n
  decide (sigLen ≤ b.length) && leAt blk 0 2 == 1 && leAt blk 2 14 == 0 && MlDsa.verify key (sha3 (b.take n)) (blk.drop 16)

/-- Check 4 (R359). -/
def check4 (s : State) (b : Bytes) : Option SiErr :=
  let good := siSigned b && decide (fld s.tr.owner 16 16 ≤ siSvn b) && (match s.tr.ownerKey with | some k => signed k b | none => false)
  errIf (bitOf s.tr.owner 1 && !good) 4 cSignature 0xFFFF 0

/-- Check 5 (R356). -/
def check5 (b : Bytes) : Option SiErr :=
  (sectsOf b).findSome? (fun x => errIf (sectTypes.all (fun t => t.1 != x.ty)) 5 cVersion x.idx 0)

/-- The item of a section that holds a nonzero reserved field, if one does. -/
def Sect.reserved (x : Sect) : Option Nat :=
  let at' := fun (n : Nat) (f : Nat → Bool) => (List.range n).find? f
  match x.ty with
  | 0x0001 => at' 16 (fun p => let w := x.word (4 * p + 3)
                               fld w 33 31 != 0 || (!(bitOf w 32) && leAt x.bytes (32 * p) 32 != 0))
  | 0x0004 => at' (x.size / 8) (fun i => fld (x.word i) 40 24 != 0)
  | 0x0010 =>
    let bad := fld (x.word 0) 26 6 != 0 || fld (x.word 0) 43 21 != 0 || fld (x.word 2) 34 6 != 0 || fld (x.word 3) 32 32 != 0 ||
      (List.range x.ntok).any (fun i => decide (16384 ≤ leAt x.bytes (0x20 + 4 * i) 4)) ||
      (List.range x.nlane).any (fun i => leAt x.bytes (x.laneOff + 4 * i) 4 / 8 % 2 ^ 13 != 0) ||
      (List.range x.nwait).any (fun i => leAt x.bytes (x.waitOff + 8 * i) 8 / 1024 % 2 ^ 22 != 0)
    if bad then some 0 else none
  | 0x0011 => at' 64 (fun i => let w := leAt x.bytes (8 + 4 * i) 4
                               w / 32 % 8 != 0 || decide (65536 ≤ w))
  | 0x0012 => at' (x.size / 16) (fun i => if routeAt x i 0 1 = 1 then routeAt x i 6 2 != 0 else routeAt x i 11 5 != 0)
  | 0x0013 => (numbered (classEntries 256 x.bytes).1).findSome? (fun e =>
      let w := fun (i : Nat) => BitVec.ofNat 64 (leAt e.2.1 (8 * i) 8)
      let bad := fld (w 0) 44 4 != 0 || fld (w 0) 56 8 != 0 || fld (w 1) 48 16 != 0 || leAt e.2.1 0x20 32 != 0 || fld (w 2) 19 5 != 0 ||
        e.2.2.any (fun t => operReserved ((List.range 14).map (fun k => BitVec.ofNat 64 (leAt t (8 * k) 8))))
      if bad then some e.1 else none)
  | 0x0003 => none
  | _ => if Config.siReserved x.ty x.bytes then some 0 else none

/-- Check 6. -/
def check6 (b : Bytes) : Option SiErr :=
  let f := siFlags b
  (errIf (fld f 22 10 != 0 || (siWhole b && siPart b != 0) || leAt b 0x1A 38 != 0) 6 cReserved 0xFFFF 0).or
    ((sectsOf b).findSome? (fun x =>
      (errIf (leAt b (0x40 + 16 * x.idx + 3) 1 != 0 || leAt b (0x40 + 16 * x.idx + 12) 4 != 0) 6 cReserved x.idx 0).or
        (match x.reserved with | some i => some (6, cReserved, x.idx, i) | none => none)))

/-- Check 7 (R356). The owner of a claims section may be the device, as that of a claim (R361). -/
def check7 (old : ImgConf) (b : Bytes) : Option SiErr :=
  let ss := sectsOf b
  let count := fun ty => (ss.filter (fun x => x.ty == ty)).length
  let need := if siWhole b then [1, 2, 3, 5] else [3]
  let noPart := !(siWhole b) && old.parts.all (fun e => e.1 != siPart b)
  (errIf (need.any (fun ty => count ty == 0) || noPart) 7 cClaim 0xFFFF 0).or
    (ss.findSome? (fun x =>
      let wide := sectTypes.contains (x.ty, true)
      let again := wide && ss.any (fun y => y.ty == x.ty && decide (y.idx < x.idx))
      let where' := if wide then x.part != 0xFF else if siWhole b then decide (15 < x.part) && !(x.ty == 4 && x.part == 0xFF) else x.part != siPart b
      let absent := !(siWhole b) && (x.ty == 1 || x.ty == 2 || x.ty == 5)
      let foreign := !(siWhole b) && x.ty == 4 && (sectClaims x).any (fun c => c.1 / 2 ^ 24 != 2 || c.2 != siPart b)
      errIf (again || where' || absent || foreign) 7 cClaim x.idx 0))

/-- Two ranges share a place. -/
def meets (a b : Nat × Nat) : Bool := decide (0 < a.2 ∧ 0 < b.2 ∧ a.1 < b.1 + b.2 ∧ b.1 < a.1 + a.2)

/-- Check 8 (R360, R333): the partition table and the regions. -/
def check8 (s : State) (c : ImgConf) (b : Bytes) : Option SiErr :=
  let win := fun (d : PartDef) => (d.dramBase, d.dramSize)
  (sectsOf b).findSome? (fun x =>
    if x.ty = 1 then
      (errIf (decide (1024 < ((c.parts.map (·.2.share)).sum))) 8 cClaim x.idx 0).or
        (c.parts.findSome? (fun e =>
          let d := e.2
          errIf (d.tiles == 0 || (d.slice != 0 && decide (d.slice < 5 ∨ 10000 < d.slice)) || decide (c.region4.2 < d.dramBase + d.dramSize) ||
            c.parts.any (fun g => decide (g.1 < e.1) && meets (win g.2) (win d))) 8 cClaim x.idx e.1))
    else if x.ty = 2 then
      let regs := (List.range 3).map (fun k => (fld (tabGet s.dm.regions k 0) 40 16, fld (tabGet s.dm.regions k 0) 24 16)) ++ [c.region3, c.region4]
      (numbered regs).findSome? (fun r =>
        errIf (decide (3 ≤ r.1) && (decide (32768 < r.2.1 + r.2.2) ||
          (numbered regs).any (fun q => decide (q.1 < r.1) && meets q.2 r.2))) 8 cClaim x.idx (r.1 - 3))
    else none)

/-- Check 9 (R292, R297, R328): pools, ranges and staging windows. -/
def check9 (c : ImgConf) (b : Bytes) : Option SiErr :=
  let pages := fun (f : PoolDef → Nat) => (c.pools.map (fun e => f e.2 * e.2.l)).sum
  let dram := pages (·.dramRuns)
  let st := fun (k : Nat) => pages (fun p => if k = 0 then p.stg.1 else p.stg.2)
  let wins := fun (k : Nat) => c.parts.map (fun e => (e.1,
    if k = 0 then (e.2.stgBase.1, e.2.stgSize.1) else (e.2.stgBase.2, e.2.stgSize.2)))
  match (sectsOf b).find? (fun x => x.ty == 5) with
  | none => none
  | some x =>
    (errIf (decide (1310720 < dram ∨ 3072 < st 0 ∨ 3072 < st 1 ∨ c.region3.2 * 64 < dram)) 9 cQuota x.idx 0).or
      ((c.pools.findSome? (fun e =>
        let p := e.2
        let any := p.dramRuns != 0 || p.stg.1 != 0 || p.stg.2 != 0
        let range := (p.base, p.count)
        errIf (decide (16 < p.l) || (any && decide (p.l < 1)) || decide (8192 < p.base + p.count) ||
          c.pools.any (fun g => decide (g.1 < e.1) && meets (g.2.base, g.2.count) range)) 9 cClaim x.idx e.1)).or
      ([0, 1].findSome? (fun k => (wins k).findSome? (fun e =>
        errIf ((e.2.2 != 0 && decide (0x3C00000 < (e.2.1 + e.2.2) * 0x10000 + st k * 16384)) ||
          (wins k).any (fun g => decide (g.1 < e.1) && meets g.2 e.2)) 9 cClaim x.idx e.1))))

/-- All claims of a configuration, the tiles of its partitions among them (R361). -/
def allClaims (c : ImgConf) : List (Nat × Nat) :=
  c.parts.flatMap (fun e => (maskTiles e.2.tiles).map (fun l => (0x01000000 + l, e.1))) ++ c.claims

/-- Resource codes involved in a conflict (R361, R362). -/
def conflicts (c : ImgConf) : List Nat :=
  let cl := allClaims c
  let has := fun code => cl.any (fun e => e.1 == code)
  let twice := (cl.filter (fun e => decide (1 < (cl.filter (fun g => g.1 == e.1)).length))).map (·.1)
  let toks := (cl.filter (fun e => e.1 / 2 ^ 24 == 2 && decide (e.2 < 16) &&
    !(c.parts.any (fun d => d.1 == e.2 && d.2.tiles.getLsbD (e.1 % 2 ^ 24 / 256))))).map (·.1)
  let owner := (cl.filter (fun e => decide (3 ≤ e.1 / 2 ^ 24 ∧ e.1 / 2 ^ 24 ≤ 9) && e.2 != 0xFF)).map (·.1)
  let timers := [0x07000000, 0x07000001].filter has
  let hold := if has 0x04000000 ∧ has 0x0300001F then [0x0300001F, 0x04000000] else []
  let spread := if has 0x08000000 ∧ has 0x09000000 then [0x08000000] else []
  let mode := let m := (cl.filter (fun e => e.1 / 2 ^ 24 == 9)).map (·.1)
    if m.any (fun a => m.any (· != a)) then m else []
  twice ++ toks ++ owner ++ timers ++ hold ++ spread ++ mode

/-- Where the first claim on a resource in conflict stands: a claims section, or the partition table for a tile. -/
def conflictAt (bad : List Nat) (b : Bytes) : Nat × Nat :=
  ((sectsOf b).findSome? (fun x =>
    if x.ty = 4 then ((numbered (sectClaims x)).find? (fun e => bad.contains e.2.1)).map (fun e => (x.idx, e.1))
    else if x.ty = 1 then
      ((List.range 16).find? (fun p => (partEntry x p).1 && (maskTiles (partEntry x p).2.tiles).any (fun l => bad.contains (0x01000000 + l)))).map
        (fun p => (x.idx, p))
    else none)).getD (0xFFFF, 0)

/-- Check 10 (R361, R362). -/
def check10 (c : ImgConf) (b : Bytes) : Option SiErr :=
  match conflicts c with
  | [] => none
  | bad => let p := conflictAt bad b; some (10, cClaim, p.1, p.2)

/-- An owner code of the calendar is defined (R336). -/
def calCode (k : Nat) : Bool :=
  decide (k ≤ 2 ∨ (0x1000 ≤ k ∧ k < 0x1200) ∨ (0x2000 ≤ k ∧ k < 0x2004) ∨ k = 0x2010 ∨ k = 0x2011 ∨ (0x2020 ≤ k ∧ k < 0x2024) ∨ (0x3000 ≤ k ∧ k < 0x3004))

/-- The fixed owner of a position (R335). -/
def fixedCode (p : Nat) : Option Nat := if p % 128 = 127 then some 1 else if p % 512 = 63 then some 2 else none

/-- Check 11 (R337). -/
def check11 (old : List (Nat × Nat)) (c : ImgConf) (b : Bytes) : Option SiErr :=
  match (sectsOf b).find? (fun x => x.ty == 3) with
  | none => none
  | some x =>
    let at' := fun p => leAt x.bytes (2 * p) 2
    let first := fun (code : Nat) (f : Nat → Bool) => ((List.range 4096).find? f).map (fun p => ((11, code, x.idx, p) : SiErr))
    let empty := fun owner => (calPositions c.cal owner).isEmpty
    let named := Config.lanesNamed (((sectsOf b).filter (fun y => y.ty == 0x13)).map (·.bytes))
    let mine := fun k => k == 0 || (decide (0x1000 ≤ k ∧ k < 0x1200) &&
      c.parts.any (fun e => e.1 == siPart b && e.2.tiles.getLsbD ((k - 0x1000) / 8)))
    (first cReserved (fun p => !(calCode (at' p)))).or
      ((first cClaim (fun p => match fixedCode p with | some k => at' p != k | none => at' p == 1 || at' p == 2)).or
      ((errIf (decide ((calPositions c.cal 0x3000).length < 16)) 11 cClaim x.idx 0).or
      ((errIf (anyDramPool c && (empty 0x2010 || empty 0x2011)) 11 cClaim x.idx 0).or
      ((errIf (named.any empty) 11 cClaim x.idx 0).or
      (if siWhole b then none
       else first cClaim (fun p => let o := tabGet old p 0
                                   at' p != o && !(mine o && mine (at' p))))))))

/-- What R210 finds in slot i of bundle n: the code of the refusal. -/
def slotCode (code : Bytes) (n i : Nat) : Nat :=
  let x := slotOp code n i
  if x.opc = 0 then (if nopClean code n i then 0 else cReserved)
  else match x.passes with
    | none => cVersion
    | some ok => if ok then 0 else cReserved

/-- The branches of a routine: bundle address, opcode, target, whether predicated (R226). -/
def branches (r : Routine) : List (Nat × Nat × Nat × Bool) :=
  (List.range r.nb).filterMap (fun n =>
    let x := slotOp r.code n 15
    if x.opc = 0 then none else some (r.entry + n, x.opc, x.op.imm.toNat % 1024, x.op.pred != 0))

/-- The bundle that breaks the branch structure, and the code (R227). -/
def branchErr (r : Routine) : Option (Nat × Nat) :=
  let br := branches r
  let loops := (br.filter (fun x => x.2.1 == 2)).map (fun x => (x.2.2.1, x.1))
  let bad := br.find? (fun x =>
    let a := x.1
    let t := x.2.2.1
    if x.2.1 = 1 then decide (t ≤ a) || loops.any (fun l => decide (l.1 < t ∧ t ≤ l.2) && !(decide (l.1 ≤ a ∧ a ≤ l.2)))
    else if x.2.1 = 2 then
      decide (a < t) || loops.any (fun l => l != (t, a) && decide (l.1 ≤ a ∧ t ≤ l.2) &&
        !(decide ((l.1 ≤ t ∧ a ≤ l.2) ∨ (t ≤ l.1 ∧ l.2 ≤ a))))
    else false)
  let ended := br.any (fun x => x.1 + 1 == r.entry + r.nb && x.2.1 == 3 && !x.2.2.2)
  match bad with
  | some x => some (x.1 - r.entry, cTooLong)
  | none => if !ended then some (r.nb - 1, cTooLong) else if 16 < loops.length then some (0, cClaim) else none

/-- What certifies a routine on a tile under a calendar (R239). -/
def durationOf (cal : List (Nat × Nat)) (r : Routine) (l : Nat) : Option Nat :=
  durationOn { tile := l, entry := r.entry, nb := r.nb, code := r.code, proof := r.proof, waits := r.waits
               gap := fun n => laneGap cal (0x1000 + 8 * l + n), own := (xferToks r.code r.nb).map (fun t => l * 256 + t) }

/-- The certified duration that Tightrope uses: the larger of the loader's, over the tiles that hold the routine, and Nolong's (R238). -/
def certified (cal : List (Nat × Nat)) (r : Routine) : Option Nat :=
  ((maskTiles r.tiles).map (durationOf cal r)).foldl (fun m d => match m, d with | some a, some b => some (max a b) | _, _ => none) (some r.d)
    |>.bind (fun d => if 20480 < d then none else some d)

/-- Operations of a bundle with an opcode in a range of slots. -/
def countOps (code : Bytes) (n lo hi opc : Nat) : Nat :=
  ((bundleOps code n).filter (fun x => decide (lo ≤ x.slot ∧ x.slot ≤ hi) && x.opc == opc)).length

/-- Tokens that bundle n names: in its SY slot, and those that its transfers post on each tile that holds the routine (R222, R225). -/
def bundleToks (r : Routine) (n : Nat) : List Nat :=
  let sy := slotOp r.code n 14
  (if 1 ≤ sy.opc ∧ sy.opc ≤ 3 then [sy.op.imm.toNat % 16384] else []) ++
    (maskTiles r.tiles).flatMap (fun l => (xferToks (r.code.drop (256 * n)) 1).map (fun t => l * 256 + t))

/-- Check 12 for one routine section (R210, R227, R238, R185, R189, R225, R231). -/
def routineErr (c : ImgConf) (x : Sect) (before : List Routine) : Option SiErr :=
  let r := sectRoutine x
  let e := fun (code item : Nat) => ((12, code, x.idx, item) : SiErr)
  let held := ((c.parts.find? (fun d => d.1 == x.part)).map (·.2.tiles)).getD 0
  let bundle := fun (f : Nat → Nat) => (List.range r.nb).findSome? (fun n => if f n = 0 then none else some (e (f n) n))
  let shared := fun (q : Routine) => q.part == r.part && (q.id == r.id ||
    ((q.tiles &&& r.tiles) != 0 && meets (q.entry, q.nb) (r.entry, r.nb)))
  let two := fun n => decide (1 < ((List.range 4).map (fun i => countOps r.code n (4 + i) (4 + i) 0x20)).sum ∨ 1 < countOps r.code n 8 9 1 ∨
    1 < countOps r.code n 10 12 5 ∨ 1 < countOps r.code n 10 12 6 ∨ 1 < countOps r.code n 10 12 7)
  let tok := fun n =>
    let sy := slotOp r.code n 14
    if (bundleToks r n).any (fun t => !(r.toks.contains t && c.claims.contains (0x02000000 + t, r.part))) then cClaim
    else if (sy.opc = 1 ∨ sy.opc = 2) ∧ ¬ sy.op.flag 0 ∧ sy.op.imm.toNat / 65536 % 65536 = 0 then cReserved else 0
  let lane := fun n => if [10, 11, 12].any (fun i =>
      let o := slotOp r.code n i
      o.opc == 6 && (maskTiles r.tiles).any (fun l => (calPositions c.cal (0x1000 + 8 * l + o.op.fieldOf 1 3)).isEmpty)) then cClaim else 0
  ((List.range r.nb).findSome? (fun n => (List.range 16).findSome? (fun i =>
      if slotCode r.code n i = 0 then none else some (e (slotCode r.code n i) n)))).or
    (((branchErr r).map (fun p => e p.2 p.1)).or
    ((if (certified c.cal r).isNone then some (e cTooLong 0) else none).or
    ((if (r.tiles &&& ~~~ held) ≠ 0 ∨ 1024 < r.entry + r.nb ∨ before.any shared then some (e cClaim 0) else none).or
    ((bundle (fun n => if two n then cClaim else 0)).or
    ((bundle tok).or (bundle lane))))))

/-- Check 12. -/
def check12 (c : ImgConf) (b : Bytes) : Option SiErr :=
  let xs := (sectsOf b).filter (fun x => x.ty == 0x10)
  (numbered xs).findSome? (fun e => routineErr c e.2 ((xs.take e.1).map sectRoutine))

/-- Check 13 (R364). A tile that carries the section of another partition, in the image or in force, carries two. -/
def check13 (c : ImgConf) (b : Bytes) : Option SiErr :=
  (sectsOf b).findSome? (fun x =>
    if x.ty = 0x11 then
      let m := sectMidway x
      let cells : Nat := (((m.lat.zip m.cells).filter (fun e => e.1 != 0)).map (·.2)).sum
      let twice := (sectsOf b).any (fun y => y.ty == 0x11 && decide (y.idx < x.idx) && (y.word 0 &&& x.word 0) != 0) ||
        c.midways.any (fun y => y.part != x.part && (y.tiles &&& x.word 0) != 0)
      errIf (twice || decide (192 < cells)) 13 cClaim x.idx 0
    else if x.ty = 0x10 then
      let r := sectRoutine x
      let unused := fun (l n : Nat) => match c.midways.find? (fun m => m.tiles.getLsbD l) with
        | some m => nth m.lat n 0 == 0
        | none => true
      ((List.range r.nb).find? (fun n => (bundleOps r.code n).any (fun o => decide (4 ≤ o.slot ∧ o.slot ≤ 7) && o.opc == 0x20 &&
        (maskTiles r.tiles).any (fun l => unused l (o.op.fieldOf 8 6))))).map (fun n => ((13, cClaim, x.idx, n) : SiErr))
    else none)

/-- A decoder's declaration is refused (R289). -/
def decBad (c : ImgConf) (before : List DecDef) (d : DecDef) : Bool :=
  let l := ((c.pools.find? (fun p => p.1 == d.part)).map (·.2.l)).getD 0
  decide (d.layers < 1 ∨ 16 < d.layers ∨ d.kvh < 1 ∨ 4 < d.kvh ∨ d.qrows < 1 ∨ 8 < d.qrows ∨ d.listMax < 1 ∨ 512 < d.listMax ∨ 15 < d.num ∨
    l < d.layers * d.kvh) || before.any (fun e => e.part == d.part && e.num == d.num) || c.parts.all (fun e => e.1 != d.part)

/-- Entry i of a route table is refused (R365, R281). Its routine and tokens are its section's partition's, which must be its class's. -/
def routeBad (c : ImgConf) (b : Bytes) (x : Sect) (i : Nat) : Bool :=
  let f := routeAt x i
  let held := ((c.parts.find? (fun d => d.1 == x.part)).map (·.2.tiles)).getD 0
  if c.classes.any (fun k => k.cls == f 1 1 && k.part != x.part) then true
  else if f 0 1 = 1 then
    let tiles := BitVec.ofNat 64 (f 8 8)
    let again := (sectsOf b).any (fun y => y.ty == 0x12 && (List.range (y.size / 16)).any (fun j =>
      decide (y.idx < x.idx ∨ (y.idx = x.idx ∧ j < i)) && routeAt y j 0 1 == 1 && routeAt y j 1 3 == f 1 3))
    decide (f 2 1 < 1 ∨ 6 < f 2 1) || (tiles &&& ~~~ held) != 0 || again ||
      (match routineOf c x.part (f 4 2) with | some r => (tiles &&& ~~~ r.tiles) != 0 | none => true)
  else if f 0 1 = 2 then
    let tokBad := fun t => decide (16383 < t) || !(held.getLsbD (t / 256)) || !(c.claims.contains (0x02000000 + t, x.part))
    decide (63 < f 2 1 ∨ 63 < f 3 1) || !(held.getLsbD (f 2 1)) || !(held.getLsbD (f 3 1)) || tokBad (f 4 2) || tokBad (f 6 2) ||
      decide (f 8 2 < f 10 1)
  else true

/-- A field of PP_A or PP_B lies outside its range (R167). -/
def ppBad (a b : Word) : Bool :=
  decide (fld a 48 16 < 1 ∨ 32768 < fld a 48 16 ∨ fld a 32 16 < 1 ∨ 32768 < fld a 32 16 ∨ fld a 0 16 < 50 ∨ 1200 < fld a 0 16 ∨
    fld b 48 16 < 256 ∨ 4096 < fld b 48 16 ∨ fld b 48 16 % 64 ≠ 0 ∨ fld b 40 8 < 16 ∨ 64 < fld b 40 8 ∨ fld b 32 8 < 8 ∨ 64 < fld b 32 8)

/-- A class of the pipeline program is refused (R166, R349, R366). -/
def classBad (c : ImgConf) (x : Sect) (k : ClassDef) : Bool :=
  decide (1 < (c.classes.filter (fun e => e.cls == k.cls)).length) || k.part != x.part ||
    [3, 4, 5].any (fun st => !(c.routes.any (fun r => r.cls == k.cls && r.part == k.part && r.stage == st))) ||
    Config.unlaned x.bytes k.cls || (decOf c k.part k.dec).isNone || decide (fld k.ppB 32 8 < k.reach) || ppBad k.ppA k.ppB

/-- Check 14 (R289, R365, R366, R166, R281). -/
def check14 (c : ImgConf) (b : Bytes) : Option SiErr :=
  (sectsOf b).findSome? (fun x =>
    let e := fun (i : Nat) => ((14, cClaim, x.idx, i) : SiErr)
    if x.ty = 6 then
      let ds := sectDecs x
      let before := ((sectsOf b).filter (fun y => y.ty == 6 && decide (y.idx < x.idx))).flatMap sectDecs
      ((numbered ds).find? (fun d => decBad c (before ++ ds.take d.1) d.2)).map (fun d => e d.1)
    else if x.ty = 0x12 then ((List.range (x.size / 16)).find? (routeBad c b x)).map e
    else if x.ty = 0x13 then ((numbered (sectClasses x)).find? (fun k => classBad c x k.2)).map (fun k => e k.1)
    else none)

/-- Partitions that an image changes (R367). -/
def changedParts (b : Bytes) : List Nat := if siWhole b then List.range 16 else [siPart b]

/-- Check 15 (R136). -/
def check15 (s : State) (c : ImgConf) (b : Bytes) : Option SiErr :=
  let used : Nat → Nat := fun p => ((s.dq.queues.filter (fun e => e.2.st != .closed && e.2.part == p)).map (·.2.quota)).sum
  let pixq : Nat → Nat := fun p => ((c.parts.find? (fun e => e.1 == p)).map (·.2.pixq)).getD 0
  errIf ((changedParts b).any (fun p => decide (pixq p < used p))) 15 cQuota 0xFFFF 0

/-- The first open queue of the changed partitions that is not admissible under the new image, with its bound (R358 check 16); a queue in CLOSING
is never judged (R389). -/
def check16 (s : State) (c : ImgConf) (b : Bytes) : Option (Nat × Nat) :=
  let qs := openTqs s 0x10000
  (qs.filter (fun q => (changedParts b).contains q.part && qstate s q.q != .closing)).findSome? (fun q =>
    let n := (boundOf s c qs q).ns
    if deadlineNs c q.cls < n then some (q.q, n) else none)

/-- The configuration with each routine's duration as certified. -/
def certifiedConf (c : ImgConf) : ImgConf :=
  { c with routines := c.routines.map (fun r => { r with d := (certified c.cal r).getD r.d }) }

/-- The checks of R358 in order: the first that fails. -/
def imageErr (s : State) (b : Bytes) : Option SiErr :=
  let c := imageConf s.si.conf b
  [fun _ => check1 b, fun _ => check2 b, fun _ => check3 b, fun _ => check4 s b, fun _ => check5 b, fun _ => check6 b,
   fun _ => check7 s.si.conf b, fun _ => check8 s c b, fun _ => check9 c b, fun _ => check10 c b, fun _ => check11 s.si.conf.cal c b,
   fun _ => check12 c b, fun _ => check13 c b, fun _ => check14 c b, fun _ => check15 s c b,
   fun _ => (check16 s (certifiedConf c) b).map (fun _ => (16, cNotAdmissible, 0xFFFF, 0))].findSome? (fun f : Unit → Option SiErr => f ())

end Sys2Proof.Machine
end

