-- ==== Sys2Proof/Machine/Measure.lean ====
section
/-! DEFINITION. The measurement log (16, R463, R464) and the boot stage (R451). -/

namespace Sys2Proof.Machine

/-- Boot reaches a stage (R451); a change of stage sets MG_IBI_STAT.STAGE (R524). -/
def setStage (n : Nat) (s : State) : State :=
  if bootStage s = n then s
  else { s with tr := { s.tr with boot := setFld s.tr.boot 8 8 n }, mg := { s.mg with ibiStat := s.mg.ibiStat ||| maskOf 8 1 } }

/-- The 64 bytes of an entry of the measurement log (R463). -/
def measureBytes (ty part index : Nat) (time : BitVec 64) (id ver svn : Nat) (digest : Bytes) : Bytes :=
  leBytes 1 ty ++ leBytes 1 part ++ leBytes 2 0 ++ leBytes 4 index ++ leBytes 8 time.toNat ++ leBytes 4 id ++ leBytes 4 ver ++ leBytes 2 svn ++
    leBytes 6 0 ++ (digest ++ List.replicate 32 0).take 32

/-- Append an entry; the oldest of a full log is folded first (R463, R464). -/
def appendMeasure (ty part id ver svn : Nat) (digest : Bytes) (s : State) : State :=
  let t := s.tr
  let t := if t.mlog.length < 256 then t
    else { t with fdig := sha3 (t.fdig ++ t.mlog.headD []), folds := t.folds + 1, mlog := t.mlog.tail }
  { s with tr := { t with mlog := t.mlog ++ [measureBytes ty part t.mnext.toNat s.now id ver svn digest], mnext := t.mnext + 1 } }

end Sys2Proof.Machine
end

