-- ==== Sys2Proof/Machine/Owner.lean ====
section
/-! DEFINITION. The security block (16): the owner record and owner requests, the checks of a firmware image, the start of a live swap,
attestation reports. -/

namespace Sys2Proof.Machine

/-! ### Sources -/

/-- A register word of the layout of TR_OWN_CTL after a write: SRC_T and SRC are kept (R371, R471). -/
def srcPut (old d en : Word) : Word := putBits old d (maskOf 62 1 ||| maskOf 6 34) en

/-- A string of exactly `n` bytes. -/
def exact (n : Nat) (b : Bytes) : Bytes := (b ++ List.replicate n 0).take n

/-- What stands in DRAM region 0 beside the Barker log (R357, R370, R459, R468): copies of structure images by key, the image in progress,
the running firmware, the image before it, the image of a swap. -/
def region0Copies (s : State) : List (Nat × Bytes) :=
  s.si.copy ++ (s.si.job.map (fun (j : LoadJob) => (17, j.bytes))).toList ++ [(18, s.tr.fwImage)] ++
    (s.tr.prevFw.map (fun b => (19, b))).toList ++ (s.tr.swapImage.map (fun b => (20, b))).toList

/-- Byte of DRAM region 0 that the device itself keeps there (R333, R357, R370, R438, R459): the Barker log and the copies of images, at
places that the spec does not give (log 70). -/
def region0Byte (s : State) (a : Nat) : Option Byte :=
  let log := Config.region0 0 0
  if log ≤ a ∧ a < log + 16384 * 32 then
    (tabGet s.sn.log ((a - log) / 32) [])[(a - log) / 8 % 4]?.map (fun w => BitVec.ofNat 8 (fld w ((a - log) % 8 * 8) 8))
  else
    (region0Copies s).findSome? (fun (e : Nat × Bytes) =>
      if Config.region0 1 e.1 ≤ a then e.2[a - Config.region0 1 e.1]? else none)

/-- Bytes that SRC names from an offset on: DRAM region 0, or the backed staged window. A word that cannot be corrected gives undefined bytes
(R352, R357, R461). -/
def srcRead (w : Word) (o n : Nat) (s : State) : Bytes × State :=
  let a := fld w 6 34 * 64 + o
  let dev := if bitOf w 62 then swDev s a else regionBase s 0 + a
  let bs := if bitOf w 62 then swBytes s a n
    else (List.range n).map (fun i => if a + i < regionSize s 0 then (region0Byte s (a + i)).getD (Memory.read s.mem.dram (dev + i)) else 0)
  let (ue, s') := readCheck .dram 0 dev n s
  if ue then
    let ds := (damageIn s .dram 0 dev n).filter (·.ue)
    let (fr, s'') := freshBytes n s'
    ((List.range n).map (fun i => if ds.any (fun d => d.word == (dev + i) / 64) then nth fr i 0 else nth bs i 0), s'')
  else (bs, s')

/-! ### Owner requests -/

/-- Bytes of an owner record apart from its tag (R455, log 12). -/
def ownerText (r : OwnerRec) : Bytes :=
  Config.ownerBytes [r.enrolled.toNat, r.lock.toNat, r.siFloor.toNat, r.fwFloor.toNat, r.counter.toNat] r.key

/-- The tag of an owner record under the record key (R446, R455). -/
def recTag (secret : Bytes) (r : OwnerRec) : Bytes := sha3 (sha3 (secret ++ ascii "KV3 OWN") ++ ownerText r)

/-- Length of an owner request (R460). -/
def ownLen : Nat := 3812

/-- OP of a request. -/
def ownOp (b : Bytes) : Nat := leAt b 4 1

/-- The unit's SERIAL (R444). -/
def serial (s : State) : Nat := Memory.readNat s.mem.pm 8 8

/-- The checks of R461 in order: the first code that fails, 0 when all pass. -/
def ownCheck (s : State) (b : Bytes) : Nat :=
  let op := ownOp b
  let r := s.tr.record
  let key := (b.drop 64).take 1312
  let given := op == 1 || op == 2
  let floors := op == 1 || op == 3
  let zero := leAt b 0x18 40 == 0 && (given || leNat key == 0) && (floors || leAt b 0x14 4 == 0)
  let signer := if op = 1 then some key else s.tr.ownerKey
  let good : Bool := match signer with | some k => signed k b | none => false
  if leAt b 0 4 ≠ 0x574F564B ∨ op < 1 ∨ 5 < op then cVersion
  else if ¬ zero then cReserved
  else if leAt b 8 8 ≠ serial s ∨ leAt b 0x10 4 ≠ r.counter.toNat then cClaim
  else if (op = 1 ∧ r.enrolled) ∨ (op ≠ 1 ∧ ¬ r.enrolled) ∨ (op = 4 ∧ ¬ bitOf s.tr.owner 2) then cClaim
  else if ¬ good then cSignature
  else if floors ∧ (leAt b 0x14 2 < r.siFloor.toNat ∨ leAt b 0x16 2 < r.fwFloor.toNat) then cClaim
  else if s.tr.secret.isNone then cSignature
  else 0

/-- The record that an accepted request leaves (R461). -/
def ownRecord (b : Bytes) (r : OwnerRec) : OwnerRec :=
  let si := BitVec.ofNat 16 (leAt b 0x14 2)
  let fw := BitVec.ofNat 16 (leAt b 0x16 2)
  let digest := sha3 ((b.drop 64).take 1312)
  let r := { r with counter := r.counter + 1 }
  match ownOp b with
  | 1 => { r with enrolled := true, lock := false, outerLock := false, key := digest, siFloor := si, fwFloor := fw }
  | 2 => { r with key := digest }
  | 3 => { r with siFloor := si, fwFloor := fw }
  | 4 => { r with lock := true, outerLock := true }
  | _ => { r with enrolled := false, lock := false, outerLock := false, key := [], siFloor := 0, fwFloor := 0 }

/-- TR_OWNER and TR_FW.FW_FLOOR show a record (R471). -/
def showRecord (r : OwnerRec) (keyOk tagBad : Bool) (s : State) : State :=
  let w := place r.counter.toNat 32 32 ||| place r.siFloor.toNat 16 16 ||| place tagBad.toNat 3 1 ||| place keyOk.toNat 2 1 |||
    place r.lock.toNat 1 1 ||| place r.enrolled.toNat 0 1
  { s with tr := { s.tr with record := r, owner := w, fw := setFld s.tr.fw 16 16 r.fwFloor.toNat } }

/-- The copy of the owner record that R445 takes is the second. -/
def laterCopy (p : Package) : Bool := takesSecond p.owner0.seq p.owner1.seq p.owner0.ok p.owner1.ok

/-- The record is written into the older copy (R443, R445, R461). -/
def storeRecord (r : OwnerRec) (s : State) : State :=
  let p := s.pk
  if laterCopy p then { s with pk := { p with owner0 := { r with seq := p.owner1.seq + 1, ok := true } } }
  else { s with pk := { p with owner1 := { r with seq := p.owner0.seq + 1, ok := true } } }

/-- An owner request is served: the device copies it, checks it, and refuses or applies it (R461, R463). -/
def serveOwner (w : Word) (s : State) : State :=
  let (b, s) := srcRead w 0 ownLen s
  let c := ownCheck s b
  let s := { s with tr := { s.tr with ownStat := place c 8 8 } }
  if c ≠ 0 then s
  else
    let r := ownRecord b s.tr.record
    let r := { r with tag := recTag (s.tr.secret.getD []) r }
    let op := ownOp b
    let key := if op = 1 ∨ op = 2 then some ((b.drop 64).take 1312) else if op = 5 then none else s.tr.ownerKey
    let s := storeRecord r s
    let s := { s with tr := { s.tr with ownerKey := key } }
    let s := showRecord r key.isSome (bitOf s.tr.owner 3) s
    appendMeasure 0x08 0 op r.counter.toNat r.siFloor.toNat (sha3 (b.take 1376)) s

/-- A write to TR_OWN_CTL (R461, R469). -/
def ownCtlWrite (src : Src) (d en : Word) (s : State) : State :=
  if src = .host then wdisc s
  else
    let w := srcPut s.tr.ownCtl d en
    let s := { s with tr := { s.tr with ownCtl := w } }
    if ¬ bitOf (d &&& en) 63 then s
    else if swapping s then { s with tr := { s.tr with waiting := s.tr.waiting ++ [.owner w], ownStat := s.tr.ownStat ||| 1 } }
    else serveOwner w s

/-! ### Firmware images -/

/-- Fields of a firmware header (R458). -/
def fwSvn (b : Bytes) : Nat := leAt b 0x0C 2
def fwHandoff (b : Bytes) : Nat := leAt b 0x0E 2
def fwVersion (b : Bytes) : Nat := leAt b 0x10 4

/-- The digest that a firmware image's signature covers (R459). -/
def fwDigest (b : Bytes) : Bytes := sha3 (b.take (b.length - sigLen))

/-- The checks of R459 in order, for an image of LENGTH bytes: `boot` is FW_LEN at boot, none at a live swap. -/
def fwCheck (s : State) (boot : Option Nat) (b : Bytes) : Nat :=
  let n := leAt b 8 4
  if leAt b 0 4 ≠ 0x5746564B ∨ leAt b 4 1 ≠ 1 then cVersion
  else if leAt b 6 2 ≠ 3 ∨ 0xA1 < leAt b 5 1 then cVersion
  else if n % 64 ≠ 0 ∨ 0x00400000 < n ∨ n < 64 + sigLen ∨ (boot.isSome ∧ boot ≠ some n) then cDimLimit
  else if ¬ signed (exact 1312 Config.firmwareKey) b ∨ fwSvn b < fld s.tr.fw 16 16 then cSignature
  else if leAt b 0x18 40 ≠ 0 then cReserved
  else if boot.isNone ∧ fwHandoff b ≠ (Config.stateVersion (BitVec.ofNat 32 (fld s.tr.fw 32 32))).toNat then cVersion
  else 0

/-- An image becomes the running firmware (R471). -/
def runFw (b : Bytes) (s : State) : State :=
  { s with tr := { s.tr with fwImage := b, fw := setFld (setFld s.tr.fw 32 32 (fwVersion b)) 0 16 (fwSvn b) } }

/-- A live swap is requested: the image is copied and checked, and quiescing begins, or the swap is refused (R468). -/
def serveSwap (w : Word) (s : State) : State :=
  let (h, _) := srcRead w 0 64 s
  let (b, s) := srcRead w 0 (max 64 (min (leAt h 8 4) 0x00400000)) s
  let c := fwCheck s none b
  let st := setFld (setFld s.tr.fwStat 8 8 c) 0 3 (if c = 0 then 2 else 5)
  { s with tr := { s.tr with fwStat := st, swapImage := if c = 0 then some b else s.tr.swapImage } }

/-- A write to TR_FW_SWAP (R468, R469). -/
def fwSwapWrite (src : Src) (d en : Word) (s : State) : State :=
  if src = .host then wdisc s
  else
    let w := srcPut s.tr.fwSwap d en
    let s := { s with tr := { s.tr with fwSwap := w } }
    if ¬ bitOf (d &&& en) 63 then s
    else if swapping s ∨ s.si.job.isSome then { s with tr := { s.tr with waiting := s.tr.waiting ++ [.swap w] } }
    else serveSwap w s

/-- The swaps that wait for a load to end: each in turn until one is accepted, and the next waits for its end (R469). -/
def serveSwaps (s : State) : State :=
  s.tr.waiting.foldl (fun s r => match r with
    | .swap w =>
      if swapping s ∨ s.si.job.isSome then s
      else serveSwap w { s with tr := { s.tr with waiting := s.tr.waiting.erase (.swap w) } }
    | _ => s) s

/-! ### Attestation -/

/-- The 32-byte nonce in TR_NONCE (R465). -/
def nonceBytes (s : State) : Bytes := (List.range 4).flatMap (fun k => leBytes 8 (tabGet s.tr.nonce k 0).toNat)

/-- An attestation request is taken or refused (R465, R466). DESIGN CHOICE (log 68): SLOT above 55 names no stage slot, and the report goes to
the report buffer alone. -/
def takeAtt (s : State) : State :=
  let c := s.tr.attCtl
  let slot := if bitOf c 6 ∧ fld c 0 6 < 56 then some (fld c 0 6) else none
  let busy := match slot with | some k => slotBusy (stageSlot s k) | none => false
  let code := pickCode [if s.tr.secret.isNone then cSignature else 0, if busy then cClaim else 0, if fld c 7 56 ≠ 0 then cReserved else 0]
  if code ≠ 0 then { s with tr := { s.tr with attStat := setFld (setFld s.tr.attStat 8 8 code) 0 1 0 } }
  else
    let s := { s with tr := { s.tr with
      attStat := setFld s.tr.attStat 0 1 1
      att := some { nonce := nonceBytes s, time := s.now, ents := s.tr.mlog, folds := s.tr.folds, fdig := s.tr.fdig, slot := slot } } }
    match slot with
    | some k => setSlot k { stageSlot s k with stat := stageStat (leAt (nonceBytes s) 0 4) 0 1 } s
    | none => s

/-- A write to TR_ATT_CTL (R465, R485): in LEAVING and DEEP_SLEEP the host's GO waits. DESIGN CHOICE (log 68): a write with GO while a request
is in progress is discarded whole, its other fields with it. -/
def attCtlWrite (src : Src) (d en : Word) (s : State) : State :=
  if bitOf (d &&& en) 63 ∧ s.tr.att.isSome then wdisc s
  else
    let s := { s with tr := { s.tr with attCtl := putBits s.tr.attCtl d (maskOf 0 63) en } }
    if ¬ bitOf (d &&& en) 63 then s
    else if src = .host ∧ holds s then { s with held := s.held ++ [⟨.host, 0xFC60, maskOf 63 1, 0x80, []⟩] }
    else takeAtt s

/-- The device key seed (R446). -/
def attSeed (secret : Bytes) : Bytes := sha3 (secret ++ ascii "KV3 ATT")

/-- Bytes of the report without its signature block (R467). -/
def reportBody (s : State) (a : AttJob) : Bytes :=
  let r := s.tr.record
  let n := a.ents.length
  leBytes 4 0x5452564B ++ leBytes 1 1 ++ leBytes 1 (if a.folds = 0 then 0 else 0x16) ++ leBytes 2 3 ++
  leBytes 4 (160 + 64 * n + 3988 + sigLen) ++ leBytes 2 n ++ leBytes 1 0xA1 ++ leBytes 1 0 ++ leBytes 8 (serial s) ++
  leBytes 8 a.time.toNat ++ exact 32 a.nonce ++ exact 32 a.fdig ++ leBytes 4 a.folds.toNat ++ leBytes 4 (fld s.tr.boot 32 32) ++
  leBytes 2 (fld s.tr.fw 0 16) ++ leBytes 2 r.siFloor.toNat ++ leBytes 2 r.fwFloor.toNat ++
  leBytes 2 (r.enrolled.toNat + 2 * r.lock.toNat + 4 * (bitOf s.tr.owner 2).toNat) ++ exact 32 r.key ++ List.replicate 16 0 ++
  a.ents.flatMap (exact 64) ++ Memory.readBytes s.mem.pm 0 256 ++
  (MlDsa.keyGen (attSeed (s.tr.secret.getD []))).pk ++ Memory.readBytes s.mem.pm 0x1620 2420

/-- The report with its signature block (R359, R467). -/
def reportBytes (s : State) (a : AttJob) : Bytes :=
  let b := reportBody s a
  b ++ leBytes 2 1 ++ List.replicate 14 0 ++ exact 2420 (MlDsa.sign (attSeed (s.tr.secret.getD [])) (sha3 b)
    (leBytes 32 (Config.signRandom (attSeed (s.tr.secret.getD [])) (sha3 b)).toNat))

/-- REPORT_DONE (R466, R467): the report stands in the report buffer, and in the stage buffer asked for. -/
def reportDone (s : State) : State :=
  match s.tr.att with
  | none => s
  | some a =>
    let b := reportBytes s a
    let code := if a.folds = 0 then 0 else 0x16
    let s := { s with tr := { s.tr with
      att := none, report := b ++ s.tr.report.drop b.length, attStat := place b.length 32 32 ||| place code 8 8 } }
    match a.slot with
    | some k =>
      let s := heal .aperture 0 (stageBuf k) b.length (setAp s (Memory.writeBytes s.mem.ap (stageBuf k) b))
      alert 3 (setSlot k { stageSlot s k with stat := stageStat (leAt a.nonce 0 4) code 2, done := s.now, snap := [] } s)
    | none => s

/-! ### Meanings -/

def execEnroll (w : RegWr) (s : State) : Host.Outcome State Fault Refusal :=
  run s (whenRun 0xFC18 w (ownCtlWrite w.src w.data (enMask w.be)))
def execOwnerTransfer (w : RegWr) (s : State) : Host.Outcome State Fault Refusal :=
  run s (whenRun 0xFC18 w (ownCtlWrite w.src w.data (enMask w.be)))
def execRaiseFloor (w : RegWr) (s : State) : Host.Outcome State Fault Refusal :=
  run s (whenRun 0xFC18 w (ownCtlWrite w.src w.data (enMask w.be)))
def execOwnerLock (w : RegWr) (s : State) : Host.Outcome State Fault Refusal :=
  run s (whenRun 0xFC18 w (ownCtlWrite w.src w.data (enMask w.be)))
def execOwnerRelease (w : RegWr) (s : State) : Host.Outcome State Fault Refusal :=
  run s (whenRun 0xFC18 w (ownCtlWrite w.src w.data (enMask w.be)))
def execFwSwap (w : RegWr) (s : State) : Host.Outcome State Fault Refusal :=
  run s (whenRun 0xFC30 w (fwSwapWrite w.src w.data (enMask w.be)))
def execAttestationRequest (w : RegWr) (s : State) : Host.Outcome State Fault Refusal :=
  run s (whenRun 0xFC60 w (attCtlWrite w.src w.data (enMask w.be)))
def execReportDone (s : State) : Host.Outcome State Fault Refusal := run s reportDone

end Sys2Proof.Machine
end

