-- ==== Sys2Proof/Machine/StructImage.lean ====
section
/-! DEFINITION. Loading a structure image (12, R357 to R370) and the SI_ registers (R371). -/

namespace Sys2Proof.Machine

/-- Re-admissions, mailbox requests, reservations of Caravan flows and swaps that waited for the load (R368, R469). -/
def loadEnded (s : State) : State :=
  let ps := s.si.retryJudge
  let s := ps.foldl (fun s p => readmit p.1 p.2 s) { s with si := { s.si with retryJudge := [] } }
  serveSwaps (reserveFlows (resumeMbox s))

/-- A load is refused (R358, R371, R439); at boot the unit is then READY_BARE (R451). -/
def refuseLoad (e : SiErr) (b : Bytes) (s : State) : State :=
  let c := imageConf s.si.conf b
  let stat := place e.2.2.2 48 16 ||| place e.2.2.1 32 16 ||| place e.1 16 8 ||| place e.2.1 8 8 ||| place 5 0 3
  let low := fun (l : List Nat) => l.foldl min (2 ^ 32 - 1)
  let s := { s with si := { s.si with
    stat := stat
    conflict := if e.1 = 10 then BitVec.ofNat 32 (low (conflicts c)) else s.si.conflict
    bound := if e.1 = 16 then (match check16 s (certifiedConf c) b with | some x => BitVec.ofNat 64 x.2 | none => s.si.bound) else s.si.bound
    loads := setFld s.si.loads 32 32 (satAdd (BitVec.ofNat 32 (fld s.si.loads 32 32)) 1).toNat } }
  let s := barker 0x0306 1 { status := e.2.1, detail := if e.1 = 16 then s.si.bound.toNat else e.1 } s
  loadEnded (if bootStage s = 8 then setStage 0xE4 s else s)

/-- The loader checks its copy of an image, and the changed partitions drain (R357, R358, R367). -/
def loadImage (b : Bytes) (s : State) : State :=
  match imageErr s b with
  | some e => refuseLoad e b s
  | none =>
    { s with si := { s.si with
      stat := place 2 0 3
      job := some { whole := siWhole b, part := siPart b, imageId := BitVec.ofNat 32 (siId b), imageVer := BitVec.ofNat 32 (siVer b),
                    bytes := b, conf := certifiedConf (imageConf s.si.conf b) } } }

/-- The image that a word names is copied and loaded (R357). -/
def serveLoad (w : Word) (s : State) : State :=
  let (h, _) := srcRead w 0 64 s
  let (b, s) := srcRead w 0 (max 64 (min (siLength h) 0x04000000)) s
  loadImage b s

/-- A write to SI_LOAD (R357, R368, R469). -/
def siLoadWrite (src : Src) (d en : Word) (s : State) : State :=
  if src = .host then wdisc s
  else if bitOf (d &&& en) 63 ∧ (s.si.job.isSome ∨ s.tr.waiting.any (fun r => match r with | .load _ => true | _ => false)) then wdisc s
  else
    let w := srcPut s.si.load d en
    let s := { s with si := { s.si with load := w } }
    if ¬ bitOf (d &&& en) 63 then s
    else if swapping s then { s with tr := { s.tr with waiting := s.tr.waiting ++ [.load w] } }
    else serveLoad w s

/-- A load changes a partition (R367). -/
def LoadJob.changes (j : LoadJob) (p : Nat) : Bool := j.whole || j.part == p

/-- Every admitted page of the changed partitions has released its last record, their decoders' steps are closed, none of their commands runs or
waits, and no remap of their tiles is in progress (R367, R368). -/
def loadDrained (s : State) (j : LoadJob) : Bool :=
  let held := (j.conf.parts ++ s.si.conf.parts).foldl (fun (m : BitVec 64) e => if j.changes e.1 then m ||| e.2.tiles else m) 0
  s.pp.pages.all (fun e => !(j.changes e.2.part) || e.2.stage == .released) &&
    s.kv.steps.all (fun x => !(j.changes x.part) || !x.opened) && s.kv.attends.all (fun a => !(j.changes a.part)) &&
    s.tl.tiles.all (fun e => match e.2.cmd with | some c => !(j.changes c.part) | none => true) &&
    s.rm.ready.all (fun r => !(j.changes r.1.part.toNat)) && s.dm.cmds.all (fun c => !(j.changes c.part)) &&
    s.tl.remaps.all (fun r => !(held.getLsbD r.1))

/-- The jobs of a partition's decoders: one for each decoder and tile that the entries of its step commands name, with the context of their
routines there (R372, R373). -/
def decoderJobs (c : ImgConf) (p : Nat) : List Job :=
  (c.decs.filter (fun d => d.part == p)).flatMap (fun d =>
    let rs := c.routes.filter (fun r => r.part == p && stepEntry c r && ((classOf c r.cls).map (·.dec)) == some d.num)
    (maskTiles (rs.foldl (fun (m : BitVec 64) r => m ||| r.tiles) 0)).map (fun t =>
      let xs := (rs.filter (fun r => r.tiles.getLsbD t)).filterMap (fun r => routineOf c p r.routine)
      { part := p, slot := 0, tile := t, queue := none, decoder := some d.num, stage := 4, pos := 0,
        bspad := (xs.map (·.bspad)).foldl max 0, live := (xs.map (·.live)).foldl max 0, held := [], debit := 0, credits := 0, want := 0,
        parity := false, save := [], accs := [] }))

/-- Jobs of the changed partitions stand as the new routes and decoders give them (R372). -/
def rebuildJobs (j : LoadJob) (s : State) : State :=
  let s := endJobs (fun x => j.changes x.part) s
  let s := (s.dq.queues.filter (fun e => e.2.st != .closed && j.changes e.2.part)).foldl
    (fun s e => addJobs (queueJobs s.si.conf e.1 e.2.part e.2.cls) s) s
  ((List.range 16).filter j.changes).foldl (fun s p => addJobs (decoderJobs s.si.conf p) s) s

/-- DM_REGION of a region that the image sets (R333, R353). -/
def setRegion (k : Nat) (r : Nat × Nat) (s : State) : State :=
  { s with dm := { s.dm with regions := tabSet s.dm.regions k (place r.1 40 16 ||| place r.2 24 16) } }

/-- SI_APPLY (R367, R338, R361, R384, R476): the drained partitions take their new configuration, the SF_TO31 ball the function that the image
claims (R107), the calendar waits for its turn. -/
def siApply (s : State) : State :=
  match s.si.job with
  | none => s
  | some j =>
    if fld s.si.stat 0 3 ≠ 2 ∨ ¬ loadDrained s j then s
    else
      let mine := fun (c : Nat × Nat) => c.1 / 2 ^ 24 == 2 && c.2 == j.part
      let toks := ((s.si.conf.claims ++ j.conf.claims).filter mine).map (fun c => c.1 % 2 ^ 24)
      let held := j.conf.parts.foldl (fun (m : BitVec 64) e => if j.changes e.1 then m ||| e.2.tiles else m) 0
      let fresh := fun (d : Damage) => !((d.mem == .instr || d.mem == .midway) && held.getLsbD d.unit)
      let s := { s with
        si := { s.si with conf := j.conf, stat := place 3 0 3 }
        tl := { s.tl with toks := if j.whole then [] else s.tl.toks.filter (fun t => !(toks.contains t.1)) }
        dm := { s.dm with next := some j.conf.cal, damage := s.dm.damage.filter fresh, back := s.dm.back.filter fresh } }
      let s := if j.whole then
          let s := { s with sf := { s.sf with holdPin := j.conf.claims.any (fun c => c.1 == 0x04000000) } }
          let s := setRegion 4 j.conf.region4 (setRegion 3 j.conf.region3 s)
          let s := { s with rm := { s.rm with engines := [] } }
          if j.conf.claims.any (fun c => c.1 == 0x08000000) then s else { s with ck := { s.ck with ss := s.ck.ss &&& ~~~ maskOf 63 1 } }
        else s
      rebuildJobs j s

/-- SI_LOAD_DONE (R367, R370, R451, R463): the calendar has applied; admission resumes under the new image, and commands that came
meanwhile can run. -/
def siLoadDone (s : State) : State :=
  match s.si.job with
  | none => s
  | some j =>
    if fld s.si.stat 0 3 ≠ 3 ∨ s.dm.next.isSome then s
    else
      let ps := (List.range 16).filter j.changes
      let ver := fun (w : Word) => place j.imageVer.toNat 32 32 ||| place (fld w 0 16 + 1) 0 16
      let s := { s with si := { s.si with
        stat := place 4 0 3, job := none
        loads := setFld s.si.loads 0 32 (satAdd (BitVec.ofNat 32 (fld s.si.loads 0 32)) 1).toNat
        image := if j.whole then place j.imageId.toNat 32 32 ||| place j.imageVer.toNat 0 32 else s.si.image
        part := ps.foldl (fun t p => tabSet t p (ver (tabGet t p 0))) s.si.part
        copy := if j.whole then [(16, j.bytes)] else tabSet s.si.copy j.part j.bytes } }
      let s := appendMeasure (if j.whole then 5 else 6) (if j.whole then 0 else j.part) j.imageId.toNat j.imageVer.toNat (siSvn j.bytes)
        (sha3 (j.bytes.take (j.bytes.length - sigLen))) s
      wakeJobs (grantCmds (loadEnded (if bootStage s = 8 ∨ bootStage s = 0xE4 then setStage 9 s else s)))

/-- Read an SI_ register; none where no register stands (R371). -/
def siRead (off : Nat) (s : State) : Option (Word × State) :=
  if off = 0xE000 then some (s.si.load, s)
  else if off = 0xE008 then some (s.si.stat, s)
  else if off = 0xE010 then some (s.si.conflict.setWidth 64, s)
  else if off = 0xE018 then some (s.si.bound, s)
  else if off = 0xE020 then some (s.si.image, s)
  else if 0xE040 ≤ off ∧ off < 0xE0C0 then some (tabGet s.si.part ((off - 0xE040) / 8) 0, s)
  else if off = 0xE0C0 then some (s.si.loads, s)
  else none

/-- Write an SI_ register (R371). -/
def siWrite (src : Src) (off : Nat) (d en : Word) (s : State) : Option State :=
  if off = 0xE000 then some (siLoadWrite src d en s)
  else match siRead off s with
    | some _ => some s
    | none => none

def execSiLoad (w : RegWr) (s : State) : Host.Outcome State Fault Refusal :=
  run s (whenRun 0xE000 w (siLoadWrite w.src w.data (enMask w.be)))
def execSiApply (s : State) : Host.Outcome State Fault Refusal := run s siApply
def execSiLoadDone (s : State) : Host.Outcome State Fault Refusal := run s siLoadDone

end Sys2Proof.Machine
end

