-- ==== Sys2Proof/Machine/Trust.lean ====
section
/-! DEFINITION. Boot (16, R442 to R459), the hand-over of a live swap (R468 to R470) and the TR_ registers (R471). -/

namespace Sys2Proof.Machine

/-! ### Package memory -/

/-- A region of package memory ends in the digest of its other bytes (R443). -/
def regionOk (pm : Memory) (a n : Nat) : Bool := sha3 (Memory.readBytes pm a (n - 32)) == Memory.readBytes pm (a + n - 32) 32

/-- The provisional ID with a value of H (R509). -/
def pidOf (h : Nat) : BitVec 48 := BitVec.ofNat 48 (0x5E3A * 2 ^ 33 + 2 ^ 32 + h % 2 ^ 32)

/-- The repair map is applied: retired tiles and banks, and the spares in place of retired tiles, the lowest free one first (R201, R431). -/
def applyRepair (s : State) : State :=
  let s := { s with sn := { s.sn with retired := s.pk.repair } }
  let s := s.pk.repair.foldl (fun s u =>
    if u.1 = 1 then setPhys u.2 3 s
    else if u.1 = 2 then { s with tl := { s.tl with bankOut := tabSet s.tl.bankOut (u.2 / 32) (u.2 % 32) } }
    else s) s
  (List.range 64).foldl (fun s l =>
    if s.tl.vacant.getLsbD l ∨ physState s (physOf s l) ≠ 3 then s
    else match (freeSpares s).head? with
      | some q => setPhys q 0 { s with tl := { s.tl with map := tabSet s.tl.map l q } }
      | none => { s with tl := { s.tl with vacant := s.tl.vacant ||| (1#64 <<< l) } }) s

/-- A rejected ageing region is written again as empty (R445): the summaries and the hourly ring. -/
def emptyAgeing (s : State) : State :=
  if s.pk.ageOk then s
  else { setPm s (Memory.writeBytes s.mem.pm 0x3000 (List.replicate 0x4000 0)) with pk := { s.pk with ageOk := true, months := [] } }

/-- PM_LOADED (R443 to R445, R451, R452, R500, R509): boot goes on, or halts with nothing loaded. -/
def pmLoaded (s : State) : State :=
  if bootStage s ≠ 0 then s
  else
    let s := emptyAgeing s
    let pm := s.mem.pm
    if ¬ (regionOk pm 0 0x100 && regionOk pm 0x100 0x500 && regionOk pm 0x1600 0xA00 && (s.pk.repair0.ok || s.pk.repair1.ok)) then
      setStage 0xE2 { s with mg := { s.mg with pid := pidOf (2 ^ 32 - 1) } }
    else
      let trim := fun k => Config.trimValue k (Memory.readBytes pm 0x100 0x500)
      let mac := fun (a : Nat) (w : Word) => setFld w 0 48 (Memory.readNat pm a 6)
      let port := fun (k : Nat) => tabGet s.cv.port k 0
      let s := applyRepair { s with
        cv := { s.cv with port := tabSet (tabSet s.cv.port 0 (mac 0x70 (port 0))) 1 (mac 0x76 (port 1)) }
        sn := { s.sn with age := setFld s.sn.age 32 12 (trim 0), ageLim := place (trim 1) 32 12 ||| place (trim 2) 16 12 ||| place (trim 3) 0 8 }
        pw := { s.pw with ret := trim 4 % 4096 }
        mg := { s.mg with pid := pidOf (leAt (sha3 (Memory.readBytes pm 0x10 11)) 0 4) }
        tr := { s.tr with boot := setFld s.tr.boot 32 32 s.pk.boots.toNat } }
      setStage 1 (avsWrite (setpoint s) s)

/-! ### Keys -/

/-- The device key of a root secret is sound (R447). -/
def soundKey (pm : Memory) (secret : Bytes) : Bool :=
  sha3 (MlDsa.keyGen (attSeed secret)).pk == Memory.readBytes pm 0x1600 32

/-- KEYED (R446, R447, R463): up to eight readings of the PUF. -/
def keyed (s : State) : State :=
  if bootStage s ≠ 1 then s
  else
    let helper := Memory.readBytes s.mem.pm 0xE00 0x800
    let reading := fun (k : Nat) => exact 32 (Config.pufSecret (s.freeTick + k) helper)
    let hit := (List.range 8).find? (fun k => soundKey s.mem.pm (reading k))
    let reads := match hit with | some k => k + 1 | none => 8
    let s := { s with
      freeTick := s.freeTick + reads
      tr := { s.tr with puf := place reads 1 4 ||| place hit.isSome.toNat 0 1, secret := hit.map reading } }
    setStage 2 (appendMeasure 0x01 0 Config.romRelease.toNat 0 0 (sha3 Config.romImage) s)

/-! ### The boot flash -/

/-- Bytes of a bank, and where it starts: 0 A, 1 B (R448). -/
def bankSize : Nat := Config.flashSize / 2
def bankBase (k : Nat) : Nat := k * bankSize
def bankBytes (s : State) (k o n : Nat) : Bytes := Memory.readBytes s.mem.flash (bankBase k + o) n

/-- A field of a bank's boot record (R449). -/
def bankField (s : State) (k o : Nat) : Nat := leNat (bankBytes s k o 4)

/-- The boot record of a bank is valid (R450). -/
def bankValid (s : State) (k : Nat) : Bool :=
  let f := bankField s k
  let inside := fun o n => decide (o + n ≤ bankSize)
  f 0 == 0x5242564B && f 0x3C == (crc32 (bankBytes s k 0 0x3C)).toNat && leNat (bankBytes s k 0x24 24) == 0 &&
    inside (f 0x08) (f 0x0C) && (f 0x14 == 0 || (f 0x14 == 64 && inside (f 0x10) 64)) && (f 0x1C == 0 || inside (f 0x18) (f 0x1C)) &&
    (f 0x20 == 0 || inside (f 0x20) 1312)

/-- The valid banks in the order in which they are tried (R450). -/
def bankOrder (s : State) : List Nat :=
  let gen := fun k => BitVec.ofNat 32 (bankField s k 4)
  let l := [0, 1].filter (bankValid s)
  if l.length = 2 ∧ seqLater (gen 1) (gen 0) then [1, 0] else l

/-- The firmware image of a bank. -/
def bankFw (s : State) (k : Nat) : Bytes := bankBytes s k (bankField s k 0x08) (bankField s k 0x0C)

/-- The bank that was taken (R471). -/
def takenBank (s : State) : Nat := fld s.tr.boot 16 1

/-! ### Owner record and firmware -/

/-- The owner record as read at boot: whether its tag verifies, and what stands (R445, R455, R456). DESIGN CHOICE (log 12): a record whose two
copies are both rejected is taken as one whose tag fails, and the unit that boots as unowned keeps the COUNTER it read. -/
def readOwner (s : State) : Bool × OwnerRec × OwnerRec :=
  let r := if laterCopy s.pk then s.pk.owner1 else s.pk.owner0
  let ok := match s.tr.secret with | some k => r.ok && recTag k r == r.tag | none => false
  (ok, r, if ok then r else { OwnerRec.init with counter := r.counter })

/-- FW_RUNNING (R449, R450, R455 to R459, R463): the owner record is read, and the first bank whose firmware passes is taken. -/
def fwRunning (s : State) : State :=
  if bootStage s ≠ 2 ∨ s.pw.spiReset then s
  else
    let (ok, r, stands) := readOwner s
    let s := appendMeasure 0x02 0 r.counter.toNat (r.enrolled.toNat + 2 * r.lock.toNat) r.siFloor.toNat (sha3 (ownerText r ++ r.tag)) s
    if ¬ ok ∧ r.outerLock then setStage 0xE3 s
    else
      let s := showRecord stands false (!ok) s
      match (bankOrder s).find? (fun k => fwCheck s (some (bankField s k 0x0C)) (bankFw s k) == 0) with
      | none => setStage 0xE1 s
      | some k =>
        let fw := bankFw s k
        let key := bankBytes s k (bankField s k 0x20) 1312
        let keyOk := stands.enrolled && bankField s k 0x20 != 0 && sha3 key == stands.key
        let boots := s.pk.boots + 1
        let s := showRecord stands keyOk (!ok) (runFw fw s)
        let s := { s with
          pk := s.pk.setBoots boots
          tr := { s.tr with boot := setFld (setFld s.tr.boot 16 1 k) 32 32 boots.toNat, ownerKey := if keyOk then some key else none } }
        setStage 3 (appendMeasure 0x03 0 (fwVersion fw) 0 (fwSvn fw) (fwDigest fw) s)

/-! ### Configuration -/

/-- Region k of a boot configuration in MiB (R453). -/
def cfgRegion (b : Bytes) (k : Nat) : Nat × Nat := (leAt b (0x0C + 4 * k) 2, leAt b (0x0E + 4 * k) 2)

/-- A boot configuration is accepted (R453). -/
def cfgOk (b : Bytes) : Bool :=
  let lim := leAt b 8 2
  let r := cfgRegion b
  leAt b 0 4 == 0x4342564B && leAt b 4 4 / 32 == 0 && leAt b 0x0A 2 == 0 && leAt b 0x18 40 == 0 && decide (32 ≤ lim ∧ lim ≤ 4096) &&
    (r 1).2 == lim - 32 && (List.range 3).all (fun k => decide ((r k).1 + (r k).2 ≤ 32768)) &&
    !(meets (r 0) (r 1)) && !(meets (r 0) (r 2)) && !(meets (r 1) (r 2))

/-- The defaults of R453 in the same 64 bytes. -/
def cfgDefault : Bytes :=
  leBytes 4 0x4342564B ++ leBytes 4 0 ++ leBytes 4 4096 ++ leBytes 2 0 ++ leBytes 2 512 ++ leBytes 2 512 ++ leBytes 2 4064 ++ leBytes 2 4576 ++
    leBytes 2 4096 ++ leBytes 40 0

/-- The configuration of the taken bank, and whether the defaults stand in for it (R453). -/
def bootCfg (s : State) : Bytes × Bool :=
  let k := takenBank s
  let b := bankBytes s k (bankField s k 0x10) 64
  if bankField s k 0x14 = 64 ∧ cfgOk b then (b, false) else (cfgDefault, true)

/-- DRAM_UP (R333, R451). -/
def dramUp (s : State) : State :=
  if bootStage s ≠ 3 then s
  else
    let b := (bootCfg s).1
    setStage 4 ((List.range 3).foldl (fun s k => setRegion k (cfgRegion b k) s) s)

/-- CONFIGURED (R344, R451, R453, R454, R463). -/
def configured (s : State) : State :=
  if bootStage s ≠ 4 then s
  else
    let (b, dflt) := bootCfg s
    let f := leAt b 4 1
    let s := { s with
      hp := { s.hp with cfg := setFld s.hp.cfg 0 4 f, limit := place (leAt b 8 2) 0 13 }
      tr := { s.tr with bootCtl := place (f / 16) 0 1, boot := setFld s.tr.boot 17 1 dflt.toNat } }
    let s := setStage 5 (applyCal fixedCal 0x3000 (appendMeasure 0x04 0 dflt.toNat 0 0 (sha3 b) s))
    if bitOf s.tr.bootCtl 0 then setStage 6 s else s

/-- LOCKED (R30, R451, R454): the window is locked, and the bank's structure image is loaded. -/
def lock (s : State) : State :=
  if ¬ (bootStage s = 5 ∨ bootStage s = 6) ∨ bitOf s.tr.bootCtl 0 then s
  else
    let s := setStage 7 { s with hp := { s.hp with cfg := s.hp.cfg ||| maskOf 31 1 } }
    let k := takenBank s
    if bankField s k 0x1C = 0 then setStage 0xE4 s
    else
      let off := bankField s k 0x18
      loadImage (bankBytes s k off (max 64 (min (leNat (bankBytes s k (off + 8) 4)) 0x04000000))) (setStage 8 s)

/-! ### Live swap -/

/-- Requests that waited for the end of a swap are served (R469): loads and owner requests in order of arrival, then swaps. -/
def serveWaiting (s : State) : State :=
  let swaps := s.tr.waiting.filter (fun r => match r with | .swap _ => true | _ => false)
  let reqs := s.tr.waiting
  let s := resumeMbox { s with tr := { s.tr with waiting := swaps } }
  serveSwaps (reqs.foldl (fun s r => match r with
    | .load w => serveLoad w s
    | .owner w => serveOwner w s
    | .swap _ => s) s)

/-- HANDOVER (R463, R468, R469): the new image runs; tests that fell due begin. -/
def handover (s : State) : State :=
  let idle := s.sn.tests.all (fun t => s.sn.dueTests.contains (t.cls, t.idx))
  match s.tr.swapImage with
  | none => s
  | some b =>
    if swapState s ≠ 2 ∨ ¬ idle then s
    else
      let st := setFld (setFld (setFld s.tr.fwStat 48 16 (fld s.tr.fwStat 48 16 + 1)) 16 1 0) 0 3 4
      let due := s.sn.dueTests
      let s := runFw b { s with
        sn := { s.sn with dueTests := [] }
        tr := { s.tr with prevFw := some s.tr.fwImage, swapImage := none, swapDone := some s.now, fwStat := st } }
      let s := appendMeasure 0x07 0 (fwVersion b) 0 (fwSvn b) (fwDigest b) s
      serveWaiting (due.foldl (fun s u => barker 0x0501 0 (unitRef u) s) s)

/-- Firmware runs (R451). -/
def fwRuns (s : State) : Bool := decide ((3 ≤ bootStage s ∧ bootStage s ≤ 9) ∨ bootStage s = 0xE4)

/-- WATCHDOG_EXPIRY (R427, R470): firmware restarts; within 1 s of a swap, from the image before it. -/
def watchdogExpiry (s : State) : State :=
  if ¬ fwRuns s then s
  else
    let s := barker 0x0702 1 {} s
    let recent := match s.tr.swapDone with | some t => decide ((s.now - t).toNat ≤ 1000000000) | none => false
    match s.tr.prevFw with
    | some b =>
      if recent then
        let s := runFw b { s with tr := { s.tr with prevFw := none, swapDone := none, fwStat := s.tr.fwStat ||| maskOf 16 1 } }
        appendMeasure 0x07 0 (fwVersion b) 0 (fwSvn b) (fwDigest b) s
      else s
    | none => s

/-! ### TR_ registers -/

/-- Read a TR_ register; none where no register stands (R471). -/
def trRead (off : Nat) (s : State) : Option (Word × State) :=
  let t := s.tr
  if off = 0xFC00 then some (t.boot, s)
  else if off = 0xFC08 then some (t.bootCtl, s)
  else if off = 0xFC10 then some (t.owner, s)
  else if off = 0xFC18 then some (t.ownCtl, s)
  else if off = 0xFC20 then some (t.ownStat, s)
  else if off = 0xFC28 then some (t.fw, s)
  else if off = 0xFC30 then some (t.fwSwap, s)
  else if off = 0xFC38 then some (t.fwStat, s)
  else if 0xFC40 ≤ off ∧ off < 0xFC60 then some (tabGet t.nonce ((off - 0xFC40) / 8) 0, s)
  else if off = 0xFC60 then some (t.attCtl, s)
  else if off = 0xFC68 then some (t.attStat, s)
  else if off = 0xFC70 then some (t.repSel, s)
  else if off = 0xFC78 then some (BitVec.ofNat 64 (leAt t.report (8 * fld t.repSel 0 12) 8), s)
  else if off = 0xFC80 then some (place t.folds.toNat 32 32 ||| place t.mlog.length 0 9, s)
  else if off = 0xFC88 then some (t.puf, s)
  else none

/-- Write a TR_ register (R471). -/
def trWrite (src : Src) (off : Nat) (d en : Word) (s : State) : Option State :=
  if 0xFC40 ≤ off ∧ off < 0xFC60 then
    let k := (off - 0xFC40) / 8
    some { s with tr := { s.tr with nonce := tabSet s.tr.nonce k (putBits (tabGet s.tr.nonce k 0) d (~~~ 0) en) } }
  else if off = 0xFC60 then some (attCtlWrite src d en s)
  else match trRead off s with
    | none => none
    | some _ =>
      if src = .host then some (wdisc s)
      else if off = 0xFC08 then some { s with tr := { s.tr with bootCtl := putBits s.tr.bootCtl d 1 en } }
      else if off = 0xFC18 then some (ownCtlWrite src d en s)
      else if off = 0xFC30 then some (fwSwapWrite src d en s)
      else if off = 0xFC70 then some { s with tr := { s.tr with repSel := putBits s.tr.repSel d (maskOf 0 12) en } }
      else some s

/-! ### Meanings -/

def execPmLoaded (s : State) : Host.Outcome State Fault Refusal := run s pmLoaded
def execKeyed (s : State) : Host.Outcome State Fault Refusal := run s keyed
def execFwRunning (s : State) : Host.Outcome State Fault Refusal := run s fwRunning
def execDramUp (s : State) : Host.Outcome State Fault Refusal := run s dramUp
def execConfigured (s : State) : Host.Outcome State Fault Refusal := run s configured
def execLocked (s : State) : Host.Outcome State Fault Refusal := run s lock
def execHandover (s : State) : Host.Outcome State Fault Refusal := run s handover
def execWatchdogExpiry (s : State) : Host.Outcome State Fault Refusal := run s watchdogExpiry

end Sys2Proof.Machine
end

