-- ==== Sys2Proof/Machine/MgmtRegs.lean ====
section
/-! DEFINITION. The MG_ registers (19, R524), in-band interrupts (R516), and the boot flash through the management bus (R518, R519). -/

namespace Sys2Proof.Machine

/-- A discarded or refused transfer or instruction is counted in MG_ERR (R524). -/
def mgErr (s : State) : State := { s with mg := { s.mg with err := satAdd s.mg.err 1 } }

/-- MG_IBI_STAT as it reads: its ALERT field is HP_ALERT_STAT (R524). -/
def ibiStat (s : State) : Word := (s.mg.ibiStat &&& maskOf 8 2) ||| (s.hp.alertStat &&& maskOf 0 7)

/-- MG_IBI_STAT AND MG_IBI_EN (R516). -/
def ibiCause (s : State) : Word := ibiStat s &&& s.mg.ibiEn

/-- Once the AND is zero, its next rise requests an interrupt again (R516). -/
def ibiSettle (s : State) : State :=
  if ibiCause s = 0 then { s with mg := { s.mg with ibiServed := false, ibiNacked := false } } else s

/-- The target requests an in-band interrupt (R516). -/
def ibiPending (s : State) : Bool := s.mg.enint && s.mg.da.isSome && ibiCause s != 0 && !s.mg.ibiServed

/-! ### Boot flash -/

/-- MG_FLASH_STAT.BUSY. -/
def flashBusy (s : State) : Bool := s.mg.flash.isSome

/-- Bytes of a flash operation (R518, R524). -/
def flashLen (op : Nat) : Nat := if op = 3 then 4096 else if op = 4 then 65536 else 128

/-- The code of the first failing check of a flash operation, 0 when all pass (R518). -/
def flashCheck (op a : Nat) (s : State) : Nat :=
  let n := flashLen op
  let own := bankBase (takenBank s)
  if op < 1 ∨ 4 < op then cVersion
  else if bootStage s < 3 then cClaim
  else if a % n ≠ 0 ∨ Config.flashSize < a + n then cDimLimit
  else if bootStage s ≠ 0xE1 ∧ a < own + bankSize ∧ own < a + n then cClaim
  else 0

/-- MG_FLASH_STAT.CODE is set. -/
def flashCode (c : Nat) (s : State) : State := { s with mg := { s.mg with flashStat := setFld s.mg.flashStat 8 8 c } }

/-- GO starts the operation that MG_FLASH_CTL describes, or is refused (R518). -/
def flashGo (s : State) : State :=
  let op := fld s.mg.flashCtl 32 3
  let a := fld s.mg.flashCtl 0 32
  let c := flashCheck op a s
  if c = 0 then flashCode 0 { s with mg := { s.mg with flash := some ⟨op, a⟩ } } else flashCode c s

/-- RETRY restarts boot at stage 0x00 from stage 0xE1 only (R519). -/
def flashRetry (s : State) : State := if bootStage s = 0xE1 then setStage 0 (flashCode 0 s) else flashCode cClaim s

/-- A write to MG_FLASH_CTL (R518, R519, R524): GO comes before RETRY in one write (log 66). -/
def flashCtlWrite (src : Src) (d en : Word) (s : State) : State :=
  let w := d &&& en
  if src = .host then wdisc s
  else if bitOf w 63 ∧ flashBusy s then mgErr s
  else
    let s := { s with mg := { s.mg with flashCtl := putBits s.mg.flashCtl d (maskOf 0 35) en } }
    let s := if bitOf w 63 then flashGo s else s
    if bitOf w 62 then flashRetry s else s

/-- The sixteen words of MG_FLASH_BUF as bytes. -/
def flashBufBytes (s : State) : Bytes := (List.range 16).flatMap (fun k => leBytes 8 (tabGet s.mg.flashBuf k 0).toNat)

/-- FLASH_DONE: the operation ends and BUSY clears (R518); an erased byte is 0xFF (log 66). -/
def flashDone (s : State) : State :=
  match s.mg.flash with
  | none => s
  | some j =>
    let s := { s with mg := { s.mg with flash := none } }
    if j.op = 1 then
      { s with mg := { s.mg with flashBuf := (List.range 16).map (fun k => (k, Memory.readWord s.mem.flash (j.addr + 8 * k))) } }
    else if j.op = 2 then setFlash s (Memory.writeBytes s.mem.flash j.addr (flashBufBytes s))
    else setFlash s (Memory.writeBytes s.mem.flash j.addr (List.replicate (flashLen j.op) 0xFF))

/-! ### Registers -/

/-- MG_I3C (R524). -/
def mgI3c (s : State) : Word :=
  (match s.mg.da with | some d => maskOf 56 1 ||| place d.toNat 49 7 | none => 0) ||| s.mg.pid.setWidth 64

/-- Read an MG_ register; none where no register stands (R524). -/
def mgRead (off : Nat) (s : State) : Option (Word × State) :=
  if off = 0xFF00 then some (0x0003A1, s)
  else if off = 0xFF08 then some (mgI3c s, s)
  else if off = 0xFF10 then some (ibiStat s, s)
  else if off = 0xFF18 then some (s.mg.ibiEn, s)
  else if off = 0xFF20 then some (s.mg.flashCtl, s)
  else if off = 0xFF28 then some (setFld s.mg.flashStat 0 1 (flashBusy s).toNat, s)
  else if off = 0xFF30 then some (s.mg.err.setWidth 64, { s with mg := { s.mg with err := 0 } })
  else if 0xFF80 ≤ off ∧ off < 0x10000 then some (tabGet s.mg.flashBuf ((off - 0xFF80) / 8) 0, s)
  else none

/-- Write an MG_ register (R524). -/
def mgWrite (src : Src) (off : Nat) (d en : Word) (s : State) : Option State :=
  match mgRead off s with
  | none => none
  | some _ =>
    if src = .host then some (wdisc s)
    else if off = 0xFF10 then some { s with mg := { s.mg with ibiStat := s.mg.ibiStat &&& ~~~ (d &&& en &&& maskOf 8 2) } }
    else if off = 0xFF18 then some { s with mg := { s.mg with ibiEn := putBits s.mg.ibiEn d (maskOf 8 2 ||| maskOf 0 7) en } }
    else if off = 0xFF20 then some (flashCtlWrite src d en s)
    else if 0xFF80 ≤ off then
      let k := (off - 0xFF80) / 8
      some (if flashBusy s then mgErr s
        else { s with mg := { s.mg with flashBuf := tabSet s.mg.flashBuf k (putBits (tabGet s.mg.flashBuf k 0) d (~~~ 0) en) } })
    else some s

/-! ### Meanings -/

def execFlashRead (w : RegWr) (s : State) : Host.Outcome State Fault Refusal := run s (whenRun 0xFF20 w (flashCtlWrite w.src w.data (enMask w.be)))
def execFlashProgram (w : RegWr) (s : State) : Host.Outcome State Fault Refusal := run s (whenRun 0xFF20 w (flashCtlWrite w.src w.data (enMask w.be)))
def execFlashErase4k (w : RegWr) (s : State) : Host.Outcome State Fault Refusal := run s (whenRun 0xFF20 w (flashCtlWrite w.src w.data (enMask w.be)))
def execFlashErase64k (w : RegWr) (s : State) : Host.Outcome State Fault Refusal := run s (whenRun 0xFF20 w (flashCtlWrite w.src w.data (enMask w.be)))
def execFlashDone (s : State) : Host.Outcome State Fault Refusal := run s flashDone
def execBootRetry (w : RegWr) (s : State) : Host.Outcome State Fault Refusal := run s (whenRun 0xFF20 w (flashCtlWrite w.src w.data (enMask w.be)))

end Sys2Proof.Machine
end

