-- ==== Sys2Proof/Machine/Regs.lean ====
section
/-! DEFINITION. The register window (R38, R531, R532): every block's registers behind one read and one write, and writes that wait. -/

namespace Sys2Proof.Machine

/-- The register at an offset; none where no register table names the word (R531). -/
def regRead (off : Nat) (s : State) : Option (Word × State) :=
  (hpRead off s) |>.or (dqRead off s) |>.or (sfRead off s) |>.or (ppRead off s) |>.or (tlRead off s) |>.or (kvRead off s) |>.or (dmRead off s)
    |>.or (siRead off s) |>.or (cvRead off s) |>.or (rmRead off s) |>.or (snRead off s) |>.or (trRead off s) |>.or (ckRead off s)
    |>.or (pwRead off s) |>.or (mgRead off s)

/-- A write to the register at an offset; none where no register table names the word (R531). -/
def regPut (src : Src) (off : Nat) (d en : Word) (s : State) : Option State :=
  (hpWrite src off d en s) |>.or (dqWrite off d en s) |>.or (sfWrite off d en s) |>.or (ppWrite off d en s) |>.or (tlWrite off d en s)
    |>.or (kvWrite src off d en s) |>.or (dmWrite off d en s) |>.or (siWrite src off d en s) |>.or (cvWrite off d en s) |>.or (rmWrite off d en s)
    |>.or (snWrite off d en s) |>.or (trWrite src off d en s) |>.or (ckWrite src off d en s) |>.or (pwWrite src off d en s)
    |>.or (mgWrite src off d en s)

/-- One register word as a source reads it: a word that no table names reads zero, which the host's reads count (R531). -/
def regWord (src : Src) (off : Nat) (s : State) : Word × State :=
  match regRead off s with
  | some r => r
  | none => (0, if src = .host then rzero s else s)

/-- A write that acts now (R531): to a word that no table names it is discarded and counted by its source. -/
def regApply (src : Src) (off : Nat) (d en : Word) (s : State) : State :=
  match regPut src off d en s with
  | some s => ibiSettle s
  | none => match src with
    | .host => wdisc s
    | .mgmt | .jtag => mgErr s
    | .firmware => s

/-- Offset of STATE of a Carousel slot (R326). -/
def isCslot (off : Nat) : Bool := decide (0xC000 ≤ off ∧ off < 0xE000 ∧ off % 16 = 0)

/-- A write of one register word (R485, R515, R532): with no byte enabled it changes nothing; a Carousel state write of the host and every
write of the management side wait for RUN. -/
def regWrite (src : Src) (off : Nat) (d : Word) (be : BitVec 8) (s : State) : State :=
  if be = 0 then s
  else if mgmtHolds s src ∨ (src = .host ∧ isCslot off ∧ holds s) then { s with held := s.held ++ [⟨src, off, d, be, []⟩] }
  else regApply src off d (enMask be) s

/-- A held request is taken in the first CK of RUN (R485, R515). The window address tells a doorbell, a mailbox or stage GO, an attestation GO;
the rest are register words. -/
def takeHeld (h : HeldReq) (s : State) : State :=
  if h.src = .host ∧ h.addr = 0 then takeDoorbell h.data s
  else if h.src = .host ∧ h.addr = 0x1008 then (if s.dq.busy.isSome then wdisc s else takeMbox s)
  else if h.src = .host ∧ 0x10000 ≤ h.addr then
    let k := (h.addr - 0x10000) / 64
    if slotBusy (stageSlot s k) then wdisc s else takeStage k h.comb s
  else if h.src = .host ∧ h.addr = 0xFC60 then (if s.tr.att.isSome then wdisc s else takeAtt s)
  else regApply h.src h.addr h.data (enMask h.be) s

/-- LEAVING_DONE (R479, R484, R485, R501, R515): the rail has settled and the PLLs that domains had before are locked; the domains go back to
them, and what waited is taken in order of arrival. -/
def leavingDone (s : State) : State :=
  let old := s.pw.selBefore
  if s.pw.mode ≠ modeLeaving ∨ s.pw.avs.isSome ∨ (List.range 4).any (fun k => bitOf old k && !(bitOf s.ck.ready k)) then s
  else
    let s := nextPlan (enterMode modeRun { s with ck := { s.ck with sel := old } })
    s.held.foldl (fun s h => takeHeld h s) { s with held := [] }

/-- A read of one register word, whose value the source sees (R4, R513); before the window is locked the host reads zero (R30). -/
def rcRead (src : Src) (off : Nat) (s : State) : State :=
  if src = .host ∧ ¬ locked s then { s with rd := 0 }
  else let (w, s) := regWord src (off / 8 * 8) s; { s with rd := w }

/-! ### Meanings -/

def execRcRegisterRead (src : Src) (off : BitVec 16) (s : State) : Host.Outcome State Fault Refusal := run s (rcRead src off.toNat)
def execLeavingDone (s : State) : Host.Outcome State Fault Refusal := run s leavingDone

end Sys2Proof.Machine
end

