-- ==== Sys2Proof/Machine/Window.lean ====
section
/-! DEFINITION. The host window (02): reads and writes of every region of R37 and R38, damaged words of the aperture (R40, R423). -/

namespace Sys2Proof.Machine

/-! ### Reading the aperture SRAM -/

/-- Uncorrectable words of a range of the aperture (R352). -/
def badWords (s : State) (a n : Nat) : List Damage := (damageIn s .aperture 0 a n).filter (·.ue)

/-- A demand read of the aperture meets its damage (R351, R352, R422, R423, R427). -/
def apTouch (a n : Nat) (s : State) : State :=
  let bad := badWords s a n
  bad.foldl (fun s d => scrubUe d s) (readCheck .aperture 0 a n s).2

/-- A word of the aperture as the host reads it: all ones where it is damaged (R423). -/
def apWord (s : State) (a : Nat) : Bytes :=
  if (badWords s a 8).isEmpty then Memory.readBytes s.mem.ap a 8 else List.replicate 8 0xFF

/-- The LAP byte of a half-record that holds a damaged word is the inverse of the lap stored in the slot (R423). -/
def lapFix (s : State) (a : Nat) (bs : Bytes) : Bytes :=
  if a % 32 = 0 ∧ ¬ (badWords s a 32).isEmpty then bs.set 0 (~~~ (Memory.read s.mem.ap (a / 64 * 64))) else bs

/-! ### Regions -/

/-- The areas of the window (R37, R38). -/
inductive Area where
  | doorbell | mailbox | status | probe | regs | stageCtl | reserved | rings | text | carousel | stageBuf | staged | remainder
  deriving DecidableEq, Repr

/-- The area of a window address (R37, R38). -/
def areaOf (a : Nat) : Area :=
  if a < 0x1000 then .doorbell else if a < 0x2000 then .mailbox else if a < 0x3000 then .status else if a < 0x4000 then .probe
  else if a < 0x10000 then .regs else if a < 0x10E00 then .stageCtl else if a < 0x100000 then .reserved else if a < 0x900000 then .rings
  else if a < 0x1100000 then .text else if a < 0x1900000 then .carousel else if a < 0x2000000 then .stageBuf
  else if a < 0x100000000 then .staged else .remainder

/-- Firmware has finished boot (R451). -/
def bootDone (s : State) : Bool := bootStage s == 9 || bootStage s == 0xE4

/-- A word of the status page (R39). -/
def statusWord (s : State) (a : Nat) : Word :=
  if a = 0x2000 then s.now
  else if a = 0x2008 then place (bootStage s) 8 8 ||| place (locked s && bootDone s).toNat 0 1
  else if a = 0x2010 then s.hp.alertStat &&& maskOf 0 8
  else 0

/-- Words of a burst. -/
def burstWords (a n : Nat) : List Nat := (List.range (n / 8)).map (fun i => a + 8 * i)

/-- A burst of words that are computed. -/
def wordBurst (f : Nat → Word) (a n : Nat) : Bytes := (burstWords a n).flatMap (fun w => leBytes 8 (f w).toNat)

/-- A burst of zeros, counted in HP_RZERO (R38, R48, R52). -/
def zeroBurst (n : Nat) (s : State) : Bytes × State := (List.replicate n 0, rzero s)

/-- A read burst of the register window, word by word in rising order (R26, R531). -/
def regBurst (a n : Nat) (s : State) : Bytes × State :=
  (burstWords a n).foldl (fun r w => let (v, s) := regWord .host w r.2; (r.1 ++ leBytes 8 v.toNat, s)) ([], s)

/-- A read burst of `n` bytes at a window address (R26, R36 to R41, R48, R52, R65, R70). -/
def burstRead (a n : Nat) (s : State) : Bytes × State :=
  let ap := ((burstWords a n).flatMap (apWord s), apTouch a n s)
  match areaOf a with
  | .doorbell => (wordBurst (fun _ => s.dq.dbCount.setWidth 64) a n, s)
  | .mailbox =>
    if a < 0x1080 then (wordBurst (fun w => reqWord s ((w - 0x1000) / 8)) a n, s)
    else if 0x1800 ≤ a ∧ a < 0x1880 then (wordBurst (fun w => tabGet s.dq.reply ((w - 0x1800) / 8) 0) a n, s)
    else zeroBurst n s
  | .status => (wordBurst (statusWord s) a n, s)
  | .probe => (wordBurst (BitVec.ofNat 64) a n, s)
  | .regs => regBurst a n s
  | .stageCtl => (wordBurst (fun w => stageCtlRead s ((w - 0x10000) / 64) (w % 64)) a n, s)
  | .rings => ((List.range (n / 32)).flatMap (fun i => lapFix s (a + 32 * i) ((burstWords (a + 32 * i) 32).flatMap (apWord s))), ap.2)
  | .text | .carousel => ap
  | .stageBuf => if slotBusy (stageSlot s ((a - 0x1900000) / 0x20000)) then zeroBurst n s else ap
  | .reserved | .staged | .remainder => zeroBurst n s

/-- A host read (R26, R27, R30 to R32). -/
def hostRead (r : HostRd) (bin : SpeedBin) (s : State) : State :=
  match r with
  | .mode ch mr =>
    { s with hp := { s.hp with dq := some ⟨[mrGet s ch.toNat (fspWr s ch.toNat) mr.toNat], [false], readLatency s ch.toNat⟩ } }
  | .burst b bl32 =>
    let ch := b.ch.toNat
    if s.hp.training.getLsbD ch then s
    else
      let n := if bl32 then 64 else 32
      let rl := readLatency s ch
      let low : Bool := rl < minRl bin
      let s := if low then { s with hp := { s.hp with train := s.hp.train ||| trainBit ch 4 } } else s
      let a := busWindow s b
      let (bs, s) := if locked s then burstRead (a - a % n) n s else (List.replicate n 0, s)
      let (bs, s) := if low then freshBytes n s else (bs, s)
      { s with hp := { s.hp with dq := some (driveDq s ch bs) } }

/-! ### Writing -/

/-- The words of a write burst with their enables, in rising order: window address, data, byte enables. -/
def writeWords (a : Nat) (b : Burst) : List (Nat × Word × BitVec 8) :=
  (List.range (b.data.length / 8)).map (fun i =>
    (a + 8 * i, BitVec.ofNat 64 (leAt b.data (8 * i) 8),
      BitVec.ofNat 8 ((List.range 8).foldl (fun n j => if nth b.mask (8 * i + j) false then n + 2 ^ j else n) 0)))

/-- A burst that is discarded; counted unless none of its bytes is enabled (R38, R532). -/
def discardBurst (b : Burst) (s : State) : State := if b.mask.any id then wdisc s else s

/-- A burst to the doorbell page (R70). -/
def doorbellBurst (ws : List (Nat × Word × BitVec 8)) (s : State) : State :=
  ws.foldl (fun s w => if w.2.2 = 255 then doorbell w.2.1 s else if w.2.2 = 0 then s else wdisc s) s

/-- A burst to the mailbox request record: GO acts after the burst's other words (R66). -/
def mboxBurst (ws : List (Nat × Word × BitVec 8)) (s : State) : State :=
  let put := fun (s : State) (w : Nat × Word × BitVec 8) => mboxWrite ((w.1 - 0x1000) / 8) w.2.1 (enMask w.2.2) s
  (ws.filter (fun w => w.1 == 0x1008)).foldl put ((ws.filter (fun w => w.1 != 0x1008)).foldl put s)

/-- A burst to a stage control record (R48, R49): GO acts after the burst's other words, and one to a busy slot changes nothing of it. -/
def stageBurst (k : Nat) (ws : List (Nat × Word × BitVec 8)) (s : State) : State :=
  let go := ws.any (fun w => w.1 % 64 == 8 && bitOf (w.2.1 &&& enMask w.2.2) 12)
  if go ∧ slotBusy (stageSlot s k) then wdisc s
  else
    let put := fun (s : State) (w : Nat × Word × BitVec 8) => stageCtlWrite k (w.1 % 64) w.2.1 (enMask w.2.2) s
    (ws.filter (fun w => w.1 % 64 == 8)).foldl put ((ws.filter (fun w => w.1 % 64 != 8)).foldl put s)

/-- A burst to the Carousel: the enabled bytes are stored, and each written word gets fresh check bits (R324, R422, R532). -/
def carouselBurst (a : Nat) (b : Burst) (s : State) : State :=
  (writeWords a b).foldl (fun s w => if w.2.2 = 0 then s else heal .aperture 0 w.1 8 s) (setAp s (Memory.writeMasked s.mem.ap a b.data b.mask))

/-- A host write burst at a window address (R37, R38, R41, R65, R532). -/
def burstWrite (a : Nat) (b : Burst) (s : State) : State :=
  let ws := writeWords a b
  match areaOf a with
  | .doorbell => doorbellBurst ws s
  | .mailbox => if a < 0x1080 then mboxBurst ws s else discardBurst b s
  | .regs => ws.foldl (fun s w => regWrite .host w.1 w.2.1 w.2.2 s) s
  | .stageCtl => stageBurst ((a - 0x10000) / 64) ws s
  | .carousel => carouselBurst a b s
  | .staged => stagedWrite a b.data b.mask s
  | .remainder => wdisc s
  | .status | .probe | .reserved | .rings | .text | .stageBuf => discardBurst b s

/-- REGISTER_WRITE: a host burst on the window, or one register word from any source (R30, R31, R532). -/
def registerWrite (r : RegAccess) (s : State) : State :=
  match r with
  | .host b =>
    let b := received s b
    let a := busWindow s b.addr
    let n := if b.data.length = 32 then 32 else 64
    if s.hp.training.getLsbD b.addr.ch.toNat ∨ ¬ locked s then s else burstWrite (a - a % n) b s
  | .reg off w => if w.src = .host ∧ ¬ locked s then s else regWrite w.src (off.toNat / 8 * 8) w.data w.be s

/-! ### Meanings -/

def execHostRead (r : HostRd) (bin : SpeedBin) (s : State) : Host.Outcome State Fault Refusal := run s (hostRead r bin)
def execRegisterWrite (r : RegAccess) (s : State) : Host.Outcome State Fault Refusal := run s (registerWrite r)

end Sys2Proof.Machine
end

