-- ==== Sys2Proof/Machine/Mgmt.lean ====
section
/-! DEFINITION. The management bus (19, R508 to R517) and JTAG (R520 to R523). -/

namespace Sys2Proof.Machine

/-! ### Common command codes -/

/-- What the target drives on the bus. -/
def drive (b : Bytes) (s : State) : State := { s with mg := { s.mg with out := b } }

/-- A number as `n` bytes, most significant first, as I3C sends it. -/
def msbFirst (n v : Nat) : Bytes := (leBytes n v).reverse

/-- The word of the arbitration: PID, BCR, DCR (R508, R510). -/
def daaWord (s : State) : BitVec 64 := BitVec.ofNat 64 (s.mg.pid.toNat * 65536 + 0x0600)

/-- The target takes part in ENTDAA (R510). -/
def daaTakesPart (s : State) : Bool := s.mg.da.isNone && bootStage s != 0

/-- ENTDAA: each round the lowest word wins the next address (R510); targets with equal words take one address together (R511). -/
def entdaa (rivals : List (BitVec 64)) (addrs : Bytes) (s : State) : State :=
  if daaTakesPart s then
    let mine := daaWord s
    let before := (rivals.filter (fun w => decide (w.toNat < mine.toNat))).dedup.length
    drive (msbFirst 8 mine.toNat) { s with mg := { s.mg with da := (addrs[before]?).map (· &&& 0x7F) } }
  else s

/-- RSTDAA (R510, R516). -/
def rstdaa (s : State) : State := { s with mg := { s.mg with da := none, enint := false, ibiNacked := false } }

/-- SETNEWDA reaches a target that has an address (R508). -/
def setnewda (da : Byte) (s : State) : State :=
  if s.mg.da.isSome then { s with mg := { s.mg with da := some (da &&& 0x7F) } } else s

/-- A direct GET CCC is answered by a target that has an address (R508). -/
def directGet (b : Bytes) (s : State) : State := if s.mg.da.isSome then drive b s else s

/-- The two status bytes: the pending-interrupt field is 1 while an in-band interrupt waits (I3C v1.1.1, log 67). -/
def getStatus (s : State) : Bytes := [0, if ibiPending s then 1 else 0]

/-- ENEC (R511, R516): bit 0 ENINT, bit 3 ENHJ; a target that becomes enabled while the AND is nonzero requests at once. -/
def enec (b : Byte) (s : State) : State :=
  let m := s.mg
  let m := if b.getLsbD 0 ∧ ¬ m.enint then { m with enint := true, ibiServed := false, ibiNacked := false } else m
  { s with mg := if b.getLsbD 3 then { m with enhj := true } else m }

/-- DISEC (R511, R516): a request still pending is dropped. -/
def disec (b : Byte) (s : State) : State :=
  let m := s.mg
  let m := if b.getLsbD 0 then { m with enint := false, ibiNacked := false } else m
  { s with mg := if b.getLsbD 3 then { m with enhj := false } else m }

/-! ### Register access -/

/-- An offset that a transfer may name (R512). -/
def mgOffset (off : Nat) : Bool := decide (off % 8 = 0 ∧ 0x4000 ≤ off ∧ off < 0x10000)

/-- The groups of 8 bytes of a write, one register after the other; one past the window's end names no register (R512, R531, log 67). -/
def groupWrites (src : Src) : Nat → Nat → Bytes → State → State
  | 0, _, _, s => s
  | n + 1, off, bs, s =>
    let w := BitVec.ofNat 64 (leAt bs 0 8)
    groupWrites src n (off + 8) (bs.drop 8) (if off < 0x10000 then regWrite src off w 255 s else mgErr s)

/-- A private write that the target accepts wakes the device (R484, R512, R515). -/
def privateWrite (d : Bytes) (s : State) : State :=
  if s.mg.da.isNone then s
  else
    let s := wakeUp 2 s
    let cmd := leAt d 0 1
    let off := leAt d 1 2
    let data := d.drop 3
    if d = [] then s
    else if d.length < 3 ∨ ¬ (cmd = 1 ∨ cmd = 2) ∨ ¬ mgOffset off then mgErr s
    else if cmd = 2 then { s with mg := { s.mg with ptr := off } }
    else
      let s := groupWrites .mgmt (data.length / 8) off data s
      if data.length % 8 = 0 then s else mgErr s

/-- The words of a private read; past the window's end they are zero (R513). -/
def readWords : Nat → State → Bytes × State
  | 0, s => ([], s)
  | n + 1, s =>
    let (w, s) := if s.mg.ptr < 0x10000 then regWord .mgmt s.mg.ptr s else ((0 : Word), s)
    let (r, s) := readWords n { s with mg := { s.mg with ptr := s.mg.ptr + 8 } }
    (leBytes 8 w.toNat ++ r, s)

/-- A private read of `n` words (R513). -/
def privateRead (n : Nat) (s : State) : State :=
  if s.mg.da.isNone then s else let (b, s) := readWords n s; drive b s

/-! ### Requests of the target -/

/-- HOT_JOIN (R511): a target without an address drives the Hot-Join address (I3C v1.1.1, log 67). -/
def hotJoin (s : State) : State :=
  if s.mg.da.isNone && s.mg.enhj && bootStage s != 0 && bootStage s != 0xE2 then drive [0x02] s else s

/-- The 4-byte payload of an in-band interrupt (R517). -/
def ibiPayload (s : State) : Bytes := [0x01] ++ leBytes 2 (ibiStat s).toNat ++ leBytes 1 (bootStage s)

/-- The controller accepts the request, or NACKs it (R516, R517). -/
def ibiAnswer (acked : Bool) (s : State) : State :=
  if acked then drive (ibiPayload s) { s with mg := { s.mg with ibiServed := true, ibiNacked := false } }
  else { s with mg := { s.mg with ibiNacked := true } }

/-- IBI_REQUEST (R516). -/
def ibiRequest (acked : Bool) (s : State) : State := if ibiPending s && !s.mg.ibiNacked then ibiAnswer acked s else s

/-- IBI_RETRY: the request again after a NACK (R516). -/
def ibiRetry (acked : Bool) (s : State) : State := if ibiPending s && s.mg.ibiNacked then ibiAnswer acked s else s

/-! ### JTAG -/

/-- TAP_RESET (R520). -/
def tapReset (s : State) : State := { s with mg := { s.mg with tlr := true, ir := 0x02, pins := false } }

/-- The TAP leaves Test-Logic-Reset, which is a wake trigger (R484), and its instruction register is loaded. -/
def loadIr (code : Byte) (s : State) : State :=
  let s := if s.mg.tlr then wakeUp 3 s else s
  { s with mg := { s.mg with tlr := false, ir := code, pins := false } }

/-- BYPASS is loaded in place of a refused instruction, and MG_ERR counts (R521) unless a rail holds it in reset (R494). -/
def refuseIr (s : State) : State := if inReset s then loadIr 0xFF s else mgErr (loadIr 0xFF s)

/-- The 412 cells of the boundary scan register (R520). -/
def bsrCells (b : Bytes) : Bytes :=
  let b := exact 52 b
  b.set 51 (nth b 51 0 &&& 0x0F)

/-- An instruction that takes effect only while PORST_N is asserted (R521). -/
def underPorst (f : State → State) (s : State) : State := if s.pw.porst then f s else refuseIr s

/-- The pins are driven from the boundary scan register (R520, R521). -/
def drivePins (code : Byte) (s : State) : State := let s := loadIr code s; { s with mg := { s.mg with pins := true } }

/-- The boundary scan register is loaded. -/
def loadBsr (b : Bytes) (s : State) : State := { s with mg := { s.mg with bsr := bsrCells b } }

/-- Codes of R520. -/
def jtagCodes : List Nat := [0x00, 0x01, 0x02, 0x03, 0x04, 0x05, 0x06, 0x10]

/-- BYPASS, and every reserved code in its place (R520, R521). -/
def bypass (code : Byte) (s : State) : State :=
  if code = 0xFF then loadIr 0xFF s else if jtagCodes.contains code.toNat then s else refuseIr s

/-- MGACC's register after an access: the operation field and the value (R523). -/
def mgaccDr (dr : BitVec 80) (op : Nat) (w : Word) : BitVec 80 :=
  BitVec.ofNat 80 (op * 2 ^ 78 + dr.toNat / 2 ^ 64 % 2 ^ 14 * 2 ^ 64 + w.toNat)

/-- MGACC at Update-DR (R522, R523): refused under owner lock as a reserved code is; offsets outside the window refuse the access. -/
def mgacc (dr : BitVec 80) (s : State) : State :=
  if bitOf s.tr.owner 1 then refuseIr s
  else
    let s := loadIr 0x10 s
    let op := dr.toNat / 2 ^ 78
    let off := dr.toNat / 2 ^ 65 % 2 ^ 13 * 8
    let w : Word := dr.setWidth 64
    let put := fun (op : Nat) (w : Word) (s : State) => { s with mg := { s.mg with dr := mgaccDr dr op w } }
    if op = 0 then put 0 w s
    else if op = 3 ∨ inReset s then put 3 w s
    else if ¬ mgOffset off then put 3 w (mgErr s)
    else if op = 1 then let (v, s) := regWord .jtag off s; put 1 v s
    else put 1 w (regWrite .jtag off w 255 s)

/-! ### Meanings -/

def execEntdaa (rivals : List (BitVec 64)) (addrs : Bytes) (s : State) : Host.Outcome State Fault Refusal := run s (entdaa rivals addrs)
def execRstdaa (s : State) : Host.Outcome State Fault Refusal := run s rstdaa
def execSetnewda (da : Byte) (s : State) : Host.Outcome State Fault Refusal := run s (setnewda da)
def execGetpid (s : State) : Host.Outcome State Fault Refusal := run s (directGet (msbFirst 6 s.mg.pid.toNat))
def execGetbcr (s : State) : Host.Outcome State Fault Refusal := run s (directGet [0x06])
def execGetdcr (s : State) : Host.Outcome State Fault Refusal := run s (directGet [0x00])
def execGetstatus (s : State) : Host.Outcome State Fault Refusal := run s (directGet (getStatus s))
def execGetmwl (s : State) : Host.Outcome State Fault Refusal := run s (directGet (msbFirst 2 2043))
def execGetmrl (s : State) : Host.Outcome State Fault Refusal := run s (directGet (msbFirst 2 2040 ++ [4]))
def execEnec (bits : Byte) (s : State) : Host.Outcome State Fault Refusal := run s (enec bits)
def execDisec (bits : Byte) (s : State) : Host.Outcome State Fault Refusal := run s (disec bits)

/-- Any other CCC changes nothing (R508). -/
def execUnsupportedCcc (_code : Byte) (s : State) : Host.Outcome State Fault Refusal := run s id

def execI3cRegisterWrite (data : Bytes) (s : State) : Host.Outcome State Fault Refusal := run s (privateWrite data)
def execSetReadPointer (data : Bytes) (s : State) : Host.Outcome State Fault Refusal := run s (privateWrite data)
def execI3cRegisterRead (n : Nat) (s : State) : Host.Outcome State Fault Refusal := run s (privateRead n)
def execHotJoin (s : State) : Host.Outcome State Fault Refusal := run s hotJoin
def execIbiRequest (acked : Bool) (s : State) : Host.Outcome State Fault Refusal := run s (ibiRequest acked)
def execIbiRetry (acked : Bool) (s : State) : Host.Outcome State Fault Refusal := run s (ibiRetry acked)
def execTapReset (s : State) : Host.Outcome State Fault Refusal := runHeld s tapReset
def execExtest (bsr : Bytes) (s : State) : Host.Outcome State Fault Refusal := runHeld s (underPorst (fun s => loadBsr bsr (drivePins 0x00 s)))
def execSamplePreload (bsr : Bytes) (s : State) : Host.Outcome State Fault Refusal := runHeld s (fun s => loadBsr bsr (loadIr 0x01 s))
def execIdcode (s : State) : Host.Outcome State Fault Refusal := runHeld s (fun s => let s := loadIr 0x02 s; { s with mg := { s.mg with dr := 0x10003B35 } })
def execHighz (s : State) : Host.Outcome State Fault Refusal := runHeld s (underPorst (loadIr 0x03))
def execClamp (s : State) : Host.Outcome State Fault Refusal := runHeld s (underPorst (drivePins 0x04))
def execExtestPulse (bsr : Bytes) (s : State) : Host.Outcome State Fault Refusal := runHeld s (underPorst (fun s => loadBsr bsr (drivePins 0x05 s)))
def execExtestTrain (bsr : Bytes) (s : State) : Host.Outcome State Fault Refusal := runHeld s (underPorst (fun s => loadBsr bsr (drivePins 0x06 s)))
def execBypass (code : Byte) (s : State) : Host.Outcome State Fault Refusal := runHeld s (bypass code)
def execMgaccRead (dr : BitVec 80) (s : State) : Host.Outcome State Fault Refusal := runHeld s (mgacc dr)
def execMgaccWrite (dr : BitVec 80) (s : State) : Host.Outcome State Fault Refusal := runHeld s (mgacc dr)

end Sys2Proof.Machine
end

