-- ==== Sys2Proof/Machine/TileVector.lean ====
section
/-! DEFINITION. Vector slots of a tile and the Midway operation (R187, R188, R217, R218, R256, R258). -/

namespace Sys2Proof.Machine

/-- Map two vectors lane by lane. -/
def lanes2 (f : BitVec 32 → BitVec 32 → BitVec 32) (a b : Lanes) : Lanes := Vector.ofFn (fun k : Fin 64 => f a[k] b[k])

/-- A vector operation on a and b with latency `n`, predicated lane by lane (R214, R217). -/
def vectorOp (n : Nat) (f : BitVec 32 → BitVec 32 → BitVec 32) (o : Op) : State → State :=
  issue (o.ok rowVec2) o (fun l t => putV l o n (lanes2 f (t.readV o.srcA) (t.vectorB o)) (t.pred o))

/-- A vector operation on a alone (R217). -/
def vectorOp1 (n : Nat) (f : Lanes → Lanes) (o : Op) : State → State :=
  issue (o.ok rowVec1) o (fun l t => putV l o n (f (t.readV o.srcA)) (t.pred o))

/-- VSH of a lane (R217). -/
def vshLane (mode : Nat) (a b : BitVec 32) : BitVec 32 :=
  let k := b.toNat % 64
  match mode with
  | 0 => if 32 ≤ k then 0 else a <<< k
  | 1 => if 32 ≤ k then 0 else a >>> k
  | _ => a.sshiftRight (min 31 k)

/-- Combine lanes in the tree of R218: `n` levels of adjacent pairs. -/
def tree (f : BitVec 32 → BitVec 32 → BitVec 32) : Nat → List (BitVec 32) → List (BitVec 32)
  | 0, l => l
  | n + 1, l => tree f n ((List.range (l.length / 2)).map (fun j => f (nth l (2 * j) 0) (nth l (2 * j + 1) 0)))

/-- A reduction into lane 0, the other lanes zero (R218). -/
def reduce (f : BitVec 32 → BitVec 32 → BitVec 32) (v : Lanes) : Lanes :=
  let r := nth (tree f 6 v.toList) 0 0
  Vector.ofFn (fun k : Fin 64 => if k.val = 0 then r else 0)

/-- LSH: lane k + IMM of a, zero beyond the vector (R217). -/
def lshLanes (v : Lanes) (n : Int) : Lanes :=
  Vector.ofFn (fun k : Fin 64 => let i : Int := k.val + n; if 0 ≤ i ∧ i < 64 then nth v.toList i.toNat 0 else 0)

/-- The Midway section that serves a tile (R364). -/
def midwayOf (s : State) (part l : Nat) : Option MidwayDef := s.si.conf.midways.find? (fun m => m.part == part && m.tiles.getLsbD l)

/-- Operand lanes that a Midway column reads: its own and those of its neighbours, zero beyond the edges (R187). -/
def columnLanes (a b c : Lanes) (k : Nat) : List (BitVec 32) :=
  [a, b, c].flatMap (fun v => [if k = 0 then 0 else nth v.toList (k - 1) 0, nth v.toList k 0, nth v.toList (k + 1) 0])

/-- A custom operation on every column, with the flip-flops it leaves (R187, R190; log 18). -/
def midwayRun (m : MidwayDef) (n : Nat) (a b c : Lanes) (x : BitVec 64) (ff : List (Nat × BitVec 384)) : Lanes × List (Nat × BitVec 384) :=
  let img := Memory.readBytes m.frames 0 (384 * 512)
  let out := (List.range 64).map (fun k => Config.midway img k n (columnLanes a b c k) x (tabGet ff k 0))
  (Vector.ofFn (fun k : Fin 64 => (nth out k.val (0, 0)).1), (List.range 64).foldl (fun t k => tabSet t k (nth out k (0, 0)).2) ff)

def execFadd (o : Op) (s : State) : Host.Outcome State Fault Refusal := run s (vectorOp 4 f32add o)
def execFsub (o : Op) (s : State) : Host.Outcome State Fault Refusal := run s (vectorOp 4 f32sub o)
def execFmul (o : Op) (s : State) : Host.Outcome State Fault Refusal := run s (vectorOp 4 f32mul o)
def execFmin (o : Op) (s : State) : Host.Outcome State Fault Refusal := run s (vectorOp 2 f32min o)
def execFmax (o : Op) (s : State) : Host.Outcome State Fault Refusal := run s (vectorOp 2 f32max o)
def execIadd (o : Op) (s : State) : Host.Outcome State Fault Refusal := run s (vectorOp 1 (· + ·) o)
def execIsub (o : Op) (s : State) : Host.Outcome State Fault Refusal := run s (vectorOp 1 (· - ·) o)
def execVand (o : Op) (s : State) : Host.Outcome State Fault Refusal := run s (vectorOp 1 (· &&& ·) o)
def execVor (o : Op) (s : State) : Host.Outcome State Fault Refusal := run s (vectorOp 1 (· ||| ·) o)
def execVxor (o : Op) (s : State) : Host.Outcome State Fault Refusal := run s (vectorOp 1 (· ^^^ ·) o)

def execFma (o : Op) (s : State) : Host.Outcome State Fault Refusal :=
  run s (issue (o.ok rowVec3) o (fun l t =>
    let a := t.readV o.srcA
    let b := t.vectorB o
    let z := t.readV o.srcC
    putV l o 4 (Vector.ofFn (fun k : Fin 64 => f32fma a[k] b[k] z[k])) (t.pred o)))

def execFcmp (o : Op) (s : State) : Host.Outcome State Fault Refusal :=
  run s (issue (fcmpOk o) o (fun l t s =>
    let a := (t.readV o.srcA).toList
    let b := (t.vectorB o).toList
    let m := (List.range 64).foldl (fun (m : Nat) k => if f32cmp (o.fieldOf 1 4) (nth a k 0) (nth b k 0) then m + 2 ^ k else m) 0
    if t.off o then s else putP l o 2 (BitVec.ofNat 64 m) s))

def execVsh (o : Op) (s : State) : Host.Outcome State Fault Refusal :=
  run s (issue (vshOk o) o (fun l t => putV l o 1 (lanes2 (vshLane (o.fieldOf 1 2)) (t.readV o.srcA) (t.vectorB o)) (t.pred o)))

def execVsel (o : Op) (s : State) : Host.Outcome State Fault Refusal :=
  run s (issue (o.ok rowVsel) o (fun l t => putV l o 1 (blend (t.readP o.srcC) (t.readV o.srcA) (t.vectorB o)) (t.pred o)))

def execPerm (o : Op) (s : State) : Host.Outcome State Fault Refusal :=
  run s (issue (o.ok rowVec2) o (fun l t =>
    let a := (t.readV o.srcA).toList
    let b := t.vectorB o
    putV l o 2 (Vector.ofFn (fun k : Fin 64 => nth a (b[k].toNat % 64) 0)) (t.pred o)))

def execLsh (o : Op) (s : State) : Host.Outcome State Fault Refusal :=
  run s (issue (o.ok rowLsh) o (fun l t => putV l o 2 (lshLanes (t.readV o.srcA) o.imm.toInt) (t.pred o)))

/-- CVT raises its flags for the lanes that it writes (R248, R258, R260). -/
def execCvt (o : Op) (s : State) : Host.Outcome State Fault Refusal :=
  run s (issue (cvtOk o) o (fun l t s =>
    let a := (t.readV o.srcA).toList
    let b := (t.vectorB o).toList
    let m := t.pred o
    let r := (List.range 64).map (fun k => cvtLane (o.fieldOf 1 4) (nth a k 0) (nth b k 0))
    let on := ((List.range 64).zip r).filter (fun e => m.getLsbD e.1)
    let s := raiseFlags l [(.sat, on.any (fun e => e.2.2.1)), (.nanIn, on.any (fun e => e.2.2.2))] s
    putV l o 3 (Vector.ofFn (fun k : Fin 64 => (nth r k.val (0, false, false)).1)) m s))

def execExp2 (o : Op) (s : State) : Host.Outcome State Fault Refusal := run s (vectorOp1 8 (·.map f32exp2) o)
def execLog2 (o : Op) (s : State) : Host.Outcome State Fault Refusal := run s (vectorOp1 8 (·.map f32log2) o)
def execRcp (o : Op) (s : State) : Host.Outcome State Fault Refusal := run s (vectorOp1 8 (·.map f32rcp) o)
def execRsq (o : Op) (s : State) : Host.Outcome State Fault Refusal := run s (vectorOp1 8 (·.map f32rsq) o)
def execRsum (o : Op) (s : State) : Host.Outcome State Fault Refusal := run s (vectorOp1 6 (reduce f32add) o)
def execRmax (o : Op) (s : State) : Host.Outcome State Fault Refusal := run s (vectorOp1 6 (reduce f32max) o)

/-- CUSTOM (R188): the result lands after the latency that the image declares; flip-flops are those of R190. -/
def execCustom (o : Op) (s : State) : Host.Outcome State Fault Refusal :=
  run s (issue (customOk o) o (fun l t s =>
    match t.cmd.bind (fun c => midwayOf s c.part l) with
    | none => s
    | some m =>
      let n := o.fieldOf 8 6
      let (v, ff) := midwayRun m n (t.readV o.srcA) (t.vectorB o) (t.readV o.srcC) (t.readS (o.imm.setWidth 8)) t.ff
      let lat := max 1 (nth m.lat n 1)
      modTile l (fun t => { t with ff := ff }) (putV l o lat v (t.pred o) s)))

end Sys2Proof.Machine
end

