-- ==== Sys2Proof/Machine/Dispatch.lean ====
section
/-! DEFINITION. The dispatch of commands to their meanings, one arm for each row of the table. -/

namespace Sys2Proof.Machine

def exec (i : Instr) (s : State) : Host.Outcome State Fault Refusal :=
  match i with
  | .modeRegisterWrite ch mr v => Sys2Proof.Machine.execModeRegisterWrite ch mr v s
  | .hostPortReset => Sys2Proof.Machine.execHostPortReset s
  | .commandBusTraining ch ph => Sys2Proof.Machine.execCommandBusTraining ch ph s
  | .wck2ckLevelling ch ph => Sys2Proof.Machine.execWck2ckLevelling ch ph s
  | .readDqCalibration ch ph => Sys2Proof.Machine.execReadDqCalibration ch ph s
  | .writeDqFifoTraining ch data ph => Sys2Proof.Machine.execWriteDqFifoTraining ch data ph s
  | .zqCalibration ch latch => Sys2Proof.Machine.execZqCalibration ch latch s
  | .refresh ch kind => Sys2Proof.Machine.execRefresh ch kind s
  | .hostIdleEntry mode => Sys2Proof.Machine.execHostIdleEntry mode s
  | .hostIdleExit => Sys2Proof.Machine.execHostIdleExit s
  | .hostRead a bin => Sys2Proof.Machine.execHostRead a bin s
  | .stagedWindowWrite b => Sys2Proof.Machine.execStagedWindowWrite b s
  | .registerWrite r => Sys2Proof.Machine.execRegisterWrite r s
  | .rcRegisterRead src off => Sys2Proof.Machine.execRcRegisterRead src off s
  | .combiningDrain blk ue => Sys2Proof.Machine.execCombiningDrain blk ue s
  | .stageRequest k w => Sys2Proof.Machine.execStageRequest k w s
  | .stageDone k errs => Sys2Proof.Machine.execStageDone k errs s
  | .queueOpen r => Sys2Proof.Machine.execQueueOpen r s
  | .queueClose r => Sys2Proof.Machine.execQueueClose r s
  | .queueQuery r => Sys2Proof.Machine.execQueueQuery r s
  | .queueResume r => Sys2Proof.Machine.execQueueResume r s
  | .queueClosed q => Sys2Proof.Machine.execQueueClosed q s
  | .commandDoorbell value resv g3 id => Sys2Proof.Machine.execCommandDoorbell value resv g3 id s
  | .ringConsume value resv g3 id => Sys2Proof.Machine.execRingConsume value resv g3 id s
  | .commandFetch q => Sys2Proof.Machine.execCommandFetch q s
  | .nop q => Sys2Proof.Machine.execNop q s
  | .page q => Sys2Proof.Machine.execPage q s
  | .fence q => Sys2Proof.Machine.execFence q s
  | .fenceComplete q => Sys2Proof.Machine.execFenceComplete q s
  | .profileLoad q => Sys2Proof.Machine.execProfileLoad q s
  | .scanArm q => Sys2Proof.Machine.execScanArm q s
  | .scanDisarm q => Sys2Proof.Machine.execScanDisarm q s
  | .kvTableSwap q => Sys2Proof.Machine.execKvTableSwap q s
  | .recordWrite q => Sys2Proof.Machine.execRecordWrite q s
  | .pageRelease pid => Sys2Proof.Machine.execPageRelease pid s
  | .drainTimeout q => Sys2Proof.Machine.execDrainTimeout q s
  | .qevtPop src => Sys2Proof.Machine.execQevtPop src s
  | .generatorRun w => Sys2Proof.Machine.execGeneratorRun w s
  | .generatorStop w => Sys2Proof.Machine.execGeneratorStop w s
  | .patternRamWrite w => Sys2Proof.Machine.execPatternRamWrite w s
  | .patternRun => Sys2Proof.Machine.execPatternRun s
  | .sethi => Sys2Proof.Machine.execSethi s
  | .loop0 => Sys2Proof.Machine.execLoop0 s
  | .loop1 => Sys2Proof.Machine.execLoop1 s
  | .waitLine => Sys2Proof.Machine.execWaitLine s
  | .capture => Sys2Proof.Machine.execCapture s
  | .colour => Sys2Proof.Machine.execColour s
  | .patternEnd => Sys2Proof.Machine.execPatternEnd s
  | .linePeriod => Sys2Proof.Machine.execLinePeriod s
  | .encoderEdge => Sys2Proof.Machine.execEncoderEdge s
  | .laneTrain w => Sys2Proof.Machine.execLaneTrain w s
  | .laneLock lane => Sys2Proof.Machine.execLaneLock lane s
  | .scanLine h planes => Sys2Proof.Machine.execScanLine h planes s
  | .reservation door => Sys2Proof.Machine.execReservation door s
  | .calibrateDark h w => Sys2Proof.Machine.execCalibrateDark h w s
  | .calibrateWhite h w => Sys2Proof.Machine.execCalibrateWhite h w s
  | .calibrationDone h => Sys2Proof.Machine.execCalibrationDone h s
  | .csi2FrameStart c => Sys2Proof.Machine.execCsi2FrameStart c s
  | .csi2FrameEnd c => Sys2Proof.Machine.execCsi2FrameEnd c s
  | .csi2LinePacket c vc dt hdrOk crcOk px => Sys2Proof.Machine.execCsi2LinePacket c vc dt hdrOk crcOk px s
  | .csi2OtherPacket c dt => Sys2Proof.Machine.execCsi2OtherPacket c dt s
  | .prepStripeCommit pid => Sys2Proof.Machine.execPrepStripeCommit pid s
  | .encoderBatchForm q => Sys2Proof.Machine.execEncoderBatchForm q s
  | .cntSelWrite w => Sys2Proof.Machine.execCntSelWrite w s
  | .dispatch r => Sys2Proof.Machine.execDispatch r s
  | .add o => Sys2Proof.Machine.execAdd o s
  | .sub o => Sys2Proof.Machine.execSub o s
  | .sand o => Sys2Proof.Machine.execSand o s
  | .sor o => Sys2Proof.Machine.execSor o s
  | .sxor o => Sys2Proof.Machine.execSxor o s
  | .shl o => Sys2Proof.Machine.execShl o s
  | .shr o => Sys2Proof.Machine.execShr o s
  | .sar o => Sys2Proof.Machine.execSar o s
  | .smin o => Sys2Proof.Machine.execSmin o s
  | .smax o => Sys2Proof.Machine.execSmax o s
  | .scalarMul o => Sys2Proof.Machine.execScalarMul o s
  | .movi o => Sys2Proof.Machine.execMovi o s
  | .cmp o => Sys2Proof.Machine.execCmp o s
  | .sel o => Sys2Proof.Machine.execSel o s
  | .cyc o => Sys2Proof.Machine.execCyc o s
  | .opTime o => Sys2Proof.Machine.execOpTime o s
  | .amov o => Sys2Proof.Machine.execAmov o s
  | .adda o => Sys2Proof.Machine.execAdda o s
  | .mova o => Sys2Proof.Machine.execMova o s
  | .seta o => Sys2Proof.Machine.execSeta o s
  | .wrap o => Sys2Proof.Machine.execWrap o s
  | .fadd o => Sys2Proof.Machine.execFadd o s
  | .fsub o => Sys2Proof.Machine.execFsub o s
  | .fmul o => Sys2Proof.Machine.execFmul o s
  | .fma o => Sys2Proof.Machine.execFma o s
  | .fmin o => Sys2Proof.Machine.execFmin o s
  | .fmax o => Sys2Proof.Machine.execFmax o s
  | .fcmp o => Sys2Proof.Machine.execFcmp o s
  | .iadd o => Sys2Proof.Machine.execIadd o s
  | .isub o => Sys2Proof.Machine.execIsub o s
  | .vand o => Sys2Proof.Machine.execVand o s
  | .vor o => Sys2Proof.Machine.execVor o s
  | .vxor o => Sys2Proof.Machine.execVxor o s
  | .vsh o => Sys2Proof.Machine.execVsh o s
  | .vsel o => Sys2Proof.Machine.execVsel o s
  | .perm o => Sys2Proof.Machine.execPerm o s
  | .lsh o => Sys2Proof.Machine.execLsh o s
  | .cvt o => Sys2Proof.Machine.execCvt o s
  | .exp2 o => Sys2Proof.Machine.execExp2 o s
  | .log2 o => Sys2Proof.Machine.execLog2 o s
  | .rcp o => Sys2Proof.Machine.execRcp o s
  | .rsq o => Sys2Proof.Machine.execRsq o s
  | .rsum o => Sys2Proof.Machine.execRsum o s
  | .rmax o => Sys2Proof.Machine.execRmax o s
  | .custom o => Sys2Proof.Machine.execCustom o s
  | .mxMul o => Sys2Proof.Machine.execMxMul o s
  | .wfill o => Sys2Proof.Machine.execWfill o s
  | .sfill o => Sys2Proof.Machine.execSfill o s
  | .ldv o => Sys2Proof.Machine.execLdv o s
  | .lds o => Sys2Proof.Machine.execLds o s
  | .stv o => Sys2Proof.Machine.execStv o s
  | .sts o => Sys2Proof.Machine.execSts o s
  | .put o => Sys2Proof.Machine.execPut o s
  | .putArrival tile => Sys2Proof.Machine.execPutArrival tile s
  | .xfer o => Sys2Proof.Machine.execXfer o s
  | .xferDone tile lane => Sys2Proof.Machine.execXferDone tile lane s
  | .sxfer o => Sys2Proof.Machine.execSxfer o s
  | .sxferDone tile idx => Sys2Proof.Machine.execSxferDone tile idx s
  | .a2v o => Sys2Proof.Machine.execA2v o s
  | .v2a o => Sys2Proof.Machine.execV2a o s
  | .vmov o => Sys2Proof.Machine.execVmov o s
  | .v2s o => Sys2Proof.Machine.execV2s o s
  | .s2v o => Sys2Proof.Machine.execS2v o s
  | .post o => Sys2Proof.Machine.execPost o s
  | .wait o => Sys2Proof.Machine.execWait o s
  | .waitSatisfied tile => Sys2Proof.Machine.execWaitSatisfied tile s
  | .tokTest o => Sys2Proof.Machine.execTokTest o s
  | .syFence o => Sys2Proof.Machine.execSyFence o s
  | .jump o => Sys2Proof.Machine.execJump o s
  | .tileLoop o => Sys2Proof.Machine.execTileLoop o s
  | .tileEnd o => Sys2Proof.Machine.execTileEnd o s
  | .commandCommit tile out => Sys2Proof.Machine.execCommandCommit tile out s
  | .nflagClrCount w => Sys2Proof.Machine.execNflagClrCount w s
  | .operatorCommand r desc => Sys2Proof.Machine.execOperatorCommand r desc s
  | .codecPack part pages words => Sys2Proof.Machine.execCodecPack part pages words s
  | .codecUnpack part pages words => Sys2Proof.Machine.execCodecUnpack part pages words s
  | .codecDone idx => Sys2Proof.Machine.execCodecDone idx s
  | .kvOpen part words => Sys2Proof.Machine.execKvOpen part words s
  | .kvAttend part words => Sys2Proof.Machine.execKvAttend part words s
  | .kvClose part words => Sys2Proof.Machine.execKvClose part words s
  | .sequenceAlloc part => Sys2Proof.Machine.execSequenceAlloc part s
  | .ptDirectWrite w => Sys2Proof.Machine.execPtDirectWrite w s
  | .ptSwap w => Sys2Proof.Machine.execPtSwap w s
  | .carouselPageOut k => Sys2Proof.Machine.execCarouselPageOut k s
  | .carouselRelease k => Sys2Proof.Machine.execCarouselRelease k s
  | .carouselReturn k => Sys2Proof.Machine.execCarouselReturn k s
  | .carouselCheck k => Sys2Proof.Machine.execCarouselCheck k s
  | .calendarPosition => Sys2Proof.Machine.execCalendarPosition s
  | .calendarApply => Sys2Proof.Machine.execCalendarApply s
  | .haulerCopy part words => Sys2Proof.Machine.execHaulerCopy part words s
  | .haulerFill part words => Sys2Proof.Machine.execHaulerFill part words s
  | .haulerDone idx => Sys2Proof.Machine.execHaulerDone idx s
  | .scrubStep m hits => Sys2Proof.Machine.execScrubStep m hits s
  | .ceWriteBack m => Sys2Proof.Machine.execCeWriteBack m s
  | .siLoad w => Sys2Proof.Machine.execSiLoad w s
  | .siApply => Sys2Proof.Machine.execSiApply s
  | .siLoadDone => Sys2Proof.Machine.execSiLoadDone s
  | .sliceEnd tile => Sys2Proof.Machine.execSliceEnd tile s
  | .switchDone tile => Sys2Proof.Machine.execSwitchDone tile s
  | .sharedEngineGrant e => Sys2Proof.Machine.execSharedEngineGrant e s
  | .swevtPop src => Sys2Proof.Machine.execSwevtPop src s
  | .declWrite c w => Sys2Proof.Machine.execDeclWrite c w s
  | .readmission part fewer => Sys2Proof.Machine.execReadmission part fewer s
  | .hello f => Sys2Proof.Machine.execHello f s
  | .bye f => Sys2Proof.Machine.execBye f s
  | .caravanPageStart f => Sys2Proof.Machine.execCaravanPageStart f s
  | .caravanPageData f => Sys2Proof.Machine.execCaravanPageData f s
  | .caravanPageEnd f => Sys2Proof.Machine.execCaravanPageEnd f s
  | .caravanCommand f => Sys2Proof.Machine.execCaravanCommand f s
  | .caravanCredit f => Sys2Proof.Machine.execCaravanCredit f s
  | .resultSend flow => Sys2Proof.Machine.execResultSend flow s
  | .rtoExpiry flow => Sys2Proof.Machine.execRtoExpiry flow s
  | .pageIdleTimeout flow => Sys2Proof.Machine.execPageIdleTimeout flow s
  | .sessionIdleTimeout flow => Sys2Proof.Machine.execSessionIdleTimeout flow s
  | .creditKeepalive flow => Sys2Proof.Machine.execCreditKeepalive flow s
  | .foreignFrame port => Sys2Proof.Machine.execForeignFrame port s
  | .arpRequest port target mac => Sys2Proof.Machine.execArpRequest port target mac s
  | .pauseFrame port quanta => Sys2Proof.Machine.execPauseFrame port quanta s
  | .linkStateChange port up => Sys2Proof.Machine.execLinkStateChange port up s
  | .commandFail f => Sys2Proof.Machine.execCommandFail f s
  | .remapDone tile => Sys2Proof.Machine.execRemapDone tile s
  | .midwayParityCheck tile frame bad => Sys2Proof.Machine.execMidwayParityCheck tile frame bad s
  | .selfTestDone u pass => Sys2Proof.Machine.execSelfTestDone u pass s
  | .repairMapWrite => Sys2Proof.Machine.execRepairMapWrite s
  | .recordRewrite addr => Sys2Proof.Machine.execRecordRewrite addr s
  | .watchdogExpiry => Sys2Proof.Machine.execWatchdogExpiry s
  | .slackSample ps others tj => Sys2Proof.Machine.execSlackSample ps others tj s
  | .ageingSample => Sys2Proof.Machine.execAgeingSample s
  | .spareDailyTest => Sys2Proof.Machine.execSpareDailyTest s
  | .powerOnReset => Sys2Proof.Machine.execPowerOnReset s
  | .railUndervoltage rail => Sys2Proof.Machine.execRailUndervoltage rail s
  | .porstRelease => Sys2Proof.Machine.execPorstRelease s
  | .pmLoaded => Sys2Proof.Machine.execPmLoaded s
  | .keyed => Sys2Proof.Machine.execKeyed s
  | .fwRunning => Sys2Proof.Machine.execFwRunning s
  | .dramUp => Sys2Proof.Machine.execDramUp s
  | .configured => Sys2Proof.Machine.execConfigured s
  | .locked => Sys2Proof.Machine.execLocked s
  | .enroll w => Sys2Proof.Machine.execEnroll w s
  | .ownerTransfer w => Sys2Proof.Machine.execOwnerTransfer w s
  | .raiseFloor w => Sys2Proof.Machine.execRaiseFloor w s
  | .ownerLock w => Sys2Proof.Machine.execOwnerLock w s
  | .ownerRelease w => Sys2Proof.Machine.execOwnerRelease w s
  | .fwSwap w => Sys2Proof.Machine.execFwSwap w s
  | .handover => Sys2Proof.Machine.execHandover s
  | .attestationRequest w => Sys2Proof.Machine.execAttestationRequest w s
  | .reportDone => Sys2Proof.Machine.execReportDone s
  | .pllSProgram w => Sys2Proof.Machine.execPllSProgram w s
  | .pllLock pll => Sys2Proof.Machine.execPllLock pll s
  | .lossOfLock pll => Sys2Proof.Machine.execLossOfLock pll s
  | .refclkLoss => Sys2Proof.Machine.execRefclkLoss s
  | .spreadSpectrumWrite w => Sys2Proof.Machine.execSpreadSpectrumWrite w s
  | .clockSelect w => Sys2Proof.Machine.execClockSelect w s
  | .gateEnableWrite dom w => Sys2Proof.Machine.execGateEnableWrite dom w s
  | .pwCtlWrite w => Sys2Proof.Machine.execPwCtlWrite w s
  | .sleepEntry => Sys2Proof.Machine.execSleepEntry s
  | .sleepExit => Sys2Proof.Machine.execSleepExit s
  | .deepSleepEntry => Sys2Proof.Machine.execDeepSleepEntry s
  | .wake t => Sys2Proof.Machine.execWake t s
  | .hourlyWake => Sys2Proof.Machine.execHourlyWake s
  | .leavingDone => Sys2Proof.Machine.execLeavingDone s
  | .avsTransitionDone => Sys2Proof.Machine.execAvsTransitionDone s
  | .avsTimeout => Sys2Proof.Machine.execAvsTimeout s
  | .thermWarn tj => Sys2Proof.Machine.execThermWarn tj s
  | .thermtrip tj => Sys2Proof.Machine.execThermtrip tj s
  | .entdaa rivals addrs => Sys2Proof.Machine.execEntdaa rivals addrs s
  | .rstdaa => Sys2Proof.Machine.execRstdaa s
  | .setnewda da => Sys2Proof.Machine.execSetnewda da s
  | .getpid => Sys2Proof.Machine.execGetpid s
  | .getbcr => Sys2Proof.Machine.execGetbcr s
  | .getdcr => Sys2Proof.Machine.execGetdcr s
  | .getstatus => Sys2Proof.Machine.execGetstatus s
  | .getmwl => Sys2Proof.Machine.execGetmwl s
  | .getmrl => Sys2Proof.Machine.execGetmrl s
  | .enec bits => Sys2Proof.Machine.execEnec bits s
  | .disec bits => Sys2Proof.Machine.execDisec bits s
  | .unsupportedCcc code => Sys2Proof.Machine.execUnsupportedCcc code s
  | .i3cRegisterWrite data => Sys2Proof.Machine.execI3cRegisterWrite data s
  | .setReadPointer data => Sys2Proof.Machine.execSetReadPointer data s
  | .i3cRegisterRead n => Sys2Proof.Machine.execI3cRegisterRead n s
  | .hotJoin => Sys2Proof.Machine.execHotJoin s
  | .ibiRequest acked => Sys2Proof.Machine.execIbiRequest acked s
  | .ibiRetry acked => Sys2Proof.Machine.execIbiRetry acked s
  | .flashRead w => Sys2Proof.Machine.execFlashRead w s
  | .flashProgram w => Sys2Proof.Machine.execFlashProgram w s
  | .flashErase4k w => Sys2Proof.Machine.execFlashErase4k w s
  | .flashErase64k w => Sys2Proof.Machine.execFlashErase64k w s
  | .flashDone => Sys2Proof.Machine.execFlashDone s
  | .bootRetry w => Sys2Proof.Machine.execBootRetry w s
  | .tapReset => Sys2Proof.Machine.execTapReset s
  | .extest bsr => Sys2Proof.Machine.execExtest bsr s
  | .samplePreload bsr => Sys2Proof.Machine.execSamplePreload bsr s
  | .idcode => Sys2Proof.Machine.execIdcode s
  | .highz => Sys2Proof.Machine.execHighz s
  | .clamp => Sys2Proof.Machine.execClamp s
  | .extestPulse bsr => Sys2Proof.Machine.execExtestPulse bsr s
  | .extestTrain bsr => Sys2Proof.Machine.execExtestTrain bsr s
  | .bypass code => Sys2Proof.Machine.execBypass code s
  | .mgaccRead dr => Sys2Proof.Machine.execMgaccRead dr s
  | .mgaccWrite dr => Sys2Proof.Machine.execMgaccWrite dr s
  | .railRecovery rail => Sys2Proof.Machine.execRailRecovery rail s
  | .refclkReturn => Sys2Proof.Machine.execRefclkReturn s
  | .spiResetRelease => Sys2Proof.Machine.execSpiResetRelease s
  | .syncFabricAnswer tile => Sys2Proof.Machine.execSyncFabricAnswer tile s

end Sys2Proof.Machine
end

