-- ==== Sys2Proof/Machine/Idle.lean ====
section
/-! DEFINITION. What the device does when no command waits: one tick of the timebase (R474, log 1), and the wait that it adds (R386). -/

namespace Sys2Proof.Machine

/-- A command counts as waiting for a queue: it is the queue's, or a decoder's with a sequence of the queue in its list (R386). -/
def waitsFor (s : State) (r : DispatchReq) (q : Nat) : Bool :=
  match r.queue, r.decoder with
  | some k, _ => k.toNat == q
  | none, some d => s.kv.steps.any (fun x => x.part == r.part.toNat && x.dec == d.toNat &&
      x.list.any (fun e => (tabGet s.kv.seqs e.1 SeqEntry.init).queue == q))
  | none, none => false

/-- Commands of a queue that are ready and not yet dispatched (R374, R386). -/
def waitingOf (s : State) (q : Nat) : Nat := (s.rm.ready.filter (fun e => inputsIn s e.1 && waitsFor s e.1 q)).length

/-- RM_Q_WAIT after some ns with `n` commands waiting: sticky at its top value (R386). -/
def waitAdd (w : Word) (n ns : Nat) : Word := BitVec.ofNat 64 (min (w.toNat + n * ns) 0xFFFFFFFFFFFFFFFF)

/-- Every queue's wait accumulator after some ns (R386). -/
def addWaits (ns : Nat) (s : State) : State :=
  { s with rm := { s.rm with qstat := s.dq.queues.foldl (fun t e =>
      if waitingOf s e.1 = 0 then t
      else tabSet t e.1 { tabGet t e.1 QStat.init with wait := waitAdd (tabGet t e.1 QStat.init).wait (waitingOf s e.1) ns }) s.rm.qstat } }

/-- One tick of the timebase: 1 ns while CK_SEL.DPCLK selects PLL_D, else 1,000 ns (R474). It stands while the device is held in reset, and after
THERMTRIP_N no rule describes it (R496, R503). -/
def idle (s : State) : State :=
  if s.pw.tripped || inReset s then s
  else
    let ns := if bitOf s.ck.sel 1 then 1 else 1000
    { addWaits ns s with now := s.now + BitVec.ofNat 64 ns }

end Sys2Proof.Machine
end

