-- ==== Sys2Proof/Safety.lean ====
section
/-! DEFINITION. What the statements say about a run: when the device runs at all, what a command leaves alone, and the forms its state keeps. -/

namespace Sys2Proof.Machine

/-- The device is neither past THERMTRIP_N (R503) nor held in reset (R494, R496). -/
abbrev Live (s : State) : Prop := s.pw.tripped = false ∧ inReset s = false

/-- The commands that act while the device is held in reset: the reset inputs, the rails, and the test port, whose boundary scan PORST_N does not
stop (R494, R496, R521). -/
def actsInReset : Instr → Bool
  | .powerOnReset | .porstRelease | .railUndervoltage _ | .railRecovery _ | .spiResetRelease | .tapReset | .extest _ | .samplePreload _
  | .idcode | .highz | .clamp | .extestPulse _ | .extestTrain _ | .bypass _ | .mgaccRead _ | .mgaccWrite _ => true
  | _ => false

/-- The command completes: it answers a next state, and that state is as `P` says. -/
def Does (i : Instr) (s : State) (P : State → Prop) : Prop := ∃ t, exec i s = .next t ∧ P t

/-- The parts of the state, one for each field. -/
inductive Part where
  | hp | dq | sf | pp | si | rm | kv | dm | mem | tl | cv | sn | tr | pk | ck | pw | mg | now | freeTick | held | rd | pending
  deriving DecidableEq, Repr

/-- Two states agree in one part. -/
def Part.same (p : Part) (s t : State) : Prop :=
  match p with
  | .hp => t.hp = s.hp | .dq => t.dq = s.dq | .sf => t.sf = s.sf | .pp => t.pp = s.pp | .si => t.si = s.si | .rm => t.rm = s.rm
  | .kv => t.kv = s.kv | .dm => t.dm = s.dm | .mem => t.mem = s.mem | .tl => t.tl = s.tl | .cv => t.cv = s.cv | .sn => t.sn = s.sn
  | .tr => t.tr = s.tr | .pk => t.pk = s.pk | .ck => t.ck = s.ck | .pw => t.pw = s.pw | .mg => t.mg = s.mg | .now => t.now = s.now
  | .freeTick => t.freeTick = s.freeTick | .held => t.held = s.held | .rd => t.rd = s.rd | .pending => t.pending = s.pending

/-- Nothing but the named parts differs. -/
def Only (ps : List Part) (s t : State) : Prop := ∀ p : Part, p ∈ ps ∨ p.same s t

/-- Every byte of a memory outside a range reads as before. -/
def SameBut (m m' : Memory) (a n : Nat) : Prop := ∀ k, ¬ (a ≤ k ∧ k < a + n) → Memory.read m' k = Memory.read m k

/-- Every memory is in its canonical form: the addressed memories, the copies that stage slots hold and the contexts that jobs save. -/
def memsWf (s : State) : Bool :=
  Memory.wf s.mem.dram && Memory.wf s.mem.ap && Memory.wf s.mem.stg0 && Memory.wf s.mem.stg1 && Memory.wf s.mem.spad &&
    Memory.wf s.mem.pm && Memory.wf s.mem.flash && s.hp.slots.all (fun e => Memory.wf e.2.snap) && s.rm.jobs.all (fun j => Memory.wf j.save)

/-- A register write takes effect at once: it is not the host's before the lock (R30), and it need not wait for RUN (R515). -/
abbrev Made (s : State) (w : RegWr) : Prop := (w.src ≠ .host ∨ locked s = true) ∧ mgmtHolds s w.src = false

/-- An operation that passed the loader's checks issues (R210, R213): `l` is its tile, `u` the state in which its bundle's issue cycle begins and `t` the
tile there. -/
def OpAt (ok : Bool) (s : State) (o : Op) (l : Nat) (u : State) (t : Tile) : Prop :=
  ok = true ∧ issues s o = true ∧ l = o.tile.toNat ∧ u = passCycles l o.gap s ∧ t = tile u l

/-- The record of a queue apart from the LINES that its last judgement took (R388). -/
def judgedAs (s : State) (p : Nat) : Option Queue := (queue? s p).map (fun x => { x with lines := 0 })

/-- A page apart from the preparation pair that it holds (R385). -/
def pageAs (s : State) (id : BitVec 32) : Option Page := (page? s id).map (fun p => { p with pair := none })

/-- The mailbox request of a row has been written and taken: the device holds the record as its GO found it (R66). -/
def mboxTaken (mop : Nat) (r : MboxRec) (s : State) : State :=
  { mboxPut mop r s with dq := { (mboxPut mop r s).dq with taken := (mboxPut mop r s).dq.req } }

/-- The output item of a command with its one command record, ready or not (R78). -/
def cmdItem (cseq : BitVec 32) (code : Nat) (ready : Bool) : OutItem :=
  { isCmd := true, isPage := false, cseq := cseq, page := none, recs := [cmdRec cseq code], ready := ready, written := 0 }

/-- The output item of a refused PAGE with its one page record (R135, R533). -/
def refusedItem (cseq : BitVec 32) (code : Nat) : OutItem :=
  { isCmd := true, isPage := true, cseq := cseq, page := none, recs := [pageRec 0xFFFFFFFF cseq false code], ready := true, written := 0 }

/-- A Caravan frame of a type passes every check before its flow's sequence (R395 to R399): it names flow `n`, comes from that flow's peer, and the
flow's session is up unless it is a HELLO. -/
abbrev FrameFor (ty : Nat) (f : CvFrame) (s : State) (n : Nat) : Prop :=
  bitOf (cvPort s f.port.toNat) 63 = true ∧ lowerOk s f = true ∧ badHead f = false ∧ cvType f = ty ∧ n = cvFlow f ∧ n ≤ 255 ∧
    fromPeer (if ty = 1 ∨ (flow s n).up = false then ((flow s n).cfg, (flow s n).peer0, (flow s n).peer1) else (flow s n).inForce) f = true ∧
    (ty = 1 ∨ ((flow s n).up = true ∧ cvLen f ≤ (flow s n).m))

end Sys2Proof.Machine
end

