-- ==== Sys2Proof/Certificates/Slice0/Obligations.lean ====
section
/-! DEFINITION. The statements about the KV3-A1 for the provers, one definition each. -/

open Sys2Proof Sys2Proof.Machine

/-- A step is exec of the command at the front of the queue, on the state with the queue's rest. (95_what_each_step_holds.md). -/
def Obligations.StepRunsFrontCommand : Prop :=
  ∀ (s : State) (c : Instr) (rest : List Instr),
    step { s with pending := c :: rest } = exec c { s with pending := rest }

/-- With no command waiting a step is one tick of the timebase, which adds to each queue's wait what its ready commands waited. (R386, R474,
13_ringmaster.md, 17_clocks_and_power_modes.md). -/
def Obligations.IdleStepTicks : Prop :=
  ∀ s : State, s.pending = [] →
    (Live s → ∀ ns, ns = (if bitOf s.ck.sel 1 then 1 else 1000) → ∃ t, step s = .next t ∧ t.now = s.now + BitVec.ofNat 64 ns ∧
      t.rm = { s.rm with qstat := t.rm.qstat } ∧ Only [.now, .rm] s t ∧
      (∀ q, queue? s q = none ∨ waitingOf s q = 0 → tabGet t.rm.qstat q QStat.init = tabGet s.rm.qstat q QStat.init) ∧
      (s.dq.queues.Pairwise (fun a b => a.1 ≠ b.1) → ∀ q r, queue? s q = some r → waitingOf s q ≠ 0 → tabGet t.rm.qstat q QStat.init =
        { tabGet s.rm.qstat q QStat.init with
          wait := BitVec.ofNat 64 (min ((tabGet s.rm.qstat q QStat.init).wait.toNat + waitingOf s q * ns) 0xFFFFFFFFFFFFFFFF) })) ∧
    (s.pw.tripped = true ∨ inReset s = true → step s = .next s)

/-- Every command answers a next state, but after THERMTRIP_N every one but a power-on reset stops with the fault. (R503, 18_package_and_power.md). -/
def Obligations.ThermtripStopsEveryCommand : Prop :=
  ∀ (s : State) (i : Instr),
    (s.pw.tripped = false → ∃ t, exec i s = .next t) ∧
    (s.pw.tripped = true → (i = .powerOnReset → Does i s (fun t => t.pw.tripped = false)) ∧ (i ≠ .powerOnReset → exec i s = .fault .thermtrip))

/-- While the device is held in reset, no step but those of the reset inputs and boundary scan changes anything. (R496, R494, R521,
18_package_and_power.md). -/
def Obligations.ResetHoldsTheDevice : Prop :=
  ∀ s : State, (∀ c ∈ s.pending, actsInReset c = false) → s.pw.tripped = false → inReset s = true →
    ∃ t, step s = .next t ∧ t = { s with pending := s.pending.tail } ∧
      (∀ c ∈ t.pending, actsInReset c = false) ∧ t.pw.tripped = false ∧ inReset t = true

/-- A mode register write stores its value, or the value that means off and counts; an unlisted register stores nothing. (R24, R32, 02_host_port.md). -/
def Obligations.ModeRegisterWrites : Prop :=
  ∀ (s : State) (ch : BitVec 2) (mr : BitVec 7) (v : Byte), Live s →
    (mrRw mr.toNat = true →
      Does (.modeRegisterWrite ch mr v) s (fun t =>
        mrGet t ch.toNat (fspWr s ch.toNat) mr.toNat = mrStored mr.toNat v ∧
        t.hp.mrwIgn = (if mrStored mr.toNat v = v then s.hp.mrwIgn else satAdd s.hp.mrwIgn 1) ∧
        (∀ c f m, mrKey c f m ≠ mrKey ch.toNat (fspWr s ch.toNat) mr.toNat → mrGet t c f m = mrGet s c f m) ∧
        t.hp = { s.hp with mrs := t.hp.mrs, mrwIgn := t.hp.mrwIgn } ∧ Only [.hp] s t)) ∧
    (mrRw mr.toNat = false →
      exec (.modeRegisterWrite ch mr v) s = .next { s with hp := { s.hp with mrwIgn := satAdd s.hp.mrwIgn 1 } })

/-- A training step trains its channel and its completion sets the step's bit; idle modes and ZQ calibration change only what they name. (R23, R29, R31,
R55, R58, R482, R484, 02_host_port.md). -/
def Obligations.TrainingIdleAndZq : Prop :=
  (∀ (s : State) (ch : BitVec 2) (data : Bytes), Live s →
    exec (.commandBusTraining ch .enter) s = .next { s with hp := { s.hp with
      train := s.hp.train &&& ~~~ maskOf (8 * ch.toNat) 8, training := s.hp.training ||| (1#4 <<< ch.toNat),
      trainOf := tabSet s.hp.trainOf ch.toNat 0 } } ∧
    (fld s.hp.train (8 * ch.toNat + 1) 3 = 0 → exec (.wck2ckLevelling ch .enter) s = .next { s with hp := { s.hp with
      training := s.hp.training ||| (1#4 <<< ch.toNat), trainOf := tabSet s.hp.trainOf ch.toNat 1 } }) ∧
    (fld s.hp.train (8 * ch.toNat + 2) 2 = 0 → exec (.readDqCalibration ch .enter) s = .next { s with hp := { s.hp with
      training := s.hp.training ||| (1#4 <<< ch.toNat), trainOf := tabSet s.hp.trainOf ch.toNat 2 } }) ∧
    (fld s.hp.train (8 * ch.toNat + 3) 1 = 0 → exec (.writeDqFifoTraining ch data .enter) s = .next { s with hp := { s.hp with
      training := s.hp.training ||| (1#4 <<< ch.toNat), trainOf := tabSet s.hp.trainOf ch.toNat 3, fifo := tabSet s.hp.fifo ch.toNat (data.take 64) } }) ∧
    (∀ step c, (step, c) ∈ [(0, Instr.commandBusTraining ch .complete), (1, .wck2ckLevelling ch .complete), (2, .readDqCalibration ch .complete),
        (3, .writeDqFifoTraining ch data .complete)] → inStep s ch.toNat step = false → exec c s = .next s) ∧
    (∀ step c, (step, c) ∈ [(0, Instr.commandBusTraining ch .complete), (1, .wck2ckLevelling ch .complete)] → inStep s ch.toNat step = true →
      exec c s = .next { s with hp := { s.hp with
        train := s.hp.train ||| maskOf (8 * ch.toNat + step) 1, training := s.hp.training &&& ~~~ (1#4 <<< ch.toNat) } }) ∧
    (∀ step c bs, (step, c, bs) ∈ [(2, Instr.readDqCalibration ch .complete, calibrationBytes s ch.toNat),
        (3, .writeDqFifoTraining ch data .complete, tabGet s.hp.fifo ch.toNat [])] → inStep s ch.toNat step = true →
      exec c s = .next { s with hp := { s.hp with
        train := s.hp.train ||| maskOf (8 * ch.toNat + step) 1, training := s.hp.training &&& ~~~ (1#4 <<< ch.toNat),
        dq := some ⟨bs, bs.map (fun _ => false), readLatency s ch.toNat⟩ } })) ∧
  (∀ (s : State), Live s →
    (∀ m, exec (.hostIdleEntry m) s = .next { s with hp := { s.hp with idle := some m } }) ∧
    (s.hp.idle = none → exec .hostIdleExit s = .next s) ∧
    (s.hp.idle.isSome = true → s.pw.mode = modeRun → exec .hostIdleExit s = .next { s with hp := { s.hp with idle := none } }) ∧
    (∀ ch, exec (.zqCalibration ch false) s = .next s ∧
      exec (.zqCalibration ch true) s = .next { s with hp := { s.hp with zq := s.hp.zq ||| (1#4 <<< ch.toNat) } }))

/-- RESET_n resets the mode registers and training state and nothing else; refresh commands change nothing. (R25, R54). -/
def Obligations.HostPortBackground : Prop :=
  ∀ (s : State), Live s →
    (∀ ch kind, exec (.refresh ch kind) s = .next s) ∧
    Does .hostPortReset s (fun t =>
      (∀ ch fsp mr, mrGet t ch fsp mr = mrReset s mr) ∧ t.hp.train = 0 ∧ t.hp.training = 0 ∧
      t.hp = { s.hp with mrs := t.hp.mrs, train := 0, training := 0, trainOf := [], fifo := [], zq := 0 } ∧ Only [.hp] s t)

/-- A burst to the staged window consumes one unit and combines, is dropped without credit, or is discarded above HP_SW_LIMIT. (R43, R45). -/
def Obligations.StagedWindowWrites : Prop :=
  ∀ (s : State) (b₀ b : Burst) (a : Nat), Live s → locked s = true → b = received s b₀ → s.hp.training.getLsbD b.addr.ch.toNat = false →
    a = busWindow s b.addr - busWindow s b.addr % (if b.data.length = 32 then 32 else 64) → 0x02000000 ≤ a → a < 0x100000000 →
    (swLimit s ≤ a → exec (.stagedWindowWrite b₀) s = .next (wdisc s)) ∧
    (a < swLimit s → creditLeft s = 0 → Does (.stagedWindowWrite b₀) s (fun t =>
      t.hp.wdrop = satAdd s.hp.wdrop 1 ∧ t.hp.dropLast = place (a / 64) 6 26 ∧ bitOf t.hp.alertStat 2 = true ∧
      t.hp.used = s.hp.used ∧ t.hp.wcred = s.hp.wcred ∧ t.hp.comb = s.hp.comb ∧ t.mem = s.mem ∧
      (∀ q, ownerOf s a = some q → (qstate s q).rings = true → qstate t q = .creditViol) ∧
      (∀ q, ownerOf s a ≠ some q ∨ (qstate s q).rings = false → queue? t q = queue? s q) ∧ Only [.hp, .dq] s t)) ∧
    (a < swLimit s → creditLeft s ≠ 0 → exec (.stagedWindowWrite b₀) s =
      .next { s with hp := { s.hp with used := s.hp.used + 1, comb := combine s.hp.comb a b.data b.mask } })

/-- A drained combining-buffer entry grants its units, reaches DRAM and leaves the buffer; one lost to an error writes nothing. (R42, R424,
02_host_port.md). -/
def Obligations.CombiningDrains : Prop :=
  ∀ (s : State) (blk : Nat) (e : CombEntry), Live s →
    (s.pw.mode = modeRun ∨ s.pw.mode = modeSleep → s.hp.comb.find? (fun x => x.block == blk) = some e → oldestOn s blk = true →
      (s.dm.damage = [] → Memory.wf s.mem.dram = true → e.bytes.Pairwise (fun a b => a.1 < b.1) →
        Does (.combiningDrain blk false) s (fun t =>
          t.hp = { s.hp with wcred := s.hp.wcred + BitVec.ofNat 32 e.units, comb := s.hp.comb.filter (fun x => x.block != blk) } ∧
          (∀ c ∈ e.bytes, Memory.read t.mem.dram (swDev s (blk * 1024) + c.1) = c.2) ∧
          (∀ k, (∀ c ∈ e.bytes, swDev s (blk * 1024) + c.1 ≠ k) → Memory.read t.mem.dram k = Memory.read s.mem.dram k) ∧
          t.mem = { s.mem with dram := t.mem.dram } ∧ Only [.hp, .mem, .dm] s t)) ∧
      Does (.combiningDrain blk true) s (fun t =>
        t.hp.wcred = s.hp.wcred + BitVec.ofNat 32 e.units ∧ t.hp.comb = s.hp.comb.filter (fun x => x.block != blk) ∧
        t.hp.wdrop = satAdd s.hp.wdrop 16 ∧ t.hp.dropLast = place (blk * 1024 / 64) 6 26 ∧ t.mem = s.mem)) ∧
    (s.pw.mode = modeDeep ∨ s.pw.mode = modeLeaving ∨ oldestOn s blk = false → ∀ ue, exec (.combiningDrain blk ue) s = .next s)

/-- A stage request starts a copy, is refused with its code, or is discarded when the slot is busy; STAGE_DONE completes it. (R49, R50, R52, R53,
02_host_port.md). -/
def Obligations.StageRequests : Prop :=
  ∀ (s : State) (k : Nat) (w : RegWr) (errs : List Span) (c : Word), Live s → locked s = true → s.pw.mode = modeRun → k < 56 → w.src = .host →
    (bitOf (w.data &&& enMask w.be) 12 = true → slotBusy (stageSlot s k) = true → exec (.stageRequest k w) s = .next (wdisc s)) ∧
    (bitOf (w.data &&& enMask w.be) 12 = true → slotBusy (stageSlot s k) = false →
      c = putBits (stageSlot s k).ctl w.data (~~~ maskOf 12 1) (enMask w.be) →
      Does (.stageRequest k w) s (fun t => (stageSlot t k).ctl = c ∧ t.mem = s.mem ∧ Only [.hp] s t ∧
        (∀ j, j ≠ k → stageSlot t j = stageSlot s j) ∧
        (if 2048 < fld c 0 12 then (stageSlot t k).stat = stageStat (fld c 16 32) cDimLimit 2 ∧ bitOf t.hp.alertStat 3 = true
        else if fld (stageSlot s k).src 32 32 ≠ 0 ∨ fld (stageSlot s k).src 0 6 ≠ 0 ∨ fld c 48 16 ≠ 0 ∨ fld c 13 3 ≠ 0 then
          (stageSlot t k).stat = stageStat (fld c 16 32) cReserved 2 ∧ bitOf t.hp.alertStat 3 = true
        else (stageSlot t k).stat = stageStat (fld c 16 32) 0 1 ∧
          (stageSlot t k).snap = swSlice s s.hp.comb (fld (stageSlot s k).src 0 32) (stageSlot t k).len ∧ t.hp.stageQ = s.hp.stageQ ++ [k] ∧
          (stageSlot t k).len = (if fld c 0 12 = 0 then 2048 else fld c 0 12) * 64))) ∧
    (s.hp.stageQ.head? ≠ some k → exec (.stageDone k errs) s = .next s) ∧
    (∀ (r : StageSlot) (lost : Nat → Bool), s.hp.stageQ.head? = some k → s.hp.comb = [] → r = stageSlot s k →
      (∀ o, lost o = (backed s (fld r.src 0 32 + o) && (s.dm.damage.any (fun d => d.mem == .dram && d.ue && d.word == swDev s (fld r.src 0 32 + o) / 64) ||
        errs.any (fun e => (List.range (min e.len (r.len - e.first))).any (fun i => backed s (fld r.src 0 32 + (e.first + i)) &&
          swDev s (fld r.src 0 32 + (e.first + i)) / 64 == swDev s (fld r.src 0 32 + o) / 64))))) →
      Does (.stageDone k errs) s (fun t =>
        (stageSlot t k).stat = stageStat (fld r.stat 32 32) (if (List.range r.len).any lost || r.hurt then cInputLost else 0) 2 ∧
        (stageSlot t k).done = s.now ∧ bitOf t.hp.alertStat 3 = true ∧ t.hp.stageQ = s.hp.stageQ.tail ∧
        (∀ o, o < r.len → Memory.read t.mem.ap (stageBuf k + o) = (if lost o then 0 else Memory.read r.snap o)) ∧
        SameBut s.mem.ap t.mem.ap (stageBuf k) r.len ∧ t.mem = { s.mem with ap := t.mem.ap } ∧
        (s.dm.damage = [] → errs = [] → Only [.hp, .mem, .dm] s t)))

/-- What a host read burst answers: nothing in training, zeros before the lock, the probe block its own addresses, the rest by area. (R23, R26, R27, R30,
R31, R36, R39, R41, R70, 02_host_port.md). -/
def Obligations.HostReadsByArea : Prop :=
  (∀ (s : State) (ch : Nat) (bs : Bytes) (i : Nat), i < bs.length → (driveDq s ch bs).rl = readLatency s ch ∧
    (((driveDq s ch bs).data[i]? = bs[i]? ∧ (driveDq s ch bs).dmi[i]? = some false) ∨ ((mrGet s ch (fspOp s ch) 3).getLsbD 6 = true ∧
      (driveDq s ch bs).data[i]? = bs[i]?.map (~~~ ·) ∧ (driveDq s ch bs).dmi[i]? = some true))) ∧
  ∀ (s : State) (b : BusAddr) (bl32 : Bool) (bin : SpeedBin) (a n : Nat), Live s → n = (if bl32 then 64 else 32) →
    a = busWindow s b - busWindow s b % n →
    (s.hp.training.getLsbD b.ch.toNat = true → exec (.hostRead (.burst b bl32) bin) s = .next s) ∧
    (s.hp.training.getLsbD b.ch.toNat = false → minRl bin ≤ readLatency s b.ch.toNat →
      (locked s = false → exec (.hostRead (.burst b bl32) bin) s =
        .next { s with hp := { s.hp with dq := some (driveDq s b.ch.toNat (List.replicate n 0)) } }) ∧
      (locked s = true → areaOf a = .probe → Does (.hostRead (.burst b bl32) bin) s (fun t =>
        ∃ bs, t = { s with hp := { s.hp with dq := some (driveDq s b.ch.toNat bs) } } ∧ bs.length = n ∧
          ∀ i, i < n / 8 → leAt bs (8 * i) 8 = a + 8 * i)) ∧
      (locked s = true → areaOf a = .doorbell → Does (.hostRead (.burst b bl32) bin) s (fun t =>
        ∃ bs, t = { s with hp := { s.hp with dq := some (driveDq s b.ch.toNat bs) } } ∧ bs.length = n ∧
          ∀ i, i < n / 8 → leAt bs (8 * i) 8 = s.dq.dbCount.toNat)) ∧
      (locked s = true → areaOf a ∈ [.reserved, .staged, .remainder] → exec (.hostRead (.burst b bl32) bin) s =
        .next { s with hp := { s.hp with dq := some (driveDq s b.ch.toNat (List.replicate n 0)), rzero := satAdd s.hp.rzero 1 } }) ∧
      (locked s = true → areaOf a = .text → damageIn s .aperture 0 a n = [] → exec (.hostRead (.burst b bl32) bin) s =
        .next { s with hp := { s.hp with dq := some (driveDq s b.ch.toNat (Memory.readBytes s.mem.ap a n)) } })) ∧
    (s.hp.training.getLsbD b.ch.toNat = false → readLatency s b.ch.toNat < minRl bin →
      Does (.hostRead (.burst b bl32) bin) s (fun t => bitOf t.hp.train (8 * b.ch.toNat + 4) = true)) ∧
    (∀ ch mr, exec (.hostRead (.mode ch mr) bin) s = .next { s with hp := { s.hp with
      dq := some ⟨[mrGet s ch.toNat (fspWr s ch.toNat) mr.toNat], [false], readLatency s ch.toNat⟩ } })

/-- Register reads and writes, of one word and of a host burst: the named register answers or takes the write, unnamed words read zero and count. (R4,
R30, R35, R38, R58, R531, R532, 02_host_port.md). -/
def Obligations.RegisterAccess : Prop :=
  ∀ (s : State) (src : Src) (d : Word) (be : BitVec 8), Live s → s.pw.mode = modeRun →
    (src ≠ .host ∨ locked s = true →
      (∀ (off : BitVec 16) (w : Word) (t : State), regRead (off.toNat / 8 * 8) s = some (w, t) →
        exec (.rcRegisterRead src off) s = .next { t with rd := w }) ∧
      (∀ off : BitVec 16, regRead (off.toNat / 8 * 8) s = none →
        exec (.rcRegisterRead src off) s = .next { (if src = .host then rzero s else s) with rd := 0 }) ∧
      exec (.rcRegisterRead src 0x4030) s = .next { s with hp := { s.hp with wdisc := 0 }, rd := s.hp.wdisc.setWidth 64 } ∧
      exec (.rcRegisterRead src 0x4038) s = .next { s with hp := { s.hp with rzero := 0 }, rd := s.hp.rzero.setWidth 64 } ∧
      exec (.rcRegisterRead src 0x4048) s = .next { s with hp := { s.hp with mrwIgn := 0 }, rd := s.hp.mrwIgn.setWidth 64 } ∧
      (∀ k : Nat, k < 8 → exec (.rcRegisterRead src (BitVec.ofNat 16 (0xFA00 + 8 * k))) s =
        .next { s with sn := { s.sn with cnt := tabSet s.sn.cnt k 0 }, rd := (tabGet s.sn.cnt k 0).setWidth 64 }) ∧
      exec (.rcRegisterRead src 0x4068) s = .next { (if src = .host then rzero s else s) with rd := 0 } ∧
      (∀ (off : BitVec 16) (t : State), be ≠ 0 → regPut src (off.toNat / 8 * 8) d (enMask be) s = some t →
        exec (.registerWrite (.reg off ⟨src, d, be⟩)) s = .next (ibiSettle t)) ∧
      (∀ off : BitVec 16, be ≠ 0 → regPut src (off.toNat / 8 * 8) d (enMask be) s = none →
        exec (.registerWrite (.reg off ⟨src, d, be⟩)) s =
          .next (match src with | .host => wdisc s | .mgmt | .jtag => mgErr s | .firmware => s)) ∧
      (∀ off, exec (.registerWrite (.reg off ⟨src, d, 0⟩)) s = .next s) ∧
      Does (.registerWrite (.reg 0x4060 ⟨src, d, 255⟩)) s (fun t => t.hp = { s.hp with alertEn := (s.hp.alertEn &&& ~~~ 0x7F) ||| (d &&& 0x7F) } ∧
        Only [.hp, .mg] s t) ∧
      Does (.registerWrite (.reg 0x4058 ⟨src, d, 255⟩)) s (fun t => t.hp = { s.hp with alertStat := s.hp.alertStat &&& ~~~ d } ∧
        Only [.hp, .mg] s t)) ∧
    (locked s = true → be ≠ 0 → exec (.registerWrite (.reg 0x4068 ⟨.host, d, be⟩)) s = .next (wdisc s)) ∧
    (locked s = false → exec (.rcRegisterRead .host 0x4030) s = .next { s with rd := 0 } ∧
      exec (.registerWrite (.reg 0x4060 ⟨.host, d, be⟩)) s = .next s) ∧
    (∀ (b₀ b : Burst) (n a : Nat), b = received s b₀ → n = (if b.data.length = 32 then 32 else 64) → a = busWindow s b.addr - busWindow s b.addr % n →
      (s.hp.training.getLsbD b.addr.ch.toNat = true ∨ locked s = false → exec (.registerWrite (.host b₀)) s = .next s) ∧
      (s.hp.training.getLsbD b.addr.ch.toNat = false → locked s = true →
        (areaOf a = .regs → exec (.registerWrite (.host b₀)) s =
          .next ((writeWords a b).foldl (fun s w => regWrite .host w.1 w.2.1 w.2.2 s) s)) ∧
        (areaOf a = .carousel → Memory.wf s.mem.ap = true → b.mask.length = b.data.length → Does (.registerWrite (.host b₀)) s (fun t =>
          (∀ i v e, b.data[i]? = some v → b.mask[i]? = some e →
            Memory.read t.mem.ap (a + i) = (if e then v else Memory.read s.mem.ap (a + i))) ∧
          SameBut s.mem.ap t.mem.ap a b.data.length ∧ t.mem = { s.mem with ap := t.mem.ap } ∧ Only [.mem, .dm] s t)) ∧
        (areaOf a = .remainder → exec (.registerWrite (.host b₀)) s = .next (wdisc s)) ∧
        (areaOf a ∈ [.status, .probe, .reserved, .rings, .text, .stageBuf] →
          exec (.registerWrite (.host b₀)) s = .next (if b.mask.any id then wdisc s else s))))

/-- QUEUE_QUERY replies the queue's state and counts and changes no queue; QUEUE_CLOSE replies at once when CLOSED, else the queue is CLOSING. (R61, R62,
R66, R68, 03_dechel_queues.md). -/
def Obligations.MailboxQueryAndClose : Prop :=
  ∀ (s : State) (r : MboxRec) (q : Nat), Live s → locked s = true → s.pw.mode ≠ modeLeaving → s.pw.mode ≠ modeDeep → swapping s = false →
    s.dq.busy = none → q < 65536 → r.rsv0 = 0 → r.rsvHi = 0 → r.rsvLo = 0 → (∀ k < 14, nth r.args k 0 = if k = 0 then BitVec.ofNat 64 q else 0) →
    Does (.queueQuery r) s (fun t =>
      t.dq.queues = s.dq.queues ∧ t.dq.busy = none ∧ t.hp = { s.hp with alertStat := s.hp.alertStat ||| maskOf 6 1 } ∧ Only [.hp, .dq] s t ∧
      (qstate s q = .closed → t.dq.reply = [(0, place r.tag.toNat 0 32), (1, 0), (2, 0)]) ∧
      (∀ x, queue? s q = some x → x.st ≠ .closed → t.dq.reply =
        [(0, place r.tag.toNat 0 32 ||| place x.st.code 32 8 ||| place x.st.value 40 8), (1, place (x.c - 1).toNat 32 32), (2, x.rseq.setWidth 64)])) ∧
    (qstate s q = .closed → Does (.queueClose r) s (fun t =>
      t.dq.queues = s.dq.queues ∧ t.dq.busy = none ∧ t.dq.reply = [(0, place r.tag.toNat 0 32), (1, 0), (2, 0)] ∧
      t.hp = { s.hp with alertStat := s.hp.alertStat ||| maskOf 6 1 } ∧ Only [.hp, .dq] s t)) ∧
    (qstate s q ≠ .closed → Does (.queueClose r) s (fun t =>
      qstate t q = .closing ∧ (∀ p, p ≠ q → queue? t p = queue? s p) ∧ t.dq.busy = some (.close q) ∧ t.dq.reply = s.dq.reply ∧
      Only [.hp, .dq, .sf, .pp] s t))

/-- QUEUE_OPEN replies the first failing check and opens nothing, or opens the queue with the bound in its reply. (R10, R66, R67, R68, R389,
03_dechel_queues.md). -/
def Obligations.MailboxOpen : Prop :=
  ∀ (s s' : State) (r : MboxRec) (w : Word) (q : Nat), Live s → locked s = true → s.pw.mode ≠ modeLeaving → s.pw.mode ≠ modeDeep →
    swapping s = false → s.dq.busy = none → s' = mboxTaken 1 r s → w = nth r.args 0 0 → q = fld w 0 16 →
    (reqReserved s' 1 = true → Does (.queueOpen r) s (fun t => t.dq.queues = s.dq.queues ∧
      t.dq.reply = [(0, place r.tag.toNat 0 32 ||| place cReserved 32 8 ||| place (qstate s q).value 40 8), (1, 0), (2, 0)] ∧ Only [.hp, .dq] s t)) ∧
    (reqReserved s' 1 = false → loading s (fld w 28 4) = false → openCheck s' ≠ 0 → Does (.queueOpen r) s (fun t => t.dq.queues = s.dq.queues ∧
      t.dq.reply = [(0, place r.tag.toNat 0 32 ||| place (openCheck s') 32 8 ||| place (qstate s q).value 40 8), (1, 0), (2, 0)] ∧ Only [.hp, .dq] s t)) ∧
    (qstate s q ≠ .closed → openCheck s' = cClaim) ∧
    (qstate s q = .closed → fld w 16 4 ≠ 0 → openCheck s' = cReserved) ∧
    (qstate s q = .closed → fld w 16 4 = 0 → (fld w 20 4 = 0 ∨ 3 < fld w 20 4) → openCheck s' = cVersion) ∧
    (∀ ok b u, judge ⟨q, fld w 28 4, if fld w 20 4 = 1 then 0 else fld w 56 8, fld (nth r.args 3 0) 0 32⟩ s' = (ok, b, u) →
      reqReserved s' 1 = false → loading s (fld w 28 4) = false → openCheck s' = 0 →
      (ok = false → Does (.queueOpen r) s (fun t => (∀ p, judgedAs t p = judgedAs s p) ∧
        t.dq.reply = [(0, place r.tag.toNat 0 32 ||| place cNotAdmissible 32 8 ||| place (qstate s q).value 40 8), (1, 0), (2, BitVec.ofNat 64 b)] ∧
        Only [.hp, .dq, .rm] s t)) ∧
      (ok = true → Does (.queueOpen r) s (fun t =>
        (∃ x, queue? t q = some x ∧ x.st = .opened ∧ x.gen = min (fld w 20 4) 2 ∧ x.door = fld w 24 4 ∧ x.part = fld w 28 4 ∧ x.sel = fld w 32 16 ∧
          x.ring = fld w 48 8 ∧ x.c.toNat = fld (nth r.args 2 0) 0 32 ∧ x.t = x.c - 1 ∧ x.quota = fld (nth r.args 3 0) 0 32 ∧
          x.drainMs = (if fld (nth r.args 2 0) 32 16 = 0 then 500 else fld (nth r.args 2 0) 32 16) ∧ x.items = [] ∧ x.cur = none ∧
          x.lines = declLines s x.cls) ∧
        (∀ p, p ≠ q → judgedAs t p = judgedAs s p) ∧
        t.dq.reply = [(0, place r.tag.toNat 0 32 ||| place cOk 32 8 ||| place QState.opened.value 40 8), (1, place (min (fld w 20 4) 2) 0 4),
          (2, BitVec.ofNat 64 b)] ∧ bitOf t.hp.alertStat 6 = true ∧ Only [.hp, .dq, .rm, .cv, .pp] s t)))

/-- QUEUE_RESUME admits a queue in CREDIT_VIOL or NOT_ADMITTED again or leaves it NOT_ADMITTED; any other queue stays as it is. (R62, R68, R89, R90,
03_dechel_queues.md). -/
def Obligations.MailboxResume : Prop :=
  ∀ (s s' : State) (r : MboxRec) (q : Nat) (x : Queue), Live s → locked s = true → s.pw.mode ≠ modeLeaving → s.pw.mode ≠ modeDeep →
    swapping s = false → s.dq.busy = none → s' = mboxTaken 4 r s → reqReserved s' 4 = false → q = fld (nth r.args 0 0) 0 16 → queue? s q = some x →
    loading s x.part = false →
    (x.st ≠ .creditViol → x.st ≠ .notAdmitted → Does (.queueResume r) s (fun t => t.dq.queues = s.dq.queues ∧
      t.dq.reply = [(0, place r.tag.toNat 0 32 ||| place cOk 32 8 ||| place x.st.value 40 8), (1, 0), (2, 0)] ∧ Only [.hp, .dq] s t)) ∧
    (x.st = .creditViol ∨ x.st = .notAdmitted → ∀ ok b u, judge ⟨q, x.part, x.cls, x.quota⟩ s' = (ok, b, u) →
      Does (.queueResume r) s (fun t =>
        queue? t q = some { x with st := if ok then .opened else .notAdmitted, lines := declLines s x.cls } ∧ (∀ p, p ≠ q → judgedAs t p = judgedAs s p) ∧
        t.dq.reply = [(0, place r.tag.toNat 0 32 ||| place (if ok then cOk else cNotAdmissible) 32 8 |||
          place (if ok then QState.opened else QState.notAdmitted).value 40 8), (1, 0), (2, BitVec.ofNat 64 b)] ∧ Only [.hp, .dq, .rm, .cv, .pp] s t))

/-- QUEUE_CLOSED, DRAIN_TIMEOUT and QEVT_POP: the moves of R62 with their event entries, and the FIFO's pop. (R62, R64, R68, R88, R92, R372,
03_dechel_queues.md). -/
def Obligations.QueueLifeEvents : Prop :=
  ∀ (s : State), Live s →
    (∀ (q : BitVec 16) (r : Queue), queue? s q.toNat = some r →
      (r.st = .closing → drained s q.toNat r = true → Does (.queueClosed q) s (fun t =>
        qstate t q.toNat = .closed ∧ (∀ p, p ≠ q.toNat → queue? t p = queue? s p) ∧ (∀ j ∈ t.rm.jobs, j.queue ≠ some q.toNat) ∧
        (∀ j ∈ s.rm.jobs, j.queue ≠ some q.toNat → j ∈ t.rm.jobs) ∧
        (s.dq.busy = some (.close q.toNat) → t.dq.busy = none ∧ t.dq.reply = [(0, place (reqTag s) 0 32), (1, 0), (2, 0)]) ∧
        Only [.hp, .dq, .sf, .rm, .tl, .cv, .pp] s t)) ∧
      (r.st ≠ .closing ∨ drained s q.toNat r = false → exec (.queueClosed q) s = .next s) ∧
      (r.st = .hold → r.holdSince.toNat + r.drainMs * 1000000 ≤ s.now.toNat → Does (.drainTimeout q) s (fun t =>
        queue? t q.toNat = some { r with st := .stalled } ∧ (∀ p, p ≠ q.toNat → queue? t p = queue? s p) ∧
        (s.dq.qevt.length < 64 → t.dq.qevt = s.dq.qevt ++ [maskOf 63 1 ||| place cStalled 40 8 ||| place 3 32 8 ||| place q.toNat 0 16]) ∧
        (64 ≤ s.dq.qevt.length → t.dq.qevt = s.dq.qevt ∧ t.dq.qevtLost = satAdd s.dq.qevtLost 1) ∧
        bitOf t.hp.alertStat 1 = true ∧ bitOf t.hp.alertStat 5 = true ∧ t.sn.head = s.sn.head + 1 ∧ t.sn.eseq = s.sn.eseq + 1 ∧
        Only [.hp, .dq, .sn] s t)) ∧
      (r.st ≠ .hold ∨ s.now.toNat < r.holdSince.toNat + r.drainMs * 1000000 → exec (.drainTimeout q) s = .next s)) ∧
    (∀ src, src ≠ .host ∨ locked s = true →
      (∀ w rest, s.dq.qevt = w :: rest → exec (.qevtPop src) s = .next { s with dq := { s.dq with qevt := rest }, rd := w }) ∧
      (s.dq.qevt = [] → exec (.qevtPop src) s = .next { s with rd := 0 })) ∧
    (locked s = false → exec (.qevtPop .host) s = .next { s with rd := 0 })

/-- A doorbell counts; a bad one counts in DQ_DB_BAD and does nothing else; one that is not later is ignored; any other becomes T. (R71). -/
def Obligations.Doorbells : Prop :=
  ∀ (s bad : State) (v : BitVec 32) (resv : BitVec 10) (g3 : BitVec 4) (id : BitVec 16), Live s → locked s = true → s.pw.mode ≠ modeLeaving →
    s.pw.mode ≠ modeDeep → bad = { s with dq := { s.dq with dbCount := s.dq.dbCount + 1, dbBad := satAdd s.dq.dbBad 1 } } →
    (resv ≠ 0 ∨ g3 ≠ 0 ∨ (qstate s id.toNat).rings = false → exec (.commandDoorbell v resv g3 id) s = .next bad) ∧
    (resv ≠ 0 ∨ g3 ≠ 0 ∨ 256 ≤ id.toNat → exec (.ringConsume v resv g3 id) s = .next bad) ∧
    (∀ w : Word, 2 ≤ fld w 30 2 → doorbell w s = bad) ∧
    (∀ r, resv = 0 → g3 = 0 → queue? s id.toNat = some r → r.st.rings = true →
      (seqLater v r.t = false → Does (.commandDoorbell v resv g3 id) s (fun t => t.dq.dbCount = s.dq.dbCount + 1 ∧ t.dq.dbBad = s.dq.dbBad ∧
        (∃ x, queue? t id.toNat = some x ∧ x = { r with stopped := false, retryAt := x.retryAt }) ∧ (∀ p, p ≠ id.toNat → queue? t p = queue? s p) ∧
        Only [.dq] s t)) ∧
      (seqLater v r.t = true → ringSize r ≤ seqDist v r.c → exec (.commandDoorbell v resv g3 id) s = .next bad) ∧
      (seqLater v r.t = true → seqDist v r.c < ringSize r → Does (.commandDoorbell v resv g3 id) s (fun t =>
        t.dq.dbCount = s.dq.dbCount + 1 ∧ t.dq.dbBad = s.dq.dbBad ∧
        (∃ x, queue? t id.toNat = some x ∧ x.t = v ∧ x = { r with t := v, stopped := false, marks := x.marks, retryAt := x.retryAt }) ∧
        (∀ p, p ≠ id.toNat → queue? t p = queue? s p) ∧ Only [.dq] s t)))

/-- RING_CONSUME of a new count frees the records before it; a count not later than C or later than P is bad. (R69, R79, R80, R83, R422,
03_dechel_queues.md). -/
def Obligations.RingConsumed : Prop :=
  ∀ (s : State) (v : BitVec 32) (id : BitVec 16), Live s → locked s = true → s.pw.mode ≠ modeLeaving → s.pw.mode ≠ modeDeep → id.toNat < 256 →
    (seqLater v (ring s id.toNat).c = false ∨ seqLater v (ring s id.toNat).p = true → exec (.ringConsume v 0 0 id) s =
      .next { s with dq := { s.dq with dbCount := s.dq.dbCount + 1, dbBad := satAdd s.dq.dbBad 1 } }) ∧
    (seqLater v (ring s id.toNat).c = true → seqLater v (ring s id.toNat).p = false → Does (.ringConsume v 0 0 id) s (fun t =>
      ring t id.toNat = { ring s id.toNat with c := v, kept := (ring s id.toNat).kept.filter (fun k =>
        ¬ decide (seqDist k.idx (ring s id.toNat).c < seqDist v (ring s id.toNat).c)) } ∧
      (∀ n, n ≠ id.toNat → ring t n = ring s n) ∧ t.dq.dbCount = s.dq.dbCount + 1 ∧ t.dq.dbBad = s.dq.dbBad ∧
      (∀ q, (queue? t q).map (·.t) = (queue? s q).map (·.t)) ∧ Only [.hp, .dq, .pp, .cv] s t))

/-- A fetch takes the command at C when its SEQ and QUEUE match, else the queue stops and counts; a bad command is refused with its code. (R73, R74, R75,
R76, R78, R86, 03_dechel_queues.md). -/
def Obligations.CommandFetched : Prop :=
  ∀ (s : State) (q : BitVec 16) (r r' : Queue) (d : Bytes), Live s → queue? s q.toNat = some r → r.st.rings = true → nextRec r = none →
    r.stopped = false → r.cur = none → r.door ≠ 3 → seqLater r.c r.t = false → d = fetchDesc s r →
    r' = { r with c := r.c + 1, marks := r.marks.filter (fun m => !(seqLater (r.c + 1) m.1)) } →
    (leAt d 8 4 ≠ r.c.toNat ∨ leAt d 2 2 ≠ q.toNat → Does (.commandFetch q) s (fun t =>
      queue? t q.toNat = some { r with stopped := true } ∧ (∀ p, p ≠ q.toNat → queue? t p = queue? s p) ∧
      t.dq = { s.dq with queues := t.dq.queues, seqMiss := satAdd s.dq.seqMiss 1 } ∧ Only [.dq] s t)) ∧
    (leAt d 8 4 = r.c.toNat → leAt d 2 2 = q.toNat →
      (opValid r (descOp d) = false → descOp d ≠ 1 → Does (.commandFetch q) s (fun t =>
        queue? t q.toNat = some { r' with items := r.items ++ [cmdItem r.c cVersion true] } ∧ (∀ p, p ≠ q.toNat → queue? t p = queue? s p) ∧ Only [.dq] s t)) ∧
      (opValid r (descOp d) = false → descOp d = 1 → Does (.commandFetch q) s (fun t =>
        queue? t q.toNat = some { r' with items := r.items ++ [refusedItem r.c cVersion] } ∧ (∀ p, p ≠ q.toNat → queue? t p = queue? s p) ∧ Only [.dq] s t)) ∧
      (opValid r (descOp d) = true → descReserved r d = true → descOp d ≠ 1 → Does (.commandFetch q) s (fun t =>
        queue? t q.toNat = some { r' with items := r.items ++ [cmdItem r.c cReserved true] } ∧ (∀ p, p ≠ q.toNat → queue? t p = queue? s p) ∧ Only [.dq] s t)) ∧
      (opValid r 1 = true → descOp d = 1 → r.st ≠ .opened ∨ draining s r.part = true → exec (.commandFetch q) s = .next s) ∧
      (opValid r 1 = true → descReserved r d = true → descOp d = 1 → r.st = .opened → draining s r.part = false → Does (.commandFetch q) s (fun t =>
        queue? t q.toNat = some { r' with items := r.items ++ [refusedItem r.c cReserved] } ∧ (∀ p, p ≠ q.toNat → queue? t p = queue? s p) ∧ Only [.dq] s t)) ∧
      (opValid r (descOp d) = true → descReserved r d = false → descOp d ≠ 1 → Does (.commandFetch q) s (fun t =>
        queue? t q.toNat = some { r' with cur := some ⟨d, if descOp d = 5 ∧ backedRange s (leAt d 0x10 8) 512 then some (swBytes s (leAt d 0x10 8) 512) else none,
          r.c, startMark s r, none, Resv.none⟩ } ∧ (∀ p, p ≠ q.toNat → queue? t p = queue? s p) ∧ Only [.dq] s t)) ∧
      (opValid r 1 = true → descReserved r d = false → descOp d = 1 →
        (r2free s < (resvOf s r 0).total → exec (.commandFetch q) s = .next s) ∧
        (r.st = .opened → draining s r.part = false → (resvOf s r 0).total ≤ r2free s → Does (.commandFetch q) s (fun t =>
          queue? t q.toNat = some { r' with cur := some ⟨d, none, r.c, startMark s r, none, resvOf s r 0⟩ } ∧ (∀ p, p ≠ q.toNat → queue? t p = queue? s p) ∧
          t.pp = { s.pp with used := s.pp.used + (resvOf s r 0).total } ∧ Only [.dq, .pp] s t))))

/-- NOP is done without a record; FENCE leaves a record that waits; FENCE_COMPLETE readies it when no command's record stands before it. (R75, R76, R78,
03_dechel_queues.md). -/
def Obligations.SimpleQueueCommands : Prop :=
  ∀ (s : State) (q : BitVec 16), Live s →
    (∀ r c, current s q.toNat 0 = some (r, c) → Does (.nop q) s (fun t => queue? t q.toNat = some { r with cur := none } ∧
      (∀ p, p ≠ q.toNat → queue? t p = queue? s p) ∧ t.dq = { s.dq with queues := t.dq.queues } ∧ Only [.dq] s t)) ∧
    (∀ r c, current s q.toNat 2 = some (r, c) → Does (.fence q) s (fun t => queue? t q.toNat = some { r with cur := none, items := r.items ++
      [{ cmdItem c.seq cOk false with fence := true }] } ∧
      (∀ p, p ≠ q.toNat → queue? t p = queue? s p) ∧ t.dq = { s.dq with queues := t.dq.queues } ∧ Only [.dq] s t)) ∧
    (current s q.toNat 0 = none → exec (.nop q) s = .next s) ∧ (current s q.toNat 2 = none → exec (.fence q) s = .next s) ∧
    (∀ r before f after, queue? s q.toNat = some r → r.items = before ++ f :: after → before.all (fun i => !i.isCmd) = true → f.isCmd = true →
      Does (.fenceComplete q) s (fun t =>
        queue? t q.toNat = some { r with items := before ++ { f with ready := f.fence || f.ready } :: after } ∧
        (∀ p, p ≠ q.toNat → queue? t p = queue? s p) ∧ t.dq = { s.dq with queues := t.dq.queues } ∧ Only [.dq] s t))

/-- RECORD_WRITE stores the record and its text in the ring's slot, advances P and RSEQ and changes no other byte; without room the queue enters HOLD.
(R62, R79, R81, R82, R83, R87, 03_dechel_queues.md). -/
def Obligations.RecordsGoOut : Prop :=
  ∀ (s : State) (q : BitVec 16) (r : Queue) (k : Nat) (i : OutItem) (x : Rec), Live s → queue? s q.toNat = some r → r.door ≠ 3 → r.ring < 256 →
    nextRec r = some (k, i, x) →
    (canWrite s q.toNat r i x = true → Does (.recordWrite q) s (fun t =>
      (ring t r.ring).p = (ring s r.ring).p + 1 ∧ (ring t r.ring).c = (ring s r.ring).c ∧ (∀ n, n ≠ r.ring → ring t n = ring s n) ∧
      (queue? t q.toNat).map (·.rseq) = some (r.rseq + 1) ∧
      (∀ slot lap tx, slot = 0x00100000 + r.ring * 0x8000 + ((ring s r.ring).p.toNat % 512) * 64 → lap = (ring s r.ring).p.toNat / 512 % 256 →
        tx = 0x00900000 + r.ring * 0x8000 + textStart (ring s r.ring) x.text.length →
        (Memory.read t.mem.ap slot).toNat = lap ∧ (Memory.read t.mem.ap (slot + 32)).toNat = lap ∧ Memory.readNat t.mem.ap (slot + 4) 4 = q.toNat ∧
        Memory.readNat t.mem.ap (slot + 8) 4 = r.rseq.toNat ∧ Memory.readNat t.mem.ap (slot + 12) 4 = x.cseq.toNat ∧
        Memory.readBytes t.mem.ap tx x.text.length = x.text ∧
        (∀ a, ¬ (slot ≤ a ∧ a < slot + 64) → ¬ (tx ≤ a ∧ a < tx + x.text.length) → Memory.read t.mem.ap a = Memory.read s.mem.ap a)) ∧
      t.mem = { s.mem with ap := t.mem.ap } ∧ Only [.hp, .dq, .pp, .dm, .mem, .sf, .freeTick] s t)) ∧
    (canWrite s q.toNat r i x = false → r.st = .opened → Does (.recordWrite q) s (fun t =>
      queue? t q.toNat = some { r with st := .hold, holdSince := s.now } ∧ (∀ p, p ≠ q.toNat → queue? t p = queue? s p) ∧
      t.dq.rings = s.dq.rings ∧ bitOf t.hp.alertStat 1 = true ∧ Only [.hp, .dq] s t))

/-- PAGE admits a page bound to its class registers or leaves its one refusal record; PAGE_RELEASE readies it in order; PROFILE_LOAD loads or refuses.
(R13, R15, R78, R86, R134, R135, R153, R154, R155, R156, 05_page_preparation.md). -/
def Obligations.PagesAndProfiles : Prop :=
  ∀ (s : State), Live s →
    (∀ (q : BitVec 16) r cmd, current s q.toNat 1 = some (r, cmd) → r.door = 0 → r.st ≠ .hold → r.st ≠ .stalled →
      ∀ c prof, c = pageClaim cmd.desc → prof = leAt cmd.desc 0x1E 2 →
      (∀ code, claimCheck (ppClassA s r.cls) r.quota (backedRange s c.src c.len && decide (c.len ≤ 0x10000000)) false c (fun i => swByte s (c.src + i)) = .inl code →
        Does (.page q) s (fun t => queue? t q.toNat = some { r with cur := none, items := r.items ++ [refusedItem cmd.seq code] } ∧
          (∀ p, p ≠ q.toNat → queue? t p = queue? s p) ∧ t.pp.pages = s.pp.pages ∧ t.pp.nextPid = s.pp.nextPid ∧
          t.pp.used = s.pp.used - cmd.resv.total ∧ Only [.dq, .pp] s t)) ∧
      (∀ w h, claimCheck (ppClassA s r.cls) r.quota (backedRange s c.src c.len && decide (c.len ≤ 0x10000000)) false c (fun i => swByte s (c.src + i)) = .inr (w, h) →
        prof = 0 ∨ (profInForce s r.part prof).isSome = true →
        Does (.page q) s (fun t => (∃ p, page? t s.pp.nextPid = some p ∧ p.id = s.pp.nextPid ∧ p.queue = q.toNat ∧ p.cls = r.cls ∧ p.part = r.part ∧
            p.ppA = ppClassA s r.cls ∧ p.ppB = ppClassB s r.cls ∧ p.claim = { c with width := w, height := h } ∧ p.start = some cmd.start ∧
            p.cseq = cmd.seq ∧ p.stage = .prep) ∧
          (queue? t q.toNat).map (·.cur) = some none ∧ t.pp.nextPid = (if s.pp.nextPid + 1 = 0xFFFFFFFF then 0 else s.pp.nextPid + 1) ∧
          (∀ id, id ≠ s.pp.nextPid → pageAs t id = pageAs s id) ∧ t.pp.used = s.pp.used ∧ Only [.dq, .pp, .rm] s t))) ∧
    (∀ pid p r before i after, page? s pid = some p → p.stage = .output → queue? s p.queue = some r → r.items = before ++ i :: after →
      i.page = some pid → before.all (fun j => j.page != some pid) = true → after.all (fun j => j.page != some pid) = true →
      (before.any (fun j => j.isPage && !j.ready) = true → exec (.pageRelease pid) s = .next s) ∧
      (before.any (fun j => j.isPage && !j.ready) = false → Does (.pageRelease pid) s (fun t =>
        (queue? t p.queue).map (·.items) = some (before ++ { i with ready := true } :: after) ∧ (∀ n, n ≠ p.queue → queue? t n = queue? s n) ∧
        Only [.hp, .dq] s t))) ∧
    (∀ (q : BitVec 16) r cmd, current s q.toNat 3 = some (r, cmd) →
      (leAt cmd.desc 0x1C 2 = 0 → Does (.profileLoad q) s (fun t => queue? t q.toNat = some { r with cur := none, items := r.items ++ [cmdItem cmd.seq cClaim true] } ∧ t.pp = s.pp ∧ Only [.dq] s t)) ∧
      (∀ src len img, src = leAt cmd.desc 0x10 8 → len = leAt cmd.desc 0x18 4 → img = swBytes s src len → cmd.attach = none → leAt cmd.desc 0x1C 2 ≠ 0 →
        leAt cmd.desc 0x1E 1 % 2 = 0 → backedRange s src len = true → len ≤ 4128 → profileCheck img = 0 → s.pp.profiles.length < 4096 →
        Does (.profileLoad q) s (fun t => (profInForce t r.part (leAt cmd.desc 0x1C 2)).map (·.image) = some img ∧
          queue? t q.toNat = some { r with cur := none, items := r.items ++ [cmdItem cmd.seq cOk true] } ∧ Only [.dq, .pp] s t)))

/-- SCAN_ARM installs its arming or leaves a refusal; SCAN_DISARM ends every arming; KV_TABLE_SWAP leaves one record and swaps the whole table or nothing.
(R98, R99, R314, R315, R316, 04_isawell_scan_front.md, 10_attention_kv.md). -/
def Obligations.ScanAndSwapCommands : Prop :=
  ∀ (s : State) (q : BitVec 16), Live s →
    (∀ r cmd a d, current s q.toNat 4 = some (r, cmd) → (r.door = 1 ∨ r.door = 2) → a = armFrom cmd.seq cmd.desc → d = scanDoor r →
      (a.left ≠ 0 → armCode (clearCur q.toNat s) r a ≠ 0 → Does (.scanArm q) s (fun t => t.sf = s.sf ∧
        queue? t q.toNat = some { r with cur := none, items := r.items ++ [cmdItem cmd.seq (armCode (clearCur q.toNat s) r a) true] } ∧
        (∀ p, p ≠ q.toNat → queue? t p = queue? s p) ∧ Only [.dq] s t)) ∧
      (a.left ≠ 0 → armCode (clearCur q.toNat s) r a = 0 → (∀ b ∈ (door s d).arms, b.cseq ≠ cmd.seq) → cmd.seq ∉ (door s d).armDone →
        Does (.scanArm q) s (fun t => (door t d).arms.getLast? = some a ∧ (∀ b ∈ (door t d).arms, b = a ∨ b.ended = true) ∧
          (∀ e, e ≠ d → door t e = door s e) ∧ (∀ p, p ≠ q.toNat → queue? t p = queue? s p) ∧
          (∃ its, queue? t q.toNat = some { r with cur := none, items := its } ∧ its.getLast? = some (cmdItem cmd.seq cOk false)) ∧ Only [.dq, .sf] s t)) ∧
      (a.left = 0 → 4 < a.xavg ∨ 4 < a.yavg → Does (.scanDisarm q) s (fun t => t.sf = s.sf ∧
        queue? t q.toNat = some { r with cur := none, items := r.items ++ [cmdItem cmd.seq cDimLimit true] } ∧ Only [.dq] s t)) ∧
      (a.left = 0 → a.xavg ≤ 4 → a.yavg ≤ 4 → a.planes = true ∧ ¬ (0 ∈ doorTags s d ∧ 2 ∈ doorTags s d) → Does (.scanDisarm q) s (fun t => t.sf = s.sf ∧
        queue? t q.toNat = some { r with cur := none, items := r.items ++ [cmdItem cmd.seq cVersion true] } ∧ Only [.dq] s t)) ∧
      (a.left = 0 → a.xavg ≤ 4 → a.yavg ≤ 4 → (a.planes = true → 0 ∈ doorTags s d ∧ 2 ∈ doorTags s d) → Does (.scanDisarm q) s (fun t => (∀ b ∈ (door t d).arms, b.ended = true) ∧
        (∀ e, e ≠ d → door t e = door s e) ∧ (∀ p, p ≠ q.toNat → queue? t p = queue? s p) ∧
        (∃ its, queue? t q.toNat = some { r with cur := none, items := its } ∧ its.getLast? = some (cmdItem cmd.seq cOk true)) ∧ Only [.dq, .sf, .pp] s t))) ∧
    (∀ r cmd src i v, current s q.toNat 5 = some (r, cmd) → cmd.attach = none → src = leAt cmd.desc 0x10 8 → i = leAt cmd.desc 0x18 2 % 8192 →
      v = BitVec.ofNat 16 (leAt cmd.desc 0x1A 2) →
      Does (.kvTableSwap q) s (fun t => ∃ code, queue? t q.toNat = some { r with cur := none, items := r.items ++ [cmdItem cmd.seq code true] } ∧
        (src % 64 ≠ 0 → code = cReserved) ∧ (src % 64 = 0 → cmd.image = none → code = cDimLimit) ∧
        (∀ b, src % 64 = 0 → cmd.image = some b → code = (swapTable i v (some q.toNat) b s).1) ∧
        (code = cOk → (seqEnt t i).ver = (seqEnt s i).ver + 1) ∧ (code ≠ cOk → t.kv = s.kv) ∧ (∀ p, p ≠ q.toNat → queue? t p = queue? s p) ∧
        Only [.dq, .kv, .dm, .mem] s t))

/-- Each step of the timing pattern drives its outputs, loops, waits, opens captures or sets the colour, and goes to the step R102 names. (R101, R102,
R103, R105, R107, R110, 04_isawell_scan_front.md). -/
def Obligations.PatternSteps : Prop :=
  ∀ (s : State) (w : BitVec 32) (k : Nat), Live s → k = s.sf.step → w = pgStep s k →
    (s.sf.running = true →
      (pgOp w = 0 → exec .patternRun s = .next { s with sf := { s.sf with step := (k + 1) % 4096, outs := (s.sf.outs &&& 0xFFFF0000) ||| (w &&& 0xFFFF) } }) ∧
      (pgOp w = 1 → s.sf.holdPin = false →
        exec .sethi s = .next { s with sf := { s.sf with step := (k + 1) % 4096, outs := (s.sf.outs &&& (0x0000FFFF : BitVec 32)) ||| ((w <<< 16) &&& (0xFFFF0000 : BitVec 32)) } }) ∧
      (pgOp w = 1 → s.sf.holdPin = true →
        exec .sethi s = .next { s with sf := { s.sf with step := (k + 1) % 4096, outs := (s.sf.outs &&& (0x8000FFFF : BitVec 32)) ||| ((w <<< 16) &&& (0x7FFF0000 : BitVec 32)) } }) ∧
      (∀ op c, (op, c) ∈ [(2, Instr.loop0), (3, Instr.loop1)] → pgOp w = op →
        (tabGet s.sf.loops k (pgHi w) = 0 → exec c s = .next { s with sf := { s.sf with step := (k + 1) % 4096, loops := tabDel s.sf.loops k } }) ∧
        (∀ n, tabGet s.sf.loops k (pgHi w) = n + 1 →
          exec c s = .next { s with sf := { s.sf with step := pgTarget w % 4096, loops := tabSet s.sf.loops k n } })) ∧
      (pgOp w = 4 → s.sf.trig = true → exec .waitLine s =
        .next { s with sf := { s.sf with step := (k + 1) % 4096, trig := false, trigs := s.sf.trigs + 1 } }) ∧
      (pgOp w = 4 → s.sf.trig = false → exec .waitLine s = .next s) ∧
      (pgOp w = 5 → ∀ cs, cs = s.sf.caps ++ (bitsOf (w.toNat % 16) 4).map (fun h => (s.sf.trigs, h, s.sf.tag)) →
        exec .capture s = .next { s with sf := { s.sf with step := (k + 1) % 4096, caps := cs } }) ∧
      (pgOp w = 6 → exec .colour s = .next { s with sf := { s.sf with step := (k + 1) % 4096, tag := w.setWidth 2 } }) ∧
      (pgOp w = 7 → s.sf.stopAsked = false → exec .patternEnd s = .next { s with sf := { s.sf with step := fld s.sf.pgCtl 0 12 % 4096 } }) ∧
      (pgOp w = 7 → s.sf.stopAsked = true → exec .patternEnd s =
        .next { s with sf := { s.sf with step := fld s.sf.pgCtl 0 12 % 4096, running := false, stopAsked := false, trig := false } })) ∧
    (∀ op c, (op, c) ∈ [(0, Instr.patternRun), (1, .sethi), (2, .loop0), (3, .loop1), (4, .waitLine), (5, .capture), (6, .colour), (7, .patternEnd)] →
      s.sf.running = false ∨ pgOp w ≠ op → exec c s = .next s)

/-- Writes to SF_PG_CTL and SF_PG_ACC start, refuse, stop and load the generator and train the lanes; periods and encoder edges trigger lines. (R103,
R104, R105, R106, R109, R130, R476, R478, 04_isawell_scan_front.md). -/
def Obligations.GeneratorControl : Prop :=
  ∀ (s : State) (w : RegWr) (c : Word), Live s → Made s w →
    c = putBits s.sf.pgCtl w.data (maskOf 0 12 ||| maskOf 16 6 ||| maskOf 29 1 ||| maskOf 31 3) (enMask w.be) →
    (bitOf c 32 = true → bitOf s.sf.pgCtl 32 = false → gateOn s 8 = true → ∀ sp e, pgSpan { s with sf := { s.sf with pgCtl := c } } = (sp, e) →
      (e = false ∨ sp.any (fun k => pgBad k (pgStep s k)) = true ∨ sp.any (fun k => pgOp (pgStep s k) == 4) = false →
        Does (.generatorRun w) s (fun t => t.sf.code.toNat = cReserved ∧ t.sf.pgCtl = c &&& ~~~ maskOf 32 1 ∧ t.sf.running = s.sf.running ∧
          t.sf.outs = s.sf.outs ∧ t.sf.ram = s.sf.ram ∧ Only [.sf] s t)) ∧
      (e = true → sp.any (fun k => pgBad k (pgStep s k)) = false → sp.any (fun k => pgOp (pgStep s k) == 4) = true → (bitOf c 31 = true ∨ spreadOn s = false) →
        Does (.generatorRun w) s (fun t => t.sf.code = 0 ∧ t.sf.pgCtl = c ∧ t.sf.running = true ∧ t.sf.stopAsked = false ∧
          t.sf.outs = s.sf.outs ∧ t.sf.ram = s.sf.ram ∧ (s.sf.running = false → t.sf.step = fld c 0 12 ∧ t.sf.loops = []) ∧
          (pgLen { s with sf := { s.sf with pgCtl := c } } < 2 ^ 32 → t.sf.len.toNat = pgLen { s with sf := { s.sf with pgCtl := c } }) ∧
          Only [.sf, .freeTick] s t))) ∧
    (bitOf c 32 = false → bitOf s.sf.pgCtl 32 = true → bitOf (w.data &&& enMask w.be) 33 = false →
      exec (.generatorStop w) s = .next { s with sf := { s.sf with pgCtl := c, stopAsked := s.sf.running } }) ∧
    (s.sf.running = true → exec (.patternRamWrite w) s = .next (wdisc s)) ∧
    (s.sf.running = false → w.be = 255 → exec (.patternRamWrite w) s =
      .next { s with sf := { s.sf with acc := fld w.data 32 12, ram := tabSet s.sf.ram (fld w.data 32 12) (w.data.setWidth 32) } }) ∧
    (bitOf c 32 = bitOf s.sf.pgCtl 32 → bitOf (w.data &&& enMask w.be) 33 = true →
      exec (.laneTrain w) s = .next { s with sf := { s.sf with pgCtl := c, lanes := 0 } }) ∧
    (∀ lane : BitVec 4,
      (bitOf s.sf.pgCtl 33 = true → claimed s (0x05000000 + lane.toNat / 2) = true → (∃ h < 4, (fld (sfHead s h) 56 8).testBit (lane.toNat / 2) = true) →
        exec (.laneLock lane) s = .next { s with sf := { s.sf with lanes := s.sf.lanes ||| (1#16 <<< lane.toNat) } }) ∧
      (bitOf s.sf.pgCtl 33 = false ∨ claimed s (0x05000000 + lane.toNat / 2) = false → exec (.laneLock lane) s = .next s)) ∧
    (s.sf.defer = [] →
      (s.sf.running = true → bitOf s.sf.pgCtl 31 = false → s.sf.trig = false → exec .linePeriod s = .next { s with sf := { s.sf with trig := true } }) ∧
      (s.sf.running = true → bitOf s.sf.pgCtl 31 = false → s.sf.trig = true →
        exec .linePeriod s = .next { s with sf := { s.sf with cnt := cntAdd s.sf.cnt 0 1 } }) ∧
      (s.sf.running = true → bitOf s.sf.pgCtl 31 = true → ∀ n, n = (if fld (sfReg s 0x7C08) 32 8 = 0 then 256 else fld (sfReg s 0x7C08) 32 8) →
        (s.sf.edges + 1 < n → exec .encoderEdge s = .next { s with sf := { s.sf with edges := s.sf.edges + 1 } }) ∧
        (n ≤ s.sf.edges + 1 → s.sf.trig = false → exec .encoderEdge s = .next { s with sf := { s.sf with edges := 0, trig := true } }) ∧
        (n ≤ s.sf.edges + 1 → s.sf.trig = true → exec .encoderEdge s = .next { s with sf := { s.sf with edges := 0, cnt := cntAdd s.sf.cnt 0 1 } }))) ∧
    (s.sf.running = false ∨ bitOf s.sf.pgCtl 31 = true → exec .linePeriod s = .next s) ∧
    (s.sf.running = false ∨ bitOf s.sf.pgCtl 31 = false → exec .encoderEdge s = .next s)

/-- A captured line ends its captures and goes to its page, to edge detection or to the calibration; 64 calibration lines rewrite the table. (R110, R112,
R113, R114, R119, R120, R125, R131, 04_isawell_scan_front.md). -/
def Obligations.CaptureAndCalibration : Prop :=
  ∀ (s : State) (h : BitVec 2) (x : Door), Live s → x = door s h.toNat →
    (∀ planes, openCaps s h.toNat = none ∨ doorEnabled s h.toNat = false ∨
      (∃ g tags, openCaps s h.toNat = some (g, tags) ∧ capturedLine s h.toNat tags planes = none) → exec (.scanLine h planes) s = .next s) ∧
    (∀ planes g tags mine l k run ready, openCaps s h.toNat = some (g, tags) → capturedLine s h.toNat tags planes = some mine → doorEnabled s h.toNat = true →
      (l, k) = delayed s h.toNat x.past mine → run = (if paperLine s h.toNat l = true then x.run + 1 else 0) →
      ready = (x.calOn || (x.cal != 0 && x.page.isNone && !x.lost && !x.free && !(rawLeft s h.toNat))) →
      (ready = true → Does (.scanLine h planes) s (fun t =>
        t.sf.caps = s.sf.caps.filter (fun c => !(c.2.1 == h.toNat && c.1 == g)) ∧ (door t h.toNat).calOn = true ∧
        (door t h.toNat).calLines = (if x.calLines.length < 64 then x.calLines ++ [mine] else x.calLines) ∧
        (∀ d, d ≠ h.toNat → door t d = door s d) ∧ Only [.sf, .freeTick] s t)) ∧
      (∀ pid p, ready = false → x.page = some pid → page? s pid = some p → p.id = pid → p.stage = .intake → Does (.scanLine h planes) s (fun t =>
        t.sf.caps = s.sf.caps.filter (fun c => !(c.2.1 == h.toNat && c.1 == g)) ∧ (page? t pid).map (·.raw) = some (p.raw ++ [l]) ∧
        ((door t h.toNat).page = some pid ∨ (page? t pid).map (·.dataEnd) = some true) ∧
        (∀ q, queue? t q = queue? s q) ∧ (∀ d, d ≠ h.toNat → door t d = door s d) ∧ Only [.sf, .pp, .freeTick, .sn] s t)) ∧
      (ready = false → x.page = none → x.lost = true → Does (.scanLine h planes) s (fun t =>
        t.sf.caps = s.sf.caps.filter (fun c => !(c.2.1 == h.toNat && c.1 == g)) ∧ (door t h.toNat).page = none ∧
        (∀ d, d ≠ h.toNat → door t d = door s d) ∧ Only [.sf, .freeTick] s t)) ∧
      (ready = false → x.page = none → x.lost = false → x.skip = true → Does (.scanLine h planes) s (fun t =>
        (door t h.toNat).page = none ∧ (door t h.toNat).nonRun = (if paperLine s h.toNat l = true then 0 else x.nonRun + 1) ∧
        (door t h.toNat).skip = decide ((door t h.toNat).nonRun < max 1 (fld (sfEdge s h.toNat) 0 5)) ∧
        (∀ d, d ≠ h.toNat → door t d = door s d) ∧ Only [.sf, .freeTick] s t)) ∧
      (ready = false → x.page = none → x.lost = false → x.skip = false → run < max 1 (fld (sfEdge s h.toNat) 5 5) → Does (.scanLine h planes) s (fun t =>
        t.sf.caps = s.sf.caps.filter (fun c => !(c.2.1 == h.toNat && c.1 == g)) ∧ (door t h.toNat).page = none ∧ (door t h.toNat).run = run ∧
        (∀ d, d ≠ h.toNat → door t d = door s d) ∧ Only [.sf, .freeTick] s t)) ∧
      (∀ q r a, ready = false → x.page = none → x.lost = false → x.skip = false → max 1 (fld (sfEdge s h.toNat) 5 5) ≤ run → x.free = true →
        doorQueue s h.toNat = some (q, r) → armOf s h.toNat x.freeArm = some a → Does (.scanLine h planes) s (fun t =>
          (∃ p, page? t s.pp.nextPid = some p ∧ p.queue = q ∧ p.door = r.door ∧ p.cls = r.cls ∧ p.cseq = a.cseq ∧
            p.raw = (((l :: x.pre).take 128).take (fld (sfEdge s h.toNat) 10 6 + run)).reverse) ∧
          (door t h.toNat).free = false ∧ (∀ id, id ≠ s.pp.nextPid → page? t id = page? s id) ∧ (∀ d, d ≠ h.toNat → door t d = door s d) ∧
          Only [.sf, .dq, .pp, .freeTick, .sn] s t)) ∧
      (ready = false → x.page = none → x.lost = false → x.skip = false → max 1 (fld (sfEdge s h.toNat) 5 5) ≤ run → x.free = false →
        Does (.scanLine h planes) s (fun t => (door t h.toNat).lost = true ∧ t.sf.cnt = cntAdd s.sf.cnt 1 1 ∧ t.sn.eseq = s.sn.eseq + 1 ∧
          (∀ d, d ≠ h.toNat → door t d = door s d) ∧ Only [.sf, .freeTick, .sn] s t))) ∧
    (∀ (w : RegWr) (c : Instr) (n off : Nat), (c, n) ∈ ([(.calibrateDark h w, 1), (.calibrateWhite h w, 2)] : List (Instr × Nat)) → Made s w →
      fld (w.data &&& enMask w.be) 50 2 = n → off = 0x7C40 + h.toNat * 8 → Does c s (fun t =>
        (door t h.toNat).cal = (if x.cal = 0 then n else x.cal) ∧ door t h.toNat = { x with cal := (door t h.toNat).cal } ∧
        sfSeen t off = putBits (sfSeen s off) w.data (sfRw off) (enMask w.be) ∧ (∀ o, o ≠ off → sfSeen t o = sfSeen s o) ∧
        (∀ d, d ≠ h.toNat → door t d = door s d) ∧ Only [.sf] s t)) ∧
    (x.cal = 0 ∨ x.calLines.length < 64 → exec (.calibrationDone h) s = .next s) ∧
    (x.cal ≠ 0 → 64 ≤ x.calLines.length → Does (.calibrationDone h) s (fun t =>
      (door t h.toNat).cal = 0 ∧ (door t h.toNat).calOn = false ∧ (door t h.toNat).calLines = [] ∧ (∀ d, d ≠ h.toNat → door t d = door s d) ∧
      t.mem = { s.mem with dram := t.mem.dram } ∧ Only [.sf, .mem, .dm] s t ∧
      (∀ tag v base i, nth x.calLines 0 [] = [(tag, v)] → base = fld (sfShade s h.toNat) 6 27 * 64 → backedRange s base (4 * v.length) = true → i < v.length →
        SameBut s.mem.dram t.mem.dram (swDev s base) (4 * v.length) ∧
        ∀ mean, mean = rneNat ((x.calLines.map (fun z => (nth ((tagOf z tag).getD []) i 0).toNat)).sum) 64 →
          (Memory.readNat t.mem.dram (swDev s base + 4 * i) 2, Memory.readNat t.mem.dram (swDev s base + 4 * i + 2) 2) =
            (let dark := swNat s (base + 4 * i) 2
             if x.cal = 1 then (mean % 65536, swNat s (base + 4 * i + 2) 2)
             else if mean ≤ dark then (dark, 0) else (dark, min (rneNat (fld (sfHead s h.toNat) 0 16 * 4096) (mean - dark)) 0xFFFF)))))

/-- A reservation is taken when every condition of R123 holds and else nothing changes; camera packets open and close windows, count errors and add lines.
(R17, R123, R125, R126, R127, R128, R129, R534, 04_isawell_scan_front.md). -/
def Obligations.ReservationsAndCameras : Prop :=
  ∀ (s : State), Live s →
    (∀ d q r a need, doorQueue s d = some (q, r) → queue? s q = some r → (door s d).arms.getLast? = some a → nextRec r = none →
      need = resvOf s r (scanBufBytes s d r.cls a) →
      (r.st = .opened → draining s r.part = false → (door s d).free = false → (door s d).expect = true → a.ended = false → a.left ≠ 0 → (door s d).cal = 0 →
        need.total ≤ r2free s → Does (.reservation d) s (fun t =>
          (door t d).free = true ∧ (door t d).freeArm = a.cseq ∧ (door t d).freeBytes = need ∧ (door t d).expect = false ∧
          (door t d).arms.getLast?.map (·.left) = some (if a.left = 0xFFFFFFFF then a.left else a.left - 1) ∧
          t.pp = { s.pp with used := s.pp.used + need.total } ∧
          (∀ e, e ≠ d → door t e = door s e) ∧ Only [.sf, .pp] s t)) ∧
      (r.st ≠ .opened ∨ draining s r.part = true ∨ (door s d).free = true ∨ (door s d).expect = false ∨ a.ended = true ∨ a.left = 0 ∨ (door s d).cal ≠ 0 ∨
        r2free s < need.total → exec (.reservation d) s = .next s)) ∧
    (∀ d, doorQueue s d = none ∨ (door s d).arms = [] → exec (.reservation d) s = .next s) ∧
    (∀ (c : BitVec 1) x w, x = door s (4 + c.toNat) → w = sfCam s c.toNat →
      (bitOf w 54 = false ∨ doorEnabled s (4 + c.toNat) = false ∨ x.window = true → exec (.csi2FrameStart c) s = .next s) ∧
      (bitOf w 54 = true → doorEnabled s (4 + c.toNat) = true → x.window = false →
        (bitOf w 55 = true → exec (.csi2FrameStart c) s =
          .next (setDoor (4 + c.toNat) { x with await := true, skip := false, half := [], lastPl := [], repaired := false } s)) ∧
        (bitOf w 55 = false → x.free = true → exec (.csi2FrameStart c) s =
          .next (setDoor (4 + c.toNat) { x with window := true, skip := false, half := [], lastPl := [], repaired := false } s)) ∧
        (bitOf w 55 = false → x.free = false → Does (.csi2FrameStart c) s (fun t => (door t (4 + c.toNat)).window = true ∧ (door t (4 + c.toNat)).lost = true ∧
          t.sf.cnt = cntAdd s.sf.cnt 1 1 ∧ t.sn.eseq = s.sn.eseq + 1 ∧ (∀ e, e ≠ 4 + c.toNat → door t e = door s e) ∧ Only [.sf, .sn] s t))) ∧
      Does (.csi2FrameEnd c) s (fun t => (door t (4 + c.toNat)).window = false ∧ (door t (4 + c.toNat)).await = false ∧ (door t (4 + c.toNat)).skip = false ∧
        (x.page.isSome = true ∨ x.lost = true → (door t (4 + c.toNat)).page = none ∧ (door t (4 + c.toNat)).lost = false) ∧
        (∀ pid p, x.page = some pid → page? s pid = some p → p.id = pid → (page? t pid).map (fun p => (p.dataEnd, p.start)) = some (true, some x.lastAt)) ∧
        (∀ e, e ≠ 4 + c.toNat → door t e = door s e) ∧ Only [.sf, .pp] s t) ∧
      (∀ vc dt hdr crc px, bitOf w 54 = false ∨ doorEnabled s (4 + c.toNat) = false ∨ camTag s c.toNat vc.toNat = none →
        exec (.csi2LinePacket c vc dt hdr crc px) s = .next s) ∧
      (∀ vc dt hdr crc px, bitOf w 54 = true → doorEnabled s (4 + c.toNat) = true → (camTag s c.toNat vc.toNat).isSome = true →
        (hdr = true → dt.toNat ≠ 0x2A + fld w 60 2 → exec (.csi2LinePacket c vc dt hdr crc px) s = .next { s with sf := { s.sf with cnt := cntAdd s.sf.cnt 2 1 } }) ∧
        (hdr = false ∨ dt.toNat = 0x2A + fld w 60 2 → x.window = false → x.await = false → exec (.csi2LinePacket c vc dt hdr crc px) s = .next s)) ∧
      (∀ vc dt hdr crc px good px' cnt, bitOf w 54 = true → doorEnabled s (4 + c.toNat) = true → bitsOf (fld w 56 4) 4 = [vc.toNat] →
        hdr = false ∨ dt.toNat = 0x2A + fld w 60 2 → good = (hdr && crc && decide (px.length = fld w 16 16)) →
        px' = (if good = true then camPixels (0x2A + fld w 60 2) px
          else ((x.lastPl.find? (fun e => e.1 == 3)).map (·.2)).getD (List.replicate (fld w 16 16) 0xFFFF)) →
        cnt = (if good = true then s.sf.cnt else cntAdd s.sf.cnt 2 1) → x.window = true ∨ x.await = true → x.skip = false → x.half = [] →
        (∀ pid p, x.page = some pid → page? s pid = some p → p.id = pid → p.stage = .intake → Does (.csi2LinePacket c vc dt hdr crc px) s (fun t =>
          (page? t pid).map (·.raw) = some (p.raw ++ [[(3, px')]]) ∧ t.sf.cnt = cnt ∧
          ((door t (4 + c.toNat)).page = some pid ∨ (page? t pid).map (·.dataEnd) = some true) ∧ (∀ e, e ≠ 4 + c.toNat → door t e = door s e) ∧
          Only [.sf, .pp, .sn] s t)) ∧
        (∀ q r a, x.page = none → x.lost = false → x.free = true → doorQueue s (4 + c.toNat) = some (q, r) → armOf s (4 + c.toNat) x.freeArm = some a →
          Does (.csi2LinePacket c vc dt hdr crc px) s (fun t =>
            (∃ p, page? t s.pp.nextPid = some p ∧ p.queue = q ∧ p.cls = r.cls ∧ p.cseq = a.cseq ∧ p.raw = [[(3, px')]]) ∧
            t.sf.cnt = cnt ∧ (door t (4 + c.toNat)).free = false ∧ (∀ e, e ≠ 4 + c.toNat → door t e = door s e) ∧ Only [.sf, .dq, .pp, .sn] s t)) ∧
        (x.page = none → x.lost = false → x.free = false → Does (.csi2LinePacket c vc dt hdr crc px) s (fun t =>
          t.sf.cnt = cntAdd cnt 1 1 ∧ t.sn.eseq = s.sn.eseq + 1 ∧ t.pp.pages = s.pp.pages ∧ (∀ e, e ≠ 4 + c.toNat → door t e = door s e) ∧
          Only [.sf, .sn] s t))) ∧
      (∀ vc dt px tag, bitOf w 54 = true → doorEnabled s (4 + c.toNat) = true → (bitsOf (fld w 56 4) 4).length = 3 → camTag s c.toNat vc.toNat = some tag →
        dt.toNat = 0x2A + fld w 60 2 → px.length = fld w 16 16 → x.window = true → x.half = [] → exec (.csi2LinePacket c vc dt true true px) s =
          .next (setDoor (4 + c.toNat) { x with
            half := [(tag, camPixels dt.toNat px)]
            lastPl := x.lastPl.filter (fun e => e.1 != tag) ++ [(tag, camPixels dt.toNat px)] } s)) ∧
      (∀ dt, bitOf w 54 = false ∨ doorEnabled s (4 + c.toNat) = false → exec (.csi2OtherPacket c dt) s = .next s) ∧
      (∀ dt, bitOf w 54 = true → doorEnabled s (4 + c.toNat) = true →
        (dt.toNat < 4 ∨ (8 ≤ dt.toNat ∧ dt.toNat < 0x10) ∨ (0x2A ≤ dt.toNat ∧ dt.toNat ≤ 0x2C) → exec (.csi2OtherPacket c dt) s = .next s) ∧
        (¬ (dt.toNat < 4 ∨ (8 ≤ dt.toNat ∧ dt.toNat < 0x10) ∨ (0x2A ≤ dt.toNat ∧ dt.toNat ≤ 0x2C)) →
          exec (.csi2OtherPacket c dt) s = .next { s with sf := { s.sf with cnt := cntAdd s.sf.cnt 2 1 } })))

/-- Stripes of a page commit in turn and the last sends it to layout; a batch takes the oldest unbatched rows; PP_CNT_SEL clears every count. (R20, R132,
R133, R145, R152, R163, R167, R168, R422, 05_page_preparation.md). -/
def Obligations.PreparationAndBatches : Prop :=
  ∀ (s : State), Live s →
    (∀ pid p u dec im bg, u = grantPairs s → page? u pid = some p → p.id = pid → p.stage = .prep → p.pair.isSome = true → dec = decodePage p (pageSrc u p) →
      im = shapePage p (pageAvg p) dec.im → bg = BitVec.ofNat 8 (ppBg p.ppA) →
      ((prepReads u p).1 = false → Does (.prepStripeCommit pid) s (fun t =>
        (∃ x, page? t pid = some x ∧ x.stripes = p.stripes + 1 ∧ x.trunc = (p.trunc || dec.short) ∧
          x.prep = some ⟨im.w, im.h, bg, ((p.prep.map (·.stripes)).getD []) ++ [storedStripe im bg p.stripes]⟩ ∧
          (x.stage = .layout ↔ max 1 (ceilDiv im.h 64) ≤ p.stripes + 1) ∧ (x.stage = .prep ↔ p.stripes + 1 < max 1 (ceilDiv im.h 64))) ∧
        (∀ id, id ≠ pid → pageAs t id = pageAs s id) ∧ (∀ q, queue? t q = queue? s q))) ∧
      ((prepReads u p).1 = true → Does (.prepStripeCommit pid) s (fun t => (page? t pid).map (·.stage) = some .output ∧
        (∀ id, id ≠ pid → pageAs t id = pageAs s id) ∧ (∀ q, q ≠ p.queue → queue? t q = queue? s q)))) ∧
    (∀ pid, (∀ p, page? (grantPairs s) pid = some p → p.stage ≠ .prep ∨ p.pair = none) → exec (.prepStripeCommit pid) s = .next (wakeJobs (grantPairs s))) ∧
    (∀ (q : BitVec 16), queue? s q.toNat = none → exec (.encoderBatchForm q) s = .next s) ∧
    (∀ (q : BitVec 16) r mine, queue? s q.toNat = some r → mine = freeRows s q.toNat →
      (mine = [] ∨ encoderJob s q.toNat r = none → exec (.encoderBatchForm q) s = .next s) ∧
      (∀ k keys, mine ≠ [] → encoderJob s q.toNat r = some k →
        keys = (mine.take (min (((classOf s.si.conf r.cls).map (·.batch)).getD 1) 64)).map (fun k => (k.page, k.idx)) → Does (.encoderBatchForm q) s (fun t =>
        t.pp.batches = s.pp.batches ++ [⟨q.toNat, k, keys, false⟩] ∧ keys.length ≤ 64 ∧
        (∀ e ∈ keys, ∃ row ∈ s.pp.packed, (row.page, row.idx) = e ∧ row.batched = false ∧ (page? s row.page).map (·.queue) = some q.toNat) ∧
        t.pp.packed = s.pp.packed.map (fun row => { row with batched := row.batched || keys.contains (row.page, row.idx) }) ∧ Only [.pp] s t))) ∧
    (∀ w : RegWr, Made s w →
      (enMask w.be = 0 → exec (.cntSelWrite w) s = .next s) ∧
      (enMask w.be ≠ 0 → exec (.cntSelWrite w) s =
        .next { s with pp := { s.pp with cntSel := putBits s.pp.cntSel w.data (maskOf 0 9) (enMask w.be), cnt := [] } }))

/-- Each scalar operation of two operands schedules its value of R215 for DST at its latency; suppressed it does nothing. (R207, R210, R211, R213, R214,
R215, 07_bundle_set.md). -/
def Obligations.ScalarArithmetic : Prop :=
  ∀ (s : State) (o : Op), Live s →
    (∀ l u t a b, OpAt (o.ok rowScalar) s o l u t → a = t.readS o.srcA → b = t.scalarB o →
      ∀ c n v, (c, n, v) ∈ ([(.add o, 1, a + b), (.sub o, 1, a - b), (.sand o, 1, a &&& b), (.sor o, 1, a ||| b), (.sxor o, 1, a ^^^ b),
          (.shl o, 1, if 64 ≤ b.toNat % 128 then 0 else a <<< (b.toNat % 128)), (.shr o, 1, if 64 ≤ b.toNat % 128 then 0 else a >>> (b.toNat % 128)),
          (.sar o, 1, if 64 ≤ b.toNat % 128 then a.sshiftRight 63 else a.sshiftRight (b.toNat % 128)),
          (.smin o, 1, if a.toInt ≤ b.toInt then a else b), (.smax o, 1, if a.toInt ≤ b.toInt then b else a), (.scalarMul o, 3, a * b)] :
          List (Instr × Nat × BitVec 64)) →
        (t.off o = false → o.dst ≠ 0xFF → exec c s = .next (lands l o n (.sreg o.dst.toNat v) u)) ∧
        (t.off o = true ∨ o.dst = 0xFF → exec c s = .next u)) ∧
    (o.ok rowScalar = false ∨ issues s o = false → ∀ c ∈ ([.add o, .sub o, .sand o, .sor o, .sxor o, .shl o, .shr o, .sar o, .smin o, .smax o,
      .scalarMul o] : List Instr), exec c s = .next s)

/-- MOVI, CMP, SEL, CYC, TIME and AMOV, and ADDA, MOVA, SETA and WRAP schedule the values of R215 and R216 at their latencies. (R210, R211, R214, R215,
R216, R241, 07_bundle_set.md). -/
def Obligations.ScalarMovesAndAddresses : Prop :=
  ∀ (s : State) (o : Op) (l : Nat) (u : State) (t : Tile), Live s →
    (OpAt (o.ok rowMovi) s o l u t → t.off o = false → exec (.movi o) s = .next (putS l o 1 o.imm u)) ∧
    (OpAt (cmpOk o) s o l u t → t.off o = false → ∀ (n : Nat) (p : Prop), (n, p) ∈ ([(0, t.readS o.srcA = t.scalarB o), (1, t.readS o.srcA ≠ t.scalarB o),
        (2, (t.readS o.srcA).toInt < (t.scalarB o).toInt), (3, (t.readS o.srcA).toInt ≤ (t.scalarB o).toInt),
        (4, (t.scalarB o).toInt < (t.readS o.srcA).toInt), (5, (t.scalarB o).toInt ≤ (t.readS o.srcA).toInt),
        (6, (t.readS o.srcA).toNat < (t.scalarB o).toNat), (7, (t.scalarB o).toNat ≤ (t.readS o.srcA).toNat)] : List (Nat × Prop)) → o.fieldOf 1 4 = n →
      (p → exec (.cmp o) s = .next (putP l o 1 (~~~ 0) u)) ∧ (¬ p → exec (.cmp o) s = .next (putP l o 1 0 u))) ∧
    (OpAt (o.ok rowSel) s o l u t → t.off o = false →
      exec (.sel o) s = .next (putS l o 1 (if (t.readP o.srcC).getLsbD 0 then t.readS o.srcA else t.readS o.srcB) u)) ∧
    (OpAt (o.ok rowDst) s o l u t → t.off o = false → exec (.cyc o) s = .next (putS l o 1 (BitVec.ofNat 64 (u.now.toNat * 8 / 25 % 2 ^ 48)) u) ∧
      exec (.opTime o) s = .next (putS l o 2 u.now u)) ∧
    (OpAt (o.ok rowAmov) s o l u t → t.off o = false → exec (.amov o) s = .next (putS l o 1 ((t.readA o.srcA).setWidth 64) u)) ∧
    (OpAt (o.ok rowAdda) s o l u t → t.off o = false →
      (o.flag 0 = true → exec (.adda o) s = .next (putA l o 1 (t.readA o.srcA + o.imm.setWidth 48) u)) ∧
      (o.flag 0 = false → o.srcB.toNat < 0x40 → exec (.adda o) s = .next (putA l o 1 (t.readA o.srcA + (t.sReg o.srcB.toNat).setWidth 48) u)) ∧
      (o.flag 0 = false → 0x40 ≤ o.srcB.toNat → exec (.adda o) s = .next (putA l o 1 (t.readA o.srcA + t.readA o.srcB) u))) ∧
    (OpAt (o.ok rowMova) s o l u t → t.off o = false → exec (.mova o) s = .next (putA l o 1 ((t.readS o.srcA).setWidth 48) u)) ∧
    (OpAt (setaOk o) s o l u t → t.off o = false → exec (.seta o) s = .next (putA l o 1 (o.imm.setWidth 48) u)) ∧
    (OpAt (wrapOk o) s o l u t → t.off o = false → ∃ w : BitVec 48, exec (.wrap o) s = .next (putA l o 1 w u) ∧
      (∀ i, o.fieldOf 1 5 ≤ i → w.getLsbD i = (t.readA o.srcA).getLsbD i) ∧
      w.toNat % 2 ^ o.fieldOf 1 5 = (t.readA o.srcA + o.imm.setWidth 48).toNat % 2 ^ o.fieldOf 1 5)

/-- Every vector operation of two or three operands schedules, lane by lane, the value of R217 under its predicate at its latency. (R210, R211, R214,
R217, R256, 07_bundle_set.md). -/
def Obligations.VectorLanes : Prop :=
  ∀ (s : State) (o : Op) (l : Nat) (u : State) (t : Tile) (a b : Lanes), Live s → a = t.readV o.srcA → b = t.vectorB o →
    (OpAt (o.ok rowVec2) s o l u t →
      (∀ c n f, (c, n, f) ∈ ([(.fadd o, 4, f32add), (.fsub o, 4, f32sub), (.fmul o, 4, f32mul), (.fmin o, 2, f32min), (.fmax o, 2, f32max),
          (.iadd o, 1, fun x y => x + y), (.isub o, 1, fun x y => x - y), (.vand o, 1, fun x y => x &&& y), (.vor o, 1, fun x y => x ||| y),
          (.vxor o, 1, fun x y => x ^^^ y)] : List (Instr × Nat × (BitVec 32 → BitVec 32 → BitVec 32))) →
        ∃ w : Lanes, exec c s = .next (putV l o n w (t.pred o) u) ∧ ∀ k : Fin 64, w[k] = f a[k] b[k]) ∧
      (∃ w : Lanes, exec (.perm o) s = .next (putV l o 2 w (t.pred o) u) ∧
        ∀ k j : Fin 64, j.val = b[k].toNat % 64 → w[k] = a[j])) ∧
    (OpAt (o.ok rowVec3) s o l u t → ∃ w : Lanes, exec (.fma o) s = .next (putV l o 4 w (t.pred o) u) ∧
      ∀ k : Fin 64, w[k] = f32fma a[k] b[k] (t.readV o.srcC)[k]) ∧
    (OpAt (vshOk o) s o l u t → ∃ w : Lanes, exec (.vsh o) s = .next (putV l o 1 w (t.pred o) u) ∧ ∀ k : Fin 64,
      (o.fieldOf 1 2 = 0 → w[k] = if 32 ≤ b[k].toNat % 64 then 0 else a[k] <<< (b[k].toNat % 64)) ∧
      (o.fieldOf 1 2 = 1 → w[k] = if 32 ≤ b[k].toNat % 64 then 0 else a[k] >>> (b[k].toNat % 64)) ∧
      (o.fieldOf 1 2 = 2 → w[k] = a[k].sshiftRight (min 31 (b[k].toNat % 64)))) ∧
    (OpAt (o.ok rowVsel) s o l u t → ∃ w : Lanes, exec (.vsel o) s = .next (putV l o 1 w (t.pred o) u) ∧
      ∀ k : Fin 64, w[k] = if (t.readP o.srcC).getLsbD k.val then a[k] else b[k]) ∧
    (OpAt (o.ok rowLsh) s o l u t → ∃ w : Lanes, exec (.lsh o) s = .next (putV l o 2 w (t.pred o) u) ∧
      (∀ k j : Fin 64, (j.val : Int) = k.val + o.imm.toInt → w[k] = a[j]) ∧
      (∀ k : Fin 64, (k.val : Int) + o.imm.toInt < 0 ∨ 64 ≤ (k.val : Int) + o.imm.toInt → w[k] = 0)) ∧
    (OpAt (fcmpOk o) s o l u t → t.off o = false → ∃ m : BitVec 64, exec (.fcmp o) s = .next (putP l o 2 m u) ∧
      ∀ k : Fin 64, m.getLsbD k.val = f32cmp (o.fieldOf 1 4) a[k] b[k]) ∧
    (OpAt (fcmpOk o) s o l u t → t.off o = true → exec (.fcmp o) s = .next u)

/-- EXP2, LOG2, RCP, RSQ, the reductions, CVT and CUSTOM schedule their values under their predicate at their latencies. (R187, R188, R190, R211, R214,
R217, R218, R248, R258, R259, R260, 07_bundle_set.md). -/
def Obligations.VectorSingles : Prop :=
  ∀ (s : State) (o : Op) (l : Nat) (u : State) (t : Tile) (a : Lanes), Live s → a = t.readV o.srcA →
    (OpAt (o.ok rowVec1) s o l u t →
      (∀ c f, (c, f) ∈ ([(.exp2 o, f32exp2), (.log2 o, f32log2), (.rcp o, f32rcp), (.rsq o, f32rsq)] : List (Instr × (BitVec 32 → BitVec 32))) →
        ∃ w : Lanes, exec c s = .next (putV l o 8 w (t.pred o) u) ∧ ∀ k : Fin 64, w[k] = f a[k]) ∧
      (∀ c f, (c, f) ∈ ([(.rsum o, f32add), (.rmax o, f32max)] : List (Instr × (BitVec 32 → BitVec 32 → BitVec 32))) →
        ∃ w : Lanes, exec c s = .next (putV l o 6 w (t.pred o) u) ∧ w[0] = nth (tree f 6 a.toList) 0 0 ∧ ∀ k : Fin 64, k ≠ 0 → w[k] = 0)) ∧
    (OpAt (cvtOk o) s o l u t → ∀ r : Fin 64 → BitVec 32 × Bool × Bool, (∀ k : Fin 64, r k = cvtLane (o.fieldOf 1 4) a[k] (t.vectorB o)[k]) →
      ∃ (w : Lanes) (sat nan : Bool), exec (.cvt o) s = .next (putV l o 3 w (t.pred o) (raiseFlags l [(.sat, sat), (.nanIn, nan)] u)) ∧
        (∀ k : Fin 64, w[k] = (r k).1) ∧ (sat = true ↔ ∃ k : Fin 64, (t.pred o).getLsbD k.val = true ∧ (r k).2.1 = true) ∧
        (nan = true ↔ ∃ k : Fin 64, (t.pred o).getLsbD k.val = true ∧ (r k).2.2 = true)) ∧
    (OpAt (customOk o) s o l u t →
      (t.cmd.bind (fun c => midwayOf u c.part l) = none → exec (.custom o) s = .next u) ∧
      (∀ m w ff, t.cmd.bind (fun c => midwayOf u c.part l) = some m →
        midwayRun m (o.fieldOf 8 6) a (t.vectorB o) (t.readV o.srcC) (t.readS (o.imm.setWidth 8)) t.ff = (w, ff) →
        exec (.custom o) s = .next (modTile l (fun t => { t with ff := ff }) (putV l o (max 1 (nth m.lat (o.fieldOf 8 6) 1)) w (t.pred o) u))))

/-- MX_MUL schedules an accumulator row of exact column sums, the fills take over their buffer, and the route slot moves rows, vectors and lanes. (R170,
R171, R211, R214, R219, R220, R221, R223, R247, R255, 07_bundle_set.md). -/
def Obligations.MatrixAndRoute : Prop :=
  ∀ (s : State) (o : Op) (l : Nat) (u : State) (t : Tile), Live s →
    (OpAt (mulOk o) s o l u t → t.off o = false → o.flag 3 = false → ∀ x : List Narrow, x = (t.readV o.srcA).toList.map (arrayInput (o.fieldOf 4 2)) →
      ∃ p : Lanes, exec (.mxMul o) s = .next (lands l o 6
          (.mul ((if o.flag 0 then 64 else 0) + (t.readA o.srcB).toNat % 64) p none (o.flag 2))
          (raiseFlags l [(.sat, x.any (·.sat)), (.nanIn, x.any (·.nan))] u)) ∧
        ∀ k : Fin 64, p[k] = columnSum (x.map (·.code)) ((List.range 64).map (fun i => tabGet t.wbuf ((if o.flag 1 then 1 else 0) * 64 + i) zeros)) k.val) ∧
    (OpAt (mulOk o) s o l u t → t.off o = false → o.flag 3 = true → ∀ (x y z : List Narrow) st, x = (t.readV o.srcA).toList.map (arrayInput (o.fieldOf 4 2)) →
      y = (List.range 4).map (fun r => toStilts (fld (t.readS o.srcC) (16 * r) 16)) → st = (List.range 4).map (fun r => tabGet t.stilts r zeros) →
      z = st.flatMap (fun r => r.toList.map (fun w => toStilts w.toNat)) →
      ∃ p q : Lanes, exec (.mxMul o) s = .next (lands l o 6
          (.mul ((if o.flag 0 then 64 else 0) + (t.readA o.srcB).toNat % 64) p (some q) (o.flag 2))
          (raiseFlags l [(.sat, (x ++ y ++ z).any (·.sat)), (.nanIn, (x ++ y ++ z).any (·.nan))] u)) ∧
        ∀ k : Fin 64, p[k] = columnSum (x.map (·.code)) ((List.range 64).map (fun i => tabGet t.wbuf ((if o.flag 1 then 1 else 0) * 64 + i) zeros)) k.val ∧
          q[k] = stiltsSum (y.map (·.code)) st k.val) ∧
    (t.off o = true → (OpAt (mulOk o) s o l u t → exec (.mxMul o) s = .next u) ∧ (OpAt (fillOk rowWfill o) s o l u t → exec (.wfill o) s = .next u) ∧
      (OpAt (fillOk rowSfill o) s o l u t → exec (.sfill o) s = .next u) ∧ (OpAt (o.ok rowV2a) s o l u t → exec (.v2a o) s = .next u) ∧
      (OpAt (laneOk rowV2s o) s o l u t → exec (.v2s o) s = .next u)) ∧
    (OpAt (fillOk rowWfill o) s o l u t → t.off o = false → Does (.wfill o) s (fun v => ∃ f, (tile v l).fills = t.fills.filter (fun g => g.buf != f.buf) ++ [f] ∧
      f.buf = (if o.flag 1 then 1 else 0) ∧ f.start = t.cyc ∧ f.base = offAddr t o / 256 * 256 ∧ f.scales = scalesOf (t.readV o.srcB) ∧ f.q4 = o.flag 4 ∧
      v = setTile l { t with fills := (tile v l).fills } u)) ∧
    (OpAt (fillOk rowSfill o) s o l u t → t.off o = false → Does (.sfill o) s (fun v => ∃ f, (tile v l).fills = t.fills.filter (fun g => g.buf != 2) ++ [f] ∧
      f.buf = 2 ∧ f.start = t.cyc ∧ f.base = offAddr t o / 256 * 256 ∧ v = setTile l { t with fills := (tile v l).fills } u)) ∧
    (OpAt (o.ok rowA2v) s o l u t → exec (.a2v o) s =
      .next (putV l o 2 (tabGet t.acc ((if o.flag 0 then 64 else 0) + (t.readA o.srcB).toNat % 64) zeros) (t.pred o) u)) ∧
    (OpAt (o.ok rowV2a) s o l u t → t.off o = false → exec (.v2a o) s =
      .next (lands l o 2 (.accw ((if o.flag 0 then 64 else 0) + (t.readA o.srcB).toNat % 64) (t.readV o.srcA)) u)) ∧
    (OpAt (o.ok rowVmov) s o l u t → exec (.vmov o) s = .next (putV l o 1 (t.readV o.srcA) (t.pred o) u)) ∧
    (OpAt (laneOk rowV2s o) s o l u t → t.off o = false → ∀ k : Fin 64, k.val = o.imm.toNat →
      exec (.v2s o) s = .next (putS l o 1 ((t.readV o.srcA)[k].setWidth 64) u)) ∧
    (OpAt (laneOk rowS2v o) s o l u t → ∃ (w : Lanes) (m : BitVec 64), exec (.s2v o) s = .next (putV l o 1 w m u) ∧
      (∀ k : Fin 64, w[k] = (t.readS o.srcA).setWidth 32) ∧ ∀ k < 64, m.getLsbD k = ((t.pred o).getLsbD k && decide (k = o.imm.toNat)))

/-- LDV, LDS, STV, STS and PUT read and write the addressed bytes of the scratchpad, post-increment their address, and PUT queues its line. (R177, R178,
R179, R180, R181, R183, R211, R222, R230, R236, 07_bundle_set.md). -/
def Obligations.LoadsAndStores : Prop :=
  ∀ (s : State) (o : Op) (l : Nat) (u : State) (t : Tile), Live s →
    (∀ inc : State → State, inc = (fun v => if (o.imm >>> 32).setWidth 32 = 0#32 ∨ o.srcA = 0xFF then v else
        lands l o 1 (.areg (o.srcA.toNat - 0x40) (t.readA o.srcA + ((o.imm >>> 32).setWidth 32 : BitVec 32).signExtend 48)) v) →
      (OpAt (o.ok rowLdv) s o l u t → ∀ a, a = offAddr t o / 256 * 256 → damageIn u .spad l a 256 = [] → inbound u = [] →
        exec (.ldv o) s = .next (inc (putV l o 2 (bytesLanes (Memory.readBytes u.mem.spad (l * 0x400000 + a) 256)) (t.pred o) (useBank l a u)))) ∧
      (OpAt (o.ok rowLds) s o l u t → t.off o = false → ∀ n a w, n = 2 ^ o.fieldOf 1 2 → a = offAddr t o / n * n → damageIn u .spad l a n = [] → inbound u = [] →
        w = Memory.readNat u.mem.spad (l * 0x400000 + a) n →
        exec (.lds o) s = .next (inc (putS l o 2 (if o.flag 3 ∧ 2 ^ (8 * n - 1) ≤ w then BitVec.ofInt 64 ((w : Int) - 2 ^ (8 * n)) else BitVec.ofNat 64 w)
          (useBank l a u)))) ∧
      (OpAt (o.ok rowStv) s o l u t → ∀ a, a = offAddr t o / 256 * 256 →
        exec (.stv o) s = .next (inc (lands l o 1 (.store a (laneBytes (t.readV o.srcB)) (t.pred o)) (useBank l a u)))) ∧
      (OpAt (o.ok rowSts) s o l u t → t.off o = false → ∀ n a, n = 2 ^ o.fieldOf 1 2 → a = offAddr t o / n * n →
        exec (.sts o) s = .next (inc (lands l o 1 (.store a (leBytes n (t.readS o.srcB).toNat) (~~~ 0)) (useBank l a u)))) ∧
      (OpAt (o.ok rowStv) s o l u t → t.off o = false → ∀ c pd a, t.cmd = some c → part? u c.part = some pd → a = tsOperand t o →
        (tsInside pd a 256 = true → t.freeze = [] → t.lines < 64 →
          exec (.put o) s = .next (inc (setTile l { t with puts := t.puts ++ [.line a (t.readV o.srcB)] } u))) ∧
        (tsInside pd a 256 = true → t.freeze = [] → 64 ≤ t.lines →
          exec (.put o) s = .next (inc (setTile l { t with puts := t.puts ++ [.line a (t.readV o.srcB)], freeze := [.port] } u))) ∧
        (tsInside pd a 256 = false → Does (.put o) s (fun v => v.tl.xpart = satAdd u.tl.xpart 1 ∧ v.tl.xpartAt = l ∧ (tile v l).puts = t.puts ∧
          v.mem = u.mem ∧ Only [.tl, .sn, .hp] u v)))) ∧
    (OpAt (o.ok rowLdv) s o l u t → t.cmd.isSome = true → (damageIn u .spad l (offAddr t o / 256 * 256) 256).any (·.ue) = true →
      Does (.ldv o) s (fun v => (tile v l).cmd.map (·.failed) = some true)) ∧
    (OpAt (o.ok rowLds) s o l u t → t.off o = true → exec (.lds o) s = .next u) ∧
    (OpAt (o.ok rowSts) s o l u t → t.off o = true → exec (.sts o) s = .next u) ∧
    (OpAt (o.ok rowStv) s o l u t → t.off o = true → exec (.put o) s = .next u)

/-- XFER and SXFER start transfers of their own partition's tiles; done transfers and arriving lines write exactly the bytes they address. (R195, R199,
R202, R230, R231, R232, R233, R234, R235, R236, 07_bundle_set.md). -/
def Obligations.TransfersMove : Prop :=
  ∀ (s : State), Live s →
    (∀ (o : Op) (l : Nat) (u : State) (t : Tile) c pd, t.cmd = some c → part? u c.part = some pd → t.freeze = [] → t.off o = false →
      (OpAt (xferOk o) s o l u t → tsInside pd (tsOperand t o) (o.fieldOf 4 5 * 1024) = true →
        (o.flag 0 = true → damageIn u .spad (tsOperand t o / 0x400000) (tsOperand t o % 0x400000) (o.fieldOf 4 5 * 1024) = []) →
        ∀ x : Xfer, x = ⟨o.fieldOf 1 3, o.flag 0, tsOperand t o, (t.readS o.srcB).toNat / 1024 * 1024, o.fieldOf 4 5 * 1024, 0,
            if o.flag 9 then some (l * 256 + o.fieldOf 10 8) else none, if o.flag 0 then tsRead u (tsOperand t o) (o.fieldOf 4 5 * 1024) else [], u.now, none⟩ →
          ((t.xfers.filter (fun y => y.lane == o.fieldOf 1 3)).length < 8 → Does (.xfer o) s (fun v =>
            (tile v l).xfers = t.xfers ++ [x] ∧ (tile v l).freeze = [] ∧ (tile v l).cmd = t.cmd ∧ Only [.tl] u v)) ∧
          (8 ≤ (t.xfers.filter (fun y => y.lane == o.fieldOf 1 3)).length → Does (.xfer o) s (fun v =>
            (tile v l).xfers = t.xfers ∧ (tile v l).freeze = [.lane x] ∧ (tile v l).cmd = t.cmd ∧ Only [.tl] u v))) ∧
      (OpAt (sxferOk o) s o l u t → tsInside pd (tsOperand t o) (o.fieldOf 2 5 * 256) = true →
        (o.flag 0 = true → damageIn u .spad (tsOperand t o / 0x400000) (tsOperand t o % 0x400000) (o.fieldOf 2 5 * 256) = []) →
        ∀ x : Xfer, x = ⟨8, o.flag 0, tsOperand t o, (t.readS o.srcB).toNat / 256 * 256, o.fieldOf 2 5 * 256, o.fieldOf 1 1,
            if o.flag 7 then some (l * 256 + o.fieldOf 8 8) else none, if o.flag 0 then tsRead u (tsOperand t o) (o.fieldOf 2 5 * 256) else [], u.now, none⟩ →
          (t.sxfers.length < 2 → Does (.sxfer o) s (fun v => (tile v l).sxfers = t.sxfers ++ [x] ∧ (tile v l).freeze = [] ∧ Only [.tl] u v)) ∧
          (2 ≤ t.sxfers.length → Does (.sxfer o) s (fun v => (tile v l).sxfers = t.sxfers ∧ (tile v l).freeze = [.staging x] ∧ Only [.tl] u v))) ∧
      (OpAt (xferOk o) s o l u t → tsInside pd (tsOperand t o) (o.fieldOf 4 5 * 1024) = false → o.flag 9 = false → Does (.xfer o) s (fun v =>
        v.tl.xpart = satAdd u.tl.xpart 1 ∧ v.tl.xpartAt = l ∧ (tile v l).xfers = t.xfers ∧ v.mem = u.mem ∧ Only [.tl, .sn, .hp] u v)) ∧
      (OpAt (sxferOk o) s o l u t → tsInside pd (tsOperand t o) (o.fieldOf 2 5 * 256) = false → o.flag 7 = false → Does (.sxfer o) s (fun v =>
        v.tl.xpart = satAdd u.tl.xpart 1 ∧ v.tl.xpartAt = l ∧ (tile v l).sxfers = t.sxfers ∧ v.mem = u.mem ∧ Only [.tl, .sn, .hp] u v))) ∧
    (∀ (o : Op) (l : Nat) (u : State) (t : Tile), t.off o = true →
      (OpAt (xferOk o) s o l u t → exec (.xfer o) s = .next u) ∧ (OpAt (sxferOk o) s o l u t → exec (.sxfer o) s = .next u)) ∧
    (∀ (l : BitVec 6) (lane : BitVec 3) x, (tile s l.toNat).xfers.find? (fun x => x.lane == lane.toNat) = some x →
      (x.slotAt = none → exec (.xferDone l lane) s = .next s) ∧
      (∀ at', x.slotAt = some at' →
        (s.now.toNat < at'.toNat + (if x.out then 16 else 0) ∨ (x.out = false ∧ tsOpen s x.addr x.len = false) → exec (.xferDone l lane) s = .next s) ∧
        (x.out = false → x.tok = none → x.addr + x.len ≤ 2 ^ 28 → x.data.length = x.len → (tile s l.toNat).freeze = [] → at'.toNat ≤ s.now.toNat →
          tsOpen s x.addr x.len = true → Does (.xferDone l lane) s (fun t =>
            Memory.readBytes t.mem.spad x.addr x.len = x.data ∧ SameBut s.mem.spad t.mem.spad x.addr x.len ∧
            (tile t l.toNat).xfers.length + 1 = (tile s l.toNat).xfers.length ∧
            t.mem = { s.mem with spad := t.mem.spad } ∧ Only [.tl, .mem, .dm, .freeTick] s t)) ∧
        (∀ k, x.out = true → x.tok = some k → (tok s k).owner ≠ 0x0FFF → tileHeld s (k / 256) = false → (tok s k).count.toNat + 1 < 2 ^ 32 → (tile s l.toNat).freeze = [] →
          at'.toNat + 16 ≤ s.now.toNat → Does (.xferDone l lane) s (fun t =>
            (tile t l.toNat).xfers = (tile s l.toNat).xfers.erase x ∧ (tok t k).count.toNat = (tok s k).count.toNat + 1 ∧ (tok t k).owner = (tok s k).owner ∧
            (∀ m, m ≠ k → tok t m = tok s m) ∧ Only [.tl] s t)))) ∧
    (∀ (l : BitVec 6) (i : Nat) x c pd, (tile s l.toNat).sxfers[i]? = some x → (tile s l.toNat).cmd = some c → part? s c.part = some pd →
      x.tok = none → (tile s l.toNat).freeze = [] →
      (x.out = false → x.addr + x.len ≤ 2 ^ 28 → damageIn s (if x.depot = 0 then .stg0 else .stg1) 0 (stgAddr pd x.depot x.off) x.len = [] →
        (tsOpen s x.addr x.len = false → exec (.sxferDone l i) s = .next s) ∧
        (tsOpen s x.addr x.len = true → Does (.sxferDone l i) s (fun t =>
          Memory.readBytes t.mem.spad x.addr x.len = stgWinRead s pd x.depot x.off x.len ∧ SameBut s.mem.spad t.mem.spad x.addr x.len ∧
          (tile t l.toNat).sxfers.length + 1 = (tile s l.toNat).sxfers.length ∧
          t.mem = { s.mem with spad := t.mem.spad } ∧ Only [.tl, .mem, .dm, .freeTick] s t))) ∧
      (x.out = true → hasStg pd x.depot = true → x.data.length = x.len → x.len ≤ (if x.depot = 0 then pd.stgSize.1 else pd.stgSize.2) * 0x10000 →
        Does (.sxferDone l i) s (fun t => stgWinRead t pd x.depot x.off x.len = x.data ∧ t.mem.spad = s.mem.spad ∧
          (tile t l.toNat).sxfers = (tile s l.toNat).sxfers.eraseIdx i ∧ Only [.tl, .mem, .dm] s t))) ∧
    (∀ (l : BitVec 6) a v rest, (tile s l.toNat).puts = .line a v :: rest → (rest = [] ∨ ∃ b w r, rest = .line b w :: r) → a + 256 ≤ 2 ^ 28 →
      (tileHeld s (a / 0x400000) = true → exec (.putArrival l) s = .next s) ∧
      (tileHeld s (a / 0x400000) = false → Does (.putArrival l) s (fun t =>
        Memory.readBytes t.mem.spad a 256 = laneBytes v ∧ (tile t l.toNat).puts = rest ∧ SameBut s.mem.spad t.mem.spad a 256 ∧
        t.mem = { s.mem with spad := t.mem.spad } ∧ Only [.tl, .mem, .dm, .freeTick] s t)))

/-- WAIT takes its count when the token has it and freezes the tile when not; POST adds its count at once or at the commit; TEST reads; FENCE waits.
(R192, R193, R195, R196, R213, R224, R225, R379, R418, 07_bundle_set.md). -/
def Obligations.TokensAndWaits : Prop :=
  ∀ (s : State), Live s →
    (∀ (o : Op) (l : Nat) (u : State) (t : Tile) c n k, t.cmd = some c → n = o.imm.toNat % 16384 → k = tokCount t o → k ≠ 0 → t.off o = false →
      damageIn u .token 0 (8 * n) 8 = [] →
      (OpAt (tokOk o) s o l u t → n / 256 = l → k ≤ (tok u n).count.toNat → waiters u n = [] → Does (.wait o) s (fun v =>
        (tok v n).count.toNat = (tok u n).count.toNat - k ∧ (tok v n).owner = ownerCode c.part c.slot ∧ (tile v l).freeze = t.freeze ∧
        (∀ m, m ≠ n → tok v m = tok u m) ∧ v.mem = u.mem ∧ Only [.tl] u v)) ∧
      (OpAt (tokOk o) s o l u t → n / 256 = l → (tok u n).count.toNat < k ∨ waiters u n ≠ [] → holderOf u n = none → exec (.wait o) s =
        .next (let v := setTile l { t with freeze := t.freeze ++ [.token n k u.tl.order] } u; { v with tl := { v.tl with order := v.tl.order + 1 } })) ∧
      (OpAt (tokOk o) s o l u t → n / 256 ≠ l → exec (.wait o) s = .next (setTile l { t with freeze := t.freeze ++ [.askWait n k] } u)) ∧
      (OpAt (tokOk o) s o l u t → chainTok u c n = false → ownTok u l c n = false →
        exec (.post o) s = .next (setTile l { t with posts := t.posts ++ [(n, k)] } u)) ∧
      (OpAt (tokOk o) s o l u t → (chainTok u c n || ownTok u l c n) = true → t.puts = [] → tileHeld u (n / 256) = false →
        (tok u n).count.toNat + k < 2 ^ 32 → Does (.post o) s (fun v => (tok v n).count.toNat = (tok u n).count.toNat + k ∧
          (∀ m, m ≠ n → tok v m = tok u m) ∧ v.mem = u.mem ∧ Only [.tl, .rm] u v)) ∧
      (OpAt (tokOk o) s o l u t → (chainTok u c n || ownTok u l c n) = true → t.puts ≠ [] → Does (.post o) s (fun v =>
        (tile v l).puts = t.puts ++ [.post n k] ∧ (∀ m, tok v m = tok u m) ∧ v.mem = u.mem ∧ Only [.tl, .rm] u v))) ∧
    (∀ (o : Op) (l : Nat) (u : State) (t : Tile), OpAt (tokOk o) s o l u t → t.off o = true ∨ tokCount t o = 0 →
      exec (.wait o) s = .next u ∧ exec (.post o) s = .next u) ∧
    (∀ (o : Op) (l : Nat) (u : State) (t : Tile), t.off o = true → (OpAt (testOk o) s o l u t → exec (.tokTest o) s = .next u) ∧
      (OpAt (o.ok rowFence) s o l u t → exec (.syFence o) s = .next u)) ∧
    (∀ (o : Op) (l : Nat) (u : State) (t : Tile), t.off o = false →
      (OpAt (testOk o) s o l u t → o.imm.toNat % 16384 / 256 = l → damageIn u .token 0 (8 * (o.imm.toNat % 16384)) 8 = [] →
        exec (.tokTest o) s = .next (putS l o 2 ((tok u (o.imm.toNat % 16384)).count.setWidth 64) u)) ∧
      (OpAt (testOk o) s o l u t → o.imm.toNat % 16384 / 256 ≠ l →
        exec (.tokTest o) s = .next (setTile l { t with freeze := t.freeze ++ [.askTest (o.imm.toNat % 16384) o.dst.toNat] } u)) ∧
      (OpAt (o.ok rowFence) s o l u t → t.freeze = [] → t.quiet = true → exec (.syFence o) s = .next (setTile l t u)) ∧
      (OpAt (o.ok rowFence) s o l u t → t.freeze = [] → t.quiet = false → exec (.syFence o) s = .next (setTile l { t with freeze := [.fence] } u))) ∧
    (∀ (l : BitVec 6) c n k ord, (tile s l.toNat).cmd = some c → (tile s l.toNat).freeze = [.token n k ord] → waiters s n = [(l.toNat, k, ord)] →
      (k ≤ (tok s n).count.toNat → tileHeld s (n / 256) = false → Does (.waitSatisfied l) s (fun v =>
        (tok v n).count.toNat = (tok s n).count.toNat - k ∧ (tok v n).owner = ownerCode c.part c.slot ∧ (tile v l.toNat).freeze = [] ∧
        (∀ m, m ≠ n → tok v m = tok s m) ∧ Only [.tl] s v)) ∧
      ((tok s n).count.toNat < k → exec (.waitSatisfied l) s = .next s)) ∧
    (∀ (l : BitVec 6) c n k, (tile s l.toNat).cmd = some c → (tile s l.toNat).freeze = [.askWait n k] → damageIn s .token 0 (8 * n) 8 = [] →
      (tileHeld s (n / 256) = true → exec (.syncFabricAnswer l) s = .next s) ∧
      (tileHeld s (n / 256) = false → k ≤ (tok s n).count.toNat → waiters s n = [] → Does (.syncFabricAnswer l) s (fun v =>
        (tok v n).count.toNat = (tok s n).count.toNat - k ∧ (tok v n).owner = ownerCode c.part c.slot ∧ (tile v l.toNat).freeze = [] ∧ Only [.tl] s v))) ∧
    (∀ (l : BitVec 6) n d, (tile s l.toNat).freeze = [.askTest n d] → d ≠ 0xFF → damageIn s .token 0 (8 * n) 8 = [] → tileHeld s (n / 256) = false →
      Does (.syncFabricAnswer l) s (fun v => (tile v l.toNat).freeze = [] ∧
        (∃ x ∈ (tile v l.toNat).land, x.at' = (tile s l.toNat).cyc + 1 ∧ x.eff = .sreg d ((tok s n).count.setWidth 64)) ∧ Only [.tl] s v))

/-- J branches, LOOP counts down and branches within its bound or is clamped, END ends the command. (R214, R226, R227, R228, R229, 07_bundle_set.md). -/
def Obligations.ControlFlow : Prop :=
  ∀ (s : State) (o : Op) (l : Nat) (u : State) (t : Tile), Live s →
    (OpAt (jOk o) s o l u t → t.off o = false → exec (.jump o) s = .next (setTile l { t with jump := some (o.imm.toNat % 1024) } u)) ∧
    (OpAt (loopOk o) s o l u t → t.off o = false → o.srcA ≠ 0xFF → ∀ c n bound, c = t.readS o.srcA → n = tabGet t.loops t.pc 0 → bound = o.imm.toNat / 65536 % 65536 →
      (c - 1 ≠ 0 → n < bound → Does (.tileLoop o) s (fun v => (tile v l).jump = some (o.imm.toNat % 1024) ∧ (tile v l).loops = tabSet t.loops t.pc (n + 1) ∧
        (tile v l).land = insLand ⟨t.cyc + 1, t.cyc, o.slot.toNat, .sreg o.srcA.toNat (c - 1)⟩ t.land ∧ v.tl = { u.tl with tiles := v.tl.tiles } ∧ Only [.tl] u v)) ∧
      (c - 1 = 0 → Does (.tileLoop o) s (fun v => (tile v l).jump = t.jump ∧ (tile v l).loops = tabDel t.loops t.pc ∧
        (tile v l).land = insLand ⟨t.cyc + 1, t.cyc, o.slot.toNat, .sreg o.srcA.toNat (c - 1)⟩ t.land ∧ v.tl = { u.tl with tiles := v.tl.tiles } ∧ Only [.tl] u v)) ∧
      (c - 1 ≠ 0 → bound ≤ n → Does (.tileLoop o) s (fun v => (tile v l).jump = t.jump ∧ (tile v l).loops = tabDel t.loops t.pc ∧
        v.tl.clamp = satAdd u.tl.clamp 1 ∧ v.tl.clampAt = l ∧ v.sn.eseq = u.sn.eseq + 1 ∧ v.mem = u.mem ∧ Only [.tl, .sn] u v))) ∧
    (OpAt (o.ok rowEnd) s o l u t → t.off o = false → ∀ c, t.cmd = some c →
      exec (.tileEnd o) s = .next (setTile l { t with cmd := some { c with ended := true } } u)) ∧
    (t.off o = true → (OpAt (jOk o) s o l u t → exec (.jump o) s = .next u) ∧ (OpAt (loopOk o) s o l u t → exec (.tileLoop o) s = .next u) ∧
      (OpAt (o.ok rowEnd) s o l u t → exec (.tileEnd o) s = .next u))

/-- A scheduled register result reads as old until its landing cycle and as the new value from it; passing cycles touch nothing but the tile. (R177, R180,
R211, R212, 07_bundle_set.md). -/
def Obligations.ResultsLandOnTime : Prop :=
  (∀ (s : State) (l n d i slot k : Nat) (v : BitVec 64), 1 ≤ n → (tile s l).fills = [] → (tile s l).land = [⟨(tile s l).cyc + n, i, slot, .sreg d v⟩] → k ≤ n →
    ((tile (passCycles l k s) l).sReg d = if k < n then (tile s l).sReg d else v) ∧
    (∀ r, r ≠ d → (tile (passCycles l k s) l).sReg r = (tile s l).sReg r)) ∧
  (∀ (s : State) (l k : Nat), l < 64 → (∀ d ∈ s.dm.damage, d.mem ≠ .spad) →
    (∀ e ∈ s.tl.tiles, (∀ x ∈ e.2.xfers ++ e.2.sxfers, x.out = false) ∧ ∀ f ∈ e.2.freeze, ∀ x, f ≠ .lane x ∧ f ≠ .staging x) →
    (∀ m, m ≠ l → tile (passCycles l k s) m = tile s m) ∧ (passCycles l k s).tl.toks = s.tl.toks ∧
    (passCycles l k s).mem = { s.mem with spad := (passCycles l k s).mem.spad } ∧ SameBut s.mem.spad (passCycles l k s).mem.spad (l * 0x400000) 0x400000 ∧
    Only [.tl, .mem, .dm] s (passCycles l k s))

/-- DISPATCH starts a ready command on its job's tile with the registers of R175, or lets it wait; an operator command is checked first. (R175, R176,
R374, R375, R262, R263, R264, R366, 13_ringmaster.md, 06_tile.md). -/
def Obligations.DispatchReachesItsTile : Prop :=
  ∀ (s : State) (r : DispatchReq), Live s → s.pw.mode = modeRun →
    (jobFor s r = none → exec (.dispatch r) s = .next s) ∧
    (∀ (j : Job) (l : Nat), jobFor s r = some j → job? s j.key = some j → l = r.tile.toNat →
      (mayLaunch s r j = true → s.rm.donations = [] → ∀ (x : Option Routine) (w : List Word), x = routineOf s.si.conf j.part r.routine.toNat →
        w = (List.range 14).map (fun i => nth r.args i 0) →
        Does (.dispatch r) s (fun t =>
          (∃ c, (tile t l).cmd = some c ∧ c.part = j.part ∧ c.slot = j.slot ∧ c.queue = j.queue ∧ c.decoder = j.decoder ∧ c.stage = j.stage ∧
            c.routine = r.routine.toNat ∧ c.args = r.args ∧ c.pages = r.pages ∧ c.arrived = s.now ∧ c.ended = false ∧ c.req = r ∧
            c.failed = (damageIn s .instr l (256 * (x.map (·.entry)).getD 0) (256 * (x.map (·.nb)).getD 0)).any (·.ue) ∧
            c.bound = (x.map (·.d)).getD 0 ∧ c.runs = (((s.rm.ready.find? (fun e => e.1 == r)).map (·.2)).getD 0) + 1) ∧
          (tile t l).pc = (x.map (·.entry)).getD 0 ∧ (tile t l).cyc = 0 ∧
          (∀ i < 13, tabGet (tile t l).s i 0 = nth w i 0) ∧
          tabGet (tile t l).s 13 0 = (if (x.map (·.bspad)).getD 0 = 0 then nth w 13 0 else setFld (nth w 13 0) 63 1 (if j.parity then 1 else 0)) ∧
          tabGet (tile t l).s 14 0 = (place r.tile.toNat 0 6 ||| place r.part.toNat 8 4 ||| place j.slot 16 12) ∧ tabGet (tile t l).s 15 0 = s.now ∧
          (∀ i, 16 ≤ i → tabGet (tile t l).s i 0 = 0) ∧ (tile t l).a = [] ∧ (tile t l).v = [] ∧ (tile t l).p = [] ∧
          (tile t l).acc = (tile s l).acc ∧ (∀ k, k ≠ l → tile t k = tile s k) ∧
          (∀ e, e ∈ t.rm.ready ↔ e ∈ s.rm.ready ∧ e.1 ≠ r) ∧ t.mem = s.mem ∧ Only [.rm, .tl, .dm, .sn, .hp, .pp] s t)) ∧
      ((tile s l).cmd.isSome = true → (∀ e ∈ s.rm.ready, e.1 ≠ r) →
        Does (.dispatch r) s (fun t => t.rm.ready = s.rm.ready ++ [(r, 0)] ∧ t.tl = s.tl ∧ Only [.rm] s t))) ∧
    (∀ (desc : List Word) (o : DispatchReq), o = { r with args := desc } →
      (jobFor s o = none → exec (.operatorCommand r desc) s = .next s) ∧
      (∀ j, jobFor s o = some j →
        (operCheck desc = 0 → operFormed s o j = false → exec (.operatorCommand r desc) s = .next s) ∧
        (operCheck desc = 0 → operFormed s o j = true → ∀ u : State, u = { s with rm := { s.rm with
            opers := s.rm.opers.filter (· != o) ++ [o]
            maps := tabSet (tabSet s.rm.maps (r.part.toNat * 2 ^ 48 + (operOf desc).inOff) (operOf desc).hIn)
              (r.part.toNat * 2 ^ 48 + (operOf desc).outOff) (operOf desc).oh } } →
          ∃ t, exec (.operatorCommand r desc) s = .next t ∧ exec (.dispatch o) u = .next t) ∧
        (operCheck desc ≠ 0 → Does (.operatorCommand r desc) s (fun t =>
          t.tl = s.tl ∧ t.rm.jobs = s.rm.jobs ∧ t.rm.opers = s.rm.opers ∧ (∀ e ∈ t.rm.ready, e ∈ s.rm.ready) ∧
          tabGet t.rm.ended r.part.toNat 0 = operCheck desc ∧ s.sn.eseq + 1 = t.sn.eseq ∧ tabGet t.sn.log s.sn.head.toNat [] =
            [s.now, place 0x0301 0 16 ||| place 1 16 2 ||| place (operCheck desc) 24 8 ||| place r.part.toNat 32 4 ||| place 0xFFFF 48 16,
             place s.sn.eseq.toNat 0 32, 0] ∧
          (r.pages = [] → Only [.rm, .sn] s t) ∧
          (∀ pid p q, r.pages = [pid] → page? s pid = some p → p.id = pid → p.stage ≠ .output → p.stage ≠ .released → queue? s p.queue = some q →
            (page? t pid).map (·.stage) = some .output ∧ queue? t p.queue = some { q with items := q.items.map (fun i => if i.page = some pid then
              { i with recs := [pageRec pid p.cseq (p.door != 0) (operCheck desc)] } else i) })))))

/-- A commit needs an ended, quiet, sound command; it frees the tile, keeps its registers, shadows its live banks and returns the job's tokens. (R229,
R240, R378, R413, R416, R417, R418, 15_safety_net.md, 13_ringmaster.md). -/
def Obligations.CommandCommits : Prop :=
  ∀ (s : State) (l : BitVec 6) (out : StageOut), Live s →
    ((tile s l.toNat).cmd = none → exec (.commandCommit l out) s = .next s) ∧
    (∀ c t0, t0 = tile s l.toNat → t0.cmd = some c →
      (c.ended = false ∨ c.failed = true ∨ t0.quiet = false ∨ t0.freeze ≠ [] ∨ outFits c out = false → exec (.commandCommit l out) s = .next s) ∧
      (c.ended = true → c.failed = false → t0.quiet = true → t0.freeze = [] → t0.land = [] → t0.posts = [] → s.dm.damage = [] →
        (∀ e ∈ s.rm.opers, e ≠ c.req) → (∀ e ∈ s.tl.tiles, ∀ f ∈ e.2.freeze, ∀ n k o, f ≠ .token n k o) → s.tl.leaving = [] → s.pp.owing = [] →
        s.kv.attends = [] →
        (c.group = none → out = .none → ∀ live x, x = routineOf s.si.conf c.part c.routine → live = (x.map (·.live)).getD 0 →
          Does (.commandCommit l out) s (fun t =>
            tile t l.toNat = { Tile.init with s := t0.s, a := t0.a, v := t0.v, p := t0.p, cyc := t0.cyc, pc := t0.pc, acc := t0.acc, shadow := putRows live t0.acc t0.shadow } ∧
            (∀ k, k ≠ l.toNat → tile t k = tile s k) ∧
            (∀ j, job? s (c.part, c.slot) = some j →
              (job? t (c.part, c.slot)).map (·.parity) = some (if j.bspad = 0 then j.parity else !j.parity)) ∧
            (∀ n, (tok s n).owner = ownerCode c.part c.slot → tok t n = { tok s n with owner := 0xFFFF }) ∧
            (x.isSome = true → t.tl.overrun =
              if c.bound * 25 < (s.now.toNat - c.arrived.toNat) * 8 then satAdd s.tl.overrun 1 else s.tl.overrun) ∧
            Only [.tl, .rm] s t)) ∧
        (∀ g ch, c.group = some g → s.si.conf.chains[g]? = some ch → ch.cons ≠ l.toNat → framesGranted c out s = (true, s) →
          Does (.commandCommit l out) s (fun t => (tile t l.toNat).cmd = none ∧ (∀ k, k ≠ l.toNat → tile t k = tile s k) ∧
            (∀ n, (tok t n).count = (tok s n).count) ∧
            t.rm.groups = s.rm.groups.map (fun x => if x.chain = g then { x with outs := x.outs ++ [(c.pages, out)] } else x) ∧ Only [.tl, .rm] s t))))

/-- The end of a slice waits for the running command or passes the turn with a switch; SWITCH_DONE ends it with its event entry. (R375, R376, R378, R382,
R386, R394, 13_ringmaster.md). -/
def Obligations.TurnsOfTheRunOrder : Prop :=
  ∀ (s : State) (l : BitVec 6) (x : TileSched), Live s → x = sched s l.toNat →
    (x.run = none ∨ x.sw.isSome = true ∨ x.late = true ∨ s.now.toNat < x.sliceEnd.toNat → exec (.sliceEnd l) s = .next s) ∧
    (∀ k1, x.run = some k1 → x.sw = none → x.late = false → x.sliceEnd.toNat ≤ s.now.toNat → s.rm.donations = [] →
      ((tile s l.toNat).cmd.isSome = true → exec (.sliceEnd l) s = .next (setSched l.toNat { x with late := true, sliceEnd := s.now } s)) ∧
      (∀ k2 rest j, (tile s l.toNat).cmd = none → x.last = some k1 → x.ring = k2 :: rest → k2 ≠ k1 → job? s k2 = some j → j.debit < sliceOf s k2.1 →
        Does (.sliceEnd l) s (fun t =>
          sched t l.toNat = { x with ring := if jobReady s k1 then rest ++ [k1] else rest, run := some k2, len := sliceOf s k2.1 - j.debit,
                                     sw := some (s.now, switchTime s k1 k2) } ∧
          (∀ k, k ≠ l.toNat → sched t k = sched s k) ∧ (job? t k2).map (fun y => (y.debit, y.credits, y.want)) = some (0, j.credits + j.want, 0) ∧
          (∀ i, job? s k1 = some i → job? t k1 = some { i with credits := 0, want := i.want + i.credits }) ∧ t.rm.ready = s.rm.ready ∧ Only [.rm] s t)) ∧
      ((tile s l.toNat).cmd = none → x.ring = [] → jobReady s k1 = false →
        exec (.sliceEnd l) s = .next (setSched l.toNat { x with run := none } s))) ∧
    (x.sw = none → exec (.switchDone l) s = .next s) ∧
    (∀ t0 units k o took, x.sw = some (t0, units) → x.run = some k → x.last = some o → took = s.now.toNat - t0.toNat →
      Does (.switchDone l) s (fun t =>
        sched t l.toNat = { x with last := some k, sw := none, sliceEnd := s.now + BitVec.ofNat 64 x.len } ∧ (∀ i, i ≠ l.toNat → sched t i = sched s i) ∧
        t.rm.swCount = s.rm.swCount + 1 ∧ t.rm.swOver = (if units < took * 256 then satAdd s.rm.swOver 1 else s.rm.swOver) ∧
        (s.rm.swevt.length < 64 → t.rm.swLost = s.rm.swLost ∧ t.rm.swevt = s.rm.swevt ++ [maskOf 63 1 ||| place k.1 59 4 ||| place l.toNat 53 6 |||
          place o.2 41 12 ||| place k.2 29 12 ||| place (ceilDiv took 2) 15 14 ||| place (ceilDiv units 512) 1 14]) ∧
        (64 ≤ s.rm.swevt.length → t.rm.swevt = s.rm.swevt ∧ t.rm.swLost = satAdd s.rm.swLost 1) ∧
        (∀ n, n ≠ l.toNat → tile t n = tile s n) ∧ (∀ n, (tok t n).count = (tok s n).count) ∧ t.mem = { s.mem with spad := t.mem.spad } ∧
        Only [.rm, .tl, .mem] s t))

/-- RM_SWEVT pops, a bad RM_DECL write is discarded and counted, TL_NFLAG clears, an engine serves whom its cycle picks, tiles lost or gained re-judge.
(R261, R368, R383, R384, R388, R390, R394, 13_ringmaster.md). -/
def Obligations.CountsAndGrants : Prop :=
  ∀ s : State, Live s →
    (∀ src, (src ≠ .host ∨ locked s = true →
        (∀ w rest, s.rm.swevt = w :: rest → exec (.swevtPop src) s = .next { s with rm := { s.rm with swevt := rest }, rd := w }) ∧
        (s.rm.swevt = [] → exec (.swevtPop src) s = .next { s with rd := 0 })) ∧
      (src = .host → locked s = false → exec (.swevtPop src) s = .next { s with rd := 0 })) ∧
    (∀ (c : Byte) (w : RegWr) (v : Word), Made s w → v = putBits (declOf s c.toNat) w.data (maskOf 16 48) (enMask w.be) →
      (fld v 32 16 = 0 ∨ fld v 16 16 = 0 ∨ 8192 < fld v 16 16 → exec (.declWrite c w) s = .next (wdisc s)) ∧
      (fld v 32 16 ≠ 0 → fld v 16 16 ≠ 0 → fld v 16 16 ≤ 8192 →
        exec (.declWrite c w) s = .next { s with rm := { s.rm with decl := tabSet s.rm.decl c.toNat v } })) ∧
    (∀ (w : RegWr) (v d : Word), Made s w → d = w.data &&& enMask w.be → v = s.tl.nflag &&& ~~~ (d &&& maskOf 24 4 &&& ~~~ justRaised s) →
      exec (.nflagClrCount w) s = .next { s with tl := { s.tl with nflag := if bitOf d 31 then setFld v 0 24 0 else v } }) ∧
    (∀ e : BitVec 4,
      (e.toNat < 4 → pairIdle s e.toNat = false ∨ grantPick s e.toNat ((pairless s).map (·.part)) = none → exec (.sharedEngineGrant e) s = .next s) ∧
      (∀ p x, e.toNat < 4 → pairIdle s e.toNat = true → grantPick s e.toNat ((pairless s).map (·.part)) = some (p, x) → (∀ y ∈ s.pp.pages, y.2.id = y.1) →
        (s.pp.pages.Pairwise (fun a b => a.1 ≠ b.1)) → Does (.sharedEngineGrant e) s (fun t => engine t e.toNat = x ∧ (∀ i, i ≠ e.toNat → engine t i = engine s i) ∧
          (∃ o ∈ pairless s, o.part = p ∧ page? t o.id = some { o with pair := some e.toNat } ∧ ∀ id, id ≠ o.id → page? t id = page? s id) ∧ Only [.rm, .pp] s t)) ∧
      (∀ waits : EngineCmd → Bool, 6 ≤ e.toNat → waits = (fun c => c.engine.isNone && c.fits e.toNat && !(applying s c.part)) →
        (s.dm.cmds.any (fun c => c.engine == some e.toNat) = true ∨ grantPick s e.toNat ((s.dm.cmds.filter waits).map (·.part)) = none →
          exec (.sharedEngineGrant e) s = .next s) ∧
        (∀ p x before c after, s.dm.cmds.any (fun c => c.engine == some e.toNat) = false → grantPick s e.toNat ((s.dm.cmds.filter waits).map (·.part)) = some (p, x) →
          s.dm.cmds = before ++ c :: after → waits c = true → c.part = p → (∀ y ∈ before, waits y = false ∨ y.part ≠ p) →
          Does (.sharedEngineGrant e) s (fun t => engine t e.toNat = x ∧ (∀ i, i ≠ e.toNat → engine t i = engine s i) ∧
            t.dm = { s.dm with cmds := before ++ { c with engine := some e.toNat } :: after } ∧ Only [.rm, .dm] s t))) ∧
      (∀ (d : Nat) (ws : List Attend), e.toNat = 4 + d → d < 2 → ws = s.kv.attends.filter (fun a => a.leftOn d != 0 && !(attHeld s a)) →
        (s.kv.attends.any (fun a => a.busyOn d) = false →
          (grantPick s e.toNat (ws.map (·.part)) = none → exec (.sharedEngineGrant e) s = .next s) ∧
          (∀ p x a, grantPick s e.toNat (ws.map (·.part)) = some (p, x) → ws.find? (fun a => a.part == p) = some a → Does (.sharedEngineGrant e) s (fun t =>
            engine t e.toNat = x ∧ (∀ i, i ≠ e.toNat → engine t i = engine s i) ∧
            t.kv = { s.kv with attends := s.kv.attends.map (fun y => if y = a then a.setBusy d true else y) } ∧ Only [.kv, .rm] s t))) ∧
        (∀ a b, s.kv.attends.find? (fun a => a.busyOn d) = some a → 1 < a.left.1 + a.left.2 → a.leftOn d ≠ 0 →
          b = { a.setBusy d false with left := if d = 0 then (a.left.1 - 1, a.left.2) else (a.left.1, a.left.2 - 1) } →
          ∃ t, exec (.sharedEngineGrant e) s = .next t ∧ t = startBlock d { s with kv := { s.kv with attends := s.kv.attends.map (fun y => if y = a then b else y) } } ∧
            t.kv.seqs = s.kv.seqs ∧ t.kv.attends.length = s.kv.attends.length ∧ Only [.kv, .rm] s t))) ∧
    (∀ (part : BitVec 4) (fewer : Bool),
      (s.si.job.isSome = true →
        exec (.readmission part fewer) s = .next { s with si := { s.si with retryJudge := s.si.retryJudge ++ [(part.toNat, fewer)] } }) ∧
      (s.si.job = none → s.dq.queues.Pairwise (fun a b => a.1 ≠ b.1) → Does (.readmission part fewer) s (fun t =>
        (∀ q r, queue? s q = some r → (r.part ≠ part.toNat → judgedAs t q = judgedAs s q) ∧ (r.part = part.toNat → ∃ st ln, queue? t q = some { r with
          st := st
          lines := ln } ∧
          (st = r.st ∨ (fewer = true ∧ st = .notAdmitted) ∨ (fewer = false ∧ r.st = .notAdmitted ∧ st = .opened)))) ∧
        (∀ q, queue? s q = none → queue? t q = none) ∧ Only [.dq, .rm, .hp, .sn, .cv, .pp] s t)))

/-- KV_OPEN lists READY sequences in STEP, KV_ATTEND waits for its blocks, KV_CLOSE advances every listed sequence by one. (R301, R302, R303, R305, R306,
R308, R316, 10_attention_kv.md). -/
def Obligations.WalkerSteps : Prop :=
  ∀ (s : State) (p : BitVec 4) (ws : List Word) (c : WalkCmd), Live s → c = walkCmd ws →
    (∀ k i, (k, i) ∈ ([(0, .kvOpen p ws), (1, .kvAttend p ws), (2, .kvClose p ws)] : List (Nat × Instr)) → ∀ code, code = walkRefusal s p.toNat k c →
      (code = 0 ↔ c.zero = true ∧ c.kop ≠ 3 ∧ (stepOpen s p.toNat c.dec = true ↔ k ≠ 0)) ∧
      (c.zero = true → c.kop ≠ 3 → code ≠ 0 → code = cClaim) ∧ (c.kop ≠ 3 → (stepOpen s p.toNat c.dec = true ↔ k ≠ 0) → code ≠ 0 → code = cReserved) ∧
      (c.kop = 3 → c.zero = true → (stepOpen s p.toNat c.dec = true ↔ k ≠ 0) → code = cVersion) ∧
      (code ≠ 0 → exec i s = .next (completed 3 p.toNat code s))) ∧
    (∀ d pd, decDef s p.toNat c.dec = some d → part? s p.toNat = some pd → c.zero = true →
      (c.kop = 0 → stepOpen s p.toNat c.dec = false → s.kv.seqs.Pairwise (fun a b => a.1 < b.1) → Does (.kvOpen p ws) s (fun t =>
        (∃ r, stepRec t p.toNat c.dec = some r ∧ r.opened = true ∧ r.list.length ≤ d.listMax ∧ r.list.Pairwise (fun a b => a.1 < b.1) ∧
          (∀ x ∈ r.list, (seqEnt s x.1).st = .ready ∧ (seqEnt s x.1).part = p.toNat ∧ (seqEnt s x.1).dec = c.dec ∧ (seqEnt s x.1).n < 8192 ∧
            (seqEnt t x.1).st = .step ∧ (seqEnt t x.1).n = (seqEnt s x.1).n ∧ x.2 = (seqEnt t x.1).table ∧ x.2 = (seqEnt s x.1).table)) ∧
        tabGet t.rm.ended (16 * 3 + p.toNat) 0 = cOk ∧
        t.kv.attends = s.kv.attends ∧ t.mem = { s.mem with stg0 := t.mem.stg0, stg1 := t.mem.stg1 } ∧
        Only [.kv, .mem, .pp, .tl, .dm, .sn, .hp, .rm, .pw] s t)) ∧
      (c.kop = 1 → stepOpen s p.toNat c.dec = true →
        (d.layers ≤ c.layer ∨ 511 < c.first ∨ c.count = 0 ∨ 512 < c.count → exec (.kvAttend p ws) s = .next (completed 3 p.toNat cDimLimit s)) ∧
        (c.layer < d.layers → c.first ≤ 511 → 0 < c.count → c.count ≤ 512 → ∃ made : List Attend,
          exec (.kvAttend p ws) s = .next (startAttends { s with kv := { s.kv with attends := s.kv.attends ++ made } }) ∧
          (made.map (·.count)).sum = c.count ∧ (∀ k a, made[k]? = some a → a = (⟨p.toNat, c.dec, c.layer,
            c.first + ((made.take k).map (·.count)).sum, a.count, c.inStg, c.outStg, if k + 1 = made.length then c.tok else 0,
            (attBlockCount s d a 0, attBlockCount s d a 1), (false, false), 1⟩ : Attend)) ∧
          ((∀ a ∈ s.kv.attends ++ made, a.left ≠ (0, 0)) → s.kv.attends.any (·.busyOn 0) = true → s.kv.attends.any (·.busyOn 1) = true →
            exec (.kvAttend p ws) s = .next { s with kv := { s.kv with attends := s.kv.attends ++ made } }))) ∧
      (∀ r, c.kop = 2 → stepRec s p.toNat c.dec = some r → r.opened = true →
        (s.kv.attends.any (fun a => a.part == p.toNat && a.dec == c.dec) = true → exec (.kvClose p ws) s = .next s) ∧
        (s.kv.attends.any (fun a => a.part == p.toNat && a.dec == c.dec) = false →
        s.dm.damage = [] → (∀ o, stgAddr pd 0 o < 0x3C00000 ∧ stgAddr pd 1 o < 0x3C00000) → (r.list.map (·.1)).Nodup →
        (∀ x ∈ r.list, (seqEnt s x.1).st = .step) → Does (.kvClose p ws) s (fun t =>
          stepOpen t p.toNat c.dec = false ∧ tabGet t.kv.cnt 0 0 = satAdd (tabGet s.kv.cnt 0 0) 1 ∧ tabGet t.rm.ended (16 * 3 + p.toNat) 0 = cOk ∧
          (∀ k x, r.list[k]? = some x → (seqEnt s x.1).lost = false → (seqEnt s x.1).n + 1 < 8192 →
            leAt (stgWinRead s pd (home x.1) (c.inStg + 16 + 4 * k) 4) 0 1 % 2 = 0 →
            seqEnt t x.1 = { seqEnt s x.1 with n := (seqEnt s x.1).n + 1, st := .ready }) ∧
          t.mem = { s.mem with stg0 := t.mem.stg0, stg1 := t.mem.stg1 } ∧ Only [.kv, .mem, .dm, .pp, .tl, .sn, .rm] s t))))

/-- SEQUENCE_ALLOC fills the lowest free entry; a direct write or a swap of a table is refused with its code or edits it and counts VER. (R294, R297,
R299, R313, R314, R315, R316, R326, 10_attention_kv.md). -/
def Obligations.SequenceTables : Prop :=
  ∀ s : State, Live s →
    (∀ p : BitVec 4,
      (s.kv.segs.find? (fun g => g.1 == p.toNat) = none → exec (.sequenceAlloc p) s = .next s) ∧
      (∀ pid line d, s.kv.segs.find? (fun g => g.1 == p.toNat) = some (p.toNat, pid, line) → poolDef s p.toNat = some d →
        (page? s pid = none → exec (.sequenceAlloc p) s = .next { s with kv := { s.kv with segs := s.kv.segs.erase (p.toNat, pid, line) } }) ∧
        ((page? s pid).isSome = true → ((List.range d.count).map (d.base + ·)).find? (fun i => (seqEnt s i).st == .free && (freeTable s (home i)).isSome) = none →
          exec (.sequenceAlloc p) s = .next s)) ∧
      (∀ pid line d pg i tb, s.kv.segs.find? (fun g => g.1 == p.toNat) = some (p.toNat, pid, line) → poolDef s p.toNat = some d → page? s pid = some pg →
        ((List.range d.count).map (d.base + ·)).find? (fun i => (seqEnt s i).st == .free && (freeTable s (home i)).isSome) = some i →
        freeTable s (home i) = some tb → Does (.sequenceAlloc p) s (fun t =>
          t.kv.segs = s.kv.segs.erase (p.toNat, pid, line) ∧ (seqEnt t i).st = .ready ∧ (seqEnt t i).n = 0 ∧ (seqEnt t i).table = tb ∧
          (seqEnt t i).page = pid ∧ (seqEnt t i).line = line ∧ (seqEnt t i).part = p.toNat ∧ (seqEnt t i).queue = pg.queue ∧
          (seqEnt t i).created = s.now ∧ (seqEnt t i).ver = 0 ∧ (seqEnt t i).epoch = (seqEnt s i).epoch + 1 ∧ (∀ b, (tabOf t tb).ent b = 0) ∧
          (∀ j, j ≠ i → seqEnt t j = seqEnt s j) ∧ (∀ x, x ≠ tb → tabOf t x = tabOf s x) ∧ Only [.kv, .dm] s t))) ∧
    (∀ w : RegWr, w.src = .host → locked s = true → exec (.ptDirectWrite w) s = .next (wdisc s) ∧ exec (.ptSwap w) s = .next (wdisc s)) ∧
    (∀ (w : RegWr) (d r : Word), Made s w → w.src ≠ .host → d = w.data &&& enMask w.be →
      (r = putBits s.kv.ptWr w.data (maskOf 36 20 ||| maskOf 0 32) (enMask w.be) → ∀ (i b : Nat) (v : BitVec 32) (e : SeqEntry),
        i = fld r 36 13 → b = fld r 49 7 → v = r.setWidth 32 → e = seqEnt s i →
        (bitOf d 63 = false → exec (.ptDirectWrite w) s = .next { s with kv := { s.kv with ptWr := r } }) ∧
        (bitOf d 63 = true → Does (.ptDirectWrite w) s (fun t => ∃ code, t.kv.ptStat = place code 0 8 ∧ code < 256 ∧ t.kv.ptWr = r ∧
          ((tabOf s e.table).walk ≠ 0 ∨ (e.st ≠ .ready ∧ e.st ≠ .step) → code = cTableBusy) ∧
          ((tabOf s e.table).walk = 0 → e.st = .ready ∨ e.st = .step → entOk v = false → code = cReserved) ∧
          (code ≠ cOk → t.kv.seqs = s.kv.seqs ∧ t.kv.tabs = s.kv.tabs) ∧
          (code = cOk → (seqEnt t i).ver = e.ver + 1 ∧ (seqEnt t i).table = e.table ∧ (seqEnt t i).st = e.st ∧ (seqEnt t i).n = e.n ∧
            (tabOf t e.table).ent b = v ∧ (∀ k, k ≠ b → (tabOf t e.table).ent k = (tabOf s e.table).ent k) ∧
            (∀ j, j ≠ i → seqEnt t j = seqEnt s j) ∧ (∀ x, x ≠ e.table → tabOf t x = tabOf s x)) ∧ Only [.kv, .dm] s t))) ∧
      (r = putBits s.kv.ptSwap w.data (maskOf 32 29 ||| maskOf 6 20) (enMask w.be) → ∀ (i a : Nat) (e : SeqEntry) (img : Bytes),
        i = fld r 48 13 → a = fld r 6 20 * 64 → e = seqEnt s i → img = stgBytes s (home i) a 512 →
        (bitOf d 63 = false → exec (.ptSwap w) s = .next { s with kv := { s.kv with ptSwap := r } }) ∧
        (bitOf d 63 = true → Does (.ptSwap w) s (fun t => ∃ code, t.kv.ptStat = place code 0 8 ∧ code < 256 ∧ t.kv.ptSwap = r ∧
          (a + 512 ≤ 0x4000000 → (e.st ≠ .ready ∧ e.st ≠ .step) ∨ e.ver ≠ BitVec.ofNat 16 (fld r 32 16) → code = cTableBusy) ∧
          (0x4000000 < a + 512 → code = cDimLimit) ∧
          (code ≠ cOk → t.kv.seqs = s.kv.seqs ∧ t.kv.tabs = s.kv.tabs) ∧
          (code = cOk → (seqEnt t i).ver = e.ver + 1 ∧ (seqEnt t i).n = e.n ∧ (seqEnt t i).st = e.st ∧
            (∀ b < 128, (tabOf t (seqEnt t i).table).ent b = BitVec.ofNat 32 (leAt img (4 * b) 4)) ∧ (∀ j, j ≠ i → seqEnt t j = seqEnt s j)) ∧
          t.mem = { s.mem with stg0 := t.mem.stg0, stg1 := t.mem.stg1 } ∧ Only [.kv, .dm, .mem, .sn, .hp, .tl, .pw] s t))))

/-- A page out takes the lowest free Carousel slot; release and return move the slots they may; a checked page that fails is wanted again. (R321, R322,
R323, R324, R325, R326, 10_attention_kv.md). -/
def Obligations.CarouselSlots : Prop :=
  ∀ (s : State) (k : Nat), Live s →
    (s.kv.outq = [] ∨ lowestFree s ≠ some k ∨ 448 ≤ slotsOut s → exec (.carouselPageOut k) s = .next s) ∧
    (∀ i q b st rest e, s.kv.outq = i :: q → e = seqEnt s i → e.moving = (b, st) :: rest → lowestFree s = some k → slotsOut s < 448 →
      ∀ m a tick bytes, (m, a) = pageAt s ((tabOf s e.table).ent b) st → tick = ticket e.epoch st b i → bytes = runRead s m a 16384 →
      Does (.carouselPageOut k) s (fun t =>
        carSlot t k = ⟨slotWord tick e.part 1, crc32 (leBytes 4 tick ++ bytes), i⟩ ∧ (∀ j, j ≠ k → carSlot t j = carSlot s j) ∧
        Memory.readBytes t.mem.ap (carAddr k) 16384 = bytes ∧ SameBut s.mem.ap t.mem.ap (carAddr k) 16384 ∧
        t.mem = { s.mem with ap := t.mem.ap } ∧ tabGet t.kv.cnt 4 0 = satAdd (tabGet s.kv.cnt 4 0) 1 ∧ bitOf t.hp.alertStat 4 = true ∧
        Only [.kv, .mem, .hp, .dm, .sn, .tl, .pw] s t)) ∧
    (locked s = true → k < 512 → s.pw.mode ≠ modeLeaving → s.pw.mode ≠ modeDeep →
      ((carSlot s k).state = 1 → exec (.carouselRelease k) s = .next (setCarSlot k { carSlot s k with word := setFld (carSlot s k).word 0 8 0 } s)) ∧
      ((carSlot s k).state ≠ 1 → exec (.carouselRelease k) s = .next (wdisc s)) ∧
      ((carSlot s k).state = 2 → exec (.carouselReturn k) s = .next (setCarSlot k { carSlot s k with word := setFld (carSlot s k).word 0 8 3 } s)) ∧
      ((carSlot s k).state ≠ 2 → exec (.carouselReturn k) s = .next (wdisc s))) ∧
    ((carSlot s k).state ≠ 3 → exec (.carouselCheck k) s = .next s) ∧
    (∀ x b bytes, x = carSlot s k → x.state = 3 → bytes = Memory.readBytes s.mem.ap (carAddr k) 16384 → s.dm.damage = [] → b = x.ticket / 2 ^ 13 % 128 →
      (crc32 (leBytes 4 x.ticket ++ bytes) ≠ x.crc → Does (.carouselCheck k) s (fun t =>
        carSlot t k = { x with word := setFld x.word 0 8 2 } ∧ (∀ j, j ≠ k → carSlot t j = carSlot s j) ∧ t.kv.seqs = s.kv.seqs ∧
        tabGet t.kv.cnt 6 0 = satAdd (tabGet s.kv.cnt 6 0) 1 ∧ bitOf t.hp.alertStat 4 = true ∧ Only [.kv, .hp] s t)) ∧
      (crc32 (leBytes 4 x.ticket ++ bytes) = x.crc → Does (.carouselCheck k) s (fun t =>
        carSlot t k = { x with word := setFld x.word 0 8 0 } ∧ (∀ j, j ≠ k → carSlot t j = carSlot s j) ∧
        tabGet t.kv.cnt 5 0 = satAdd (tabGet s.kv.cnt 5 0) 1 ∧
        ((seqEnt s x.seq).st = .inPend → (seqEnt s x.seq).moving.contains (b, x.ticket / 2 ^ 20 % 16) = true →
          ∀ m a, (m, a) = pageAt s (nth (tabGet s.kv.resv x.seq []) ((outBlocks (tabOf s (seqEnt s x.seq).table)).findIdx (· == b)) 0) (x.ticket / 2 ^ 20 % 16) →
            runRead t m a 16384 = bytes) ∧ (∀ j, j ≠ x.seq → seqEnt t j = seqEnt s j) ∧ t.mem.ap = s.mem.ap ∧ Only [.kv, .mem, .dm] s t)))

/-- A hauler or codec command in order joins the others and takes an idle engine; when done its bytes are in place, or a bad row is reported. (R283, R286,
R287, R288, R347, R348, R384, R385, 11_memory_tiers.md). -/
def Obligations.HaulersAndCodecs : Prop :=
  ∀ (s : State) (p : BitVec 4) (ws : List Word) (pages : List (BitVec 32)), Live s →
    (∀ c n (op code kind : Nat), (c, n, op, code, kind) ∈ ([(.haulerCopy p ws, ⟨true, none, p.toNat, [], ws, 1⟩, 0, haulerCode ws, 2),
        (.haulerFill p ws, ⟨true, none, p.toNat, [], ws, 1⟩, 1, haulerCode ws, 2), (.codecPack p pages ws, ⟨false, none, p.toNat, pages, ws, 1⟩, 0, codecCode ws, 1),
        (.codecUnpack p pages ws, ⟨false, none, p.toNat, pages, ws, 1⟩, 1, codecCode ws, 1)] : List (Instr × EngineCmd × Nat × Nat × Nat)) →
      (fld (nth ws 0 0) 0 1 ≠ op ∨ part? s p.toNat = none → exec c s = .next s) ∧
      (∀ pd, fld (nth ws 0 0) 0 1 = op → part? s p.toNat = some pd →
        (code ≠ 0 → exec c s = .next (if kind = 2 then completed 2 p.toNat code s else operatorFail pages p.toNat code (completed 1 p.toNat code s))) ∧
        (code = 0 → Does c s (fun t =>
          t.dm.cmds.map (fun x => { x with engine := none }) = (s.dm.cmds ++ [n]).map (fun x => { x with engine := none }) ∧
          (∀ x ∈ s.dm.cmds, x.engine.isSome = true → x ∈ t.dm.cmds) ∧
          (pd.share ≠ 0 → applying s p.toNat = false → (∀ x ∈ s.dm.cmds, x.engine.isSome = true) → (∃ e, e < 16 ∧ 6 ≤ e ∧ n.fits e = true ∧ ∀ x ∈ s.dm.cmds, x.engine ≠ some e) →
            ∃ e, n.fits e = true ∧ { n with engine := some e } ∈ t.dm.cmds) ∧ Only [.dm, .rm] s t)))) ∧
    (∀ idx, ((∀ x ∈ s.dm.cmds, x.engine ≠ some (8 + idx)) → exec (.haulerDone idx) s = .next s) ∧
      ((∀ x ∈ s.dm.cmds, x.engine ≠ some (6 + idx)) → exec (.codecDone idx) s = .next s)) ∧
    (∀ idx x pd, s.dm.damage = [] → (∀ a ∈ s.kv.attends, a.left ≠ (0, 0)) → part? s x.part = some pd →
      (∀ (B N : Nat → Nat) (src dst : Nat), s.dm.cmds.find? (fun c => c.engine == some (8 + idx)) = some x →
        B = (fun k => if k = 0 then regionBase s 4 + pd.dramBase * 0x100000 else (if x.depot = 0 then pd.stgBase.1 else pd.stgBase.2) * 0x10000) →
        N = (fun k => if k = 0 then pd.dramSize * 0x100000 else (if x.depot = 0 then pd.stgSize.1 else pd.stgSize.2) * 0x10000) →
        src = fld (nth x.words 1 0) 0 48 → dst = fld (nth x.words 2 0) 0 48 → hLen x % 8 = 0 → src + hLen x ≤ N (hSrcT x) → dst + hLen x ≤ N (hDstT x) →
        Does (.haulerDone idx) s (fun t =>
          (∀ i < hLen x, Memory.read (memOf t (hDstT x) x.depot) (B (hDstT x) + dst + i) =
            if fld (nth x.words 0 0) 0 1 = 0 then Memory.read (memOf s (hSrcT x) x.depot) (B (hSrcT x) + src + i)
            else nth (leBytes 8 (nth x.words 4 0).toNat) (i % 8) 0) ∧
          SameBut (memOf s (hDstT x) x.depot) (memOf t (hDstT x) x.depot) (B (hDstT x) + dst) (hLen x) ∧
          t.dm.cmds.length + 1 = s.dm.cmds.length ∧ Only [.mem, .dm, .rm, .tl, .sn, .kv] s t)) ∧
      (s.dm.cmds.find? (fun c => c.engine == some (6 + idx)) = some x →
        (fld (nth x.words 0 0) 0 1 = 0 → Does (.codecDone idx) s (fun t =>
          t.mem = ((List.range (zRows x)).foldl (fun u k => packRow x pd k u) s).mem ∧
          (zRows x = 1 → ∀ row n, (row, n) = zrPackRow (zForm x) (zRow0 x) (zCblk x) ((List.range (zW x)).map (fun k =>
            ((stgWinRead s pd x.depot (zStg x) (zW x * 256)).drop (256 * k)).take 256)) →
            t.mem = (dramWinWrite pd (zrAt s x (zRow0 x)) row s).mem) ∧
          tabGet t.dm.zrCnt 0 0 = satAdd (tabGet s.dm.zrCnt 0 0) (zRows x) ∧ t.dm.cmds.length + 1 = s.dm.cmds.length ∧
          Only [.mem, .dm, .rm, .tl, .sn, .kv] s t)) ∧
        (fld (nth x.words 0 0) 0 1 = 1 → ∀ ls, unpackRows x pd s (zRows x) 0 [] = .inr ls → Does (.codecDone idx) s (fun t =>
          t.mem = (stgWinWrite pd x.depot (zStg x) (ls.flatMap id) s).mem ∧ tabGet t.dm.zrCnt 1 0 = satAdd (tabGet s.dm.zrCnt 1 0) (zRows x) ∧
          t.dm.cmds.length + 1 = s.dm.cmds.length ∧ Only [.mem, .dm, .rm, .tl, .sn, .kv] s t)) ∧
        (fld (nth x.words 0 0) 0 1 = 1 → ∀ k b, unpackRows x pd s (zRows x) 0 [] = .inl (k, b) → Does (.codecDone idx) s (fun t =>
          t.dm.zrLast = (place b 48 16 ||| place (zRow0 x + k) 32 16 ||| place (zCblk x) 22 10 ||| place x.part 18 4 ||| place x.depot 17 1) ∧
          tabGet t.dm.zrCnt 2 0 = satAdd (tabGet s.dm.zrCnt 2 0) 1 ∧ t.dm.cmds.length < s.dm.cmds.length ∧
          t.mem = { s.mem with stg0 := t.mem.stg0, stg1 := t.mem.stg1 } ∧ (x.pages = [] → t.mem = s.mem) ∧
          Only [.dm, .rm, .sn, .pp, .dq, .kv, .mem] s t))))

/-- A position serves its owner, a calendar applies at position 0, a scrub step moves its pointer and finds errors, a write-back repairs. (R233, R334,
R335, R338, R340, R342, R350, R351, R353, R427, 11_memory_tiers.md). -/
def Obligations.CalendarAndScrub : Prop :=
  ∀ s : State, Live s →
    (s.now.toNat % 16 ≠ 0 ∨ s.dm.calOn = false → exec .calendarPosition s = .next s) ∧
    (∀ o, s.now.toNat % 16 = 0 → s.dm.calOn = true → o = calOwner s (s.now.toNat / 16 % 4096) →
      (o = 1 → exec .calendarPosition s = .next { s with dm := { s.dm with refreshRow := (s.dm.refreshRow + 1) % 8192 } }) ∧
      (o ≠ 1 → o < 0x1000 ∨ 0x1200 ≤ o → exec .calendarPosition s = .next s) ∧
      (∀ l n i x, l < 64 → n < 8 → o = 0x1000 + 8 * l + n → i = (tile s l).xfers.findIdx (fun y => y.lane == n && y.slotAt.isNone) →
        (tile s l).xfers[i]? = some x →
        ((tile s l).xfers.all (fun y => y.lane != n || (match y.slotAt with | some a => decide (a.toNat + 16 ≤ s.now.toNat) | none => true)) = true →
          readyAt x ≤ s.now.toNat * 256 →
            ((tile s l).cmd.bind (fun c => part? s c.part) = none → exec .calendarPosition s =
              .next (setTile l { tile s l with xfers := (tile s l).xfers.set i { x with slotAt := some s.now } } s)) ∧
            (∀ pd, (tile s l).cmd.bind (fun c => part? s c.part) = some pd →
              (x.out = true → exec .calendarPosition s = .next (setTile l { tile s l with xfers := (tile s l).xfers.set i { x with slotAt := some s.now } }
                (dramWinWrite pd x.off x.data s))) ∧
              (x.out = false → s.dm.damage = [] → exec .calendarPosition s = .next (setTile l { tile s l with
                xfers := (tile s l).xfers.set i { x with slotAt := some s.now, data := dramWinRead s pd x.off x.len } } s)))) ∧
        (s.now.toNat * 256 < readyAt x → exec .calendarPosition s = .next s))) ∧
    (s.dm.next = none ∨ s.now.toNat % 65536 ≠ 0 ∨ reloadedRuns s = true ∨
      (∃ cal o, s.dm.next = some cal ∧ o ∈ changedOwners s cal ∧ laneBusy s o = true) → exec .calendarApply s = .next s) ∧
    (∀ cal, s.dm.next = some cal → s.now.toNat % 65536 = 0 → reloadedRuns s = false → (changedOwners s cal).any (laneBusy s) = false →
      Does .calendarApply s (fun t => t.dm = { s.dm with cal := cal, calDef := 0, calOn := true, gen := s.dm.gen + 1, next := none } ∧
        t.hp = { s.hp with stageBound := BitVec.ofNat 64 (912 + max (7168 * gapG0 t) 28672) } ∧ Only [.dm, .hp] s t)) ∧
    (∀ m hits, m ≠ .control → exec (.scrubStep m hits) s = exec (.scrubStep m []) (addDamage m hits s)) ∧
    (∀ h : ScrubHit, exec (.scrubStep .control [h]) s = .next (if h.ue then snCount 7 1 s else s)) ∧
    (∀ m p, p = tabGet s.dm.scrub (scrubKey m) 0 →
      (scrubLen m = 0 ∨ scrubs m s = false → exec (.scrubStep m []) s = .next s) ∧
      (scrubLen m ≠ 0 → scrubs m s = true → Does (.scrubStep m []) s (fun t =>
        tabGet t.dm.scrub (scrubKey m) 0 = (p + 1) % scrubLen m ∧
        t.dm.dramPass = (if m = .dram ∧ p + 1 = scrubLen m then satAdd s.dm.dramPass 1 else s.dm.dramPass) ∧
        t.dm.stgPass = (if m = .stg0 ∧ p + 1 = scrubLen m then satAdd s.dm.stgPass 1 else s.dm.stgPass) ∧
        ((∀ d ∈ scrubFinds s m p, d.ue = false) → t.dm.damage = s.dm.damage ∧ ∀ d ∈ scrubFinds s m p, d ∈ t.dm.back) ∧
        t.mem = s.mem ∧ t.rm = s.rm ∧ Only [.dm, .sn, .tl, .hp, .kv, .pw] s t))) ∧
    (∀ m, (∀ d, s.dm.back.find? (fun d => d.mem == m) = some d → Does (.ceWriteBack m) s (fun t =>
        t.dm = { s.dm with back := s.dm.back.erase d, damage := s.dm.damage.erase d } ∧ t.mem = s.mem ∧ Only [.dm, .sn, .tl, .hp, .pw] s t)) ∧
      ((∀ d ∈ s.dm.back, d.mem ≠ m) → s.sn.ces = [] → exec (.ceWriteBack m) s = .next s))

/-- SI_LOAD takes a sound image or refuses it with the check that fails and leaves the configuration; SI_APPLY applies it; done counts it. (R107, R338,
R354, R357, R358, R367, R370, R371, R372, 12_structure_image.md). -/
def Obligations.ImageLoads : Prop :=
  ∀ s : State, Live s →
    (∀ w : RegWr, (w.src = .host → locked s = true → exec (.siLoad w) s = .next (wdisc s)) ∧
      (∀ r, Made s w → w.src ≠ .host → r = srcPut s.si.load w.data (enMask w.be) →
        (bitOf (w.data &&& enMask w.be) 63 = false → exec (.siLoad w) s = .next { s with si := { s.si with load := r } }) ∧
        (bitOf (w.data &&& enMask w.be) 63 = true → s.si.job.isSome = true → exec (.siLoad w) s = .next (wdisc s)) ∧
        (bitOf (w.data &&& enMask w.be) 63 = true → s.si.job = none → s.tr.waiting = [] → swapping s = true →
          exec (.siLoad w) s = .next { s with si := { s.si with load := r }, tr := { s.tr with waiting := [.load r] } }) ∧
        (bitOf (w.data &&& enMask w.be) 63 = true → s.si.job = none → s.tr.waiting = [] → swapping s = false → s.dm.damage = [] →
          ∀ (s' : State) (b : Bytes), s' = { s with si := { s.si with load := r } } →
            b = (srcRead r 0 (max 64 (min (siLength (srcRead r 0 64 s).1) 0x04000000)) s).1 →
          (imageErr s' b = none → exec (.siLoad w) s =
            .next { s with si := { s.si with load := r, stat := place 2 0 3, job := some ⟨siWhole b, siPart b, BitVec.ofNat 32 (siId b), BitVec.ofNat 32 (siVer b), b, certifiedConf (imageConf s.si.conf b)⟩ } }) ∧
          (∀ check code sec item, imageErr s' b = some (check, code, sec, item) → s.dq.busy ≠ some .load → s.si.retryJudge = [] →
            Does (.siLoad w) s (fun t =>
              t.si = { s.si with load := r, stat := place item 48 16 ||| place sec 32 16 ||| place check 16 8 ||| place code 8 8 ||| place 5 0 3,
                                 conflict := t.si.conflict, bound := t.si.bound, loads := t.si.loads } ∧
              fld t.si.loads 32 32 = (satAdd (BitVec.ofNat 32 (fld s.si.loads 32 32)) 1).toNat ∧ fld t.si.loads 0 32 = fld s.si.loads 0 32 ∧
              (check ≠ 10 → t.si.conflict = s.si.conflict) ∧ (check ≠ 16 → t.si.bound = s.si.bound) ∧
              (bootStage s = 8 → bootStage t = 0xE4) ∧ t.mem = s.mem ∧ Only [.si, .sn, .tr, .mg, .cv, .pp] s t))))) ∧
    (s.si.job = none ∨ fld s.si.stat 0 3 ≠ 2 ∨ (∃ j, s.si.job = some j ∧ loadDrained s j = false) → exec .siApply s = .next s) ∧
    (∀ j, s.si.job = some j → fld s.si.stat 0 3 = 2 → loadDrained s j = true → Does .siApply s (fun t =>
      t.si = { s.si with conf := j.conf, stat := place 3 0 3 } ∧ t.dm.next = some j.conf.cal ∧ t.dm.cal = s.dm.cal ∧
      (j.whole = true → t.tl.toks = [] ∧ t.rm.engines = [] ∧ tabGet t.dm.regions 4 0 = (place j.conf.region4.1 40 16 ||| place j.conf.region4.2 24 16)) ∧
      (j.whole = false → t.dm.regions = s.dm.regions ∧ t.rm.engines = s.rm.engines) ∧
      (j.whole = true → t.sf = { s.sf with holdPin := j.conf.claims.any (fun c => c.1 == 0x04000000) }) ∧ (j.whole = false → t.sf = s.sf) ∧
      (∀ x ∈ s.rm.jobs, j.changes x.part = false → x ∈ t.rm.jobs) ∧ t.tl.tiles = s.tl.tiles ∧ Only [.si, .tl, .dm, .rm, .ck, .sf] s t)) ∧
    (s.si.job = none ∨ fld s.si.stat 0 3 ≠ 3 ∨ s.dm.next.isSome = true → exec .siLoadDone s = .next s) ∧
    (∀ j, s.si.job = some j → fld s.si.stat 0 3 = 3 → s.dm.next = none → s.dq.busy ≠ some .load → s.si.retryJudge = [] → s.tr.waiting = [] →
      Does .siLoadDone s (fun t => t.si.stat = place 4 0 3 ∧ t.si.job = none ∧ t.si.conf = s.si.conf ∧
        t.si.image = (if j.whole then place j.imageId.toNat 32 32 ||| place j.imageVer.toNat 0 32 else s.si.image) ∧
        (∀ p < 16, tabGet t.si.part p 0 =
          if j.changes p then place j.imageVer.toNat 32 32 ||| place (fld (tabGet s.si.part p 0) 0 16 + 1) 0 16 else tabGet s.si.part p 0) ∧
        fld t.si.loads 0 32 = (satAdd (BitVec.ofNat 32 (fld s.si.loads 0 32)) 1).toNat ∧ t.tr.mnext = s.tr.mnext + 1 ∧
        (bootStage s = 8 ∨ bootStage s = 0xE4 → bootStage t = 9) ∧ t.mem = s.mem ∧
        (s.rm.ready = [] → s.dm.cmds = [] → t.rm = s.rm ∧ t.dm = s.dm) ∧ Only [.si, .tr, .mg, .cv, .pp, .rm, .dm] s t))

/-- A frame that fails a check is discarded with its count; one in sequence opens or ends a session, feeds a page, brings a command or credit. (R395,
R396, R397, R399, R400, R402, R404, R405, R407, 14_caravan_fabric.md). -/
def Obligations.CaravanFrames : Prop :=
  ∀ (s : State) (f : CvFrame) (n : Nat) (x : Flow) (q : BitVec 32), Live s → n = cvFlow f → x = flow s n → q = cvSeq f →
    (∀ c ty, (c, ty) ∈ ([(.hello f, 1), (.bye f, 7), (.caravanPageStart f, 3), (.caravanPageData f, 3), (.caravanPageEnd f, 3), (.caravanCommand f, 6),
        (.caravanCredit f, 5)] : List (Instr × Nat)) →
      (bitOf (cvPort s f.port.toNat) 63 = false → exec c s = .next s) ∧
      (bitOf (cvPort s f.port.toNat) 63 = true →
        (lowerOk s f = false → exec c s = .next (cvCount 0 1 s)) ∧
        (lowerOk s f = true → badHead f = true → exec c s = .next (cvCount 1 1 s)) ∧
        (lowerOk s f = true → badHead f = false → cvType f ≠ ty → exec c s = .next s) ∧
        (lowerOk s f = true → badHead f = false → cvType f = ty →
          (255 < n ∨ fromPeer (if ty = 1 ∨ x.up = false then (x.cfg, x.peer0, x.peer1) else x.inForce) f = false → exec c s = .next (cvCount 0 1 s)) ∧
          (n ≤ 255 → fromPeer (if ty = 1 ∨ x.up = false then (x.cfg, x.peer0, x.peer1) else x.inForce) f = true → ty ≠ 1 → x.up = false ∨ x.m < cvLen f →
            exec c s = .next (cvCount 1 1 (if x.up then setFlow n { x with heard := s.now } s else s)))))) ∧
    (∀ c ty ok, (c, ty, ok) ∈ ([(.bye f, 7, true), (.caravanPageStart f, 3, cvStart f), (.caravanPageData f, 3, !(cvStart f) && !(cvEnd f)),
        (.caravanPageEnd f, 3, !(cvStart f) && cvEnd f), (.caravanCommand f, 6, true), (.caravanCredit f, 5, true)] : List (Instr × Nat × Bool)) → FrameFor ty f s n →
      (ok = false → exec c s = .next (setFlow n { x with heard := s.now } s)) ∧
      (ok = true → seqLater x.e q = true → exec c s = .next ((if ty = 5 then wakeJobs else id) (cvCount 1 1 (setFlow n { x with heard := s.now } s))))) ∧
    (FrameFor 1 f s n → cvLen f ≠ 8 ∨ leAt (cvBody f) 2 6 ≠ 0 →
      exec (.hello f) s = .next (cvCount 1 1 (if x.up then setFlow n { x with heard := s.now } s else s))) ∧
    (FrameFor 1 f s n → cvLen f = 8 → leAt (cvBody f) 2 6 = 0 → ∀ first m, first = BitVec.ofNat 32 (fld s.now 10 32) →
        m = min (leAt (cvBody f) 0 2) (fld x.cfg 0 16) →
      (∀ x' can, (x.up = false ∧ x' = x) ∨ (x.up = true ∧ x.hello ≠ q ∧ x.cur = .none ∧ x' = { x with
            out := x.unack.flatMap (·.parts) ++ x.out, owed := x.owed + x.unack.length, unack := [], wait := none }) →
        can = canSend (setFlow n { x with inForce := (x.cfg, x.peer0, x.peer1) } s) n → Does (.hello f) s (fun t =>
        flow t n = { x' with up := true, inForce := (x.cfg, x.peer0, x.peer1), m := m, mac := f.mac, hello := q, e := q, first := first, tx := first, rlimit := first,
                             plimit := (flow t n).plimit, resv := (flow t n).resv, cur := .none, heard := s.now, ackDue := !can,
                             spoke := if can then s.now else x.spoke } ∧
        (flow t n).plimit = BitVec.ofNat 32 (flow t n).resv.length ∧ (can = false → t.cv.last = s.cv.last) ∧
        (can = true → ∃ p g d a b, t.cv.last = some (.caravan p f.mac g d a b (cvBytes 2 n first q (flow t n).plimit (auxC s n) (leBytes 8 m)))) ∧
        (∀ k, k ≠ n → flow t k = flow s k) ∧ Only [.cv, .pp] s t)) ∧
      (x.up = true → x.hello = q → ∀ can, can = canSend s n → Does (.hello f) s (fun t =>
        flow t n = { x with mac := f.mac, heard := s.now, ackDue := !can, spoke := if can then s.now else x.spoke } ∧ (can = false → t.cv.last = s.cv.last) ∧
        (can = true → ∃ p g d a b, t.cv.last = some (.caravan p f.mac g d a b (cvBytes 2 n x.first q x.plimit (auxC s n) (leBytes 8 x.m)))) ∧
        (∀ k, k ≠ n → flow t k = flow s k) ∧ Only [.cv] s t))) ∧
    (q = x.e → x.unack = [] → ∀ y, y = { x with heard := s.now, rlimit := if seqLater (cvLimit f) x.rlimit then cvLimit f else x.rlimit } →
      (FrameFor 5 f s n → Does (.caravanCredit f) s (fun t => flow t n = y ∧ (∀ k, k ≠ n → flow t k = flow s k) ∧ t.cv.cnt = s.cv.cnt ∧ Only [.cv, .rm] s t)) ∧
      (FrameFor 7 f s n → x.cur = .none → Does (.bye f) s (fun t =>
        flow t n = { y with up := false, m := 0, plimit := BitVec.ofNat 32 x.resv.length, ackDue := false, wait := none } ∧ (∀ k, k ≠ n → flow t k = flow s k) ∧ Only [.cv] s t)) ∧
      (FrameFor 3 f s n → cvStart f = true → x.cur = .none →
        (x.resv = [] ∨ flowQueue s n = none ∨ seqLater x.plimit (cvAux f) = false → Does (.caravanPageStart f) s (fun t => flow t n = { y with e := q + 1, cur := if cvEnd f then .none else .beyond } ∧
          tabGet t.cv.cnt 5 0 = satAdd (tabGet s.cv.cnt 5 0) 1 ∧ Only [.cv] s t)) ∧
        (∀ need more k r, x.resv = need :: more → flowQueue s n = some (k, r) → queue? s k = some r → seqLater x.plimit (cvAux f) = true →
          Does (.caravanPageStart f) s (fun t => (flow t n).resv = more ∧ (flow t n).e = q + 1 ∧
            (∃ i g, queue? t k = some { r with items := r.items ++ [i], lastPage := g } ∧ i.isPage = true ∧ i.isCmd = false ∧
              ((∃ p, i.page = some s.pp.nextPid ∧ g = i.page ∧ page? t s.pp.nextPid = some p ∧ p.id = s.pp.nextPid ∧ p.queue = k) ∨
               (i.page = none ∧ g = r.lastPage ∧ i.ready = true ∧ t.pp.pages = s.pp.pages ∧ ∃ code, code ≠ 0 ∧ i.recs = [pageRec 0xFFFFFFFF 0 true code]))) ∧
            (∀ j, j ≠ k → queue? t j = queue? s j) ∧ Only [.cv, .dq, .pp, .rm] s t))) ∧
      (∀ pid p r, FrameFor 3 f s n → cvStart f = false → x.cur = .page pid → page? s pid = some p → p.id = pid → queue? s p.queue = some r →
          p.data.length + (cvBody f).length ≤ r.quota * 4096 →
        (cvEnd f = false → Does (.caravanPageData f) s (fun t => page? t pid = some { p with data := p.data ++ cvBody f } ∧ flow t n = { y with e := q + 1 } ∧
          Only [.cv, .pp] s t)) ∧
        (cvEnd f = true → Does (.caravanPageEnd f) s (fun t =>
          pageAs t pid = some { p with data := p.data ++ cvBody f, dataEnd := true, start := some s.now, stage := if p.stage = .intake then .prep else p.stage,
                                          pair := none, claim := { p.claim with len := (p.data ++ cvBody f).length } } ∧
          flow t n = { y with e := q + 1, cur := .none } ∧ Only [.cv, .pp, .rm] s t))) ∧
      (FrameFor 3 f s n → cvStart f = false → x.cur = .none →
        ∀ c ∈ (if cvEnd f then [Instr.caravanPageEnd f] else [.caravanPageData f]), Does c s (fun t => flow t n = { y with e := q + 1 } ∧
          tabGet t.cv.cnt 1 0 = satAdd (tabGet s.cv.cnt 1 0) 1 ∧ Only [.cv] s t)) ∧
      (FrameFor 6 f s n → x.cur = .none →
        (flowQueue s n = none → Does (.caravanCommand f) s (fun t => flow t n = { y with e := q + 1 } ∧ tabGet t.cv.cnt 6 0 = satAdd (tabGet s.cv.cnt 6 0) 1 ∧
          Only [.cv] s t)) ∧
        (∀ k r d extra, flowQueue s n = some (k, r) → queue? s k = some r → d = (cvBody f).take 128 → extra = (cvBody f).drop 128 →
          (cvLen f < 128 ∨ leAt d 8 4 ≠ r.c.toNat → Does (.caravanCommand f) s (fun t =>
            flow t n = { y with e := q + 1 } ∧ tabGet t.cv.cnt 6 0 = satAdd (tabGet s.cv.cnt 6 0) 1 ∧ Only [.cv] s t)) ∧
          (128 ≤ cvLen f → leAt d 8 4 = r.c.toNat → r.st.rings = false ∨ r.cur.isSome = true → Does (.caravanCommand f) s (fun t =>
            flow t n = { y with e := q + 1, wait := some (cvBody f) } ∧ Only [.cv] s t)) ∧
          (128 ≤ cvLen f → leAt d 8 4 = r.c.toNat → r.st.rings = true → r.cur = none → Does (.caravanCommand f) s (fun t =>
            flow t n = { y with e := q + 1, wait := none } ∧ (queue? t k).map (·.c) = some (r.c + 1) ∧
            (opValid r (descOp d) = true → descReserved r d = false → (descOp d ≠ 3 → descOp d ≠ 5 → extra = []) → (descOp d = 3 → leAt d 0x10 8 = 0) →
              (queue? t k).map (·.cur) = some (some ⟨d, none, r.c, s.now, some extra, Resv.none⟩)) ∧
            (∀ j, j ≠ k → queue? t j = queue? s j) ∧ Only [.cv, .dq, .pp] s t)))))

/-- Result frames go out within the limit and again after the retransmission time; idle pages and sessions end; ports answer, pause and report links.
(R395, R400, R401, R406, R408, R409, R410, R412, 14_caravan_fabric.md). -/
def Obligations.CaravanEvents : Prop :=
  ∀ (s : State) (b : Byte) (n : Nat) (x : Flow), Live s → n = b.toNat → x = flow s n →
    (x.up = false ∨ canSend s n = false ∨ (x.ackDue = false ∧ seqLater x.rlimit x.tx = false) → exec (.resultSend b) s = .next s) ∧
    (∀ c, c ∈ ((if seqLater x.rlimit x.tx then [] else [.resultSend b]) ++ (if fld s.cv.timer 32 16 = 0 then [] else [.creditKeepalive b]) : List Instr) →
      x.up = true → canSend s n = true → x.ackDue = true → Does c s (fun t => flow t n = { x with ackDue := false, spoke := s.now } ∧
        (∃ p g d a c, t.cv.last = some (.caravan p x.mac g d a c (cvBytes 2 n x.first x.hello x.plimit (auxC s n) (leBytes 8 x.m)))) ∧
        (∀ k, k ≠ n → flow t k = flow s k) ∧ Only [.cv] s t)) ∧
    (∀ ps rest c, x.up = true → canSend s n = true → seqLater x.rlimit x.tx = true → takeParts x.m x.out = (ps, rest, c) → c = true ∨ flowQueue s n = none →
      (ps = [] → x.ackDue = false → exec (.resultSend b) s = .next s) ∧
      (ps ≠ [] → Does (.resultSend b) s (fun t =>
        flow t n = { x with out := rest, tx := x.tx + 1, owed := x.owed - 1, unack := x.unack ++ [⟨x.tx, ps, s.now⟩], spoke := s.now, ackDue := false,
                            resv := (flow t n).resv, plimit := (flow t n).plimit } ∧
        (∃ p g d a c, t.cv.last = some (.caravan p x.mac g d a c (cvBytes 4 n x.tx x.e x.plimit (auxC s n) (ps.flatMap (·.bytes))))) ∧
        (∀ k, k ≠ n → flow t k = flow s k) ∧ t.cv.cnt = s.cv.cnt ∧ Only [.cv, .pp] s t))) ∧
    (∀ k r i, x.up = true → canSend s n = true → seqLater x.rlimit x.tx = true → x.out = [] → 64 ≤ x.m → flowQueue s n = some (k, r) → queue? s k = some r →
      nextRec r = some i → excessNeed s i.2.1 ≤ r2free s → Does (.resultSend b) s (fun t => ∃ ps l e, ps ≠ [] ∧ (flow t n).tx = x.tx + 1 ∧
        (flow t n).unack = x.unack ++ [⟨x.tx, ps, s.now⟩] ∧ (∃ p g d a c, t.cv.last = some (.caravan p x.mac g d a c (cvBytes 4 n x.tx x.e l e (ps.flatMap (·.bytes))))))) ∧
    (x.unack = [] ∨ x.up = false ∨ canSend s n = false ∨
      (∃ u r, x.unack = u :: r ∧ s.now.toNat < u.at'.toNat + fld s.cv.timer 48 16 * 1000) → exec (.rtoExpiry b) s = .next s) ∧
    (∀ u r, x.unack = u :: r → x.up = true → canSend s n = true → u.at'.toNat + fld s.cv.timer 48 16 * 1000 ≤ s.now.toNat → Does (.rtoExpiry b) s (fun t =>
      flow t n = { x with unack := x.unack.map (fun v => { v with at' := s.now }), spoke := s.now } ∧
      tabGet t.cv.cnt 4 0 = satAdd (tabGet s.cv.cnt 4 0) (r.length + 1) ∧ (∀ k, k ≠ 4 → tabGet t.cv.cnt k 0 = tabGet s.cv.cnt k 0) ∧
      (∀ v, (u :: r).getLast? = some v → ∃ p g d a c, t.cv.last =
        some (.caravan p x.mac g d a c (cvBytes 4 n v.seq x.e x.plimit (auxC s n) (v.parts.flatMap (·.bytes))))) ∧ Only [.cv] s t)) ∧
    ((∀ pid, x.cur ≠ .page pid) ∨ s.now.toNat < x.heard.toNat + fld s.cv.timer 32 16 * 1000000 → exec (.pageIdleTimeout b) s = .next s) ∧
    (∀ pid p, x.cur = .page pid → page? s pid = some p → p.id = pid → x.heard.toNat + fld s.cv.timer 32 16 * 1000000 ≤ s.now.toNat →
      Does (.pageIdleTimeout b) s (fun t =>
        pageAs t pid = some { p with pair := none, dataEnd := true, start := some (BitVec.ofNat 64 (x.heard.toNat + fld s.cv.timer 32 16 * 1000000)), trunc := true,
                                          stage := if p.stage = .intake then .prep else p.stage, claim := { p.claim with len := p.data.length } } ∧
        flow t n = { x with cur := .none } ∧ tabGet t.cv.cnt 3 0 = satAdd (tabGet s.cv.cnt 3 0) 1 ∧ Only [.cv, .pp, .rm] s t)) ∧
    (x.up = false ∨ s.now.toNat < x.heard.toNat + 10 * (fld s.cv.timer 32 16 * 1000000) → exec (.sessionIdleTimeout b) s = .next s) ∧
    (x.up = true → x.heard.toNat + 10 * (fld s.cv.timer 32 16 * 1000000) ≤ s.now.toNat → x.cur = .none → Does (.sessionIdleTimeout b) s (fun t =>
      flow t n = { x with up := false, m := 0, plimit := BitVec.ofNat 32 x.resv.length, out := x.unack.flatMap (·.parts) ++ x.out, unack := [],
                          owed := x.owed + x.unack.length, ackDue := false, wait := none } ∧
      (∀ k, k ≠ n → flow t k = flow s k) ∧ Only [.cv] s t)) ∧
    (x.up = false ∨ canSend s n = false ∨ (x.ackDue = false ∧ s.now.toNat < x.spoke.toNat + fld s.cv.timer 32 16 * 1000000 / 4) → exec (.creditKeepalive b) s = .next s) ∧
    (x.up = true → canSend s n = true → x.ackDue = false → x.spoke.toNat + fld s.cv.timer 32 16 * 1000000 / 4 ≤ s.now.toNat → Does (.creditKeepalive b) s (fun t =>
      flow t n = { x with resv := (flow t n).resv, plimit := (flow t n).plimit, spoke := s.now } ∧
      (∃ p g d a c, t.cv.last = some (.caravan p x.mac g d a c (cvBytes 5 n x.tx x.e (flow t n).plimit (auxC s n) []))) ∧
      (∀ k, k ≠ n → flow t k = flow s k) ∧ Only [.cv, .pp] s t)) ∧
    (∀ port : BitVec 1,
      (bitOf (cvPort s port.toNat) 63 = true → exec (.foreignFrame port) s = .next (cvCount 0 1 s)) ∧
      (bitOf (cvPort s port.toNat) 63 = false → exec (.foreignFrame port) s = .next s) ∧
      (∀ a mac, (bitOf (cvPort s port.toNat) 63 = false → exec (.arpRequest port a mac) s = .next s) ∧
        (bitOf (cvPort s port.toNat) 63 = true → ownAddr s port.toNat a = false → exec (.arpRequest port a mac) s = .next (cvCount 0 1 s)) ∧
        (bitOf (cvPort s port.toNat) 63 = true → ownAddr s port.toNat a = true → exec (.arpRequest port a mac) s =
          .next { s with cv := { s.cv with last := some (.address port.toNat a mac ((cvPort s port.toNat).setWidth 48)) } })) ∧
      (∀ qn : BitVec 16, (bitOf (cvPort s port.toNat) 63 = false → exec (.pauseFrame port qn) s = .next s) ∧
        (bitOf (cvPort s port.toNat) 63 = true → exec (.pauseFrame port qn) s =
          .next { s with cv := { s.cv with pause := tabSet s.cv.pause port.toNat (s.now.toNat + ceilDiv (qn.toNat * 512) 100) } })) ∧
      (∀ up : Bool, Does (.linkStateChange port up) s (fun t => bitOf (cvPort t port.toNat) 62 = up ∧
        (∀ k, k < 64 → k ≠ 62 → bitOf (cvPort t port.toNat) k = bitOf (cvPort s port.toNat) k) ∧ (∀ k, k ≠ port.toNat → cvPort t k = cvPort s k) ∧ Only [.cv] s t)))

/-- A failed command leaves its tile and waits to run again, at most four times; a tile in error is remapped, and a remap keeps what R202 keeps. (R191,
R202, R203, R417, R418, R423, R425, R427, R429, 15_safety_net.md). -/
def Obligations.FailedCommandsAndRemaps : Prop :=
  ∀ s : State, Live s →
    (∀ (f : FailReport) (c : TileCmd) (t0 : Tile) (l : Nat), l = f.tile.toNat → t0 = tile s l → t0.cmd = some c → f.unit.cls = 7 → f.cause = 0 →
      underTest s (7, f.unit.idx) = false → swapping s = false → s.dm.damage = [] → c.group = none → c.tokBad = false → t0.xfers = [] → t0.sxfers = [] →
      t0.puts = [] → t0.toks = [] → (∀ x ∈ s.tl.leaving, x.1 ≠ l) →
      ∀ live, live = ((job? s (c.part, c.slot)).map (·.live)).getD 0 →
        Does (.commandFail f) s (fun t =>
          tile t l = { Tile.init with acc := putRows live t0.shadow t0.acc, shadow := t0.shadow, wbuf := t0.wbuf, stilts := t0.stilts, s := t0.s, a := t0.a,
                                      v := t0.v, p := t0.p, cyc := t0.cyc, pc := t0.pc } ∧
          (∀ k, k ≠ l → tile t k = tile s k) ∧ t.sn.tests = s.sn.tests ++ [⟨7, f.unit.idx, none⟩] ∧
          tabGet t.sn.cnt 0 0 = satAdd (tabGet s.sn.cnt 0 0) 1 ∧
          (c.runs < 4 → t.rm.ready = (c.req, c.runs) :: s.rm.ready ∧ tabGet t.sn.cnt 1 0 = satAdd (tabGet s.sn.cnt 1 0) 1 ∧
            tabGet t.sn.cnt 4 0 = tabGet s.sn.cnt 4 0 ∧ (∀ pid p, pid ∈ c.pages → page? s pid = some p → p.id = pid → (page? t pid).map (·.retried) = some true)) ∧
          (4 ≤ c.runs → c.pages = [] → t.rm.ready = s.rm.ready ∧ tabGet t.sn.cnt 4 0 = satAdd (tabGet s.sn.cnt 4 0) 1 ∧ bitOf t.hp.alertStat 5 = true) ∧
          t.mem = s.mem)) ∧
    (∀ (l : BitVec 6) (fr : BitVec 9),
      (exec (.midwayParityCheck l fr false) s = .next s) ∧ (s.tl.vacant.getLsbD l.toNat = true → exec (.midwayParityCheck l fr true) s = .next s) ∧
      (∀ p q rest, s.tl.vacant.getLsbD l.toNat = false → (tile s l.toNat).cmd = none → p = physOf s l.toNat → underTest s (1, p) = false →
        logicalOf s p = l.toNat → tileHeld s l.toNat = false → (∀ x ∈ s.tl.leaving, x.1 ≠ l.toNat) → swapping s = false → freeSpares s = q :: rest → q ≠ p → Does (.midwayParityCheck l fr true) s (fun t =>
          t.tl.remaps = s.tl.remaps ++ [(l.toNat, some p, q)] ∧ physState t p = 2 ∧ physState t q = 0 ∧ t.sn.tests = s.sn.tests ++ [⟨1, p, some q⟩] ∧
          t.sn.eseq = s.sn.eseq + 2 ∧ physOf t l.toNat = p ∧ t.tl.vacant = s.tl.vacant ∧ t.tl.tiles = s.tl.tiles ∧ Only [.sn, .tl, .pw, .hp] s t))) ∧
    (∀ l : BitVec 6,
      (s.tl.remaps.find? (fun r => r.1 == l.toNat) = none → exec (.remapDone l) s = .next s) ∧
      (∀ r n, s.tl.remaps.find? (fun r => r.1 == l.toNat) = some r → n = persistOn s l.toNat → (∀ h ∈ s.tl.held, h.2.1 / 256 ≠ l.toNat) →
        Does (.remapDone l) s (fun t => physOf t l.toNat = r.2.2 ∧ t.tl.vacant.getLsbD l.toNat = false ∧ t.tl.remaps = s.tl.remaps.erase r ∧
          (∀ k, k ≠ l.toNat → physOf t k = physOf s k) ∧ t.tl.tiles = s.tl.tiles ∧ t.tl.toks = s.tl.toks ∧ t.tl.held = s.tl.held ∧
          SameBut s.mem.spad t.mem.spad (l.toNat * 0x400000 + n) (0x400000 - n) ∧ t.mem = { s.mem with spad := t.mem.spad } ∧
          Only [.tl, .mem, .dm, .freeTick] s t))) ∧
    (∀ a : BitVec 32,
      ((damageIn s .aperture 0 a.toNat 1).any (·.ue) = false → exec (.recordRewrite a) s = .next s) ∧
      (∀ n r k ra, (damageIn s .aperture 0 a.toNat 1).any (·.ue) = true → s.dq.rings = [(n, r)] → r.kept = [k] → ra = 0x00100000 + n * 0x8000 + k.idx.toNat % 512 * 64 →
        ra ≤ a.toNat → a.toNat < ra + 64 → k.bytes.length = 64 → Does (.recordRewrite a) s (fun t =>
          Memory.readBytes t.mem.ap ra 64 = k.bytes ∧ SameBut s.mem.ap t.mem.ap ra 64 ∧ (damageIn t .aperture 0 a.toNat 1).any (·.ue) = false ∧
          t.mem = { s.mem with ap := t.mem.ap } ∧ Only [.mem, .dm] s t)))

/-- A test that fails retires its unit, one that passes returns it; spares are tested daily; slack moves the setpoint; an hour leaves its sample. (R429,
R430, R431, R433, R435, R436, R437, R468, 15_safety_net.md). -/
def Obligations.TestsAndAgeing : Prop :=
  ∀ s : State, Live s →
    (∀ u : UnitId, ∀ k, k = (u.cls.toNat, u.idx) →
      (∀ pass, underTest s k = false ∨ s.sn.dueTests.contains k = true → exec (.selfTestDone u pass) s = .next s) ∧
      (∀ t0, s.sn.tests.find? (fun t => t.cls == k.1 && t.idx == k.2) = some t0 → s.sn.dueTests.contains k = false →
        (u.cls = 1 → Does (.selfTestDone u false) s (fun t => t.sn.tests = s.sn.tests.erase t0 ∧ physState t u.idx = 3 ∧ t.sn.retired = s.sn.retired ++ [k] ∧
          t.sn.toMap = s.sn.toMap ++ [k] ∧ tabGet t.sn.cnt 6 0 = satAdd (tabGet s.sn.cnt 6 0) 1 ∧ t.sn.eseq = s.sn.eseq + 1 ∧
          t.sn.hourRetired = s.sn.hourRetired + 1 ∧ (∀ p, p ≠ u.idx → physState t p = physState s p) ∧ Only [.sn, .tl] s t)) ∧
        (u.cls = 7 → s.sn.passes = [] → s.sn.dueLines = [] → Does (.selfTestDone u true) s (fun t => t.sn.tests = s.sn.tests.erase t0 ∧ t.sn.passes = [(7, u.idx, s.now)] ∧
          tabGet t.sn.cnt 5 0 = satAdd (tabGet s.sn.cnt 5 0) 1 ∧ t.sn.retired = s.sn.retired ∧ Only [.sn] s t)))) ∧
    (swapState s = 2 ∨ swapState s = 3 → exec .repairMapWrite s = .next s ∧ exec .ageingSample s = .next s) ∧
    (swapState s ≠ 2 → swapState s ≠ 3 →
      exec .repairMapWrite s = .next { s with sn := { s.sn with toMap := [] }, pk := s.pk.setRepair (s.pk.repair ++ s.sn.toMap) } ∧
      Does .ageingSample s (fun t => t.pk.hours = s.pk.hours + 1 ∧ t.sn.hourRetired = 0 ∧ fld t.sn.age 8 8 = fld s.pw.therm 32 8 ∧
        fld t.sn.age 32 12 = fld s.sn.age 32 12 ∧ fld t.sn.age 16 12 = fld s.sn.age 16 12 ∧
        Memory.readWord t.mem.pm (0x3000 + 8 * ((s.pk.hours + 1) % 2048)) =
          (place (s.pk.hours + 1) 0 24 ||| place (fld s.sn.age 32 12) 24 12 ||| place (fld s.sn.age 16 12) 36 12 ||| place (fld s.sn.age 8 8) 48 8 |||
            place (min 255 s.sn.hourRetired) 56 8) ∧
        SameBut s.mem.pm t.mem.pm (0x3000 + 8 * ((s.pk.hours + 1) % 2048)) 8 ∧ ((s.pk.hours + 1) % 730 ≠ 0 → t.pk.months = s.pk.months) ∧
        t.mem = { s.mem with pm := t.mem.pm } ∧ t.pk = { s.pk with hours := t.pk.hours, months := t.pk.months } ∧ Only [.sn, .pk, .mem] s t)) ∧
    (swapping s = false → Does .spareDailyTest s (fun t => t.sn.tests = s.sn.tests ++ (freeSpares s).map (fun p => ⟨1, p, none⟩) ∧
      (∀ p ∈ freeSpares s, physState t p = 2) ∧ (∀ p, p ∉ freeSpares s → physState t p = physState s p) ∧
      t.sn.eseq = s.sn.eseq + BitVec.ofNat 32 (freeSpares s).length ∧ Only [.sn, .tl] s t)) ∧
    (∀ (ps others : Int) (tj : Byte), s.pw.inForce = fld s.sn.age 32 12 → s.sn.lowOther = 0 →
      ((fld s.sn.ageLim 0 8 : Int) ≤ ps → ps ≤ fld s.sn.ageLim 0 8 + 30 → (fld s.sn.ageLim 0 8 : Int) ≤ others → Does (.slackSample ps others tj) s (fun t =>
        fld t.sn.age 16 12 = (BitVec.ofInt 12 ps).toNat ∧ fld t.sn.age 8 8 = max (fld s.sn.age 8 8) tj.toNat ∧ fld t.sn.age 32 12 = fld s.sn.age 32 12 ∧
        t.sn.low = 0 ∧ t.sn.high = none ∧ t.sn.otherSlack = others ∧ t.sn.eseq = s.sn.eseq ∧ fld t.pw.therm 32 8 = tj.toNat ∧ t.pw.req = s.pw.req ∧
        Only [.sn, .pw, .freeTick] s t)) ∧
      (ps < fld s.sn.ageLim 0 8 → (fld s.sn.ageLim 0 8 : Int) ≤ others → s.sn.low = 9 →
        (fld s.sn.age 32 12 < fld s.sn.ageLim 32 12 → s.pw.mode = modeRun → s.pw.avs = none → Does (.slackSample ps others tj) s (fun t =>
          fld t.sn.age 32 12 = min (fld s.sn.ageLim 32 12) (fld s.sn.age 32 12 + 5) ∧ t.sn.low = 0 ∧ t.pw.req = fld t.sn.age 32 12 ∧
          t.pw.avs = some (fld t.sn.age 32 12) ∧ t.sn.eseq = s.sn.eseq + 1 ∧ Only [.sn, .pw, .freeTick] s t)) ∧
        (fld s.sn.ageLim 32 12 ≤ fld s.sn.age 32 12 → Does (.slackSample ps others tj) s (fun t =>
          fld t.sn.age 32 12 = fld s.sn.age 32 12 ∧ t.sn.low = 0 ∧ t.pw.req = s.pw.req ∧ t.sn.eseq = s.sn.eseq + 1 ∧ bitOf t.hp.alertStat 5 = true ∧
          Only [.sn, .pw, .freeTick, .hp] s t))))

/-- Boot goes through its stages in order or halts: package memory, keys, firmware, DRAM, configuration, lock. (R443, R447, R449, R450, R451, R453, R454,
R456, 16_trust_and_boot.md). -/
def Obligations.BootStages : Prop :=
  ∀ s : State, Live s →
    (bootStage s ≠ 0 → exec .pmLoaded s = .next s) ∧ (bootStage s ≠ 1 → exec .keyed s = .next s) ∧
    (bootStage s ≠ 2 ∨ s.pw.spiReset = true → exec .fwRunning s = .next s) ∧ (bootStage s ≠ 3 → exec .dramUp s = .next s) ∧
    (bootStage s ≠ 4 → exec .configured s = .next s) ∧
    ((bootStage s ≠ 5 ∧ bootStage s ≠ 6) ∨ bitOf s.tr.bootCtl 0 = true → exec .locked s = .next s) ∧
    (bootStage s = 0 →
      (regionOk s.mem.pm 0 0x100 = false ∨ regionOk s.mem.pm 0x100 0x500 = false ∨ regionOk s.mem.pm 0x1600 0xA00 = false ∨
          (s.pk.repair0.ok = false ∧ s.pk.repair1.ok = false) →
        Does .pmLoaded s (fun t => bootStage t = 0xE2 ∧ t.mg.pid = pidOf (2 ^ 32 - 1) ∧ t.mem = (emptyAgeing s).mem ∧ t.pk = (emptyAgeing s).pk ∧
          Only [.tr, .mg, .mem, .pk] s t)) ∧
      (s.pk.ageOk = true → emptyAgeing s = s) ∧
      (s.pk.ageOk = false → emptyAgeing s = { s with pk := { s.pk with ageOk := true, months := [] }, mem := (emptyAgeing s).mem } ∧
        (emptyAgeing s).mem = { s.mem with pm := (emptyAgeing s).mem.pm } ∧ (∀ a, 0x3000 ≤ a → a < 0x7000 → Memory.read (emptyAgeing s).mem.pm a = 0) ∧
        SameBut s.mem.pm (emptyAgeing s).mem.pm 0x3000 0x4000) ∧
      (regionOk s.mem.pm 0 0x100 = true → regionOk s.mem.pm 0x100 0x500 = true → regionOk s.mem.pm 0x1600 0xA00 = true →
        s.pk.repair0.ok = true ∨ s.pk.repair1.ok = true →
        Does .pmLoaded s (fun t => bootStage t = 1 ∧ fld t.sn.age 32 12 = Config.trimValue 0 (Memory.readBytes s.mem.pm 0x100 0x500) % 4096 ∧
          fld (cvPort t 0) 0 48 = Memory.readNat s.mem.pm 0x70 6 ∧ fld (cvPort t 1) 0 48 = Memory.readNat s.mem.pm 0x76 6 ∧ t.sn.retired = s.pk.repair ∧
          t.mg.pid = pidOf (leAt (sha3 (Memory.readBytes s.mem.pm 0x10 11)) 0 4) ∧ t.mem = (emptyAgeing s).mem ∧ t.pk = (emptyAgeing s).pk ∧
          Only [.cv, .sn, .pw, .mg, .tr, .tl, .mem, .pk] s t))) ∧
    (∀ read, bootStage s = 1 → read = (fun k => exact 32 (Config.pufSecret (s.freeTick + k) (Memory.readBytes s.mem.pm 0xE00 0x800))) →
      (∀ k, k < 8 → soundKey s.mem.pm (read k) = true → (∀ j < k, soundKey s.mem.pm (read j) = false) → Does .keyed s (fun t =>
        bootStage t = 2 ∧ t.tr.secret = some (read k) ∧ t.tr.puf = (place (k + 1) 1 4 ||| place 1 0 1) ∧ t.tr.mnext = s.tr.mnext + 1 ∧
        Only [.tr, .mg, .freeTick] s t)) ∧
      ((∀ k < 8, soundKey s.mem.pm (read k) = false) → Does .keyed s (fun t =>
        bootStage t = 2 ∧ t.tr.secret = none ∧ t.tr.puf = place 8 1 4 ∧ t.tr.mnext = s.tr.mnext + 1 ∧ Only [.tr, .mg, .freeTick] s t))) ∧
    (∀ ok r stands s', bootStage s = 2 → s.pw.spiReset = false → readOwner s = (ok, r, stands) →
      s' = { s with tr := { s.tr with fw := setFld s.tr.fw 16 16 stands.fwFloor.toNat } } →
      (ok = false → r.outerLock = true → Does .fwRunning s (fun t => bootStage t = 0xE3 ∧ t.pk = s.pk ∧ Only [.tr, .mg] s t)) ∧
      (ok = true ∨ r.outerLock = false →
        ((∀ k ∈ bankOrder s, fwCheck s' (some (bankField s k 0x0C)) (bankFw s k) ≠ 0) → Does .fwRunning s (fun t =>
          bootStage t = 0xE1 ∧ t.tr.record = stands ∧ t.pk = s.pk ∧ Only [.tr, .mg] s t)) ∧
        (∀ k, (bankOrder s).find? (fun k => fwCheck s' (some (bankField s k 0x0C)) (bankFw s k) == 0) = some k → Does .fwRunning s (fun t =>
          bootStage t = 3 ∧ takenBank t = k ∧ t.tr.fwImage = bankFw s k ∧ t.pk = s.pk.setBoots (s.pk.boots + 1) ∧ t.tr.record = stands ∧
          fld t.tr.boot 32 32 = (s.pk.boots + 1).toNat ∧ t.tr.mnext = s.tr.mnext + 2 ∧ Only [.tr, .mg, .pk] s t)))) ∧
    (bootStage s = 3 → Does .dramUp s (fun t => bootStage t = 4 ∧ (∀ k < 3, regionBase t k = leAt (bootCfg s).1 (0x0C + 4 * k) 2 * 0x100000 ∧
        regionSize t k = leAt (bootCfg s).1 (0x0E + 4 * k) 2 * 0x100000) ∧ Only [.tr, .mg, .dm] s t)) ∧
    (∀ b d, bootStage s = 4 → (b, d) = bootCfg s → Does .configured s (fun t =>
      bootStage t = (if bitOf t.tr.bootCtl 0 then 6 else 5) ∧ t.tr.bootCtl = place (leAt b 4 1 / 16) 0 1 ∧ t.hp.limit = place (leAt b 8 2) 0 13 ∧
      fld t.hp.cfg 0 4 = leAt b 4 1 % 16 ∧ t.dm.cal = fixedCal ∧ t.dm.calDef = 0x3000 ∧ t.dm.calOn = true ∧ t.dm.gen = s.dm.gen + 1 ∧
      t.tr.mnext = s.tr.mnext + 1 ∧ Only [.tr, .mg, .hp, .dm] s t)) ∧
    (bootStage s = 5 ∨ bootStage s = 6 → bitOf s.tr.bootCtl 0 = false →
      (bankField s (takenBank s) 0x1C = 0 → Does .locked s (fun t => locked t = true ∧ bootStage t = 0xE4 ∧ Only [.hp, .tr, .mg] s t)) ∧
      (bankField s (takenBank s) 0x1C ≠ 0 → s.dq.busy ≠ some .load → s.si.retryJudge = [] → s.tr.waiting = [] →
        Does .locked s (fun t => locked t = true ∧ t.si.conf = s.si.conf ∧ Only [.hp, .tr, .mg, .si, .sn, .cv, .pp] s t)))

/-- An owner request, a live swap and an attestation are taken, refused with a code, or wait; hand-over, watchdog and report end them. (R460, R461, R465,
R466, R467, R468, R469, R470, 16_trust_and_boot.md). -/
def Obligations.OwnerSwapAttest : Prop :=
  ∀ s : State, Live s →
    (∀ w : RegWr, w.src = .host → locked s = true → ∀ c ∈ ([.enroll w, .ownerTransfer w, .raiseFloor w, .ownerLock w, .ownerRelease w, .fwSwap w] : List Instr),
      exec c s = .next (wdisc s)) ∧
    (∀ (w : RegWr), Made s w → w.src ≠ .host →
      (∀ c ∈ ([.enroll w, .ownerTransfer w, .raiseFloor w, .ownerLock w, .ownerRelease w] : List Instr), ∀ r, r = srcPut s.tr.ownCtl w.data (enMask w.be) →
        (bitOf (w.data &&& enMask w.be) 63 = false → exec c s = .next { s with tr := { s.tr with ownCtl := r } }) ∧
        (bitOf (w.data &&& enMask w.be) 63 = true → swapping s = true →
          exec c s = .next { s with tr := { s.tr with ownCtl := r, waiting := s.tr.waiting ++ [.owner r], ownStat := s.tr.ownStat ||| 1 } }) ∧
        (∀ b, bitOf (w.data &&& enMask w.be) 63 = true → swapping s = false → s.dm.damage = [] → b = (srcRead r 0 3812 s).1 →
          (ownCheck s b ≠ 0 → exec c s = .next { s with tr := { s.tr with ownCtl := r, ownStat := place (ownCheck s b) 8 8 } }) ∧
          (ownCheck s b = 0 → Does c s (fun t => t.tr.ownStat = 0 ∧
            t.tr.record = { ownRecord b s.tr.record with tag := recTag (s.tr.secret.getD []) (ownRecord b s.tr.record) } ∧
            t.tr.record.counter = s.tr.record.counter + 1 ∧ t.tr.mnext = s.tr.mnext + 1 ∧ fld t.tr.owner 32 32 = t.tr.record.counter.toNat ∧
            (t.pk = { s.pk with owner0 := t.pk.owner0 } ∨ t.pk = { s.pk with owner1 := t.pk.owner1 }) ∧ t.tr.boot = s.tr.boot ∧ Only [.tr, .pk] s t)))) ∧
      (∀ r, r = srcPut s.tr.fwSwap w.data (enMask w.be) →
        (bitOf (w.data &&& enMask w.be) 63 = false → exec (.fwSwap w) s = .next { s with tr := { s.tr with fwSwap := r } }) ∧
        (bitOf (w.data &&& enMask w.be) 63 = true → swapping s = true ∨ s.si.job.isSome = true →
          exec (.fwSwap w) s = .next { s with tr := { s.tr with fwSwap := r, waiting := s.tr.waiting ++ [.swap r] } }) ∧
        (∀ b, bitOf (w.data &&& enMask w.be) 63 = true → swapping s = false → s.si.job = none → s.dm.damage = [] →
          b = (srcRead r 0 (max 64 (min (leAt (srcRead r 0 64 s).1 8 4) 0x00400000)) s).1 → Does (.fwSwap w) s (fun t =>
            (fwCheck s none b = 0 → swapState t = 2 ∧ t.tr.swapImage = some b) ∧
            (fwCheck s none b ≠ 0 → swapState t = 5 ∧ t.tr.swapImage = s.tr.swapImage) ∧ fld t.tr.fwStat 8 8 = fwCheck s none b ∧
            t.tr.fwImage = s.tr.fwImage ∧ t.tr.fw = s.tr.fw ∧ Only [.tr] s t)))) ∧
    (s.tr.swapImage = none ∨ swapState s ≠ 2 ∨ (∃ u ∈ s.sn.tests, s.sn.dueTests.contains (u.cls, u.idx) = false) → exec .handover s = .next s) ∧
    (∀ b, s.tr.swapImage = some b → swapState s = 2 → s.sn.tests = [] → s.sn.dueTests = [] → s.tr.waiting = [] → s.dq.busy ≠ some .load →
      Does .handover s (fun t => swapState t = 4 ∧ t.tr.fwImage = b ∧ t.tr.prevFw = some s.tr.fwImage ∧ t.tr.swapImage = none ∧ t.tr.swapDone = some s.now ∧
        fld t.tr.fwStat 48 16 = (fld s.tr.fwStat 48 16 + 1) % 65536 ∧ fld t.tr.fw 0 16 = fwSvn b ∧ fld t.tr.fw 32 32 = fwVersion b ∧
        t.tr.mnext = s.tr.mnext + 1 ∧ Only [.tr] s t)) ∧
    (fwRuns s = false → exec .watchdogExpiry s = .next s) ∧
    (fwRuns s = true → (s.tr.prevFw = none ∨ s.tr.swapDone = none → Does .watchdogExpiry s (fun t => t.sn.eseq = s.sn.eseq + 1 ∧ Only [.sn] s t)) ∧
      (∀ b t0, s.tr.prevFw = some b → s.tr.swapDone = some t0 →
        (1000000000 < (s.now - t0).toNat → Does .watchdogExpiry s (fun t => t.sn.eseq = s.sn.eseq + 1 ∧ Only [.sn] s t)) ∧
        ((s.now - t0).toNat ≤ 1000000000 → Does .watchdogExpiry s (fun t => t.sn.eseq = s.sn.eseq + 1 ∧ t.tr.fwImage = b ∧ t.tr.prevFw = none ∧
          bitOf t.tr.fwStat 16 = true ∧ t.tr.mnext = s.tr.mnext + 1 ∧ Only [.sn, .tr] s t)))) ∧
    (∀ (w : RegWr) (c : Word), Made s w → holds s = false → c = putBits s.tr.attCtl w.data (maskOf 0 63) (enMask w.be) →
      (bitOf (w.data &&& enMask w.be) 63 = true → s.tr.att.isSome = true → exec (.attestationRequest w) s = .next (wdisc s)) ∧
      (bitOf (w.data &&& enMask w.be) 63 = false → exec (.attestationRequest w) s = .next { s with tr := { s.tr with attCtl := c } }) ∧
      (∀ sl, bitOf (w.data &&& enMask w.be) 63 = true → s.tr.att = none → sl = (if bitOf c 6 = true ∧ fld c 0 6 < 56 then some (fld c 0 6) else none) →
        (s.tr.secret = none → Does (.attestationRequest w) s (fun t => fld t.tr.attStat 8 8 ≠ 0 ∧ bitOf t.tr.attStat 0 = false ∧ t.tr.att = none ∧ Only [.tr] s t)) ∧
        (s.tr.secret.isSome = true → fld c 7 56 ≠ 0 → sl.all (fun k => !(slotBusy (stageSlot s k))) = true → Does (.attestationRequest w) s (fun t =>
          fld t.tr.attStat 8 8 = cReserved ∧ bitOf t.tr.attStat 0 = false ∧ t.tr.att = none ∧ Only [.tr] s t)) ∧
        (s.tr.secret.isSome = true → fld c 7 56 = 0 → sl.any (fun k => slotBusy (stageSlot s k)) = true → Does (.attestationRequest w) s (fun t =>
          fld t.tr.attStat 8 8 = cClaim ∧ bitOf t.tr.attStat 0 = false ∧ t.tr.att = none ∧ Only [.tr] s t)) ∧
        (s.tr.secret.isSome = true → fld c 7 56 = 0 → sl.all (fun k => !(slotBusy (stageSlot s k))) = true → Does (.attestationRequest w) s (fun t =>
          bitOf t.tr.attStat 0 = true ∧
          t.tr.att = some { nonce := nonceBytes s, time := s.now, ents := s.tr.mlog, folds := s.tr.folds, fdig := s.tr.fdig, slot := sl } ∧
          (sl = none → Only [.tr] s t) ∧ (∀ k, sl = some k → (stageSlot t k).stat = stageStat (leAt (nonceBytes s) 0 4) 0 1 ∧ Only [.tr, .hp] s t))))) ∧
    (∀ (w : RegWr), Made s w → holds s = true → w.src = .host → bitOf (w.data &&& enMask w.be) 63 = true → s.tr.att = none →
      Does (.attestationRequest w) s (fun t => t.tr.attStat = s.tr.attStat ∧ t.tr.att = none ∧ t.held = s.held ++ [⟨.host, 0xFC60, maskOf 63 1, 0x80, []⟩] ∧
        Only [.tr, .held] s t)) ∧
    (s.tr.att = none → exec .reportDone s = .next s) ∧
    (∀ a, s.tr.att = some a → Does .reportDone s (fun t => t.tr.att = none ∧ t.tr.report.take (reportBytes s a).length = reportBytes s a ∧
      t.tr.attStat = (place (reportBytes s a).length 32 32 ||| place (if a.folds = 0 then 0 else 0x16) 8 8) ∧
      (a.slot = none → Only [.tr] s t) ∧
      (∀ k, a.slot = some k → Memory.readBytes t.mem.ap (stageBuf k) (reportBytes s a).length = reportBytes s a ∧ bitOf t.hp.alertStat 3 = true ∧
        t.mem = { s.mem with ap := t.mem.ap } ∧ Only [.tr, .hp, .mem, .dm] s t)))

/-- Clock writes are stored or refused with their code; PLLs lock and lose lock; REFCLK goes and comes back. (R473, R475, R476, R477, R478, R479, R480,
R486, R9, 17_clocks_and_power_modes.md). -/
def Obligations.ClockWrites : Prop :=
  ∀ s : State, Live s →
    (∀ (w : RegWr) (dom : BitVec 4), w.src = .host → locked s = true →
      ∀ c ∈ ([.pllSProgram w, .spreadSpectrumWrite w, .clockSelect w, .gateEnableWrite dom w, .pwCtlWrite w] : List Instr), exec c s = .next (wdisc s)) ∧
    (∀ w : RegWr, Made s w → w.src ≠ .host →
      (∀ (x : Word) (vco sclk : ℚ), x = putBits s.ck.pllS w.data (maskOf 63 1 ||| maskOf 40 18 ||| maskOf 32 8 ||| maskOf 0 9) (enMask w.be) →
        vco = 100 * ((fld x 32 8 : ℚ) + fld x 40 16 / 65536) / (fld x 56 2 + 1) → sclk = vco / fld x 0 9 →
        (¬ (1600 ≤ vco ∧ vco ≤ 3200 ∧ 10 ≤ sclk ∧ sclk ≤ 400) → exec (.pllSProgram w) s = .next (ckRefuse cDimLimit s)) ∧
        (1600 ≤ vco → vco ≤ 3200 → 10 ≤ sclk → sclk ≤ 400 →
          (bitOf s.ck.sel 2 = true → exec (.pllSProgram w) s = .next (ckRefuse cClaim s)) ∧
          (bitOf s.ck.sel 2 = false →
            exec (.pllSProgram w) s = .next { s with ck := { s.ck with pllS := x, ready := s.ck.ready &&& ~~~ maskOf 2 1 } }))) ∧
      (∀ x : Word, x = putBits s.ck.ss w.data (maskOf 63 1 ||| maskOf 8 6 ||| maskOf 0 5) (enMask w.be) →
        (20 < fld x 0 5 ∨ fld x 8 6 < 24 → exec (.spreadSpectrumWrite w) s = .next (ckRefuse cDimLimit s)) ∧
        (fld x 0 5 ≤ 20 → 24 ≤ fld x 8 6 →
          (bitOf s.ck.ss 63 = true ∧ (fld x 0 5 ≠ fld s.ck.ss 0 5 ∨ fld x 8 6 ≠ fld s.ck.ss 8 6) ∨
              bitOf x 63 = true ∧ (claimed s 0x08000000 = false ∨ (s.sf.running = true ∧ bitOf s.sf.pgCtl 31 = false)) →
            exec (.spreadSpectrumWrite w) s = .next (ckRefuse cClaim s)) ∧
          ((bitOf s.ck.ss 63 = true → fld x 0 5 = fld s.ck.ss 0 5 ∧ fld x 8 6 = fld s.ck.ss 8 6) →
            (bitOf x 63 = true → claimed s 0x08000000 = true ∧ (s.sf.running = false ∨ bitOf s.sf.pgCtl 31 = true)) →
            exec (.spreadSpectrumWrite w) s = .next { s with ck := { s.ck with ss := x } }))) ∧
      (∀ (x : Word) (bad : Nat → Prop), x = putBits s.ck.sel w.data (maskOf 0 4) (enMask w.be) →
        (bad = fun k => bitOf x k ≠ bitOf s.ck.sel k ∧ (bitOf s.ck.ready (if bitOf x k then k else 5) = false ∨
          (k ≠ 2 ∧ bitOf x k = false ∧ bootedDram s = true) ∨ (k = 2 ∧ (s.sf.running = true ∨ cisBusy s = true)))) →
        ((∃ k < 4, bad k) → exec (.clockSelect w) s = .next (ckRefuse cClaim s)) ∧
        ((∀ k < 4, ¬ bad k) → exec (.clockSelect w) s = .next { s with ck := { s.ck with sel := x } })) ∧
      (∀ (dom : BitVec 4) (x : Word), x = putBits (gateOf s dom.toNat) w.data 3 (enMask w.be) →
        (dom < 8 ∨ 10 < dom → exec (.gateEnableWrite dom w) s = .next s) ∧
        (8 ≤ dom → dom ≤ 10 →
          ((gateOf s dom.toNat &&& ~~~ x) ≠ 0 →
            (if dom = 8 then s.sf.running || camOn s || s.dq.queues.any (fun e => (e.2.door == 1 || e.2.door == 2) && e.2.st != .closed)
              else bitOf (cvPort s (dom.toNat - 9)) 63) = true → exec (.gateEnableWrite dom w) s = .next (ckRefuse cClaim s)) ∧
          ((gateOf s dom.toNat &&& ~~~ x) = 0 ∨
            (if dom = 8 then s.sf.running || camOn s || s.dq.queues.any (fun e => (e.2.door == 1 || e.2.door == 2) && e.2.st != .closed)
              else bitOf (cvPort s (dom.toNat - 9)) 63) = false → Does (.gateEnableWrite dom w) s (fun t =>
              (∀ d, gateOf t d = if d = dom.toNat then x else gateOf s d) ∧ t.ck = { s.ck with gate := t.ck.gate } ∧ Only [.ck] s t))))) ∧
    (∀ k : BitVec 2,
      (bitOf s.ck.ready 5 = true → (k = 2 → bitOf s.ck.pllS 63 = true) → s.pw.mode ≠ modeDeep → (s.pw.mode = modeLeaving → s.pw.avs = none) →
        exec (.pllLock k) s = .next { s with ck := { s.ck with ready := s.ck.ready ||| maskOf k.toNat 1 } }) ∧
      (bitOf s.ck.ready 5 = false ∨ (k = 2 ∧ bitOf s.ck.pllS 63 = false) ∨ s.pw.mode = modeDeep ∨ (s.pw.mode = modeLeaving ∧ s.pw.avs.isSome = true) →
        exec (.pllLock k) s = .next s) ∧
      (bitOf s.ck.ready k.toNat = true → exec (.lossOfLock k) s = .next { s with ck := { s.ck with
        ready := s.ck.ready &&& ~~~ maskOf k.toNat 1, stat := s.ck.stat ||| maskOf (4 + k.toNat) 1 } }) ∧
      (bitOf s.ck.ready k.toNat = false → exec (.lossOfLock k) s = .next s)) ∧
    exec .refclkLoss s = .next { s with ck := { s.ck with ready := s.ck.ready &&& ~~~ maskOf 5 1, stat := s.ck.stat ||| maskOf 1 1 } } ∧
    exec .refclkReturn s = .next { s with ck := { s.ck with ready := s.ck.ready ||| maskOf 5 1 } }

/-- SLEEP, DEEP_SLEEP and LEAVING are entered and left as their conditions say; the arena rail follows; heat is noted, warned of and trips. (R481, R482,
R483, R484, R485, R487, R500, R501, R503, R507, 17_clocks_and_power_modes.md, 18_package_and_power.md). -/
def Obligations.PowerModes : Prop :=
  ∀ s : State, Live s →
    (∀ w : RegWr, Made s w → w.src ≠ .host →
      exec (.pwCtlWrite w) s = .next { s with pw := { s.pw with ctl := putBits s.pw.ctl w.data (maskOf 63 1 ||| maskOf 32 16 ||| maskOf 0 16) (enMask w.be) } }) ∧
    (s.pw.mode ≠ modeRun ∨ tilesIdle s = false → exec .sleepEntry s = .next s) ∧
    (s.pw.mode = modeRun → tilesIdle s = true → exec .sleepEntry s = .next { s with pw := { s.pw with
      mode := modeSleep, since := s.now, sleeps := satAdd s.pw.sleeps 1 } }) ∧
    (s.pw.mode ≠ modeSleep ∨ tilesIdle s = true → exec .sleepExit s = .next s) ∧
    (s.pw.mode = modeSleep → tilesIdle s = false → Does .sleepExit s (fun t => t.pw.mode = modeRun ∧ t.pw.since = s.now ∧
      tabGet t.pw.acc 2 0 = tabGet s.pw.acc 2 0 + (s.now - s.pw.since).toNat ∧ tabGet t.pw.acc 3 0 = tabGet s.pw.acc 3 0 ∧ Only [.pw] s t)) ∧
    (s.pw.mode ≠ modeSleep ∨ blockBits s ≠ 0 → exec .deepSleepEntry s = .next s) ∧
    ((∃ c ∈ deepConds s, c = false) → blockBits s ≠ 0) ∧
    (s.pw.mode = modeSleep → (∀ c ∈ deepConds s, c = true) → Does .deepSleepEntry s (fun t =>
      t.pw.mode = modeDeep ∧ t.pw.since = s.now ∧ t.pw.deeps = satAdd s.pw.deeps 1 ∧ t.pw.sleeps = s.pw.sleeps ∧ t.pw.selBefore = s.ck.sel ∧
      t.pw.req = s.pw.ret ∧ t.pw.inForce = s.pw.ret ∧ t.pw.avs = none ∧
      t.ck = { s.ck with sel := 0, ready := s.ck.ready &&& ~~~ maskOf 0 4 } ∧ (∀ n, (flow t n).up = false) ∧ (∀ k, bitOf (cvPort t k) 62 = false) ∧
      Only [.pw, .ck, .cv, .pp, .rm] s t)) ∧
    (s.pw.mode ≠ modeDeep → (∀ tr, exec (.wake tr) s = .next s) ∧ exec .hourlyWake s = .next s) ∧
    (s.pw.mode = modeDeep → ∀ c k, (c, k) ∈ ([(.wake .hostExit, 1), (.wake .i3cWrite, 2), (.wake .jtagLeaveReset, 3), (.wake .hour, 4), (.hourlyWake, 4)] : List (Instr × Nat)) →
      Does c s (fun t => t.pw.mode = modeLeaving ∧ t.pw.wake = k ∧ t.pw.req = setpoint s ∧ t.pw.avs = some (setpoint s) ∧ t.pw.inForce = s.pw.inForce ∧
        tabGet t.pw.acc 3 0 = tabGet s.pw.acc 3 0 + (s.now - s.pw.since).toNat ∧ Only [.pw] s t)) ∧
    (s.hp.idle.isSome = true → s.pw.mode = modeDeep → Does .hostIdleExit s (fun t => t.pw.mode = modeLeaving ∧ t.pw.wake = 1 ∧ t.hp.idle = none ∧ Only [.pw, .hp] s t)) ∧
    (s.pw.mode ≠ modeLeaving ∨ s.pw.avs.isSome = true ∨ (∃ k < 4, bitOf s.pw.selBefore k = true ∧ bitOf s.ck.ready k = false) →
      exec .leavingDone s = .next s) ∧
    (s.pw.mode = modeLeaving → s.pw.avs = none → (∀ k < 4, bitOf s.pw.selBefore k = true → bitOf s.ck.ready k = true) →
      ∃ t, t.pw.mode = modeRun ∧ t.ck = { s.ck with sel := s.pw.selBefore } ∧ t.held = [] ∧ t.sn.plan = s.sn.plan.tail ∧
        t.pw.avs = s.sn.plan.head? ∧ Only [.pw, .ck, .sn, .held] s t ∧ exec .leavingDone s = .next (s.held.foldl (fun u h => takeHeld h u) t)) ∧
    (s.pw.avs = none → exec .avsTransitionDone s = .next s ∧ exec .avsTimeout s = .next s) ∧
    (∀ v, s.pw.avs = some v →
      Does .avsTransitionDone s (fun t => t.pw.inForce = v ∧ t.pw.err = s.pw.err ∧ Only [.pw, .sn] s t ∧
        (s.pw.mode = modeLeaving → t.pw.avs = none ∧ t.sn = s.sn) ∧
        (s.pw.mode = modeRun ∨ s.pw.mode = modeSleep → t.pw.avs = s.sn.plan.head? ∧ t.sn.plan = s.sn.plan.tail)) ∧
      Does .avsTimeout s (fun t => t.pw.inForce = s.pw.inForce ∧ t.pw.err = (if s.pw.err = 0xFFFF then 0xFFFF else s.pw.err + 1) ∧ Only [.pw, .sn] s t ∧
        (s.pw.mode = modeLeaving → t.pw.avs = none ∧ t.sn = s.sn) ∧
        (s.pw.mode = modeRun ∨ s.pw.mode = modeSleep → t.pw.avs = s.sn.plan.head? ∧ t.sn.plan = s.sn.plan.tail))) ∧
    (∀ tj : Byte, Does (.thermWarn tj) s (fun t =>
      fld t.pw.therm 32 8 = tj.toNat ∧ fld t.pw.therm 40 8 = max (fld s.pw.therm 40 8) tj.toNat ∧ fld t.pw.therm 48 16 = fld s.pw.therm 48 16 ∧
      fld t.pw.therm 1 31 = fld s.pw.therm 1 31 ∧ t.pw = { s.pw with therm := t.pw.therm } ∧ Only [.pw, .mg] s t ∧
      (fld s.pw.therm 48 8 ≤ tj.toNat → bitOf t.pw.therm 0 = true) ∧ (tj.toNat + 5 ≤ fld s.pw.therm 48 8 → bitOf t.pw.therm 0 = false) ∧
      (tj.toNat < fld s.pw.therm 48 8 → fld s.pw.therm 48 8 < tj.toNat + 5 → bitOf t.pw.therm 0 = bitOf s.pw.therm 0) ∧
      t.mg.ibiStat = (if fld s.pw.therm 48 8 ≤ tj.toNat ∧ bitOf s.pw.therm 0 = false then s.mg.ibiStat ||| maskOf 9 1 else s.mg.ibiStat) ∧
      t.mg = { s.mg with ibiStat := t.mg.ibiStat })) ∧
    (∀ tj : Byte, Does (.thermtrip tj) s (fun t => fld t.pw.therm 32 8 = tj.toNat ∧ t.pw = { s.pw with therm := t.pw.therm, tripped := t.pw.tripped } ∧
      Only [.pw, .ck] s t ∧ (tj.toNat < 120 → t.pw.tripped = false ∧ t.ck = s.ck) ∧
      (120 ≤ tj.toNat → t.pw.tripped = true ∧ t.ck = { s.ck with ready := s.ck.ready &&& ~~~ maskOf 0 4 })))

/-- The I3C target takes and keeps its address, answers the CCCs, writes and reads registers through its pointer, and requests interrupts. (R508, R509,
R510, R511, R512, R513, R516, R517, R484, R524, 19_management_chain.md). -/
def Obligations.I3cTarget : Prop :=
  ∀ s : State, Live s →
    (∀ rivals addrs, (s.mg.da.isSome = true ∨ bootStage s = 0 → exec (.entdaa rivals addrs) s = .next s) ∧
      (∀ (mine : BitVec 64) (d : Option Byte), s.mg.da = none → bootStage s ≠ 0 → mine = s.mg.pid ++ (0x0600 : BitVec 16) →
        d = (addrs[(rivals.filter (fun w => decide (w < mine))).dedup.length]?).map (fun a => a &&& 0x7F) →
        exec (.entdaa rivals addrs) s = .next { s with mg := { s.mg with out := (leBytes 8 mine.toNat).reverse, da := d } })) ∧
    exec .rstdaa s = .next { s with mg := { s.mg with da := none, enint := false, ibiNacked := false } } ∧
    (∀ x, exec (.setnewda x) s = .next { s with mg := { s.mg with da := s.mg.da.map (fun _ => x &&& 0x7F) } }) ∧
    (∀ c b, (c, b) ∈ ([(.getpid, (leBytes 6 s.mg.pid.toNat).reverse), (.getbcr, [0x06]), (.getdcr, [0x00]), (.getstatus, getStatus s), (.getmwl, [0x07, 0xFB]),
        (.getmrl, [0x07, 0xF8, 0x04])] : List (Instr × Bytes)) →
      (s.mg.da = none → exec c s = .next s) ∧ (s.mg.da.isSome = true → exec c s = .next { s with mg := { s.mg with out := b } })) ∧
    (∀ b, Does (.enec b) s (fun t => t.mg.enint = (s.mg.enint || b.getLsbD 0) ∧ t.mg.enhj = (s.mg.enhj || b.getLsbD 3) ∧
        (b.getLsbD 0 = true → s.mg.enint = false → t.mg.ibiServed = false ∧ t.mg.ibiNacked = false) ∧
        (b.getLsbD 0 = false ∨ s.mg.enint = true → t.mg.ibiServed = s.mg.ibiServed ∧ t.mg.ibiNacked = s.mg.ibiNacked) ∧
        t.mg = { s.mg with enint := t.mg.enint, enhj := t.mg.enhj, ibiServed := t.mg.ibiServed, ibiNacked := t.mg.ibiNacked } ∧ Only [.mg] s t) ∧
      Does (.disec b) s (fun t => t.mg.enint = (s.mg.enint && !b.getLsbD 0) ∧ t.mg.enhj = (s.mg.enhj && !b.getLsbD 3) ∧
        t.mg.ibiNacked = (s.mg.ibiNacked && !b.getLsbD 0) ∧ t.mg = { s.mg with enint := t.mg.enint, enhj := t.mg.enhj, ibiNacked := t.mg.ibiNacked } ∧
        Only [.mg] s t)) ∧
    (∀ code, exec (.unsupportedCcc code) s = .next s) ∧
    (∀ d : Bytes, ∀ c ∈ ([.i3cRegisterWrite d, .setReadPointer d] : List Instr),
      (s.mg.da = none → exec c s = .next s) ∧
      (∀ u off, s.mg.da.isSome = true → exec (.wake .i3cWrite) s = .next u → off = leAt d 1 2 →
        (d = [] → exec c s = .next u) ∧
        (d ≠ [] → d.length < 3 ∨ (leAt d 0 1 ≠ 1 ∧ leAt d 0 1 ≠ 2) ∨ off % 8 ≠ 0 ∨ off < 0x4000 → exec c s = .next (mgErr u)) ∧
        (3 ≤ d.length → off % 8 = 0 → 0x4000 ≤ off →
          (leAt d 0 1 = 2 → exec c s = .next { u with mg := { u.mg with ptr := off } }) ∧
          (∀ v, leAt d 0 1 = 1 → v = (List.range ((d.length - 3) / 8)).foldl (fun v k =>
              if off + 8 * k < 0x10000 then regWrite .mgmt (off + 8 * k) (BitVec.ofNat 64 (leAt (d.drop (3 + 8 * k)) 0 8)) 255 v else mgErr v) u →
            exec c s = .next (if (d.length - 3) % 8 = 0 then v else mgErr v))))) ∧
    (∀ n, (s.mg.da = none → exec (.i3cRegisterRead n) s = .next s) ∧
      (∀ b u, s.mg.da.isSome = true → (b, u) = (List.range n).foldl (fun (x : Bytes × State) _ =>
          let r := if x.2.mg.ptr < 0x10000 then regWord .mgmt x.2.mg.ptr x.2 else (0, x.2)
          (x.1 ++ leBytes 8 r.1.toNat, { r.2 with mg := { r.2.mg with ptr := r.2.mg.ptr + 8 } })) ([], s) →
        exec (.i3cRegisterRead n) s = .next { u with mg := { u.mg with out := b } })) ∧
    (s.mg.da.isSome = true ∨ s.mg.enhj = false ∨ bootStage s = 0 ∨ bootStage s = 0xE2 → exec .hotJoin s = .next s) ∧
    (s.mg.da = none → s.mg.enhj = true → bootStage s ≠ 0 → bootStage s ≠ 0xE2 → exec .hotJoin s = .next { s with mg := { s.mg with out := [0x02] } }) ∧
    (∀ c k, (c, k) ∈ ([(.ibiRequest, false), (.ibiRetry, true)] : List ((Bool → Instr) × Bool)) →
      (∀ a, ibiPending s = false ∨ s.mg.ibiNacked ≠ k → exec (c a) s = .next s) ∧
      (s.mg.enint = true → s.mg.da.isSome = true → (ibiStat s &&& s.mg.ibiEn) ≠ 0 → s.mg.ibiServed = false → s.mg.ibiNacked = k →
        exec (c false) s = .next { s with mg := { s.mg with ibiNacked := true } } ∧
        exec (c true) s = .next { s with mg := { s.mg with ibiServed := true, ibiNacked := false, out := [0x01, BitVec.ofNat 8 (fld s.hp.alertStat 0 7),
          BitVec.ofNat 8 (fld s.mg.ibiStat 8 2), BitVec.ofNat 8 (bootStage s)] } }))

/-- The TAP loads its instructions, or BYPASS and a count; MGACC reads and writes registers or refuses; the flash reads, programs and erases as checked.
(R518, R519, R520, R521, R522, R523, R524, R484, R494, 19_management_chain.md). -/
def Obligations.JtagAndFlash : Prop :=
  ∀ s : State, s.pw.tripped = false →
    exec .tapReset s = .next { s with mg := { s.mg with tlr := true, ir := 0x02, pins := false } } ∧
    (∀ (u r : State) (b : Bytes), u = (if s.mg.tlr then wakeUp 3 s else s) →
      r = { u with mg := { u.mg with tlr := false, ir := 0xFF, pins := false, err := if inReset s then u.mg.err else satAdd u.mg.err 1 } } →
      exec .idcode s = .next { u with mg := { u.mg with tlr := false, ir := 0x02, pins := false, dr := 0x10003B35 } } ∧
      exec (.samplePreload b) s = .next { u with mg := { u.mg with tlr := false, ir := 0x01, pins := false, bsr := bsrCells b } } ∧
      (s.pw.porst = true →
        exec .highz s = .next { u with mg := { u.mg with tlr := false, ir := 0x03, pins := false } } ∧
        exec .clamp s = .next { u with mg := { u.mg with tlr := false, ir := 0x04, pins := true } } ∧
        (∀ c k, (c, k) ∈ ([(.extest b, 0x00), (.extestPulse b, 0x05), (.extestTrain b, 0x06)] : List (Instr × Byte)) →
          exec c s = .next { u with mg := { u.mg with tlr := false, ir := k, pins := true, bsr := bsrCells b } })) ∧
      (s.pw.porst = false → ∀ c ∈ ([.highz, .clamp, .extest b, .extestPulse b, .extestTrain b] : List Instr), exec c s = .next r) ∧
      (∀ code : Byte, (code = 0xFF → exec (.bypass code) s = .next { u with mg := { u.mg with tlr := false, ir := 0xFF, pins := false } }) ∧
        (6 < code → code ≠ 0x10 → code ≠ 0xFF → exec (.bypass code) s = .next r) ∧ (code ≤ 6 ∨ code = 0x10 → exec (.bypass code) s = .next s)) ∧
      (∀ (d : BitVec 80) (op : BitVec 2) (v : State) (off : Nat) (keep : BitVec 14) (put : BitVec 2 → Word → State → State),
        op = d.extractLsb' 78 2 → off = (d.extractLsb' 65 13).toNat * 8 → keep = d.extractLsb' 64 14 →
        v = { u with mg := { u.mg with tlr := false, ir := 0x10, pins := false } } → (put = fun o w t => { t with mg := { t.mg with dr := o ++ keep ++ w } }) →
        ∀ c ∈ ([.mgaccRead d, .mgaccWrite d] : List Instr),
          (bitOf s.tr.owner 1 = true → exec c s = .next r) ∧
          (bitOf s.tr.owner 1 = false →
            (op = 0 → exec c s = .next (put 0 (d.setWidth 64) v)) ∧
            (op = 3 ∨ (op ≠ 0 ∧ inReset s = true) → exec c s = .next (put 3 (d.setWidth 64) v)) ∧
            (op = 1 ∨ op = 2 → inReset s = false → off < 0x4000 → exec c s = .next (put 3 (d.setWidth 64) (mgErr v))) ∧
            (op = 1 → inReset s = false → 0x4000 ≤ off → exec c s = .next (put 1 (regWord .jtag off v).1 (regWord .jtag off v).2)) ∧
            (op = 2 → inReset s = false → 0x4000 ≤ off → exec c s = .next (put 1 (d.setWidth 64) (regWrite .jtag off (d.setWidth 64) 255 v)))))) ∧
    (Live s →
      (∀ (w : RegWr) (c : RegWr → Instr), c ∈ ([.flashRead, .flashProgram, .flashErase4k, .flashErase64k, .bootRetry] : List (RegWr → Instr)) →
        (w.src = .host → locked s = true → exec (c w) s = .next (wdisc s)) ∧
        (∀ (x : Word) (u : State) (op a n : Nat) (go retry : Bool), Made s w → w.src ≠ .host → x = putBits s.mg.flashCtl w.data (maskOf 0 35) (enMask w.be) →
          u = { s with mg := { s.mg with flashCtl := x } } → op = fld x 32 3 → a = fld x 0 32 → n = (if op = 3 then 4096 else if op = 4 then 65536 else 128) →
          go = bitOf (w.data &&& enMask w.be) 63 → retry = bitOf (w.data &&& enMask w.be) 62 →
          (go = true → s.mg.flash.isSome = true → exec (c w) s = .next (mgErr s)) ∧
          (go = false → retry = false → exec (c w) s = .next u) ∧
          (go = true → retry = false → s.mg.flash = none →
            (op < 1 ∨ 4 < op → exec (c w) s = .next (flashCode cVersion u)) ∧
            (1 ≤ op → op ≤ 4 →
              (bootStage s < 3 → exec (c w) s = .next (flashCode cClaim u)) ∧
              (3 ≤ bootStage s →
                (a % n ≠ 0 ∨ Config.flashSize < a + n → exec (c w) s = .next (flashCode cDimLimit u)) ∧
                (a % n = 0 → a + n ≤ Config.flashSize →
                  (bootStage s ≠ 0xE1 → a < bankBase (takenBank s) + bankSize → bankBase (takenBank s) < a + n → exec (c w) s = .next (flashCode cClaim u)) ∧
                  (bootStage s = 0xE1 ∨ bankBase (takenBank s) + bankSize ≤ a ∨ a + n ≤ bankBase (takenBank s) →
                    exec (c w) s = .next { u with mg := { u.mg with flash := some ⟨op, a⟩, flashStat := setFld s.mg.flashStat 8 8 0 } }))))) ∧
          (go = false → retry = true →
            (bootStage s ≠ 0xE1 → exec (c w) s = .next (flashCode cClaim u)) ∧
            (bootStage s = 0xE1 → Does (c w) s (fun t => bootStage t = 0 ∧ t.mg.flashStat = setFld s.mg.flashStat 8 8 0 ∧ t.mg.flashCtl = x ∧
              t.tr = { s.tr with boot := t.tr.boot } ∧ takenBank t = takenBank s ∧ bitOf t.mg.ibiStat 8 = true ∧ Only [.mg, .tr] s t))) ∧
          (∀ t t', go = true → retry = true → s.mg.flash = none →
            exec (c { w with data := w.data &&& ~~~ maskOf 62 1 }) s = .next t → exec (c { w with data := w.data &&& ~~~ maskOf 63 1 }) t = .next t' →
            exec (c w) s = .next t'))) ∧
      (s.mg.flash = none → exec .flashDone s = .next s) ∧
      (∀ a, s.mg.flash = some ⟨1, a⟩ → Does .flashDone s (fun t => t.mg.flash = none ∧
        (∀ k < 16, tabGet t.mg.flashBuf k 0 = Memory.readWord s.mem.flash (a + 8 * k)) ∧
        t.mg = { s.mg with flash := none, flashBuf := t.mg.flashBuf } ∧ Only [.mg] s t)) ∧
      (∀ op a n, s.mg.flash = some ⟨op, a⟩ → (op = 2 ∧ n = 128) ∨ (op = 3 ∧ n = 4096) ∨ (op = 4 ∧ n = 65536) → Does .flashDone s (fun t =>
        t.mg = { s.mg with flash := none } ∧ t.mem = { s.mem with flash := t.mem.flash } ∧ SameBut s.mem.flash t.mem.flash a n ∧ Only [.mg, .mem] s t ∧
        (∀ i < n, Memory.read t.mem.flash (a + i) = if op = 2 then BitVec.ofNat 8 (leAt (leBytes 8 (tabGet s.mg.flashBuf (i / 8) 0).toNat) (i % 8) 1) else 0xFF))))

/-- What reset leaves: registers at the values their tables give, and what each reset input resets, holds and releases. (R496, R494, R498, R451, R477,
R479, R487, R520, R58, R95, 18_package_and_power.md). -/
def Obligations.ResetLeaves : Prop :=
  (∀ off v, (off, v) ∈ ([(0x4000, 0x3A101), (0x4008, 0), (0x4010, 4096), (0x4018, 0x10000), (0x4040, 0), (0x4050, 0x2710), (0x4058, 0), (0x4060, 0), (0x5000, 0),
      (0x6000, 0), (0x6800, 0x800000000000), (0x7C00, 0), (0x7C08, 0x100002710), (0x7C40, 0x300000000EA60), (0x7C60, 0x100000402084),
      (0x7F00, 0x9100000000000000), (0x8000, 0x80008000FF00012C), (0x8800, 0x100020100010001D), (0x9000, 0x100), (0xA468, 0xFFFF00000000), (0xB840, 0),
      (0xC000, 0), (0xE008, 0), (0xE410, 0xC350000000000000), (0xE440, 0x3E8006400000000), (0xE450, 0x10000002398), (0xF000, 0x4000400000), (0xFA40, 0),
      (0xFC00, 0), (0xFC10, 0), (0xFD00, 0), (0xFD08, 0), (0xFD18, 0x1800000008), (0xFD20, 0x200A), (0xFD40, 7), (0xFD58, 3), (0xFD60, 1), (0xFD80, 3),
      (0xFE00, 0x3E800000064), (0xFE08, 0x10001), (0xFE30, 0x3200000000), (0xFE38, 0x7864000000000000), (0xFF00, 0x3A1), (0xFF18, 0), (0xFF28, 0)] : List (Nat × Word)) →
    (regRead off State.reset).map Prod.fst = some v) ∧
  memsWf State.reset = true ∧ State.reset.pending = [] ∧ inReset State.reset = false ∧ (∀ q, qstate State.reset q = .closed) ∧ bootStage State.reset = 0 ∧
    State.reset.mg.ir = 0x02 ∧ State.reset.now = 0 ∧
  (∀ (s z : State), z = { State.reset with mem := { State.reset.mem with pm := s.mem.pm, flash := s.mem.flash }, pk := s.pk, freeTick := s.freeTick, pending := s.pending, mg := { State.reset.mg with tlr := s.mg.tlr, ir := s.mg.ir, dr := s.mg.dr, bsr := s.mg.bsr, pins := s.mg.pins } } →
    exec .powerOnReset s = .next { z with pw := { z.pw with porst := true, rails := s.pw.rails } } ∧
    (s.pw.tripped = false → ∀ k : BitVec 4,
      (4 < k → exec (.railUndervoltage k) s = .next s) ∧
      (k ≤ 4 → s.pw.rails.contains k.toNat = false → exec (.railUndervoltage k) s = .next { z with pw := { z.pw with porst := s.pw.porst, rails := s.pw.rails ++ [k.toNat] } }) ∧
      (k ≤ 4 → s.pw.rails.contains k.toNat = true → exec (.railUndervoltage k) s = .next { z with pw := { z.pw with porst := s.pw.porst, rails := s.pw.rails } }))) ∧
  (∀ s : State, s.pw.tripped = false →
    (s.pw.porst = false → exec .porstRelease s = .next s) ∧
    (s.pw.porst = true → Does .porstRelease s (fun t => t.pw = { s.pw with porst := false } ∧ t.mg = { s.mg with pins := false } ∧
      t.ck = (if s.pw.rails = [] then { s.ck with ready := s.ck.ready ||| maskOf 5 2 } else s.ck) ∧ Only [.pw, .mg, .ck] s t)) ∧
    (∀ k : BitVec 4, (s.pw.rails.contains k.toNat = false → exec (.railRecovery k) s = .next s) ∧
      (s.pw.rails.contains k.toNat = true → Does (.railRecovery k) s (fun t => t.pw = { s.pw with rails := s.pw.rails.erase k.toNat } ∧
        t.ck = (if s.pw.porst = false ∧ s.pw.rails.erase k.toNat = [] then { s.ck with ready := s.ck.ready ||| maskOf 5 2 } else s.ck) ∧ Only [.pw, .ck] s t))) ∧
    (inReset s = true → exec .spiResetRelease s = .next s) ∧
    (inReset s = false → exec .spiResetRelease s = .next { s with pw := { s.pw with spiReset := false } }))

/-- Every step keeps every memory in its canonical form, whatever command stands in front. (R37, R38, R141, R144, R152, R331, R443, R448,
11_memory_tiers.md, 06_tile.md). -/
def Obligations.EveryStepKeepsMemories : Prop :=
  ∀ s t : State, memsWf s = true → step s = .next t → memsWf t = true
end

