-- ==== Sys2Proof/Laws/Memory.lean ====
section
/-! SUPPORT. Laws of addressed memories: what a read sees after each operation, and that each operation keeps the canonical form. -/

namespace Sys2Proof.Machine.Memory

/-! ### Reading -/

theorem read_filter (p : Nat → Bool) (m : Memory) (k : Nat) :
    read (m.filter (fun c => p c.1)) k = if p k then read m k else 0 := by
  induction m with
  | nil => simp [read]
  | cons c r ih =>
    obtain ⟨a, b⟩ := c
    by_cases ha : p a = true
    · by_cases hk : a = k
      · subst hk; simp [List.filter, ha, read]
      · simp [List.filter, ha, read, hk, ih]
    · by_cases hk : a = k
      · subst hk; simp [List.filter, ha, ih]
      · simp [List.filter, ha, read, hk, ih]

theorem read_append (x y : Memory) (k : Nat) (h : k ∉ x.map Prod.fst) : read (x ++ y) k = read y k := by
  induction x with
  | nil => rfl
  | cons c r ih =>
    obtain ⟨a, b⟩ := c
    simp only [List.map_cons, List.mem_cons, not_or] at h
    simp [read, Ne.symm h.1, ih h.2]

theorem read_append_left (x y : Memory) (k : Nat) (h : read y k = 0) : read (x ++ y) k = read x k := by
  induction x with
  | nil => simpa [read] using h
  | cons c r ih =>
    obtain ⟨a, b⟩ := c
    by_cases hk : a = k
    · simp [read, hk]
    · simp [read, hk, ih]

theorem keys_below (m : Memory) (a k : Nat) (h : k ∈ (below m a).map Prod.fst) : k < a := by
  simp only [below, List.mem_map, List.mem_filter, decide_eq_true_eq] at h
  obtain ⟨c, hc, rfl⟩ := h; exact hc.2

theorem cells_zero (a : Nat) (r : Bytes) : cells a (0 :: r) = cells (a + 1) r := if_pos rfl

theorem cells_cons (a : Nat) (b : Byte) (r : Bytes) (h : b ≠ 0) : cells a (b :: r) = (a, b) :: cells (a + 1) r := if_neg h

theorem keys_cells (a : Nat) (bs : Bytes) (k : Nat) (h : k ∈ (cells a bs).map Prod.fst) : a ≤ k ∧ k < a + bs.length := by
  induction bs generalizing a with
  | nil => simp [cells] at h
  | cons b r ih =>
    simp only [cells] at h
    split at h
    · have := ih (a + 1) h; simp only [List.length_cons]; omega
    · simp only [List.map_cons, List.mem_cons] at h
      rcases h with h | h
      · simp only [List.length_cons]; omega
      · have := ih (a + 1) h; simp only [List.length_cons]; omega

theorem read_of_not_mem (m : Memory) (k : Nat) (h : k ∉ m.map Prod.fst) : read m k = 0 := by
  simpa [read] using read_append m [] k h

theorem read_cells (a : Nat) (bs : Bytes) (k : Nat) :
    read (cells a bs) k = if a ≤ k ∧ k < a + bs.length then bs.getD (k - a) 0 else 0 := by
  induction bs generalizing a with
  | nil => simp [cells, read]
  | cons b r ih =>
    by_cases hk : a = k
    · subst hk
      by_cases hb : b = 0
      · have h : a ∉ (cells (a + 1) r).map Prod.fst := fun h => by have := keys_cells _ _ _ h; omega
        rw [hb, cells_zero, read_of_not_mem _ _ h]; simp
      · rw [cells_cons a b r hb]; simp [read]
    · have e : read (cells a (b :: r)) k = read (cells (a + 1) r) k := by
        by_cases hb : b = 0
        · rw [hb, cells_zero]
        · rw [cells_cons a b r hb]; simp [read, hk]
      rw [e, ih]
      by_cases hc : a ≤ k ∧ k < a + (b :: r).length
      · have h2 : a + 1 ≤ k ∧ k < a + 1 + r.length := by simp only [List.length_cons] at hc; omega
        have h3 : k - a = (k - (a + 1)) + 1 := by omega
        rw [if_pos h2, if_pos hc, h3, List.getD_cons_succ]
      · have h2 : ¬ (a + 1 ≤ k ∧ k < a + 1 + r.length) := by simp only [List.length_cons] at hc; omega
        rw [if_neg h2, if_neg hc]

theorem read_below (m : Memory) (a k : Nat) : read (below m a) k = if k < a then read m k else 0 := by
  simpa [below] using read_filter (fun x => decide (x < a)) m k

theorem read_from (m : Memory) (a k : Nat) : read (from' m a) k = if a ≤ k then read m k else 0 := by
  simpa [from'] using read_filter (fun x => decide (a ≤ x)) m k

/-- A read after a write of a byte string: the string inside its range, the old byte outside. -/
theorem read_writeBytes (m : Memory) (a : Nat) (bs : Bytes) (k : Nat) :
    read (writeBytes m a bs) k = if a ≤ k ∧ k < a + bs.length then bs.getD (k - a) 0 else read m k := by
  unfold writeBytes
  by_cases h1 : k < a
  · have hz : read (cells a bs ++ from' m (a + bs.length)) k = 0 := by
      rw [read_append _ _ _ (fun h => by have := keys_cells _ _ _ h; omega), read_from, if_neg (by omega)]
    rw [List.append_assoc, read_append_left _ _ _ hz, read_below, if_pos h1, if_neg (by omega)]
  · rw [List.append_assoc, read_append _ _ _ (fun h => h1 (keys_below _ _ _ h))]
    by_cases h2 : k < a + bs.length
    · rw [read_append_left _ _ _ (by rw [read_from, if_neg (by omega)]), read_cells]
      simp [show a ≤ k by omega, h2]
    · rw [read_append _ _ _ (fun h => by have := keys_cells _ _ _ h; omega), read_from, if_pos (by omega), if_neg (by omega)]

/-- Outside its range a write of a byte string changes nothing. -/
theorem read_writeBytes_of_not (m : Memory) (a : Nat) (bs : Bytes) (k : Nat) (h : ¬ (a ≤ k ∧ k < a + bs.length)) :
    read (writeBytes m a bs) k = read m k := by rw [read_writeBytes, if_neg h]

theorem read_write (m : Memory) (a : Nat) (b : Byte) (k : Nat) : read (write m a b) k = if k = a then b else read m k := by
  unfold write
  rw [read_writeBytes]
  by_cases h : k = a
  · subst h; simp
  · rw [if_neg (by simp only [List.length_cons, List.length_nil]; omega), if_neg h]

/-! ### The canonical form -/

theorem wfFrom_mono {lo lo' : Nat} (h : lo' ≤ lo) : ∀ {m : Memory}, wfFrom lo m = true → wfFrom lo' m = true
  | [], _ => rfl
  | (a, b) :: r, hm => by
    simp only [wfFrom, Bool.and_eq_true, decide_eq_true_eq] at hm ⊢
    exact ⟨⟨by omega, hm.1.2⟩, hm.2⟩

theorem wfFrom_append {lo c : Nat} {x y : Memory} (hlc : lo ≤ c) (hx : wfFrom lo x = true)
    (hk : ∀ k ∈ x.map Prod.fst, k < c) (hy : wfFrom c y = true) : wfFrom lo (x ++ y) = true := by
  induction x generalizing lo with
  | nil => exact wfFrom_mono hlc hy
  | cons e r ih =>
    obtain ⟨a, b⟩ := e
    simp only [wfFrom, Bool.and_eq_true, decide_eq_true_eq, List.cons_append] at hx ⊢
    have ha : a < c := hk a (by simp)
    exact ⟨hx.1, ih (by omega) hx.2 (fun k h => hk k (by simp [h]))⟩

theorem wfFrom_filter (p : Host.Cell → Bool) {lo : Nat} {m : Memory} (h : wfFrom lo m = true) : wfFrom lo (m.filter p) = true := by
  induction m generalizing lo with
  | nil => rfl
  | cons e r ih =>
    obtain ⟨a, b⟩ := e
    simp only [wfFrom, Bool.and_eq_true, decide_eq_true_eq] at h
    by_cases hp : p (a, b) = true
    · simp only [List.filter, hp, wfFrom, Bool.and_eq_true, decide_eq_true_eq]; exact ⟨h.1, ih h.2⟩
    · simp only [List.filter, hp]; exact wfFrom_mono (by omega) (ih h.2)

theorem wfFrom_of_keys {lo : Nat} {m : Memory} (h : wf m = true) (hk : ∀ k ∈ m.map Prod.fst, lo ≤ k) : wfFrom lo m = true := by
  cases m with
  | nil => rfl
  | cons e r =>
    obtain ⟨a, b⟩ := e
    simp only [wf, wfFrom, Bool.and_eq_true, decide_eq_true_eq] at h ⊢
    exact ⟨⟨hk a (by simp), h.1.2⟩, h.2⟩

theorem wfFrom_cells (a : Nat) (bs : Bytes) : wfFrom a (cells a bs) = true := by
  induction bs generalizing a with
  | nil => rfl
  | cons b r ih =>
    simp only [cells]
    split
    · exact wfFrom_mono (by omega) (ih (a + 1))
    · rename_i hb
      simp only [wfFrom, Bool.and_eq_true, decide_eq_true_eq, bne_iff_ne, ne_eq]
      exact ⟨⟨le_refl a, hb⟩, ih (a + 1)⟩

theorem wf_from (m : Memory) (c : Nat) (h : wf m = true) : wfFrom c (from' m c) = true := by
  apply wfFrom_of_keys (wfFrom_filter _ h)
  intro k hk
  simp only [List.mem_map, List.mem_filter, decide_eq_true_eq] at hk
  obtain ⟨e, he, rfl⟩ := hk; exact he.2

theorem wf_writeBytes (m : Memory) (a : Nat) (bs : Bytes) (h : wf m = true) : wf (writeBytes m a bs) = true := by
  unfold writeBytes
  rw [List.append_assoc]
  exact wfFrom_append (Nat.zero_le a) (wfFrom_filter _ h) (keys_below m a)
    (wfFrom_append (Nat.le_add_right a _) (wfFrom_cells a bs) (fun k hk => (keys_cells a bs k hk).2) (wf_from m _ h))

theorem wf_write (m : Memory) (a : Nat) (b : Byte) (h : wf m = true) : wf (write m a b) = true := wf_writeBytes m a [b] h

theorem wf_writeWord (m : Memory) (a : Nat) (w : Word) (h : wf m = true) : wf (writeWord m a w) = true := wf_writeBytes m a _ h

theorem wf_writeMasked (m : Memory) (a : Nat) (bs : Bytes) (es : List Bool) (h : wf m = true) : wf (writeMasked m a bs es) = true := by
  induction bs generalizing m a es with
  | nil => simpa [writeMasked] using h
  | cons b r ih =>
    cases es with
    | nil => simpa [writeMasked] using h
    | cons e es => simp only [writeMasked]; apply ih; split; exacts [wf_write m a b h, h]

theorem wf_writeCells (m : Memory) (cs : List Host.Cell) (h : wf m = true) : wf (writeCells m cs) = true := by
  unfold writeCells
  induction cs generalizing m with
  | nil => exact h
  | cons c r ih => exact ih _ (wf_write m c.1 c.2 h)

theorem wfFrom_shift_up (d : Nat) {lo : Nat} {m : Memory} (h : wfFrom lo m = true) :
    wfFrom (lo + d) (m.map (fun c => (c.1 + d, c.2))) = true := by
  induction m generalizing lo with
  | nil => rfl
  | cons e r ih =>
    obtain ⟨a, b⟩ := e
    simp only [wfFrom, Bool.and_eq_true, decide_eq_true_eq, List.map_cons] at h ⊢
    have := ih h.2
    exact ⟨⟨by omega, h.1.2⟩, by rwa [show a + 1 + d = a + d + 1 by omega] at this⟩

theorem wfFrom_shift_down (d : Nat) {lo : Nat} {m : Memory} (hd : d ≤ lo) (h : wfFrom lo m = true) :
    wfFrom (lo - d) (m.map (fun c => (c.1 - d, c.2))) = true := by
  induction m generalizing lo with
  | nil => rfl
  | cons e r ih =>
    obtain ⟨a, b⟩ := e
    simp only [wfFrom, Bool.and_eq_true, decide_eq_true_eq, List.map_cons] at h ⊢
    have := ih (lo := a + 1) (by omega) h.2
    exact ⟨⟨by omega, h.1.2⟩, by rwa [show a + 1 - d = a - d + 1 by omega] at this⟩

theorem keys_slice (m : Memory) (a n k : Nat) (h : k ∈ (slice m a n).map Prod.fst) : k < n := by
  simp only [slice, List.map_map, List.mem_map, List.mem_filter, decide_eq_true_eq, Function.comp_apply] at h
  obtain ⟨c, hc, rfl⟩ := h; omega

theorem wf_slice (m : Memory) (a n : Nat) (h : wf m = true) : wf (slice m a n) = true := by
  have h1 : wfFrom a (m.filter (fun c => decide (a ≤ c.1 ∧ c.1 < a + n))) = true := by
    apply wfFrom_of_keys (wfFrom_filter _ h)
    intro k hk
    simp only [List.mem_map, List.mem_filter, decide_eq_true_eq] at hk
    obtain ⟨c, hc, rfl⟩ := hk; exact hc.2.1
  simpa [slice, wf] using wfFrom_shift_down a (le_refl a) h1

theorem wf_blit (m : Memory) (a n : Nat) (sl : Memory) (h : wf m = true) (hs : wf sl = true) : wf (blit m a n sl) = true := by
  unfold blit
  rw [List.append_assoc]
  refine wfFrom_append (Nat.zero_le a) (wfFrom_filter _ h) (keys_below m a)
    (wfFrom_append (c := a + n) (Nat.le_add_right a n) ?_ ?_ (wf_from m _ h))
  · simpa using wfFrom_shift_up a (wf_slice sl 0 n hs)
  · intro k hk
    simp only [List.map_map, List.mem_map, Function.comp_apply] at hk
    obtain ⟨c, hc, rfl⟩ := hk
    have := keys_slice sl 0 n c.1 (List.mem_map_of_mem hc)
    omega

end Sys2Proof.Machine.Memory
end

