-- ==== Sys2Proof/Laws/Ops.lean ====
section
/-! SUPPORT. Laws of the operations that every meaning goes through. -/

namespace Sys2Proof.Machine

/-- A live device runs the meaning. -/
theorem run_live {s : State} (h : Live s) (f : State → State) : run s f = .next (f s) := by simp [run, h.1, h.2]

theorem runHeld_live {s : State} (h : Live s) (f : State → State) : runHeld s f = .next (f s) := by simp [runHeld, h.1]

/-- Whatever a meaning is, it answers a next state only by doing nothing or by its function. -/
theorem run_cases {s t : State} {f : State → State} (h : run s f = .next t) : s.pw.tripped = false ∧ ((inReset s = true ∧ t = s) ∨ (inReset s = false ∧ t = f s)) := by
  unfold run at h
  split at h
  · cases h
  · rename_i hp
    split at h
    · rename_i hr; cases h; exact ⟨by simpa using hp, .inl ⟨hr, rfl⟩⟩
    · rename_i hr; cases h; exact ⟨by simpa using hp, .inr ⟨by simpa using hr, rfl⟩⟩

theorem runHeld_cases {s t : State} {f : State → State} (h : runHeld s f = .next t) : s.pw.tripped = false ∧ t = f s := by
  unfold runHeld at h
  split at h
  · cases h
  · rename_i hp; cases h; exact ⟨by simpa using hp, rfl⟩

/-- After THERMTRIP_N a meaning answers the fault (R503). -/
theorem run_tripped {s : State} (h : s.pw.tripped = true) (f : State → State) : run s f = .fault .thermtrip := by simp [run, h]

theorem runHeld_tripped {s : State} (h : s.pw.tripped = true) (f : State → State) : runHeld s f = .fault .thermtrip := by simp [runHeld, h]

/-- Held in reset, a meaning changes nothing (R496). -/
theorem run_reset {s : State} (h : s.pw.tripped = false) (hr : inReset s = true) (f : State → State) : run s f = .next s := by simp [run, h, hr]

/-- Equal states differ in no part. -/
theorem Only.refl (ps : List Part) (s : State) : Only ps s s := fun p => .inr (by cases p <;> rfl)

theorem Only.trans {ps : List Part} {s t u : State} (h : Only ps s t) (k : Only ps t u) : Only ps s u := fun p => by
  rcases h p with h | h
  · exact .inl h
  · rcases k p with k | k
    · exact .inl k
    · right; cases p <;> simp_all [Part.same]

end Sys2Proof.Machine
end

