-- ==== Sys2Proof/Laws/Regs.lean ====
section
/-! SUPPORT. Laws of the register window: which block answers a word, and that a word of no table answers none. -/

namespace Sys2Proof.Machine

theorem regRead_hp {off : Nat} {s : State} {r : Word × State} (h : hpRead off s = some r) : regRead off s = some r := by
  simp [regRead, h]

theorem regRead_dq {off : Nat} {s : State} {r : Word × State} (h0 : hpRead off s = none) (h : dqRead off s = some r) : regRead off s = some r := by
  simp [regRead, h0, h]

theorem regPut_hp {src : Src} {off : Nat} {d en : Word} {s t : State} (h : hpWrite src off d en s = some t) : regPut src off d en s = some t := by
  simp [regPut, h]

theorem regPut_dq {src : Src} {off : Nat} {d en : Word} {s t : State} (h0 : hpWrite src off d en s = none) (h : dqWrite off d en s = some t) :
    regPut src off d en s = some t := by
  simp [regPut, h0, h]

/-- Offset 0x4068 stands in no table. -/
theorem regRead_none (s : State) : regRead 0x4068 s = none := by
  have h1 : hpRead 0x4068 s = none := by simp [hpRead]
  have h2 : dqRead 0x4068 s = none := by simp [dqRead]
  have h3 : sfRead 0x4068 s = none := by simp [sfRead, sfPlain]
  have h4 : ppRead 0x4068 s = none := by simp [ppRead]
  have h5 : tlRead 0x4068 s = none := by simp [tlRead]
  have h6 : kvRead 0x4068 s = none := by simp [kvRead]
  have h7 : dmRead 0x4068 s = none := by simp [dmRead]
  have h8 : siRead 0x4068 s = none := by simp [siRead]
  have h9 : cvRead 0x4068 s = none := by simp [cvRead]
  have h10 : rmRead 0x4068 s = none := by simp [rmRead]
  have h11 : snRead 0x4068 s = none := by simp [snRead]
  have h12 : trRead 0x4068 s = none := by simp [trRead]
  have h13 : ckRead 0x4068 s = none := by simp [ckRead]
  have h14 : pwRead 0x4068 s = none := by simp [pwRead]
  have h15 : mgRead 0x4068 s = none := by simp [mgRead]
  simp [regRead, h1, h2, h3, h4, h5, h6, h7, h8, h9, h10, h11, h12, h13, h14, h15]

theorem regPut_none (src : Src) (d en : Word) (s : State) : regPut src 0x4068 d en s = none := by
  have h1 : hpWrite src 0x4068 d en s = none := by simp [hpWrite, hpRead]
  have h2 : dqWrite 0x4068 d en s = none := by simp [dqWrite, dqRead]
  have h3 : sfWrite 0x4068 d en s = none := by simp [sfWrite, sfRead, sfPlain]
  have h4 : ppWrite 0x4068 d en s = none := by simp [ppWrite, ppRead]
  have h5 : tlWrite 0x4068 d en s = none := by simp [tlWrite, tlRead]
  have h6 : kvWrite src 0x4068 d en s = none := by simp [kvWrite, kvRead]
  have h7 : dmWrite 0x4068 d en s = none := by simp [dmWrite, dmRead]
  have h8 : siWrite src 0x4068 d en s = none := by simp [siWrite, siRead]
  have h9 : cvWrite 0x4068 d en s = none := by simp [cvWrite, cvRead]
  have h10 : rmWrite 0x4068 d en s = none := by simp [rmWrite, rmRead]
  have h11 : snWrite 0x4068 d en s = none := by simp [snWrite, snRead]
  have h12 : trWrite src 0x4068 d en s = none := by simp [trWrite, trRead]
  have h13 : ckWrite src 0x4068 d en s = none := by simp [ckWrite]
  have h14 : pwWrite src 0x4068 d en s = none := by simp [pwWrite, pwRead]
  have h15 : mgWrite src 0x4068 d en s = none := by simp [mgWrite, mgRead]
  simp [regPut, h1, h2, h3, h4, h5, h6, h7, h8, h9, h10, h11, h12, h13, h14, h15]

/-- Settling the in-band interrupt changes the management chain only. -/
theorem ibiSettle_only (s : State) : Only [.mg] s (ibiSettle s) := by
  intro p; unfold ibiSettle; split <;> cases p <;> simp [Part.same]

end Sys2Proof.Machine
end

