-- ==== Sys2Proof/Laws/State.lean ====
section
/-! SUPPORT. What each small update of the state leaves alone, field by field, and what it sets; no proof need unfold a record update. -/

namespace Sys2Proof.Machine

/-! ### setDram -/

@[simp] theorem setDram_hp (m : Memory) (s : State) : (setDram s m).hp = s.hp := rfl
@[simp] theorem setDram_dq (m : Memory) (s : State) : (setDram s m).dq = s.dq := rfl
@[simp] theorem setDram_sf (m : Memory) (s : State) : (setDram s m).sf = s.sf := rfl
@[simp] theorem setDram_pp (m : Memory) (s : State) : (setDram s m).pp = s.pp := rfl
@[simp] theorem setDram_si (m : Memory) (s : State) : (setDram s m).si = s.si := rfl
@[simp] theorem setDram_rm (m : Memory) (s : State) : (setDram s m).rm = s.rm := rfl
@[simp] theorem setDram_kv (m : Memory) (s : State) : (setDram s m).kv = s.kv := rfl
@[simp] theorem setDram_dm (m : Memory) (s : State) : (setDram s m).dm = s.dm := rfl
@[simp] theorem setDram_tl (m : Memory) (s : State) : (setDram s m).tl = s.tl := rfl
@[simp] theorem setDram_cv (m : Memory) (s : State) : (setDram s m).cv = s.cv := rfl
@[simp] theorem setDram_sn (m : Memory) (s : State) : (setDram s m).sn = s.sn := rfl
@[simp] theorem setDram_tr (m : Memory) (s : State) : (setDram s m).tr = s.tr := rfl
@[simp] theorem setDram_pk (m : Memory) (s : State) : (setDram s m).pk = s.pk := rfl
@[simp] theorem setDram_ck (m : Memory) (s : State) : (setDram s m).ck = s.ck := rfl
@[simp] theorem setDram_pw (m : Memory) (s : State) : (setDram s m).pw = s.pw := rfl
@[simp] theorem setDram_mg (m : Memory) (s : State) : (setDram s m).mg = s.mg := rfl
@[simp] theorem setDram_now (m : Memory) (s : State) : (setDram s m).now = s.now := rfl
@[simp] theorem setDram_freeTick (m : Memory) (s : State) : (setDram s m).freeTick = s.freeTick := rfl
@[simp] theorem setDram_held (m : Memory) (s : State) : (setDram s m).held = s.held := rfl
@[simp] theorem setDram_rd (m : Memory) (s : State) : (setDram s m).rd = s.rd := rfl
@[simp] theorem setDram_pending (m : Memory) (s : State) : (setDram s m).pending = s.pending := rfl
@[simp] theorem setDram_dram (m : Memory) (s : State) : (setDram s m).mem.dram = m := rfl
@[simp] theorem setDram_ap (m : Memory) (s : State) : (setDram s m).mem.ap = s.mem.ap := rfl
@[simp] theorem setDram_stg0 (m : Memory) (s : State) : (setDram s m).mem.stg0 = s.mem.stg0 := rfl
@[simp] theorem setDram_stg1 (m : Memory) (s : State) : (setDram s m).mem.stg1 = s.mem.stg1 := rfl
@[simp] theorem setDram_spad (m : Memory) (s : State) : (setDram s m).mem.spad = s.mem.spad := rfl
@[simp] theorem setDram_pm (m : Memory) (s : State) : (setDram s m).mem.pm = s.mem.pm := rfl
@[simp] theorem setDram_flash (m : Memory) (s : State) : (setDram s m).mem.flash = s.mem.flash := rfl

/-! ### setAp -/

@[simp] theorem setAp_hp (m : Memory) (s : State) : (setAp s m).hp = s.hp := rfl
@[simp] theorem setAp_dq (m : Memory) (s : State) : (setAp s m).dq = s.dq := rfl
@[simp] theorem setAp_sf (m : Memory) (s : State) : (setAp s m).sf = s.sf := rfl
@[simp] theorem setAp_pp (m : Memory) (s : State) : (setAp s m).pp = s.pp := rfl
@[simp] theorem setAp_si (m : Memory) (s : State) : (setAp s m).si = s.si := rfl
@[simp] theorem setAp_rm (m : Memory) (s : State) : (setAp s m).rm = s.rm := rfl
@[simp] theorem setAp_kv (m : Memory) (s : State) : (setAp s m).kv = s.kv := rfl
@[simp] theorem setAp_dm (m : Memory) (s : State) : (setAp s m).dm = s.dm := rfl
@[simp] theorem setAp_tl (m : Memory) (s : State) : (setAp s m).tl = s.tl := rfl
@[simp] theorem setAp_cv (m : Memory) (s : State) : (setAp s m).cv = s.cv := rfl
@[simp] theorem setAp_sn (m : Memory) (s : State) : (setAp s m).sn = s.sn := rfl
@[simp] theorem setAp_tr (m : Memory) (s : State) : (setAp s m).tr = s.tr := rfl
@[simp] theorem setAp_pk (m : Memory) (s : State) : (setAp s m).pk = s.pk := rfl
@[simp] theorem setAp_ck (m : Memory) (s : State) : (setAp s m).ck = s.ck := rfl
@[simp] theorem setAp_pw (m : Memory) (s : State) : (setAp s m).pw = s.pw := rfl
@[simp] theorem setAp_mg (m : Memory) (s : State) : (setAp s m).mg = s.mg := rfl
@[simp] theorem setAp_now (m : Memory) (s : State) : (setAp s m).now = s.now := rfl
@[simp] theorem setAp_freeTick (m : Memory) (s : State) : (setAp s m).freeTick = s.freeTick := rfl
@[simp] theorem setAp_held (m : Memory) (s : State) : (setAp s m).held = s.held := rfl
@[simp] theorem setAp_rd (m : Memory) (s : State) : (setAp s m).rd = s.rd := rfl
@[simp] theorem setAp_pending (m : Memory) (s : State) : (setAp s m).pending = s.pending := rfl
@[simp] theorem setAp_dram (m : Memory) (s : State) : (setAp s m).mem.dram = s.mem.dram := rfl
@[simp] theorem setAp_ap (m : Memory) (s : State) : (setAp s m).mem.ap = m := rfl
@[simp] theorem setAp_stg0 (m : Memory) (s : State) : (setAp s m).mem.stg0 = s.mem.stg0 := rfl
@[simp] theorem setAp_stg1 (m : Memory) (s : State) : (setAp s m).mem.stg1 = s.mem.stg1 := rfl
@[simp] theorem setAp_spad (m : Memory) (s : State) : (setAp s m).mem.spad = s.mem.spad := rfl
@[simp] theorem setAp_pm (m : Memory) (s : State) : (setAp s m).mem.pm = s.mem.pm := rfl
@[simp] theorem setAp_flash (m : Memory) (s : State) : (setAp s m).mem.flash = s.mem.flash := rfl

/-! ### setSpad -/

@[simp] theorem setSpad_hp (m : Memory) (s : State) : (setSpad s m).hp = s.hp := rfl
@[simp] theorem setSpad_dq (m : Memory) (s : State) : (setSpad s m).dq = s.dq := rfl
@[simp] theorem setSpad_sf (m : Memory) (s : State) : (setSpad s m).sf = s.sf := rfl
@[simp] theorem setSpad_pp (m : Memory) (s : State) : (setSpad s m).pp = s.pp := rfl
@[simp] theorem setSpad_si (m : Memory) (s : State) : (setSpad s m).si = s.si := rfl
@[simp] theorem setSpad_rm (m : Memory) (s : State) : (setSpad s m).rm = s.rm := rfl
@[simp] theorem setSpad_kv (m : Memory) (s : State) : (setSpad s m).kv = s.kv := rfl
@[simp] theorem setSpad_dm (m : Memory) (s : State) : (setSpad s m).dm = s.dm := rfl
@[simp] theorem setSpad_tl (m : Memory) (s : State) : (setSpad s m).tl = s.tl := rfl
@[simp] theorem setSpad_cv (m : Memory) (s : State) : (setSpad s m).cv = s.cv := rfl
@[simp] theorem setSpad_sn (m : Memory) (s : State) : (setSpad s m).sn = s.sn := rfl
@[simp] theorem setSpad_tr (m : Memory) (s : State) : (setSpad s m).tr = s.tr := rfl
@[simp] theorem setSpad_pk (m : Memory) (s : State) : (setSpad s m).pk = s.pk := rfl
@[simp] theorem setSpad_ck (m : Memory) (s : State) : (setSpad s m).ck = s.ck := rfl
@[simp] theorem setSpad_pw (m : Memory) (s : State) : (setSpad s m).pw = s.pw := rfl
@[simp] theorem setSpad_mg (m : Memory) (s : State) : (setSpad s m).mg = s.mg := rfl
@[simp] theorem setSpad_now (m : Memory) (s : State) : (setSpad s m).now = s.now := rfl
@[simp] theorem setSpad_freeTick (m : Memory) (s : State) : (setSpad s m).freeTick = s.freeTick := rfl
@[simp] theorem setSpad_held (m : Memory) (s : State) : (setSpad s m).held = s.held := rfl
@[simp] theorem setSpad_rd (m : Memory) (s : State) : (setSpad s m).rd = s.rd := rfl
@[simp] theorem setSpad_pending (m : Memory) (s : State) : (setSpad s m).pending = s.pending := rfl
@[simp] theorem setSpad_dram (m : Memory) (s : State) : (setSpad s m).mem.dram = s.mem.dram := rfl
@[simp] theorem setSpad_ap (m : Memory) (s : State) : (setSpad s m).mem.ap = s.mem.ap := rfl
@[simp] theorem setSpad_stg0 (m : Memory) (s : State) : (setSpad s m).mem.stg0 = s.mem.stg0 := rfl
@[simp] theorem setSpad_stg1 (m : Memory) (s : State) : (setSpad s m).mem.stg1 = s.mem.stg1 := rfl
@[simp] theorem setSpad_spad (m : Memory) (s : State) : (setSpad s m).mem.spad = m := rfl
@[simp] theorem setSpad_pm (m : Memory) (s : State) : (setSpad s m).mem.pm = s.mem.pm := rfl
@[simp] theorem setSpad_flash (m : Memory) (s : State) : (setSpad s m).mem.flash = s.mem.flash := rfl

/-! ### setStg0 -/

@[simp] theorem setStg0_hp (m : Memory) (s : State) : (setStg0 s m).hp = s.hp := rfl
@[simp] theorem setStg0_dq (m : Memory) (s : State) : (setStg0 s m).dq = s.dq := rfl
@[simp] theorem setStg0_sf (m : Memory) (s : State) : (setStg0 s m).sf = s.sf := rfl
@[simp] theorem setStg0_pp (m : Memory) (s : State) : (setStg0 s m).pp = s.pp := rfl
@[simp] theorem setStg0_si (m : Memory) (s : State) : (setStg0 s m).si = s.si := rfl
@[simp] theorem setStg0_rm (m : Memory) (s : State) : (setStg0 s m).rm = s.rm := rfl
@[simp] theorem setStg0_kv (m : Memory) (s : State) : (setStg0 s m).kv = s.kv := rfl
@[simp] theorem setStg0_dm (m : Memory) (s : State) : (setStg0 s m).dm = s.dm := rfl
@[simp] theorem setStg0_tl (m : Memory) (s : State) : (setStg0 s m).tl = s.tl := rfl
@[simp] theorem setStg0_cv (m : Memory) (s : State) : (setStg0 s m).cv = s.cv := rfl
@[simp] theorem setStg0_sn (m : Memory) (s : State) : (setStg0 s m).sn = s.sn := rfl
@[simp] theorem setStg0_tr (m : Memory) (s : State) : (setStg0 s m).tr = s.tr := rfl
@[simp] theorem setStg0_pk (m : Memory) (s : State) : (setStg0 s m).pk = s.pk := rfl
@[simp] theorem setStg0_ck (m : Memory) (s : State) : (setStg0 s m).ck = s.ck := rfl
@[simp] theorem setStg0_pw (m : Memory) (s : State) : (setStg0 s m).pw = s.pw := rfl
@[simp] theorem setStg0_mg (m : Memory) (s : State) : (setStg0 s m).mg = s.mg := rfl
@[simp] theorem setStg0_now (m : Memory) (s : State) : (setStg0 s m).now = s.now := rfl
@[simp] theorem setStg0_freeTick (m : Memory) (s : State) : (setStg0 s m).freeTick = s.freeTick := rfl
@[simp] theorem setStg0_held (m : Memory) (s : State) : (setStg0 s m).held = s.held := rfl
@[simp] theorem setStg0_rd (m : Memory) (s : State) : (setStg0 s m).rd = s.rd := rfl
@[simp] theorem setStg0_pending (m : Memory) (s : State) : (setStg0 s m).pending = s.pending := rfl
@[simp] theorem setStg0_dram (m : Memory) (s : State) : (setStg0 s m).mem.dram = s.mem.dram := rfl
@[simp] theorem setStg0_ap (m : Memory) (s : State) : (setStg0 s m).mem.ap = s.mem.ap := rfl
@[simp] theorem setStg0_stg0 (m : Memory) (s : State) : (setStg0 s m).mem.stg0 = m := rfl
@[simp] theorem setStg0_stg1 (m : Memory) (s : State) : (setStg0 s m).mem.stg1 = s.mem.stg1 := rfl
@[simp] theorem setStg0_spad (m : Memory) (s : State) : (setStg0 s m).mem.spad = s.mem.spad := rfl
@[simp] theorem setStg0_pm (m : Memory) (s : State) : (setStg0 s m).mem.pm = s.mem.pm := rfl
@[simp] theorem setStg0_flash (m : Memory) (s : State) : (setStg0 s m).mem.flash = s.mem.flash := rfl

/-! ### setStg1 -/

@[simp] theorem setStg1_hp (m : Memory) (s : State) : (setStg1 s m).hp = s.hp := rfl
@[simp] theorem setStg1_dq (m : Memory) (s : State) : (setStg1 s m).dq = s.dq := rfl
@[simp] theorem setStg1_sf (m : Memory) (s : State) : (setStg1 s m).sf = s.sf := rfl
@[simp] theorem setStg1_pp (m : Memory) (s : State) : (setStg1 s m).pp = s.pp := rfl
@[simp] theorem setStg1_si (m : Memory) (s : State) : (setStg1 s m).si = s.si := rfl
@[simp] theorem setStg1_rm (m : Memory) (s : State) : (setStg1 s m).rm = s.rm := rfl
@[simp] theorem setStg1_kv (m : Memory) (s : State) : (setStg1 s m).kv = s.kv := rfl
@[simp] theorem setStg1_dm (m : Memory) (s : State) : (setStg1 s m).dm = s.dm := rfl
@[simp] theorem setStg1_tl (m : Memory) (s : State) : (setStg1 s m).tl = s.tl := rfl
@[simp] theorem setStg1_cv (m : Memory) (s : State) : (setStg1 s m).cv = s.cv := rfl
@[simp] theorem setStg1_sn (m : Memory) (s : State) : (setStg1 s m).sn = s.sn := rfl
@[simp] theorem setStg1_tr (m : Memory) (s : State) : (setStg1 s m).tr = s.tr := rfl
@[simp] theorem setStg1_pk (m : Memory) (s : State) : (setStg1 s m).pk = s.pk := rfl
@[simp] theorem setStg1_ck (m : Memory) (s : State) : (setStg1 s m).ck = s.ck := rfl
@[simp] theorem setStg1_pw (m : Memory) (s : State) : (setStg1 s m).pw = s.pw := rfl
@[simp] theorem setStg1_mg (m : Memory) (s : State) : (setStg1 s m).mg = s.mg := rfl
@[simp] theorem setStg1_now (m : Memory) (s : State) : (setStg1 s m).now = s.now := rfl
@[simp] theorem setStg1_freeTick (m : Memory) (s : State) : (setStg1 s m).freeTick = s.freeTick := rfl
@[simp] theorem setStg1_held (m : Memory) (s : State) : (setStg1 s m).held = s.held := rfl
@[simp] theorem setStg1_rd (m : Memory) (s : State) : (setStg1 s m).rd = s.rd := rfl
@[simp] theorem setStg1_pending (m : Memory) (s : State) : (setStg1 s m).pending = s.pending := rfl
@[simp] theorem setStg1_dram (m : Memory) (s : State) : (setStg1 s m).mem.dram = s.mem.dram := rfl
@[simp] theorem setStg1_ap (m : Memory) (s : State) : (setStg1 s m).mem.ap = s.mem.ap := rfl
@[simp] theorem setStg1_stg0 (m : Memory) (s : State) : (setStg1 s m).mem.stg0 = s.mem.stg0 := rfl
@[simp] theorem setStg1_stg1 (m : Memory) (s : State) : (setStg1 s m).mem.stg1 = m := rfl
@[simp] theorem setStg1_spad (m : Memory) (s : State) : (setStg1 s m).mem.spad = s.mem.spad := rfl
@[simp] theorem setStg1_pm (m : Memory) (s : State) : (setStg1 s m).mem.pm = s.mem.pm := rfl
@[simp] theorem setStg1_flash (m : Memory) (s : State) : (setStg1 s m).mem.flash = s.mem.flash := rfl

/-! ### setPm -/

@[simp] theorem setPm_hp (m : Memory) (s : State) : (setPm s m).hp = s.hp := rfl
@[simp] theorem setPm_dq (m : Memory) (s : State) : (setPm s m).dq = s.dq := rfl
@[simp] theorem setPm_sf (m : Memory) (s : State) : (setPm s m).sf = s.sf := rfl
@[simp] theorem setPm_pp (m : Memory) (s : State) : (setPm s m).pp = s.pp := rfl
@[simp] theorem setPm_si (m : Memory) (s : State) : (setPm s m).si = s.si := rfl
@[simp] theorem setPm_rm (m : Memory) (s : State) : (setPm s m).rm = s.rm := rfl
@[simp] theorem setPm_kv (m : Memory) (s : State) : (setPm s m).kv = s.kv := rfl
@[simp] theorem setPm_dm (m : Memory) (s : State) : (setPm s m).dm = s.dm := rfl
@[simp] theorem setPm_tl (m : Memory) (s : State) : (setPm s m).tl = s.tl := rfl
@[simp] theorem setPm_cv (m : Memory) (s : State) : (setPm s m).cv = s.cv := rfl
@[simp] theorem setPm_sn (m : Memory) (s : State) : (setPm s m).sn = s.sn := rfl
@[simp] theorem setPm_tr (m : Memory) (s : State) : (setPm s m).tr = s.tr := rfl
@[simp] theorem setPm_pk (m : Memory) (s : State) : (setPm s m).pk = s.pk := rfl
@[simp] theorem setPm_ck (m : Memory) (s : State) : (setPm s m).ck = s.ck := rfl
@[simp] theorem setPm_pw (m : Memory) (s : State) : (setPm s m).pw = s.pw := rfl
@[simp] theorem setPm_mg (m : Memory) (s : State) : (setPm s m).mg = s.mg := rfl
@[simp] theorem setPm_now (m : Memory) (s : State) : (setPm s m).now = s.now := rfl
@[simp] theorem setPm_freeTick (m : Memory) (s : State) : (setPm s m).freeTick = s.freeTick := rfl
@[simp] theorem setPm_held (m : Memory) (s : State) : (setPm s m).held = s.held := rfl
@[simp] theorem setPm_rd (m : Memory) (s : State) : (setPm s m).rd = s.rd := rfl
@[simp] theorem setPm_pending (m : Memory) (s : State) : (setPm s m).pending = s.pending := rfl
@[simp] theorem setPm_dram (m : Memory) (s : State) : (setPm s m).mem.dram = s.mem.dram := rfl
@[simp] theorem setPm_ap (m : Memory) (s : State) : (setPm s m).mem.ap = s.mem.ap := rfl
@[simp] theorem setPm_stg0 (m : Memory) (s : State) : (setPm s m).mem.stg0 = s.mem.stg0 := rfl
@[simp] theorem setPm_stg1 (m : Memory) (s : State) : (setPm s m).mem.stg1 = s.mem.stg1 := rfl
@[simp] theorem setPm_spad (m : Memory) (s : State) : (setPm s m).mem.spad = s.mem.spad := rfl
@[simp] theorem setPm_pm (m : Memory) (s : State) : (setPm s m).mem.pm = m := rfl
@[simp] theorem setPm_flash (m : Memory) (s : State) : (setPm s m).mem.flash = s.mem.flash := rfl

/-! ### setFlash -/

@[simp] theorem setFlash_hp (m : Memory) (s : State) : (setFlash s m).hp = s.hp := rfl
@[simp] theorem setFlash_dq (m : Memory) (s : State) : (setFlash s m).dq = s.dq := rfl
@[simp] theorem setFlash_sf (m : Memory) (s : State) : (setFlash s m).sf = s.sf := rfl
@[simp] theorem setFlash_pp (m : Memory) (s : State) : (setFlash s m).pp = s.pp := rfl
@[simp] theorem setFlash_si (m : Memory) (s : State) : (setFlash s m).si = s.si := rfl
@[simp] theorem setFlash_rm (m : Memory) (s : State) : (setFlash s m).rm = s.rm := rfl
@[simp] theorem setFlash_kv (m : Memory) (s : State) : (setFlash s m).kv = s.kv := rfl
@[simp] theorem setFlash_dm (m : Memory) (s : State) : (setFlash s m).dm = s.dm := rfl
@[simp] theorem setFlash_tl (m : Memory) (s : State) : (setFlash s m).tl = s.tl := rfl
@[simp] theorem setFlash_cv (m : Memory) (s : State) : (setFlash s m).cv = s.cv := rfl
@[simp] theorem setFlash_sn (m : Memory) (s : State) : (setFlash s m).sn = s.sn := rfl
@[simp] theorem setFlash_tr (m : Memory) (s : State) : (setFlash s m).tr = s.tr := rfl
@[simp] theorem setFlash_pk (m : Memory) (s : State) : (setFlash s m).pk = s.pk := rfl
@[simp] theorem setFlash_ck (m : Memory) (s : State) : (setFlash s m).ck = s.ck := rfl
@[simp] theorem setFlash_pw (m : Memory) (s : State) : (setFlash s m).pw = s.pw := rfl
@[simp] theorem setFlash_mg (m : Memory) (s : State) : (setFlash s m).mg = s.mg := rfl
@[simp] theorem setFlash_now (m : Memory) (s : State) : (setFlash s m).now = s.now := rfl
@[simp] theorem setFlash_freeTick (m : Memory) (s : State) : (setFlash s m).freeTick = s.freeTick := rfl
@[simp] theorem setFlash_held (m : Memory) (s : State) : (setFlash s m).held = s.held := rfl
@[simp] theorem setFlash_rd (m : Memory) (s : State) : (setFlash s m).rd = s.rd := rfl
@[simp] theorem setFlash_pending (m : Memory) (s : State) : (setFlash s m).pending = s.pending := rfl
@[simp] theorem setFlash_dram (m : Memory) (s : State) : (setFlash s m).mem.dram = s.mem.dram := rfl
@[simp] theorem setFlash_ap (m : Memory) (s : State) : (setFlash s m).mem.ap = s.mem.ap := rfl
@[simp] theorem setFlash_stg0 (m : Memory) (s : State) : (setFlash s m).mem.stg0 = s.mem.stg0 := rfl
@[simp] theorem setFlash_stg1 (m : Memory) (s : State) : (setFlash s m).mem.stg1 = s.mem.stg1 := rfl
@[simp] theorem setFlash_spad (m : Memory) (s : State) : (setFlash s m).mem.spad = s.mem.spad := rfl
@[simp] theorem setFlash_pm (m : Memory) (s : State) : (setFlash s m).mem.pm = s.mem.pm := rfl
@[simp] theorem setFlash_flash (m : Memory) (s : State) : (setFlash s m).mem.flash = m := rfl

/-! ### wdisc -/

@[simp] theorem wdisc_dq (s : State) : (wdisc s).dq = s.dq := rfl
@[simp] theorem wdisc_sf (s : State) : (wdisc s).sf = s.sf := rfl
@[simp] theorem wdisc_pp (s : State) : (wdisc s).pp = s.pp := rfl
@[simp] theorem wdisc_si (s : State) : (wdisc s).si = s.si := rfl
@[simp] theorem wdisc_rm (s : State) : (wdisc s).rm = s.rm := rfl
@[simp] theorem wdisc_kv (s : State) : (wdisc s).kv = s.kv := rfl
@[simp] theorem wdisc_dm (s : State) : (wdisc s).dm = s.dm := rfl
@[simp] theorem wdisc_mem (s : State) : (wdisc s).mem = s.mem := rfl
@[simp] theorem wdisc_tl (s : State) : (wdisc s).tl = s.tl := rfl
@[simp] theorem wdisc_cv (s : State) : (wdisc s).cv = s.cv := rfl
@[simp] theorem wdisc_sn (s : State) : (wdisc s).sn = s.sn := rfl
@[simp] theorem wdisc_tr (s : State) : (wdisc s).tr = s.tr := rfl
@[simp] theorem wdisc_pk (s : State) : (wdisc s).pk = s.pk := rfl
@[simp] theorem wdisc_ck (s : State) : (wdisc s).ck = s.ck := rfl
@[simp] theorem wdisc_pw (s : State) : (wdisc s).pw = s.pw := rfl
@[simp] theorem wdisc_mg (s : State) : (wdisc s).mg = s.mg := rfl
@[simp] theorem wdisc_now (s : State) : (wdisc s).now = s.now := rfl
@[simp] theorem wdisc_freeTick (s : State) : (wdisc s).freeTick = s.freeTick := rfl
@[simp] theorem wdisc_held (s : State) : (wdisc s).held = s.held := rfl
@[simp] theorem wdisc_rd (s : State) : (wdisc s).rd = s.rd := rfl
@[simp] theorem wdisc_pending (s : State) : (wdisc s).pending = s.pending := rfl

/-! ### rzero -/

@[simp] theorem rzero_dq (s : State) : (rzero s).dq = s.dq := rfl
@[simp] theorem rzero_sf (s : State) : (rzero s).sf = s.sf := rfl
@[simp] theorem rzero_pp (s : State) : (rzero s).pp = s.pp := rfl
@[simp] theorem rzero_si (s : State) : (rzero s).si = s.si := rfl
@[simp] theorem rzero_rm (s : State) : (rzero s).rm = s.rm := rfl
@[simp] theorem rzero_kv (s : State) : (rzero s).kv = s.kv := rfl
@[simp] theorem rzero_dm (s : State) : (rzero s).dm = s.dm := rfl
@[simp] theorem rzero_mem (s : State) : (rzero s).mem = s.mem := rfl
@[simp] theorem rzero_tl (s : State) : (rzero s).tl = s.tl := rfl
@[simp] theorem rzero_cv (s : State) : (rzero s).cv = s.cv := rfl
@[simp] theorem rzero_sn (s : State) : (rzero s).sn = s.sn := rfl
@[simp] theorem rzero_tr (s : State) : (rzero s).tr = s.tr := rfl
@[simp] theorem rzero_pk (s : State) : (rzero s).pk = s.pk := rfl
@[simp] theorem rzero_ck (s : State) : (rzero s).ck = s.ck := rfl
@[simp] theorem rzero_pw (s : State) : (rzero s).pw = s.pw := rfl
@[simp] theorem rzero_mg (s : State) : (rzero s).mg = s.mg := rfl
@[simp] theorem rzero_now (s : State) : (rzero s).now = s.now := rfl
@[simp] theorem rzero_freeTick (s : State) : (rzero s).freeTick = s.freeTick := rfl
@[simp] theorem rzero_held (s : State) : (rzero s).held = s.held := rfl
@[simp] theorem rzero_rd (s : State) : (rzero s).rd = s.rd := rfl
@[simp] theorem rzero_pending (s : State) : (rzero s).pending = s.pending := rfl

/-! ### alert -/

@[simp] theorem alert_dq (i : Nat) (s : State) : (alert i s).dq = s.dq := rfl
@[simp] theorem alert_sf (i : Nat) (s : State) : (alert i s).sf = s.sf := rfl
@[simp] theorem alert_pp (i : Nat) (s : State) : (alert i s).pp = s.pp := rfl
@[simp] theorem alert_si (i : Nat) (s : State) : (alert i s).si = s.si := rfl
@[simp] theorem alert_rm (i : Nat) (s : State) : (alert i s).rm = s.rm := rfl
@[simp] theorem alert_kv (i : Nat) (s : State) : (alert i s).kv = s.kv := rfl
@[simp] theorem alert_dm (i : Nat) (s : State) : (alert i s).dm = s.dm := rfl
@[simp] theorem alert_mem (i : Nat) (s : State) : (alert i s).mem = s.mem := rfl
@[simp] theorem alert_tl (i : Nat) (s : State) : (alert i s).tl = s.tl := rfl
@[simp] theorem alert_cv (i : Nat) (s : State) : (alert i s).cv = s.cv := rfl
@[simp] theorem alert_sn (i : Nat) (s : State) : (alert i s).sn = s.sn := rfl
@[simp] theorem alert_tr (i : Nat) (s : State) : (alert i s).tr = s.tr := rfl
@[simp] theorem alert_pk (i : Nat) (s : State) : (alert i s).pk = s.pk := rfl
@[simp] theorem alert_ck (i : Nat) (s : State) : (alert i s).ck = s.ck := rfl
@[simp] theorem alert_pw (i : Nat) (s : State) : (alert i s).pw = s.pw := rfl
@[simp] theorem alert_mg (i : Nat) (s : State) : (alert i s).mg = s.mg := rfl
@[simp] theorem alert_now (i : Nat) (s : State) : (alert i s).now = s.now := rfl
@[simp] theorem alert_freeTick (i : Nat) (s : State) : (alert i s).freeTick = s.freeTick := rfl
@[simp] theorem alert_held (i : Nat) (s : State) : (alert i s).held = s.held := rfl
@[simp] theorem alert_rd (i : Nat) (s : State) : (alert i s).rd = s.rd := rfl
@[simp] theorem alert_pending (i : Nat) (s : State) : (alert i s).pending = s.pending := rfl

/-! ### mgErr -/

@[simp] theorem mgErr_hp (s : State) : (mgErr s).hp = s.hp := rfl
@[simp] theorem mgErr_dq (s : State) : (mgErr s).dq = s.dq := rfl
@[simp] theorem mgErr_sf (s : State) : (mgErr s).sf = s.sf := rfl
@[simp] theorem mgErr_pp (s : State) : (mgErr s).pp = s.pp := rfl
@[simp] theorem mgErr_si (s : State) : (mgErr s).si = s.si := rfl
@[simp] theorem mgErr_rm (s : State) : (mgErr s).rm = s.rm := rfl
@[simp] theorem mgErr_kv (s : State) : (mgErr s).kv = s.kv := rfl
@[simp] theorem mgErr_dm (s : State) : (mgErr s).dm = s.dm := rfl
@[simp] theorem mgErr_mem (s : State) : (mgErr s).mem = s.mem := rfl
@[simp] theorem mgErr_tl (s : State) : (mgErr s).tl = s.tl := rfl
@[simp] theorem mgErr_cv (s : State) : (mgErr s).cv = s.cv := rfl
@[simp] theorem mgErr_sn (s : State) : (mgErr s).sn = s.sn := rfl
@[simp] theorem mgErr_tr (s : State) : (mgErr s).tr = s.tr := rfl
@[simp] theorem mgErr_pk (s : State) : (mgErr s).pk = s.pk := rfl
@[simp] theorem mgErr_ck (s : State) : (mgErr s).ck = s.ck := rfl
@[simp] theorem mgErr_pw (s : State) : (mgErr s).pw = s.pw := rfl
@[simp] theorem mgErr_now (s : State) : (mgErr s).now = s.now := rfl
@[simp] theorem mgErr_freeTick (s : State) : (mgErr s).freeTick = s.freeTick := rfl
@[simp] theorem mgErr_held (s : State) : (mgErr s).held = s.held := rfl
@[simp] theorem mgErr_rd (s : State) : (mgErr s).rd = s.rd := rfl
@[simp] theorem mgErr_pending (s : State) : (mgErr s).pending = s.pending := rfl

/-! ### heal -/

@[simp] theorem heal_hp (m : MemKind) (u a n : Nat) (s : State) : (heal m u a n s).hp = s.hp := rfl
@[simp] theorem heal_dq (m : MemKind) (u a n : Nat) (s : State) : (heal m u a n s).dq = s.dq := rfl
@[simp] theorem heal_sf (m : MemKind) (u a n : Nat) (s : State) : (heal m u a n s).sf = s.sf := rfl
@[simp] theorem heal_pp (m : MemKind) (u a n : Nat) (s : State) : (heal m u a n s).pp = s.pp := rfl
@[simp] theorem heal_si (m : MemKind) (u a n : Nat) (s : State) : (heal m u a n s).si = s.si := rfl
@[simp] theorem heal_rm (m : MemKind) (u a n : Nat) (s : State) : (heal m u a n s).rm = s.rm := rfl
@[simp] theorem heal_kv (m : MemKind) (u a n : Nat) (s : State) : (heal m u a n s).kv = s.kv := rfl
@[simp] theorem heal_mem (m : MemKind) (u a n : Nat) (s : State) : (heal m u a n s).mem = s.mem := rfl
@[simp] theorem heal_tl (m : MemKind) (u a n : Nat) (s : State) : (heal m u a n s).tl = s.tl := rfl
@[simp] theorem heal_cv (m : MemKind) (u a n : Nat) (s : State) : (heal m u a n s).cv = s.cv := rfl
@[simp] theorem heal_sn (m : MemKind) (u a n : Nat) (s : State) : (heal m u a n s).sn = s.sn := rfl
@[simp] theorem heal_tr (m : MemKind) (u a n : Nat) (s : State) : (heal m u a n s).tr = s.tr := rfl
@[simp] theorem heal_pk (m : MemKind) (u a n : Nat) (s : State) : (heal m u a n s).pk = s.pk := rfl
@[simp] theorem heal_ck (m : MemKind) (u a n : Nat) (s : State) : (heal m u a n s).ck = s.ck := rfl
@[simp] theorem heal_pw (m : MemKind) (u a n : Nat) (s : State) : (heal m u a n s).pw = s.pw := rfl
@[simp] theorem heal_mg (m : MemKind) (u a n : Nat) (s : State) : (heal m u a n s).mg = s.mg := rfl
@[simp] theorem heal_now (m : MemKind) (u a n : Nat) (s : State) : (heal m u a n s).now = s.now := rfl
@[simp] theorem heal_freeTick (m : MemKind) (u a n : Nat) (s : State) : (heal m u a n s).freeTick = s.freeTick := rfl
@[simp] theorem heal_held (m : MemKind) (u a n : Nat) (s : State) : (heal m u a n s).held = s.held := rfl
@[simp] theorem heal_rd (m : MemKind) (u a n : Nat) (s : State) : (heal m u a n s).rd = s.rd := rfl
@[simp] theorem heal_pending (m : MemKind) (u a n : Nat) (s : State) : (heal m u a n s).pending = s.pending := rfl

/-! ### setSlot -/

@[simp] theorem setSlot_dq (k : Nat) (r : StageSlot) (s : State) : (setSlot k r s).dq = s.dq := rfl
@[simp] theorem setSlot_sf (k : Nat) (r : StageSlot) (s : State) : (setSlot k r s).sf = s.sf := rfl
@[simp] theorem setSlot_pp (k : Nat) (r : StageSlot) (s : State) : (setSlot k r s).pp = s.pp := rfl
@[simp] theorem setSlot_si (k : Nat) (r : StageSlot) (s : State) : (setSlot k r s).si = s.si := rfl
@[simp] theorem setSlot_rm (k : Nat) (r : StageSlot) (s : State) : (setSlot k r s).rm = s.rm := rfl
@[simp] theorem setSlot_kv (k : Nat) (r : StageSlot) (s : State) : (setSlot k r s).kv = s.kv := rfl
@[simp] theorem setSlot_dm (k : Nat) (r : StageSlot) (s : State) : (setSlot k r s).dm = s.dm := rfl
@[simp] theorem setSlot_mem (k : Nat) (r : StageSlot) (s : State) : (setSlot k r s).mem = s.mem := rfl
@[simp] theorem setSlot_tl (k : Nat) (r : StageSlot) (s : State) : (setSlot k r s).tl = s.tl := rfl
@[simp] theorem setSlot_cv (k : Nat) (r : StageSlot) (s : State) : (setSlot k r s).cv = s.cv := rfl
@[simp] theorem setSlot_sn (k : Nat) (r : StageSlot) (s : State) : (setSlot k r s).sn = s.sn := rfl
@[simp] theorem setSlot_tr (k : Nat) (r : StageSlot) (s : State) : (setSlot k r s).tr = s.tr := rfl
@[simp] theorem setSlot_pk (k : Nat) (r : StageSlot) (s : State) : (setSlot k r s).pk = s.pk := rfl
@[simp] theorem setSlot_ck (k : Nat) (r : StageSlot) (s : State) : (setSlot k r s).ck = s.ck := rfl
@[simp] theorem setSlot_pw (k : Nat) (r : StageSlot) (s : State) : (setSlot k r s).pw = s.pw := rfl
@[simp] theorem setSlot_mg (k : Nat) (r : StageSlot) (s : State) : (setSlot k r s).mg = s.mg := rfl
@[simp] theorem setSlot_now (k : Nat) (r : StageSlot) (s : State) : (setSlot k r s).now = s.now := rfl
@[simp] theorem setSlot_freeTick (k : Nat) (r : StageSlot) (s : State) : (setSlot k r s).freeTick = s.freeTick := rfl
@[simp] theorem setSlot_held (k : Nat) (r : StageSlot) (s : State) : (setSlot k r s).held = s.held := rfl
@[simp] theorem setSlot_rd (k : Nat) (r : StageSlot) (s : State) : (setSlot k r s).rd = s.rd := rfl
@[simp] theorem setSlot_pending (k : Nat) (r : StageSlot) (s : State) : (setSlot k r s).pending = s.pending := rfl

/-! ### setQueue -/

@[simp] theorem setQueue_hp (q : Nat) (r : Queue) (s : State) : (setQueue q r s).hp = s.hp := rfl
@[simp] theorem setQueue_sf (q : Nat) (r : Queue) (s : State) : (setQueue q r s).sf = s.sf := rfl
@[simp] theorem setQueue_pp (q : Nat) (r : Queue) (s : State) : (setQueue q r s).pp = s.pp := rfl
@[simp] theorem setQueue_si (q : Nat) (r : Queue) (s : State) : (setQueue q r s).si = s.si := rfl
@[simp] theorem setQueue_rm (q : Nat) (r : Queue) (s : State) : (setQueue q r s).rm = s.rm := rfl
@[simp] theorem setQueue_kv (q : Nat) (r : Queue) (s : State) : (setQueue q r s).kv = s.kv := rfl
@[simp] theorem setQueue_dm (q : Nat) (r : Queue) (s : State) : (setQueue q r s).dm = s.dm := rfl
@[simp] theorem setQueue_mem (q : Nat) (r : Queue) (s : State) : (setQueue q r s).mem = s.mem := rfl
@[simp] theorem setQueue_tl (q : Nat) (r : Queue) (s : State) : (setQueue q r s).tl = s.tl := rfl
@[simp] theorem setQueue_cv (q : Nat) (r : Queue) (s : State) : (setQueue q r s).cv = s.cv := rfl
@[simp] theorem setQueue_sn (q : Nat) (r : Queue) (s : State) : (setQueue q r s).sn = s.sn := rfl
@[simp] theorem setQueue_tr (q : Nat) (r : Queue) (s : State) : (setQueue q r s).tr = s.tr := rfl
@[simp] theorem setQueue_pk (q : Nat) (r : Queue) (s : State) : (setQueue q r s).pk = s.pk := rfl
@[simp] theorem setQueue_ck (q : Nat) (r : Queue) (s : State) : (setQueue q r s).ck = s.ck := rfl
@[simp] theorem setQueue_pw (q : Nat) (r : Queue) (s : State) : (setQueue q r s).pw = s.pw := rfl
@[simp] theorem setQueue_mg (q : Nat) (r : Queue) (s : State) : (setQueue q r s).mg = s.mg := rfl
@[simp] theorem setQueue_now (q : Nat) (r : Queue) (s : State) : (setQueue q r s).now = s.now := rfl
@[simp] theorem setQueue_freeTick (q : Nat) (r : Queue) (s : State) : (setQueue q r s).freeTick = s.freeTick := rfl
@[simp] theorem setQueue_held (q : Nat) (r : Queue) (s : State) : (setQueue q r s).held = s.held := rfl
@[simp] theorem setQueue_rd (q : Nat) (r : Queue) (s : State) : (setQueue q r s).rd = s.rd := rfl
@[simp] theorem setQueue_pending (q : Nat) (r : Queue) (s : State) : (setQueue q r s).pending = s.pending := rfl

/-! ### setRing -/

@[simp] theorem setRing_hp (n : Nat) (r : Ring) (s : State) : (setRing n r s).hp = s.hp := rfl
@[simp] theorem setRing_sf (n : Nat) (r : Ring) (s : State) : (setRing n r s).sf = s.sf := rfl
@[simp] theorem setRing_pp (n : Nat) (r : Ring) (s : State) : (setRing n r s).pp = s.pp := rfl
@[simp] theorem setRing_si (n : Nat) (r : Ring) (s : State) : (setRing n r s).si = s.si := rfl
@[simp] theorem setRing_rm (n : Nat) (r : Ring) (s : State) : (setRing n r s).rm = s.rm := rfl
@[simp] theorem setRing_kv (n : Nat) (r : Ring) (s : State) : (setRing n r s).kv = s.kv := rfl
@[simp] theorem setRing_dm (n : Nat) (r : Ring) (s : State) : (setRing n r s).dm = s.dm := rfl
@[simp] theorem setRing_mem (n : Nat) (r : Ring) (s : State) : (setRing n r s).mem = s.mem := rfl
@[simp] theorem setRing_tl (n : Nat) (r : Ring) (s : State) : (setRing n r s).tl = s.tl := rfl
@[simp] theorem setRing_cv (n : Nat) (r : Ring) (s : State) : (setRing n r s).cv = s.cv := rfl
@[simp] theorem setRing_sn (n : Nat) (r : Ring) (s : State) : (setRing n r s).sn = s.sn := rfl
@[simp] theorem setRing_tr (n : Nat) (r : Ring) (s : State) : (setRing n r s).tr = s.tr := rfl
@[simp] theorem setRing_pk (n : Nat) (r : Ring) (s : State) : (setRing n r s).pk = s.pk := rfl
@[simp] theorem setRing_ck (n : Nat) (r : Ring) (s : State) : (setRing n r s).ck = s.ck := rfl
@[simp] theorem setRing_pw (n : Nat) (r : Ring) (s : State) : (setRing n r s).pw = s.pw := rfl
@[simp] theorem setRing_mg (n : Nat) (r : Ring) (s : State) : (setRing n r s).mg = s.mg := rfl
@[simp] theorem setRing_now (n : Nat) (r : Ring) (s : State) : (setRing n r s).now = s.now := rfl
@[simp] theorem setRing_freeTick (n : Nat) (r : Ring) (s : State) : (setRing n r s).freeTick = s.freeTick := rfl
@[simp] theorem setRing_held (n : Nat) (r : Ring) (s : State) : (setRing n r s).held = s.held := rfl
@[simp] theorem setRing_rd (n : Nat) (r : Ring) (s : State) : (setRing n r s).rd = s.rd := rfl
@[simp] theorem setRing_pending (n : Nat) (r : Ring) (s : State) : (setRing n r s).pending = s.pending := rfl

/-! ### setDoor -/

@[simp] theorem setDoor_hp (d : Nat) (r : Door) (s : State) : (setDoor d r s).hp = s.hp := rfl
@[simp] theorem setDoor_dq (d : Nat) (r : Door) (s : State) : (setDoor d r s).dq = s.dq := rfl
@[simp] theorem setDoor_pp (d : Nat) (r : Door) (s : State) : (setDoor d r s).pp = s.pp := rfl
@[simp] theorem setDoor_si (d : Nat) (r : Door) (s : State) : (setDoor d r s).si = s.si := rfl
@[simp] theorem setDoor_rm (d : Nat) (r : Door) (s : State) : (setDoor d r s).rm = s.rm := rfl
@[simp] theorem setDoor_kv (d : Nat) (r : Door) (s : State) : (setDoor d r s).kv = s.kv := rfl
@[simp] theorem setDoor_dm (d : Nat) (r : Door) (s : State) : (setDoor d r s).dm = s.dm := rfl
@[simp] theorem setDoor_mem (d : Nat) (r : Door) (s : State) : (setDoor d r s).mem = s.mem := rfl
@[simp] theorem setDoor_tl (d : Nat) (r : Door) (s : State) : (setDoor d r s).tl = s.tl := rfl
@[simp] theorem setDoor_cv (d : Nat) (r : Door) (s : State) : (setDoor d r s).cv = s.cv := rfl
@[simp] theorem setDoor_sn (d : Nat) (r : Door) (s : State) : (setDoor d r s).sn = s.sn := rfl
@[simp] theorem setDoor_tr (d : Nat) (r : Door) (s : State) : (setDoor d r s).tr = s.tr := rfl
@[simp] theorem setDoor_pk (d : Nat) (r : Door) (s : State) : (setDoor d r s).pk = s.pk := rfl
@[simp] theorem setDoor_ck (d : Nat) (r : Door) (s : State) : (setDoor d r s).ck = s.ck := rfl
@[simp] theorem setDoor_pw (d : Nat) (r : Door) (s : State) : (setDoor d r s).pw = s.pw := rfl
@[simp] theorem setDoor_mg (d : Nat) (r : Door) (s : State) : (setDoor d r s).mg = s.mg := rfl
@[simp] theorem setDoor_now (d : Nat) (r : Door) (s : State) : (setDoor d r s).now = s.now := rfl
@[simp] theorem setDoor_freeTick (d : Nat) (r : Door) (s : State) : (setDoor d r s).freeTick = s.freeTick := rfl
@[simp] theorem setDoor_held (d : Nat) (r : Door) (s : State) : (setDoor d r s).held = s.held := rfl
@[simp] theorem setDoor_rd (d : Nat) (r : Door) (s : State) : (setDoor d r s).rd = s.rd := rfl
@[simp] theorem setDoor_pending (d : Nat) (r : Door) (s : State) : (setDoor d r s).pending = s.pending := rfl

/-! ### setPage -/

@[simp] theorem setPage_hp (p : Page) (s : State) : (setPage p s).hp = s.hp := rfl
@[simp] theorem setPage_dq (p : Page) (s : State) : (setPage p s).dq = s.dq := rfl
@[simp] theorem setPage_sf (p : Page) (s : State) : (setPage p s).sf = s.sf := rfl
@[simp] theorem setPage_si (p : Page) (s : State) : (setPage p s).si = s.si := rfl
@[simp] theorem setPage_rm (p : Page) (s : State) : (setPage p s).rm = s.rm := rfl
@[simp] theorem setPage_kv (p : Page) (s : State) : (setPage p s).kv = s.kv := rfl
@[simp] theorem setPage_dm (p : Page) (s : State) : (setPage p s).dm = s.dm := rfl
@[simp] theorem setPage_mem (p : Page) (s : State) : (setPage p s).mem = s.mem := rfl
@[simp] theorem setPage_tl (p : Page) (s : State) : (setPage p s).tl = s.tl := rfl
@[simp] theorem setPage_cv (p : Page) (s : State) : (setPage p s).cv = s.cv := rfl
@[simp] theorem setPage_sn (p : Page) (s : State) : (setPage p s).sn = s.sn := rfl
@[simp] theorem setPage_tr (p : Page) (s : State) : (setPage p s).tr = s.tr := rfl
@[simp] theorem setPage_pk (p : Page) (s : State) : (setPage p s).pk = s.pk := rfl
@[simp] theorem setPage_ck (p : Page) (s : State) : (setPage p s).ck = s.ck := rfl
@[simp] theorem setPage_pw (p : Page) (s : State) : (setPage p s).pw = s.pw := rfl
@[simp] theorem setPage_mg (p : Page) (s : State) : (setPage p s).mg = s.mg := rfl
@[simp] theorem setPage_now (p : Page) (s : State) : (setPage p s).now = s.now := rfl
@[simp] theorem setPage_freeTick (p : Page) (s : State) : (setPage p s).freeTick = s.freeTick := rfl
@[simp] theorem setPage_held (p : Page) (s : State) : (setPage p s).held = s.held := rfl
@[simp] theorem setPage_rd (p : Page) (s : State) : (setPage p s).rd = s.rd := rfl
@[simp] theorem setPage_pending (p : Page) (s : State) : (setPage p s).pending = s.pending := rfl

/-! ### setSeq -/

@[simp] theorem setSeq_hp (i : Nat) (e : SeqEntry) (s : State) : (setSeq i e s).hp = s.hp := rfl
@[simp] theorem setSeq_dq (i : Nat) (e : SeqEntry) (s : State) : (setSeq i e s).dq = s.dq := rfl
@[simp] theorem setSeq_sf (i : Nat) (e : SeqEntry) (s : State) : (setSeq i e s).sf = s.sf := rfl
@[simp] theorem setSeq_pp (i : Nat) (e : SeqEntry) (s : State) : (setSeq i e s).pp = s.pp := rfl
@[simp] theorem setSeq_si (i : Nat) (e : SeqEntry) (s : State) : (setSeq i e s).si = s.si := rfl
@[simp] theorem setSeq_rm (i : Nat) (e : SeqEntry) (s : State) : (setSeq i e s).rm = s.rm := rfl
@[simp] theorem setSeq_dm (i : Nat) (e : SeqEntry) (s : State) : (setSeq i e s).dm = s.dm := rfl
@[simp] theorem setSeq_mem (i : Nat) (e : SeqEntry) (s : State) : (setSeq i e s).mem = s.mem := rfl
@[simp] theorem setSeq_tl (i : Nat) (e : SeqEntry) (s : State) : (setSeq i e s).tl = s.tl := rfl
@[simp] theorem setSeq_cv (i : Nat) (e : SeqEntry) (s : State) : (setSeq i e s).cv = s.cv := rfl
@[simp] theorem setSeq_sn (i : Nat) (e : SeqEntry) (s : State) : (setSeq i e s).sn = s.sn := rfl
@[simp] theorem setSeq_tr (i : Nat) (e : SeqEntry) (s : State) : (setSeq i e s).tr = s.tr := rfl
@[simp] theorem setSeq_pk (i : Nat) (e : SeqEntry) (s : State) : (setSeq i e s).pk = s.pk := rfl
@[simp] theorem setSeq_ck (i : Nat) (e : SeqEntry) (s : State) : (setSeq i e s).ck = s.ck := rfl
@[simp] theorem setSeq_pw (i : Nat) (e : SeqEntry) (s : State) : (setSeq i e s).pw = s.pw := rfl
@[simp] theorem setSeq_mg (i : Nat) (e : SeqEntry) (s : State) : (setSeq i e s).mg = s.mg := rfl
@[simp] theorem setSeq_now (i : Nat) (e : SeqEntry) (s : State) : (setSeq i e s).now = s.now := rfl
@[simp] theorem setSeq_freeTick (i : Nat) (e : SeqEntry) (s : State) : (setSeq i e s).freeTick = s.freeTick := rfl
@[simp] theorem setSeq_held (i : Nat) (e : SeqEntry) (s : State) : (setSeq i e s).held = s.held := rfl
@[simp] theorem setSeq_rd (i : Nat) (e : SeqEntry) (s : State) : (setSeq i e s).rd = s.rd := rfl
@[simp] theorem setSeq_pending (i : Nat) (e : SeqEntry) (s : State) : (setSeq i e s).pending = s.pending := rfl

/-! ### setTab -/

@[simp] theorem setTab_hp (i : Nat) (x : PageTab) (s : State) : (setTab i x s).hp = s.hp := rfl
@[simp] theorem setTab_dq (i : Nat) (x : PageTab) (s : State) : (setTab i x s).dq = s.dq := rfl
@[simp] theorem setTab_sf (i : Nat) (x : PageTab) (s : State) : (setTab i x s).sf = s.sf := rfl
@[simp] theorem setTab_pp (i : Nat) (x : PageTab) (s : State) : (setTab i x s).pp = s.pp := rfl
@[simp] theorem setTab_si (i : Nat) (x : PageTab) (s : State) : (setTab i x s).si = s.si := rfl
@[simp] theorem setTab_rm (i : Nat) (x : PageTab) (s : State) : (setTab i x s).rm = s.rm := rfl
@[simp] theorem setTab_dm (i : Nat) (x : PageTab) (s : State) : (setTab i x s).dm = s.dm := rfl
@[simp] theorem setTab_mem (i : Nat) (x : PageTab) (s : State) : (setTab i x s).mem = s.mem := rfl
@[simp] theorem setTab_tl (i : Nat) (x : PageTab) (s : State) : (setTab i x s).tl = s.tl := rfl
@[simp] theorem setTab_cv (i : Nat) (x : PageTab) (s : State) : (setTab i x s).cv = s.cv := rfl
@[simp] theorem setTab_sn (i : Nat) (x : PageTab) (s : State) : (setTab i x s).sn = s.sn := rfl
@[simp] theorem setTab_tr (i : Nat) (x : PageTab) (s : State) : (setTab i x s).tr = s.tr := rfl
@[simp] theorem setTab_pk (i : Nat) (x : PageTab) (s : State) : (setTab i x s).pk = s.pk := rfl
@[simp] theorem setTab_ck (i : Nat) (x : PageTab) (s : State) : (setTab i x s).ck = s.ck := rfl
@[simp] theorem setTab_pw (i : Nat) (x : PageTab) (s : State) : (setTab i x s).pw = s.pw := rfl
@[simp] theorem setTab_mg (i : Nat) (x : PageTab) (s : State) : (setTab i x s).mg = s.mg := rfl
@[simp] theorem setTab_now (i : Nat) (x : PageTab) (s : State) : (setTab i x s).now = s.now := rfl
@[simp] theorem setTab_freeTick (i : Nat) (x : PageTab) (s : State) : (setTab i x s).freeTick = s.freeTick := rfl
@[simp] theorem setTab_held (i : Nat) (x : PageTab) (s : State) : (setTab i x s).held = s.held := rfl
@[simp] theorem setTab_rd (i : Nat) (x : PageTab) (s : State) : (setTab i x s).rd = s.rd := rfl
@[simp] theorem setTab_pending (i : Nat) (x : PageTab) (s : State) : (setTab i x s).pending = s.pending := rfl

/-! ### setCarSlot -/

@[simp] theorem setCarSlot_hp (k : Nat) (x : CarSlot) (s : State) : (setCarSlot k x s).hp = s.hp := rfl
@[simp] theorem setCarSlot_dq (k : Nat) (x : CarSlot) (s : State) : (setCarSlot k x s).dq = s.dq := rfl
@[simp] theorem setCarSlot_sf (k : Nat) (x : CarSlot) (s : State) : (setCarSlot k x s).sf = s.sf := rfl
@[simp] theorem setCarSlot_pp (k : Nat) (x : CarSlot) (s : State) : (setCarSlot k x s).pp = s.pp := rfl
@[simp] theorem setCarSlot_si (k : Nat) (x : CarSlot) (s : State) : (setCarSlot k x s).si = s.si := rfl
@[simp] theorem setCarSlot_rm (k : Nat) (x : CarSlot) (s : State) : (setCarSlot k x s).rm = s.rm := rfl
@[simp] theorem setCarSlot_dm (k : Nat) (x : CarSlot) (s : State) : (setCarSlot k x s).dm = s.dm := rfl
@[simp] theorem setCarSlot_mem (k : Nat) (x : CarSlot) (s : State) : (setCarSlot k x s).mem = s.mem := rfl
@[simp] theorem setCarSlot_tl (k : Nat) (x : CarSlot) (s : State) : (setCarSlot k x s).tl = s.tl := rfl
@[simp] theorem setCarSlot_cv (k : Nat) (x : CarSlot) (s : State) : (setCarSlot k x s).cv = s.cv := rfl
@[simp] theorem setCarSlot_sn (k : Nat) (x : CarSlot) (s : State) : (setCarSlot k x s).sn = s.sn := rfl
@[simp] theorem setCarSlot_tr (k : Nat) (x : CarSlot) (s : State) : (setCarSlot k x s).tr = s.tr := rfl
@[simp] theorem setCarSlot_pk (k : Nat) (x : CarSlot) (s : State) : (setCarSlot k x s).pk = s.pk := rfl
@[simp] theorem setCarSlot_ck (k : Nat) (x : CarSlot) (s : State) : (setCarSlot k x s).ck = s.ck := rfl
@[simp] theorem setCarSlot_pw (k : Nat) (x : CarSlot) (s : State) : (setCarSlot k x s).pw = s.pw := rfl
@[simp] theorem setCarSlot_mg (k : Nat) (x : CarSlot) (s : State) : (setCarSlot k x s).mg = s.mg := rfl
@[simp] theorem setCarSlot_now (k : Nat) (x : CarSlot) (s : State) : (setCarSlot k x s).now = s.now := rfl
@[simp] theorem setCarSlot_freeTick (k : Nat) (x : CarSlot) (s : State) : (setCarSlot k x s).freeTick = s.freeTick := rfl
@[simp] theorem setCarSlot_held (k : Nat) (x : CarSlot) (s : State) : (setCarSlot k x s).held = s.held := rfl
@[simp] theorem setCarSlot_rd (k : Nat) (x : CarSlot) (s : State) : (setCarSlot k x s).rd = s.rd := rfl
@[simp] theorem setCarSlot_pending (k : Nat) (x : CarSlot) (s : State) : (setCarSlot k x s).pending = s.pending := rfl

/-! ### kvCount -/

@[simp] theorem kvCount_hp (k n : Nat) (s : State) : (kvCount k n s).hp = s.hp := rfl
@[simp] theorem kvCount_dq (k n : Nat) (s : State) : (kvCount k n s).dq = s.dq := rfl
@[simp] theorem kvCount_sf (k n : Nat) (s : State) : (kvCount k n s).sf = s.sf := rfl
@[simp] theorem kvCount_pp (k n : Nat) (s : State) : (kvCount k n s).pp = s.pp := rfl
@[simp] theorem kvCount_si (k n : Nat) (s : State) : (kvCount k n s).si = s.si := rfl
@[simp] theorem kvCount_rm (k n : Nat) (s : State) : (kvCount k n s).rm = s.rm := rfl
@[simp] theorem kvCount_dm (k n : Nat) (s : State) : (kvCount k n s).dm = s.dm := rfl
@[simp] theorem kvCount_mem (k n : Nat) (s : State) : (kvCount k n s).mem = s.mem := rfl
@[simp] theorem kvCount_tl (k n : Nat) (s : State) : (kvCount k n s).tl = s.tl := rfl
@[simp] theorem kvCount_cv (k n : Nat) (s : State) : (kvCount k n s).cv = s.cv := rfl
@[simp] theorem kvCount_sn (k n : Nat) (s : State) : (kvCount k n s).sn = s.sn := rfl
@[simp] theorem kvCount_tr (k n : Nat) (s : State) : (kvCount k n s).tr = s.tr := rfl
@[simp] theorem kvCount_pk (k n : Nat) (s : State) : (kvCount k n s).pk = s.pk := rfl
@[simp] theorem kvCount_ck (k n : Nat) (s : State) : (kvCount k n s).ck = s.ck := rfl
@[simp] theorem kvCount_pw (k n : Nat) (s : State) : (kvCount k n s).pw = s.pw := rfl
@[simp] theorem kvCount_mg (k n : Nat) (s : State) : (kvCount k n s).mg = s.mg := rfl
@[simp] theorem kvCount_now (k n : Nat) (s : State) : (kvCount k n s).now = s.now := rfl
@[simp] theorem kvCount_freeTick (k n : Nat) (s : State) : (kvCount k n s).freeTick = s.freeTick := rfl
@[simp] theorem kvCount_held (k n : Nat) (s : State) : (kvCount k n s).held = s.held := rfl
@[simp] theorem kvCount_rd (k n : Nat) (s : State) : (kvCount k n s).rd = s.rd := rfl
@[simp] theorem kvCount_pending (k n : Nat) (s : State) : (kvCount k n s).pending = s.pending := rfl

/-! ### snCount -/

@[simp] theorem snCount_hp (k n : Nat) (s : State) : (snCount k n s).hp = s.hp := rfl
@[simp] theorem snCount_dq (k n : Nat) (s : State) : (snCount k n s).dq = s.dq := rfl
@[simp] theorem snCount_sf (k n : Nat) (s : State) : (snCount k n s).sf = s.sf := rfl
@[simp] theorem snCount_pp (k n : Nat) (s : State) : (snCount k n s).pp = s.pp := rfl
@[simp] theorem snCount_si (k n : Nat) (s : State) : (snCount k n s).si = s.si := rfl
@[simp] theorem snCount_rm (k n : Nat) (s : State) : (snCount k n s).rm = s.rm := rfl
@[simp] theorem snCount_kv (k n : Nat) (s : State) : (snCount k n s).kv = s.kv := rfl
@[simp] theorem snCount_dm (k n : Nat) (s : State) : (snCount k n s).dm = s.dm := rfl
@[simp] theorem snCount_mem (k n : Nat) (s : State) : (snCount k n s).mem = s.mem := rfl
@[simp] theorem snCount_tl (k n : Nat) (s : State) : (snCount k n s).tl = s.tl := rfl
@[simp] theorem snCount_cv (k n : Nat) (s : State) : (snCount k n s).cv = s.cv := rfl
@[simp] theorem snCount_tr (k n : Nat) (s : State) : (snCount k n s).tr = s.tr := rfl
@[simp] theorem snCount_pk (k n : Nat) (s : State) : (snCount k n s).pk = s.pk := rfl
@[simp] theorem snCount_ck (k n : Nat) (s : State) : (snCount k n s).ck = s.ck := rfl
@[simp] theorem snCount_pw (k n : Nat) (s : State) : (snCount k n s).pw = s.pw := rfl
@[simp] theorem snCount_mg (k n : Nat) (s : State) : (snCount k n s).mg = s.mg := rfl
@[simp] theorem snCount_now (k n : Nat) (s : State) : (snCount k n s).now = s.now := rfl
@[simp] theorem snCount_freeTick (k n : Nat) (s : State) : (snCount k n s).freeTick = s.freeTick := rfl
@[simp] theorem snCount_held (k n : Nat) (s : State) : (snCount k n s).held = s.held := rfl
@[simp] theorem snCount_rd (k n : Nat) (s : State) : (snCount k n s).rd = s.rd := rfl
@[simp] theorem snCount_pending (k n : Nat) (s : State) : (snCount k n s).pending = s.pending := rfl

/-! ### setTok -/

@[simp] theorem setTok_hp (t : Nat) (r : Tok) (s : State) : (setTok t r s).hp = s.hp := rfl
@[simp] theorem setTok_dq (t : Nat) (r : Tok) (s : State) : (setTok t r s).dq = s.dq := rfl
@[simp] theorem setTok_sf (t : Nat) (r : Tok) (s : State) : (setTok t r s).sf = s.sf := rfl
@[simp] theorem setTok_pp (t : Nat) (r : Tok) (s : State) : (setTok t r s).pp = s.pp := rfl
@[simp] theorem setTok_si (t : Nat) (r : Tok) (s : State) : (setTok t r s).si = s.si := rfl
@[simp] theorem setTok_rm (t : Nat) (r : Tok) (s : State) : (setTok t r s).rm = s.rm := rfl
@[simp] theorem setTok_kv (t : Nat) (r : Tok) (s : State) : (setTok t r s).kv = s.kv := rfl
@[simp] theorem setTok_dm (t : Nat) (r : Tok) (s : State) : (setTok t r s).dm = s.dm := rfl
@[simp] theorem setTok_mem (t : Nat) (r : Tok) (s : State) : (setTok t r s).mem = s.mem := rfl
@[simp] theorem setTok_cv (t : Nat) (r : Tok) (s : State) : (setTok t r s).cv = s.cv := rfl
@[simp] theorem setTok_sn (t : Nat) (r : Tok) (s : State) : (setTok t r s).sn = s.sn := rfl
@[simp] theorem setTok_tr (t : Nat) (r : Tok) (s : State) : (setTok t r s).tr = s.tr := rfl
@[simp] theorem setTok_pk (t : Nat) (r : Tok) (s : State) : (setTok t r s).pk = s.pk := rfl
@[simp] theorem setTok_ck (t : Nat) (r : Tok) (s : State) : (setTok t r s).ck = s.ck := rfl
@[simp] theorem setTok_pw (t : Nat) (r : Tok) (s : State) : (setTok t r s).pw = s.pw := rfl
@[simp] theorem setTok_mg (t : Nat) (r : Tok) (s : State) : (setTok t r s).mg = s.mg := rfl
@[simp] theorem setTok_now (t : Nat) (r : Tok) (s : State) : (setTok t r s).now = s.now := rfl
@[simp] theorem setTok_freeTick (t : Nat) (r : Tok) (s : State) : (setTok t r s).freeTick = s.freeTick := rfl
@[simp] theorem setTok_held (t : Nat) (r : Tok) (s : State) : (setTok t r s).held = s.held := rfl
@[simp] theorem setTok_rd (t : Nat) (r : Tok) (s : State) : (setTok t r s).rd = s.rd := rfl
@[simp] theorem setTok_pending (t : Nat) (r : Tok) (s : State) : (setTok t r s).pending = s.pending := rfl

/-! ### setTile -/

@[simp] theorem setTile_hp (l : Nat) (x : Tile) (s : State) : (setTile l x s).hp = s.hp := rfl
@[simp] theorem setTile_dq (l : Nat) (x : Tile) (s : State) : (setTile l x s).dq = s.dq := rfl
@[simp] theorem setTile_sf (l : Nat) (x : Tile) (s : State) : (setTile l x s).sf = s.sf := rfl
@[simp] theorem setTile_pp (l : Nat) (x : Tile) (s : State) : (setTile l x s).pp = s.pp := rfl
@[simp] theorem setTile_si (l : Nat) (x : Tile) (s : State) : (setTile l x s).si = s.si := rfl
@[simp] theorem setTile_rm (l : Nat) (x : Tile) (s : State) : (setTile l x s).rm = s.rm := rfl
@[simp] theorem setTile_kv (l : Nat) (x : Tile) (s : State) : (setTile l x s).kv = s.kv := rfl
@[simp] theorem setTile_dm (l : Nat) (x : Tile) (s : State) : (setTile l x s).dm = s.dm := rfl
@[simp] theorem setTile_mem (l : Nat) (x : Tile) (s : State) : (setTile l x s).mem = s.mem := rfl
@[simp] theorem setTile_cv (l : Nat) (x : Tile) (s : State) : (setTile l x s).cv = s.cv := rfl
@[simp] theorem setTile_sn (l : Nat) (x : Tile) (s : State) : (setTile l x s).sn = s.sn := rfl
@[simp] theorem setTile_tr (l : Nat) (x : Tile) (s : State) : (setTile l x s).tr = s.tr := rfl
@[simp] theorem setTile_pk (l : Nat) (x : Tile) (s : State) : (setTile l x s).pk = s.pk := rfl
@[simp] theorem setTile_ck (l : Nat) (x : Tile) (s : State) : (setTile l x s).ck = s.ck := rfl
@[simp] theorem setTile_pw (l : Nat) (x : Tile) (s : State) : (setTile l x s).pw = s.pw := rfl
@[simp] theorem setTile_mg (l : Nat) (x : Tile) (s : State) : (setTile l x s).mg = s.mg := rfl
@[simp] theorem setTile_now (l : Nat) (x : Tile) (s : State) : (setTile l x s).now = s.now := rfl
@[simp] theorem setTile_freeTick (l : Nat) (x : Tile) (s : State) : (setTile l x s).freeTick = s.freeTick := rfl
@[simp] theorem setTile_held (l : Nat) (x : Tile) (s : State) : (setTile l x s).held = s.held := rfl
@[simp] theorem setTile_rd (l : Nat) (x : Tile) (s : State) : (setTile l x s).rd = s.rd := rfl
@[simp] theorem setTile_pending (l : Nat) (x : Tile) (s : State) : (setTile l x s).pending = s.pending := rfl

/-! ### setSched -/

@[simp] theorem setSched_hp (l : Nat) (x : TileSched) (s : State) : (setSched l x s).hp = s.hp := rfl
@[simp] theorem setSched_dq (l : Nat) (x : TileSched) (s : State) : (setSched l x s).dq = s.dq := rfl
@[simp] theorem setSched_sf (l : Nat) (x : TileSched) (s : State) : (setSched l x s).sf = s.sf := rfl
@[simp] theorem setSched_pp (l : Nat) (x : TileSched) (s : State) : (setSched l x s).pp = s.pp := rfl
@[simp] theorem setSched_si (l : Nat) (x : TileSched) (s : State) : (setSched l x s).si = s.si := rfl
@[simp] theorem setSched_kv (l : Nat) (x : TileSched) (s : State) : (setSched l x s).kv = s.kv := rfl
@[simp] theorem setSched_dm (l : Nat) (x : TileSched) (s : State) : (setSched l x s).dm = s.dm := rfl
@[simp] theorem setSched_mem (l : Nat) (x : TileSched) (s : State) : (setSched l x s).mem = s.mem := rfl
@[simp] theorem setSched_tl (l : Nat) (x : TileSched) (s : State) : (setSched l x s).tl = s.tl := rfl
@[simp] theorem setSched_cv (l : Nat) (x : TileSched) (s : State) : (setSched l x s).cv = s.cv := rfl
@[simp] theorem setSched_sn (l : Nat) (x : TileSched) (s : State) : (setSched l x s).sn = s.sn := rfl
@[simp] theorem setSched_tr (l : Nat) (x : TileSched) (s : State) : (setSched l x s).tr = s.tr := rfl
@[simp] theorem setSched_pk (l : Nat) (x : TileSched) (s : State) : (setSched l x s).pk = s.pk := rfl
@[simp] theorem setSched_ck (l : Nat) (x : TileSched) (s : State) : (setSched l x s).ck = s.ck := rfl
@[simp] theorem setSched_pw (l : Nat) (x : TileSched) (s : State) : (setSched l x s).pw = s.pw := rfl
@[simp] theorem setSched_mg (l : Nat) (x : TileSched) (s : State) : (setSched l x s).mg = s.mg := rfl
@[simp] theorem setSched_now (l : Nat) (x : TileSched) (s : State) : (setSched l x s).now = s.now := rfl
@[simp] theorem setSched_freeTick (l : Nat) (x : TileSched) (s : State) : (setSched l x s).freeTick = s.freeTick := rfl
@[simp] theorem setSched_held (l : Nat) (x : TileSched) (s : State) : (setSched l x s).held = s.held := rfl
@[simp] theorem setSched_rd (l : Nat) (x : TileSched) (s : State) : (setSched l x s).rd = s.rd := rfl
@[simp] theorem setSched_pending (l : Nat) (x : TileSched) (s : State) : (setSched l x s).pending = s.pending := rfl

/-! ### setEngine -/

@[simp] theorem setEngine_hp (e : Nat) (x : Engine) (s : State) : (setEngine e x s).hp = s.hp := rfl
@[simp] theorem setEngine_dq (e : Nat) (x : Engine) (s : State) : (setEngine e x s).dq = s.dq := rfl
@[simp] theorem setEngine_sf (e : Nat) (x : Engine) (s : State) : (setEngine e x s).sf = s.sf := rfl
@[simp] theorem setEngine_pp (e : Nat) (x : Engine) (s : State) : (setEngine e x s).pp = s.pp := rfl
@[simp] theorem setEngine_si (e : Nat) (x : Engine) (s : State) : (setEngine e x s).si = s.si := rfl
@[simp] theorem setEngine_kv (e : Nat) (x : Engine) (s : State) : (setEngine e x s).kv = s.kv := rfl
@[simp] theorem setEngine_dm (e : Nat) (x : Engine) (s : State) : (setEngine e x s).dm = s.dm := rfl
@[simp] theorem setEngine_mem (e : Nat) (x : Engine) (s : State) : (setEngine e x s).mem = s.mem := rfl
@[simp] theorem setEngine_tl (e : Nat) (x : Engine) (s : State) : (setEngine e x s).tl = s.tl := rfl
@[simp] theorem setEngine_cv (e : Nat) (x : Engine) (s : State) : (setEngine e x s).cv = s.cv := rfl
@[simp] theorem setEngine_sn (e : Nat) (x : Engine) (s : State) : (setEngine e x s).sn = s.sn := rfl
@[simp] theorem setEngine_tr (e : Nat) (x : Engine) (s : State) : (setEngine e x s).tr = s.tr := rfl
@[simp] theorem setEngine_pk (e : Nat) (x : Engine) (s : State) : (setEngine e x s).pk = s.pk := rfl
@[simp] theorem setEngine_ck (e : Nat) (x : Engine) (s : State) : (setEngine e x s).ck = s.ck := rfl
@[simp] theorem setEngine_pw (e : Nat) (x : Engine) (s : State) : (setEngine e x s).pw = s.pw := rfl
@[simp] theorem setEngine_mg (e : Nat) (x : Engine) (s : State) : (setEngine e x s).mg = s.mg := rfl
@[simp] theorem setEngine_now (e : Nat) (x : Engine) (s : State) : (setEngine e x s).now = s.now := rfl
@[simp] theorem setEngine_freeTick (e : Nat) (x : Engine) (s : State) : (setEngine e x s).freeTick = s.freeTick := rfl
@[simp] theorem setEngine_held (e : Nat) (x : Engine) (s : State) : (setEngine e x s).held = s.held := rfl
@[simp] theorem setEngine_rd (e : Nat) (x : Engine) (s : State) : (setEngine e x s).rd = s.rd := rfl
@[simp] theorem setEngine_pending (e : Nat) (x : Engine) (s : State) : (setEngine e x s).pending = s.pending := rfl

/-! ### setFlow -/

@[simp] theorem setFlow_hp (f : Nat) (x : Flow) (s : State) : (setFlow f x s).hp = s.hp := rfl
@[simp] theorem setFlow_dq (f : Nat) (x : Flow) (s : State) : (setFlow f x s).dq = s.dq := rfl
@[simp] theorem setFlow_sf (f : Nat) (x : Flow) (s : State) : (setFlow f x s).sf = s.sf := rfl
@[simp] theorem setFlow_pp (f : Nat) (x : Flow) (s : State) : (setFlow f x s).pp = s.pp := rfl
@[simp] theorem setFlow_si (f : Nat) (x : Flow) (s : State) : (setFlow f x s).si = s.si := rfl
@[simp] theorem setFlow_rm (f : Nat) (x : Flow) (s : State) : (setFlow f x s).rm = s.rm := rfl
@[simp] theorem setFlow_kv (f : Nat) (x : Flow) (s : State) : (setFlow f x s).kv = s.kv := rfl
@[simp] theorem setFlow_dm (f : Nat) (x : Flow) (s : State) : (setFlow f x s).dm = s.dm := rfl
@[simp] theorem setFlow_mem (f : Nat) (x : Flow) (s : State) : (setFlow f x s).mem = s.mem := rfl
@[simp] theorem setFlow_tl (f : Nat) (x : Flow) (s : State) : (setFlow f x s).tl = s.tl := rfl
@[simp] theorem setFlow_sn (f : Nat) (x : Flow) (s : State) : (setFlow f x s).sn = s.sn := rfl
@[simp] theorem setFlow_tr (f : Nat) (x : Flow) (s : State) : (setFlow f x s).tr = s.tr := rfl
@[simp] theorem setFlow_pk (f : Nat) (x : Flow) (s : State) : (setFlow f x s).pk = s.pk := rfl
@[simp] theorem setFlow_ck (f : Nat) (x : Flow) (s : State) : (setFlow f x s).ck = s.ck := rfl
@[simp] theorem setFlow_pw (f : Nat) (x : Flow) (s : State) : (setFlow f x s).pw = s.pw := rfl
@[simp] theorem setFlow_mg (f : Nat) (x : Flow) (s : State) : (setFlow f x s).mg = s.mg := rfl
@[simp] theorem setFlow_now (f : Nat) (x : Flow) (s : State) : (setFlow f x s).now = s.now := rfl
@[simp] theorem setFlow_freeTick (f : Nat) (x : Flow) (s : State) : (setFlow f x s).freeTick = s.freeTick := rfl
@[simp] theorem setFlow_held (f : Nat) (x : Flow) (s : State) : (setFlow f x s).held = s.held := rfl
@[simp] theorem setFlow_rd (f : Nat) (x : Flow) (s : State) : (setFlow f x s).rd = s.rd := rfl
@[simp] theorem setFlow_pending (f : Nat) (x : Flow) (s : State) : (setFlow f x s).pending = s.pending := rfl

/-! ### cvCount -/

@[simp] theorem cvCount_hp (k n : Nat) (s : State) : (cvCount k n s).hp = s.hp := rfl
@[simp] theorem cvCount_dq (k n : Nat) (s : State) : (cvCount k n s).dq = s.dq := rfl
@[simp] theorem cvCount_sf (k n : Nat) (s : State) : (cvCount k n s).sf = s.sf := rfl
@[simp] theorem cvCount_pp (k n : Nat) (s : State) : (cvCount k n s).pp = s.pp := rfl
@[simp] theorem cvCount_si (k n : Nat) (s : State) : (cvCount k n s).si = s.si := rfl
@[simp] theorem cvCount_rm (k n : Nat) (s : State) : (cvCount k n s).rm = s.rm := rfl
@[simp] theorem cvCount_kv (k n : Nat) (s : State) : (cvCount k n s).kv = s.kv := rfl
@[simp] theorem cvCount_dm (k n : Nat) (s : State) : (cvCount k n s).dm = s.dm := rfl
@[simp] theorem cvCount_mem (k n : Nat) (s : State) : (cvCount k n s).mem = s.mem := rfl
@[simp] theorem cvCount_tl (k n : Nat) (s : State) : (cvCount k n s).tl = s.tl := rfl
@[simp] theorem cvCount_sn (k n : Nat) (s : State) : (cvCount k n s).sn = s.sn := rfl
@[simp] theorem cvCount_tr (k n : Nat) (s : State) : (cvCount k n s).tr = s.tr := rfl
@[simp] theorem cvCount_pk (k n : Nat) (s : State) : (cvCount k n s).pk = s.pk := rfl
@[simp] theorem cvCount_ck (k n : Nat) (s : State) : (cvCount k n s).ck = s.ck := rfl
@[simp] theorem cvCount_pw (k n : Nat) (s : State) : (cvCount k n s).pw = s.pw := rfl
@[simp] theorem cvCount_mg (k n : Nat) (s : State) : (cvCount k n s).mg = s.mg := rfl
@[simp] theorem cvCount_now (k n : Nat) (s : State) : (cvCount k n s).now = s.now := rfl
@[simp] theorem cvCount_freeTick (k n : Nat) (s : State) : (cvCount k n s).freeTick = s.freeTick := rfl
@[simp] theorem cvCount_held (k n : Nat) (s : State) : (cvCount k n s).held = s.held := rfl
@[simp] theorem cvCount_rd (k n : Nat) (s : State) : (cvCount k n s).rd = s.rd := rfl
@[simp] theorem cvCount_pending (k n : Nat) (s : State) : (cvCount k n s).pending = s.pending := rfl

/-! ### setPhys -/

@[simp] theorem setPhys_hp (p st : Nat) (s : State) : (setPhys p st s).hp = s.hp := rfl
@[simp] theorem setPhys_dq (p st : Nat) (s : State) : (setPhys p st s).dq = s.dq := rfl
@[simp] theorem setPhys_sf (p st : Nat) (s : State) : (setPhys p st s).sf = s.sf := rfl
@[simp] theorem setPhys_pp (p st : Nat) (s : State) : (setPhys p st s).pp = s.pp := rfl
@[simp] theorem setPhys_si (p st : Nat) (s : State) : (setPhys p st s).si = s.si := rfl
@[simp] theorem setPhys_rm (p st : Nat) (s : State) : (setPhys p st s).rm = s.rm := rfl
@[simp] theorem setPhys_kv (p st : Nat) (s : State) : (setPhys p st s).kv = s.kv := rfl
@[simp] theorem setPhys_dm (p st : Nat) (s : State) : (setPhys p st s).dm = s.dm := rfl
@[simp] theorem setPhys_mem (p st : Nat) (s : State) : (setPhys p st s).mem = s.mem := rfl
@[simp] theorem setPhys_cv (p st : Nat) (s : State) : (setPhys p st s).cv = s.cv := rfl
@[simp] theorem setPhys_sn (p st : Nat) (s : State) : (setPhys p st s).sn = s.sn := rfl
@[simp] theorem setPhys_tr (p st : Nat) (s : State) : (setPhys p st s).tr = s.tr := rfl
@[simp] theorem setPhys_pk (p st : Nat) (s : State) : (setPhys p st s).pk = s.pk := rfl
@[simp] theorem setPhys_ck (p st : Nat) (s : State) : (setPhys p st s).ck = s.ck := rfl
@[simp] theorem setPhys_pw (p st : Nat) (s : State) : (setPhys p st s).pw = s.pw := rfl
@[simp] theorem setPhys_mg (p st : Nat) (s : State) : (setPhys p st s).mg = s.mg := rfl
@[simp] theorem setPhys_now (p st : Nat) (s : State) : (setPhys p st s).now = s.now := rfl
@[simp] theorem setPhys_freeTick (p st : Nat) (s : State) : (setPhys p st s).freeTick = s.freeTick := rfl
@[simp] theorem setPhys_held (p st : Nat) (s : State) : (setPhys p st s).held = s.held := rfl
@[simp] theorem setPhys_rd (p st : Nat) (s : State) : (setPhys p st s).rd = s.rd := rfl
@[simp] theorem setPhys_pending (p st : Nat) (s : State) : (setPhys p st s).pending = s.pending := rfl

/-! ### ckRefuse -/

@[simp] theorem ckRefuse_hp (c : Nat) (s : State) : (ckRefuse c s).hp = s.hp := rfl
@[simp] theorem ckRefuse_dq (c : Nat) (s : State) : (ckRefuse c s).dq = s.dq := rfl
@[simp] theorem ckRefuse_sf (c : Nat) (s : State) : (ckRefuse c s).sf = s.sf := rfl
@[simp] theorem ckRefuse_pp (c : Nat) (s : State) : (ckRefuse c s).pp = s.pp := rfl
@[simp] theorem ckRefuse_si (c : Nat) (s : State) : (ckRefuse c s).si = s.si := rfl
@[simp] theorem ckRefuse_rm (c : Nat) (s : State) : (ckRefuse c s).rm = s.rm := rfl
@[simp] theorem ckRefuse_kv (c : Nat) (s : State) : (ckRefuse c s).kv = s.kv := rfl
@[simp] theorem ckRefuse_dm (c : Nat) (s : State) : (ckRefuse c s).dm = s.dm := rfl
@[simp] theorem ckRefuse_mem (c : Nat) (s : State) : (ckRefuse c s).mem = s.mem := rfl
@[simp] theorem ckRefuse_tl (c : Nat) (s : State) : (ckRefuse c s).tl = s.tl := rfl
@[simp] theorem ckRefuse_cv (c : Nat) (s : State) : (ckRefuse c s).cv = s.cv := rfl
@[simp] theorem ckRefuse_sn (c : Nat) (s : State) : (ckRefuse c s).sn = s.sn := rfl
@[simp] theorem ckRefuse_tr (c : Nat) (s : State) : (ckRefuse c s).tr = s.tr := rfl
@[simp] theorem ckRefuse_pk (c : Nat) (s : State) : (ckRefuse c s).pk = s.pk := rfl
@[simp] theorem ckRefuse_pw (c : Nat) (s : State) : (ckRefuse c s).pw = s.pw := rfl
@[simp] theorem ckRefuse_mg (c : Nat) (s : State) : (ckRefuse c s).mg = s.mg := rfl
@[simp] theorem ckRefuse_now (c : Nat) (s : State) : (ckRefuse c s).now = s.now := rfl
@[simp] theorem ckRefuse_freeTick (c : Nat) (s : State) : (ckRefuse c s).freeTick = s.freeTick := rfl
@[simp] theorem ckRefuse_held (c : Nat) (s : State) : (ckRefuse c s).held = s.held := rfl
@[simp] theorem ckRefuse_rd (c : Nat) (s : State) : (ckRefuse c s).rd = s.rd := rfl
@[simp] theorem ckRefuse_pending (c : Nat) (s : State) : (ckRefuse c s).pending = s.pending := rfl

/-! ### Values set -/

@[simp] theorem wdisc_count (s : State) : (wdisc s).hp.wdisc = satAdd s.hp.wdisc 1 := rfl
@[simp] theorem rzero_count (s : State) : (rzero s).hp.rzero = satAdd s.hp.rzero 1 := rfl
@[simp] theorem mgErr_count (s : State) : (mgErr s).mg.err = satAdd s.mg.err 1 := rfl
@[simp] theorem alert_stat (i : Nat) (s : State) : (alert i s).hp.alertStat = s.hp.alertStat ||| maskOf i 1 := rfl
@[simp] theorem alert_slots (i : Nat) (s : State) : (alert i s).hp.slots = s.hp.slots := rfl
@[simp] theorem setQueue_queues (q : Nat) (r : Queue) (s : State) : (setQueue q r s).dq.queues = tabSet s.dq.queues q r := rfl
@[simp] theorem setRing_rings (n : Nat) (r : Ring) (s : State) : (setRing n r s).dq.rings = tabSet s.dq.rings n r := rfl
@[simp] theorem setTile_tiles (l : Nat) (x : Tile) (s : State) : (setTile l x s).tl.tiles = tabSet s.tl.tiles l x := rfl
@[simp] theorem setTok_toks (t : Nat) (r : Tok) (s : State) : (setTok t r s).tl.toks = tabSet s.tl.toks t r := rfl
@[simp] theorem setPage_pages (p : Page) (s : State) : (setPage p s).pp.pages = tabSet s.pp.pages p.id.toNat p := rfl
@[simp] theorem setSeq_seqs (i : Nat) (e : SeqEntry) (s : State) : (setSeq i e s).kv.seqs = tabSet s.kv.seqs i e := rfl
@[simp] theorem setTab_tabs (i : Nat) (x : PageTab) (s : State) : (setTab i x s).kv.tabs = tabSet s.kv.tabs i x := rfl
@[simp] theorem setFlow_flows (f : Nat) (x : Flow) (s : State) : (setFlow f x s).cv.flows = tabSet s.cv.flows f x := rfl
@[simp] theorem setSlot_slots (k : Nat) (r : StageSlot) (s : State) : (setSlot k r s).hp.slots = tabSet s.hp.slots k r := rfl

end Sys2Proof.Machine
end

