-- ==== Sys2Proof/Laws/Tab.lean ====
section
/-! SUPPORT. Laws of sparse tables: what an entry reads as after another is set or taken away. -/

namespace Sys2Proof.Machine

@[simp] theorem tabGet_tabSet_self {α : Type} (t : List (Nat × α)) (k : Nat) (v d : α) : tabGet (tabSet t k v) k d = v := by
  induction t with
  | nil => simp [tabSet, tabGet]
  | cons e r ih =>
    obtain ⟨i, w⟩ := e
    simp only [tabSet]
    split
    · simp [tabGet]
    · split
      · simp [tabGet]
      · simp [tabGet, *]

theorem tabGet_tabSet_ne {α : Type} (t : List (Nat × α)) (k j : Nat) (v d : α) (h : j ≠ k) : tabGet (tabSet t k v) j d = tabGet t j d := by
  induction t with
  | nil => simp [tabSet, tabGet, Ne.symm h]
  | cons e r ih =>
    obtain ⟨i, w⟩ := e
    simp only [tabSet]
    split
    · rename_i hi; subst hi; simp [tabGet, Ne.symm h]
    · split
      · simp [tabGet, Ne.symm h]
      · by_cases hj : i = j
        · simp [tabGet, hj]
        · simp [tabGet, hj, ih]

theorem tabGet_tabSet {α : Type} (t : List (Nat × α)) (k j : Nat) (v d : α) :
    tabGet (tabSet t k v) j d = if j = k then v else tabGet t j d := by
  split
  · rename_i h; subst h; simp
  · rename_i h; exact tabGet_tabSet_ne t k j v d h

/-- The value that a lookup by key finds is the one that was set. -/
@[simp] theorem find_tabSet_self {α : Type} (t : List (Nat × α)) (k : Nat) (v : α) :
    (tabSet t k v).find? (fun e => e.1 == k) = some (k, v) := by
  induction t with
  | nil => simp [tabSet]
  | cons e r ih =>
    obtain ⟨i, w⟩ := e
    simp only [tabSet]
    split
    · simp
    · split
      · simp
      · rename_i h _; simp [List.find?, beq_eq_false_iff_ne.mpr h, ih]

theorem find_tabSet_ne {α : Type} (t : List (Nat × α)) (k j : Nat) (v : α) (h : j ≠ k) :
    (tabSet t k v).find? (fun e => e.1 == j) = t.find? (fun e => e.1 == j) := by
  induction t with
  | nil => simp [tabSet, Ne.symm h]
  | cons e r ih =>
    obtain ⟨i, w⟩ := e
    simp only [tabSet]
    split
    · rename_i hi; subst hi; simp [List.find?, beq_eq_false_iff_ne.mpr (Ne.symm h)]
    · split
      · simp [List.find?, beq_eq_false_iff_ne.mpr (Ne.symm h)]
      · by_cases hj : i = j
        · simp [List.find?, hj]
        · simp [List.find?, beq_eq_false_iff_ne.mpr hj, ih]

theorem all_tabSet {α : Type} (p : Nat × α → Bool) (t : List (Nat × α)) (k : Nat) (v : α) (ht : t.all p = true) (hv : p (k, v) = true) :
    (tabSet t k v).all p = true := by
  induction t with
  | nil => simp [tabSet, hv]
  | cons e r ih =>
    obtain ⟨i, w⟩ := e
    simp only [List.all_cons, Bool.and_eq_true] at ht
    simp only [tabSet]
    split
    · simp [hv, ht.2]
    · split
      · simp [hv, ht.1, ht.2]
      · simp only [List.all_cons, Bool.and_eq_true]; exact ⟨ht.1, ih ht.2⟩

end Sys2Proof.Machine
end

