-- ==== Sys2Proof/Tests/Slice0.lean ====
section
/-! SUPPORT. Tests of the model on small states: ill-formed commands that the checks refuse, single steps whose results the manual gives, and for
every statement states that meet its hypotheses. -/

namespace Sys2Proof.Machine

/-- The device out of reset with its window locked and boot done. -/
def tState : State :=
  { State.reset with
    pw := { State.reset.pw with porst := false, mode := modeRun }
    hp := { State.reset.hp with cfg := 0x80000000 }
    tr := { State.reset.tr with boot := 0x900 } }

theorem wit_live : Live tState := by decide

/-- A queue record in a state. -/
def tQueue (st : QState) : Queue :=
  { st := st, gen := 2, door := 0, part := 0, sel := 0, ring := 0, cls := 0, crBase := 0x08000000, crLog := 0, seq0 := 5, drainMs := 500, quota := 100, lines := 0,
    c := 5, t := 4, marks := [], stopped := false, retryAt := 0, rseq := 0, holdSince := 0, cur := none, items := [], missed := 0, lastPage := none, prev := [] }
/-- The test state with one queue, number 7. -/
def tQ (x : Queue) : State := { tState with dq := { tState.dq with queues := [(7, x)] } }
/-- A configuration with one partition of one tile and a class that no stage serves but a route. -/
def tConf : ImgConf :=
  { ImgConf.none with
    parts := [(0, { tiles := 1, pixq := 1000, slice := 1, share := 1, dramBase := 0, dramSize := 0, stgBase := (0, 0), stgSize := (0, 0) })]
    classes := [{ cls := 0, part := 0, prio := 1, deadline := 200, batch := 4, dec := 0, reach := 0, fallback := 0, dramShare := 0, ppA := 0x80008000FF00012C,
                  ppB := 0x100020100010001D, tpls := [] }] }
/-- The test state with that configuration. -/
def tCfg : State := { tState with si := { tState.si with conf := tConf } }
/-- A page of queue 7 in a stage. -/
def tPage (st : PStage) : Page :=
  { id := 1, queue := 7, door := 0, cseq := 4, cls := 0, part := 0, ppA := 0x80008000FF00012C, ppB := 0x100020100010001D, deadline := 200000000, start := none,
    prof := none, batchStart := false, before := none, sfRegs := [], claim := ⟨0, 0x08000000, 64, 64, 1, 0, 300⟩, frame := none, raw := [], buf := [], data := [], dataEnd := true,
    pair := none, trunc := false, retried := false, stripes := 0, bgStripes := 0, prep := none, found := [], regions := [], fellBack := false, rows := 0,
    segsLeft := 0, segEnds := [], stage := st, resvBuf := 0, resvPrep := 0, resvRec := 0, drawn := 0 }
/-- Decoder 0 of partition 0 with sequences 0 and 8191, in a state, and its step open or not. -/
def tDec (st : SeqState) (o : Bool) : State :=
  let e : SeqEntry := { SeqEntry.init with st := st, n := 64, page := 1 }
  { tCfg with
    si := { tCfg.si with conf := { tConf with
      decs := [⟨0, 0, 2, 2, 1, 0x3F800000, 4⟩], pools := [(0, ⟨4, 2, (2, 2), 0, 8192⟩)],
      parts := [(0, { tiles := 1, pixq := 1000, slice := 1, share := 1, dramBase := 0, dramSize := 1, stgBase := (0, 0), stgSize := (1, 1) })] } }
    kv := { tCfg.kv with seqs := [(0, e), (8191, { e with table := 8192 })], steps := [⟨0, 0, o, if o then [(0, 0), (8191, 8192)] else [], none⟩] } }

/-! ### IdleStepTicks -/

theorem wit_IdleStepTicks : tState.pending = [] ∧ Live tState ∧ State.reset.pending = [] := by decide
theorem wit_IdleStepTicks_held : { tState with pw := { tState.pw with tripped := true } }.pw.tripped = true ∧
    inReset { tState with pw := { tState.pw with porst := true } } = true := by decide
/-- A command of queue 7 waits. -/
theorem wit_IdleStepTicks_wait : let s := { tQ (tQueue .opened) with rm := { tState.rm with ready := [(⟨0, 0, some 7, none, 1, 0, [], []⟩, 0)] } }
    waitingOf s 7 = 1 ∧ queue? s 7 = some (tQueue .opened) ∧ s.dq.queues.Pairwise (fun a b => a.1 ≠ b.1) := by decide

/-! ### ThermtripStopsEveryCommand -/

theorem wit_ThermtripStopsEveryCommand : { tState with pw := { tState.pw with tripped := true } }.pw.tripped = true ∧
    (Instr.rstdaa : Instr) ≠ .powerOnReset := by decide

/-! ### ResetHoldsTheDevice -/

theorem wit_ResetHoldsTheDevice : let s : State := { tState with pw := { tState.pw with porst := true }, pending := [.rstdaa, .hostPortReset] }
    (∀ c ∈ s.pending, actsInReset c = false) ∧ s.pw.tripped = false ∧ inReset s = true := by decide

/-! ### ModeRegisterWrites -/

theorem wit_ModeRegisterWrites : Live tState ∧ mrRw (2 : BitVec 7).toNat = true ∧ mrRw (127 : BitVec 7).toNat = false ∧
    mrStored 18 0xFF ≠ 0xFF ∧ mrStored 34 0xFF = 0xFF := by decide

/-! ### TrainingIdleAndZq -/

theorem wit_TrainingIdleAndZq : Live tState ∧ fld tState.hp.train (8 * 3 + 1) 3 = 0 ∧ fld tState.hp.train (8 * 3 + 2) 2 = 0 ∧
    fld tState.hp.train (8 * 3 + 3) 1 = 0 ∧
    (List.range 4).all (fun k => inStep { tState with hp := { tState.hp with training := 8, trainOf := [(3, k)] } } (3 : BitVec 2).toNat k) = true ∧
    inStep tState 3 0 = false := by decide
theorem wit_TrainingIdleAndZq_idle : Live tState ∧ { tState.hp with idle := none }.idle = none ∧ tState.pw.mode = modeRun ∧
    { tState.hp with idle := some IdleMode.selfRefresh }.idle.isSome = true := by decide

/-! ### HostPortBackground -/

/-- A live state in which the channel trains, so that the reset has something to clear. -/
theorem wit_HostPortBackground : let s : State := { tState with hp := { tState.hp with training := 5, train := 3 } }
    Live s ∧ (hostPortReset s).hp.train ≠ s.hp.train ∧ (hostPortReset s).hp.training ≠ s.hp.training := by decide

/-! ### StagedWindowWrites -/

/-- A locked state with DRAM region 1 backed and one queue's extent over its start. -/
def tBurst : Burst := ⟨⟨0, 0, 0x400, 0⟩, List.replicate 64 1, List.replicate 64 true⟩
theorem wit_StagedWindowWrites : Live tState ∧ locked tState = true ∧ received tState tBurst = tBurst ∧ tState.hp.training.getLsbD tBurst.addr.ch.toNat = false ∧
    busWindow tState tBurst.addr - busWindow tState tBurst.addr % 64 = 0x08000000 ∧ 0x08000000 < swLimit tState ∧
    creditLeft tState ≠ 0 ∧ creditLeft { tState with hp := { tState.hp with used := 0x10000 } } = 0 ∧
    swLimit { tState with hp := { tState.hp with limit := 32 } } ≤ 0x08000000 := by decide

/-! ### CombiningDrains -/

theorem wit_CombiningDrains : let s : State := { tState with hp := { tState.hp with comb := [⟨0x8000, 0, [(3, 7)], 1⟩] } }
    Live s ∧ s.pw.mode = modeRun ∧ s.hp.comb.find? (fun x => x.block == 0x8000) = some ⟨0x8000, 0, [(3, 7)], 1⟩ ∧ oldestOn s 0x8000 = true ∧
    s.dm.damage = [] ∧ Memory.wf s.mem.dram = true ∧ [((3 : Nat), (7 : Byte))].Pairwise (fun a b => a.1 < b.1) ∧ oldestOn s 0x8001 = false := by decide

/-! ### StageRequests -/

theorem wit_StageRequests : let w : RegWr := ⟨.host, 0x1001, 255⟩
    let s : State := { tState with hp := { tState.hp with stageQ := [0], slots := [(0, { StageSlot.init with stat := stageStat 0 0 1, len := 64 })] } }
    Live s ∧ locked s = true ∧ s.pw.mode = modeRun ∧ w.src = .host ∧ bitOf (w.data &&& enMask w.be) 12 = true ∧
    slotBusy (stageSlot s 0) = true ∧ slotBusy (stageSlot s 55) = false ∧ s.hp.stageQ.head? = some 0 ∧ s.hp.stageQ.head? ≠ some 1 ∧ s.hp.comb = [] := by decide

/-! ### HostReadsByArea -/

/-- A state whose HP0 answers at the read latency of 9 nCK. -/
def tRl : State := { tState with hp := { tState.hp with mrs := [(2, 5)] } }
theorem wit_HostReadsByArea : Live tRl ∧ minRl .r3200 ≤ readLatency tRl 0 ∧ readLatency tState 0 < minRl .r3200 ∧
    areaOf (busWindow tRl ⟨0, 1, 0, 0x480⟩ - busWindow tRl ⟨0, 1, 0, 0x480⟩ % 64) = .probe ∧ locked tRl = true ∧
    areaOf (busWindow tRl ⟨0, 0, 0, 0⟩) = .doorbell ∧ areaOf 0xFFFFFFC0 = .staged ∧ areaOf 0x1FFFFFFC0 = .remainder ∧
    areaOf 0x10E00 = .reserved ∧ areaOf 0x10FFFC0 = .text ∧ damageIn tRl .aperture 0 0x900000 64 = [] := by decide

/-! ### RegisterAccess -/

theorem wit_RegisterAccess : Live tState ∧ tState.pw.mode = modeRun ∧ locked tState = true ∧
    locked { tState with hp := { tState.hp with cfg := 0 } } = false ∧ (0x80 : BitVec 8) ≠ 0 ∧
    (regRead (0x4007 / 8 * 8) tState).isSome = true ∧ (regRead 0x4070 tState).isSome = false ∧
    (regPut .mgmt 0x4060 1 255 tState).isSome = true ∧ (regPut .mgmt 0x4070 1 255 tState).isSome = false := by decide
/-- A burst to every area of the window that REGISTER_WRITE reaches. -/
theorem wit_RegisterAccess_burst : let at' := fun (c : BitVec 2) (col : BitVec 11) (row : BitVec 16) => (⟨c, 0, row, col⟩ : BusAddr)
    received tState tBurst = tBurst ∧ areaOf (busWindow tState (at' 0 0x0 0)) = .doorbell ∧
    (List.range 32).all (fun k => tState.hp.training.getLsbD k = false) = true ∧ areaOf 0x4000 = .regs ∧ areaOf 0xFFC0 = .regs ∧
    areaOf 0x1100000 = .carousel ∧ areaOf 0x18FFFC0 = .carousel ∧ areaOf 0x2000 = .status ∧ areaOf 0x3FC0 = .probe ∧ areaOf 0x10E00 = .reserved ∧
    areaOf 0x100000 = .rings ∧ areaOf 0x900000 = .text ∧ areaOf 0x1FFFFC0 = .stageBuf ∧ areaOf 0x100000000 = .remainder ∧
    Memory.wf tState.mem.ap = true := by decide

/-! ### MailboxQueryAndClose -/

theorem wit_MailboxQueryAndClose : let r : MboxRec := ⟨0, 9, 0, 0, [7]⟩
    let s := tQ (tQueue .opened)
    Live s ∧ locked s = true ∧ s.pw.mode ≠ modeLeaving ∧ s.pw.mode ≠ modeDeep ∧ swapping s = false ∧ s.dq.busy = none ∧ r.rsv0 = 0 ∧ r.rsvHi = 0 ∧
    r.rsvLo = 0 ∧ (∀ k < 14, nth r.args k 0 = if k = 0 then BitVec.ofNat 64 7 else 0) ∧ qstate s 7 = .opened ∧ qstate s 8 = .closed := by decide
theorem wit_MailboxQueryAndClose_last : let r : MboxRec := ⟨0, 9, 0, 0, [0xFFFF]⟩
    (∀ k < 14, nth r.args k 0 = if k = 0 then BitVec.ofNat 64 65535 else 0) ∧ qstate tState 65535 = .closed := by decide

/-! ### MailboxOpen -/

theorem wit_MailboxOpen : let r : MboxRec := ⟨0, 9, 0, 0, [0x00200007, 0x08000000, 5, 100]⟩
    Live tCfg ∧ locked tCfg = true ∧ tCfg.pw.mode ≠ modeLeaving ∧ tCfg.pw.mode ≠ modeDeep ∧ swapping tCfg = false ∧ tCfg.dq.busy = none ∧
    reqReserved (mboxTaken 1 r tCfg) 1 = false ∧ openCheck (mboxTaken 1 r tCfg) = 0 ∧ loading tCfg 0 = false ∧
    reqReserved (mboxTaken 1 { r with rsvLo := 1 } tCfg) 1 = true := by decide

/-! ### MailboxResume -/

theorem wit_MailboxResume : let r : MboxRec := ⟨0, 9, 0, 0, [7]⟩
    let s := tQ (tQueue .creditViol)
    Live s ∧ locked s = true ∧ s.pw.mode ≠ modeLeaving ∧ s.pw.mode ≠ modeDeep ∧ swapping s = false ∧ s.dq.busy = none ∧
    reqReserved (mboxTaken 4 r s) 4 = false ∧ fld (nth r.args 0 0) 0 16 = 7 ∧ queue? s 7 = some (tQueue .creditViol) ∧ loading s 0 = false ∧
    queue? (tQ (tQueue .opened)) 7 = some (tQueue .opened) := by decide

/-! ### QueueLifeEvents -/

theorem wit_QueueLifeEvents : let s := tQ (tQueue .closing)
    Live s ∧ queue? s (7 : BitVec 16).toNat = some (tQueue .closing) ∧ drained s 7 (tQueue .closing) = true ∧
    (let h : Queue := { tQueue .hold with drainMs := 0 }
     (tQueue .hold).st = .hold ∧ h.holdSince.toNat + h.drainMs * 1000000 ≤ tState.now.toNat ∧
     tState.now.toNat < (tQueue .hold).holdSince.toNat + (tQueue .hold).drainMs * 1000000) := by decide

/-! ### Doorbells -/

theorem wit_Doorbells : let s := tQ (tQueue .opened)
    Live s ∧ locked s = true ∧ s.pw.mode ≠ modeLeaving ∧ s.pw.mode ≠ modeDeep ∧ queue? s (7 : BitVec 16).toNat = some (tQueue .opened) ∧
    (tQueue .opened).st.rings = true ∧ seqLater 4 (tQueue .opened).t = false ∧ seqLater 20 (tQueue .opened).t = true ∧
    seqDist 20 (tQueue .opened).c < ringSize (tQueue .opened) ∧ ringSize (tQueue .opened) ≤ seqDist 21 (tQueue .opened).c ∧
    (qstate s (8 : BitVec 16).toNat).rings = false ∧ 256 ≤ (256 : BitVec 16).toNat ∧ 2 ≤ fld 0x80000000 30 2 := by decide

/-! ### RingConsumed -/

theorem wit_RingConsumed : let s : State := { tState with dq := { tState.dq with rings := [(255, { Ring.init with p := 3 })] } }
    Live s ∧ locked s = true ∧ s.pw.mode ≠ modeLeaving ∧ s.pw.mode ≠ modeDeep ∧ (255 : BitVec 16).toNat < 256 ∧
    seqLater 3 (ring s 255).c = true ∧ seqLater 3 (ring s 255).p = false ∧ seqLater 4 (ring s 255).p = true ∧ seqLater 0 (ring s 255).c = false := by decide

/-! ### CommandFetched -/

/-- The test state with queue 7 open and one descriptor of an opcode in its ring's slot 5, SEQ and QUEUE given. -/
def tRing (op : Byte) (seq q : Byte) : State :=
  let s := tQ { tQueue .opened with t := 5 }
  { s with mem := { s.mem with dram := Memory.writeBytes s.mem.dram (swDev s 0x08000280) [op, 0, q, 0, 0, 0, 0, 0, seq] } }
theorem wit_CommandFetched : let r : Queue := { tQueue .opened with t := 5 }
    Live (tRing 0 5 7) ∧ queue? (tRing 0 5 7) (7 : BitVec 16).toNat = some r ∧ r.st.rings = true ∧ nextRec r = none ∧ r.stopped = false ∧ r.cur = none ∧
    r.door ≠ 3 ∧ seqLater r.c r.t = false := by decide
theorem wit_CommandFetched_desc : let r : Queue := { tQueue .opened with t := 5 }
    leAt (fetchDesc (tRing 0 5 7) r) 8 4 = r.c.toNat ∧ leAt (fetchDesc (tRing 0 5 7) r) 2 2 = 7 ∧ leAt (fetchDesc (tRing 0 6 7) r) 8 4 ≠ r.c.toNat ∧
    opValid r (descOp (fetchDesc (tRing 6 5 7) r)) = false ∧ opValid r (descOp (fetchDesc (tRing 0 5 7) r)) = true := by decide +kernel

/-! ### SimpleQueueCommands -/

theorem wit_SimpleQueueCommands : let c : Cmd := ⟨[0], none, 4, 0, none, Resv.none⟩
    let f : OutItem := { cmdItem 4 0 false with fence := true }
    Live (tQ { tQueue .opened with cur := some c }) ∧ (current (tQ { tQueue .opened with cur := some c }) (7 : BitVec 16).toNat 0).isSome = true ∧
    (current (tQ { tQueue .opened with cur := some ⟨[2], none, 4, 0, none, Resv.none⟩ }) (7 : BitVec 16).toNat 2).isSome = true ∧
    (queue? (tQ { tQueue .opened with items := [f] }) (7 : BitVec 16).toNat).map (·.items) = some ([] ++ f :: []) := by decide

/-! ### RecordsGoOut -/

/-- A queue with one command record ready. -/
def tReady : Queue := { tQueue .opened with items :=
  [cmdItem 4 0 true] }
theorem wit_RecordsGoOut : Live (tQ tReady) ∧ queue? (tQ tReady) (7 : BitVec 16).toNat = some tReady ∧ tReady.door ≠ 3 ∧ tReady.ring < 256 ∧
    (nextRec tReady).map (·.1) = some 0 ∧ (match nextRec tReady with
      | some (_, i, x) => canWrite (tQ tReady) 7 tReady i x && !(canWrite { tQ tReady with dq := { (tQ tReady).dq with rings := [(0, { Ring.init with p := 512 })] } } 7 tReady i x)
      | none => false) = true := by decide

/-! ### PagesAndProfiles -/

/-- A raw 8-bit claim of 64 by 1 pixels at the start of region 1, or of format `f`. -/
def tClaim (f : Byte) : Bytes := [1, 0, 7, 0, 0, 0, 0, 0, 4, 0, 0, 0, 0, 0, 0, 0, 0, 0, 0, 8, 0, 0, 0, 0, 64, 0, 0, 0, f, 0, 0, 0, 64, 0, 1, 0, 0, 0, 0, 0, 0, 0]
theorem wit_PagesAndProfiles : let s := tQ { tQueue .opened with cur := some ⟨tClaim 0, none, 4, 0, none, Resv.none⟩ }
    Live s ∧ (current s (7 : BitVec 16).toNat 1).isSome = true ∧ (tQueue .opened).door = 0 ∧
    claimCheck (ppClassA s 0) 100 (backedRange s 0x08000000 64 && true) false (pageClaim (tClaim 0)) (fun _ => 0) = .inr (64, 1) ∧
    claimCheck (ppClassA s 0) 100 true false (pageClaim (tClaim 4)) (fun _ => 0) = .inl cVersion ∧ backedRange s 0x08000000 64 = true := by decide
theorem wit_PagesAndProfiles_out : let i : OutItem := { isCmd := true, isPage := true, cseq := 4, page := some 1, recs := [], ready := false, written := 0 }
    let s := tQ { tQueue .opened with items := [i] }
    let s := { s with pp := { s.pp with pages := [(1, tPage .output)] } }
    Live s ∧ page? s 1 = some (tPage .output) ∧ (tPage .output).stage = .output ∧ (queue? s 7).map (·.items) = some ([] ++ i :: []) ∧
    (current (tQ { tQueue .opened with cur := some ⟨[3], none, 4, 0, none, Resv.none⟩ }) 7 3).isSome = true := by decide

/-! ### ScanAndSwapCommands -/

theorem wit_ScanAndSwapCommands : let d : Bytes := [4, 0, 7, 0, 0, 0, 0, 0, 4, 0, 0, 0, 0, 0, 0, 0, 3, 0, 0, 0]
    let x : Queue := { tQueue .opened with door := 2, cur := some ⟨d, none, 4, 0, none, Resv.none⟩ }
    Live (tQ x) ∧ (current (tQ x) (7 : BitVec 16).toNat 4).isSome = true ∧ x.door = 2 ∧ (armFrom 4 d).left ≠ 0 ∧
    armCode (clearCur 7 (tQ x)) x (armFrom 4 d) ≠ 0 := by decide
theorem wit_ScanAndSwapCommands_arms : let d : Bytes := [4, 0, 7, 0, 0, 0, 0, 0, 4, 0, 0, 0, 0, 0, 0, 0, 3, 0, 0, 0]
    let x : Queue := { tQueue .opened with door := 2, cur := some ⟨d, none, 4, 0, none, Resv.none⟩ }
    let s := { tQ x with si := { (tQ x).si with conf := { tConf with claims := [(0x06000000, 0)] } } }
    armCode (clearCur 7 s) x (armFrom 4 d) = 0 ∧ (4 : BitVec 32) ∉ (door s (scanDoor x)).armDone := by decide
theorem wit_ScanAndSwapCommands_disarm : (armFrom 4 [4]).left = 0 ∧ (armFrom 4 [4]).xavg ≤ 4 ∧ (armFrom 4 [4]).yavg ≤ 4 ∧ (armFrom 4 [4]).planes = false ∧
    4 < (armFrom 4 ([4] ++ List.replicate 21 0 ++ [0x05])).xavg ∧ (armFrom 4 ([4] ++ List.replicate 22 0 ++ [1])).planes = true := by decide
theorem wit_ScanAndSwapCommands_swap :
    (current (tQ { tQueue .opened with cur := some ⟨[5], none, 4, 0, none, Resv.none⟩ }) 7 5).isSome = true ∧
    doorTags tState 4 = [3] := by decide

/-! ### PatternSteps -/

/-- The generator running at step 4,095, whose word is given. -/
def tPg (w : BitVec 32) : State := { tState with sf := { tState.sf with running := true, step := 4095, ram := [(4095, w)] } }
theorem wit_PatternSteps : Live (tPg 0) ∧ (tPg 0).sf.running = true ∧ (tPg 0).sf.holdPin = false ∧ (tPg 0).sf.trig = false ∧ (tPg 0).sf.stopAsked = false ∧
    pgOp (pgStep (tPg 0) 4095) = 0 ∧ pgOp (pgStep (tPg 0x10000000) 4095) = 1 ∧ pgOp (pgStep (tPg 0x20010FFE) 4095) = 2 ∧
    pgOp (pgStep (tPg 0x3FFF0FFE) 4095) = 3 ∧ tabGet (tPg 0x20010FFE).sf.loops 4095 (pgHi 0x20010FFE) = 0 + 1 ∧
    tabGet (tPg 0x20000FFE).sf.loops 4095 (pgHi 0x20000FFE) = 0 ∧ pgOp (pgStep (tPg 0x40000000) 4095) = 4 ∧ pgOp (pgStep (tPg 0x50000000) 4095) = 5 ∧
    pgOp (pgStep (tPg 0x60000000) 4095) = 6 ∧ pgOp (pgStep (tPg 0x70000000) 4095) = 7 ∧ tState.sf.running = false := by decide

/-! ### GeneratorControl -/

theorem wit_GeneratorControl : let w : RegWr := ⟨.host, 0x380000000, 255⟩
    Live tState ∧ Made tState w ∧ bitOf (putBits tState.sf.pgCtl w.data (maskOf 0 12 ||| maskOf 16 6 ||| maskOf 29 1 ||| maskOf 31 3) (enMask w.be)) 32 = true ∧
    bitOf tState.sf.pgCtl 32 = false ∧ gateOn tState 8 = true ∧ bitOf (w.data &&& enMask w.be) 33 = true ∧ tState.sf.running = false ∧ tState.sf.defer = [] ∧
    spreadOn tState = false := by decide

/-! ### CaptureAndCalibration -/

/-- Head 3 on AFE 7, claimed, with a capture of mono open, two samples a line, and a door given. -/
def tHead (x : Door) : State :=
  { tState with si := { tState.si with conf := { ImgConf.none with claims := [(0x05000007, 0)] } }
                sf := { tState.sf with regs := [(0x7C58, 0x800300020000EA60), (0x7C78, 0x0000100000012084), (0x7C98, 0x02000000)], caps := [(1, 3, 3)], doors := [(3, x)] } }
theorem wit_CaptureAndCalibration : let w : RegWr := ⟨.firmware, 0x0004000000000000, 255⟩
    Live (tHead Door.init) ∧ doorEnabled (tHead Door.init) (3 : BitVec 2).toNat = true ∧ openCaps (tHead Door.init) (3 : BitVec 2).toNat = some (1, [3]) ∧
    capturedLine (tHead Door.init) (3 : BitVec 2).toNat [3] [(3, [5, 6, 7])] = some [(3, [5, 6])] ∧
    capturedLine (tHead Door.init) (3 : BitVec 2).toNat [3] [(3, [5])] = none ∧ openCaps (tHead Door.init) (2 : BitVec 2).toNat = none ∧
    Made (tHead Door.init) w ∧ fld (w.data &&& enMask w.be) 50 2 = 1 ∧ fld (0x0008000000000000 : Word) 50 2 = 2 := by decide
theorem wit_CaptureAndCalibration_page : let s := tHead { Door.init with page := some 1 }
    let s := { s with pp := { s.pp with pages := [(1, tPage .intake)] } }
    (door s (3 : BitVec 2).toNat).page = some 1 ∧ page? s 1 = some (tPage .intake) ∧ (tPage .intake).id = 1 ∧ (tPage .intake).stage = .intake := by decide
theorem wit_CaptureAndCalibration_edge : let a : Arming := ⟨1, 0, 1, 1, false, 300, 300, 4, true, false⟩
    let q : Queue := { tQueue .opened with door := 1, sel := 3 }
    let s := tHead { Door.init with free := true, freeArm := 4, run := 3, arms := [a] }
    let s := { s with dq := { s.dq with queues := [(7, q)] } }
    doorQueue s 3 = some (7, q) ∧ armOf s 3 4 = some a ∧ max 1 (fld (sfEdge s 3) 5 5) = 4 ∧ paperLine s 3 [(3, [0xFFFF, 0xFFFF])] = true ∧
    paperLine s 3 [(3, [0x0800, 0x0800])] = false := by decide
theorem wit_CaptureAndCalibration_done : let x : Door := { Door.init with cal := 1, calLines := List.replicate 64 [(3, [5, 6])] }
    let s := { tHead x with dm := { tState.dm with regions := [(1, 0x0000000FFF000000)] } }
    64 ≤ x.calLines.length ∧ x.cal ≠ 0 ∧ nth x.calLines 0 [] = [(3, [5, 6])] ∧ backedRange s (fld (sfShade s 3) 6 27 * 64) 8 = true := by decide

/-! ### ReservationsAndCameras -/

/-- Camera 1 enabled, claimed and mono on channel 0, its door given. -/
def tCam (x : Door) : State :=
  { tState with si := { tState.si with conf := { ImgConf.none with claims := [(0x06000001, 0)] } }
                sf := { tState.sf with regs := [(0x7F08, 0x0140000000010000)], doors := [(5, x)] } }
theorem wit_ReservationsAndCameras : let c : BitVec 1 := 1
    let s := tCam { Door.init with window := true, page := some 1 }
    let s := { s with pp := { s.pp with pages := [(1, tPage .intake)] } }
    Live s ∧ bitOf (sfCam s c.toNat) 54 = true ∧ doorEnabled s (4 + c.toNat) = true ∧ bitOf (sfCam s c.toNat) 55 = false ∧
    (camTag s c.toNat (0 : BitVec 2).toNat).isSome = true ∧ bitsOf (fld (sfCam s c.toNat) 56 4) 4 = [(0 : BitVec 2).toNat] ∧
    (0x2A : Byte).toNat = 0x2A + fld (sfCam s c.toNat) 60 2 ∧ [(1 : BitVec 16)].length = fld (sfCam s c.toNat) 16 16 ∧
    (door s (4 + c.toNat)).page = some 1 ∧ (door s 5).half = [] ∧ (door (tCam { Door.init with free := true }) 5).free = true ∧
    camTag s c.toNat (1 : BitVec 2).toNat = none ∧ bitOf (sfCam tState c.toNat) 54 = false := by decide
theorem wit_ReservationsAndCameras_colour : let c : BitVec 1 := 1
    let s := tCam { Door.init with window := true }
    let s := { s with sf := { s.sf with regs := [(0x7F08, 0x0740000000010000)] } }
    (bitsOf (fld (sfCam s c.toNat) 56 4) 4).length = 3 ∧ camTag s c.toNat (1 : BitVec 2).toNat = some 1 ∧ (0x2A : Byte).toNat = 0x2A + fld (sfCam s c.toNat) 60 2 ∧
    (door s 5).window = true ∧ (door s 5).half = [] := by decide
theorem wit_ReservationsAndCameras_res : let a : Arming := ⟨1, 0, 1, 1, false, 300, 300, 4, true, false⟩
    let x : Queue := { tQueue .opened with door := 2, sel := 1 }
    let s := { tQ x with sf := (tCam { Door.init with arms := [a] }).sf, dm := { tState.dm with regions := [(2, 0x000000FFFF000000)] } }
    doorQueue s 5 = some (7, x) ∧ queue? s 7 = some x ∧ (door s 5).arms.getLast? = some a ∧ nextRec x = none ∧ x.st = .opened ∧ draining s 0 = false ∧
    (door s 5).free = false ∧ (door s 5).expect = true ∧ a.ended = false ∧ a.left ≠ 0 ∧ (door s 5).cal = 0 := by decide
theorem wit_ReservationsAndCameras_start : let a : Arming := ⟨1, 0, 1, 1, false, 300, 300, 4, true, false⟩
    let x : Queue := { tQueue .opened with door := 2, sel := 1 }
    let s := { tQ x with sf := (tCam { Door.init with arms := [a], free := true, freeArm := 4, window := true }).sf }
    doorQueue s 5 = some (7, x) ∧ armOf s 5 (door s 5).freeArm = some a ∧ (door s 5).page = none ∧ (door s 5).lost = false := by decide

/-! ### PreparationAndBatches -/

/-- The encoder job of queue 7 in slot 2 of tile 5, on the configuration whose class 0 has one stage-4 entry. -/
def tEncJob : Job :=
  { part := 0, slot := 2, tile := 5, queue := some 7, decoder := none, stage := 4, pos := 0, bspad := 0, live := 0, held := [], debit := 0,
    credits := 0, want := 0, parity := false, save := [], accs := [] }
theorem wit_PreparationAndBatches : let w : RegWr := ⟨.firmware, 0x1FF, 3⟩
    let s := { tQ (tQueue .opened) with
      pp := { tState.pp with pages := [(1, { tPage .prep with pair := some 0 })], packed := [⟨1, 0, [], [], false⟩] } }
    Live s ∧ Made s w ∧ enMask w.be ≠ 0 ∧ enMask 0 = 0 ∧ (page? (grantPairs s) 1).map (fun p => (p.stage, p.id)) = some (.prep, 1) ∧
    (prepReads (grantPairs s) { tPage .prep with pair := some 0 }).1 = false ∧ freeRows s 7 = [⟨1, 0, [], [], false⟩] := by decide
theorem wit_PreparationAndBatches_job :
    let s := tQ (tQueue .opened)
    let s := { s with
      si := { s.si with conf := { tConf with routes := [⟨0, 0, 4, 0, 9, 32⟩] } }
      rm := { s.rm with jobs := [tEncJob], scheds := [(5, { TileSched.init with run := some (0, 2) })] } }
    encoderJob s 7 (tQueue .opened) = some (0, 2) ∧ encoderJob (tQ (tQueue .opened)) 7 (tQueue .opened) = none := by decide

/-! ### ScalarArithmetic -/

/-- Logical tile 63 runs a command; S1 holds 5, S2 holds -3, A1 0x2FF, V1 and V2 lanes of ones and P1 zero. -/
def tTile (t : Tile) : State := { tCfg with tl := { tCfg.tl with tiles := [(63, t)] } }
def tReq : DispatchReq := ⟨63, 0, some 7, none, 3, 1, [], []⟩
def tRun : Tile :=
  { Tile.init with
    cmd := some { part := 0, slot := 2, queue := some 7, decoder := none, stage := 3, routine := 1, args := [], pages := [], runs := 1, arrived := 0,
                  bound := 100, ended := false, failed := false, tokBad := false, group := none, req := tReq, stgOut := [] }
    s := [(1, 5), (2, 0xFFFFFFFFFFFFFFFD)], a := [(1, 0x2FF)], v := [(1, Vector.replicate 64 1), (2, Vector.replicate 64 1)] }
/-- An operation of tile 63 with a gap of one bundle. -/
def tOp (slot : BitVec 4) (dst srcA srcB srcC : BitVec 8) (mod : BitVec 20) (imm : BitVec 64) : Op := ⟨63, 1, slot, 0, false, dst, srcA, srcB, srcC, mod, imm⟩
theorem wit_ScalarArithmetic : let o := tOp 0 3 1 2 0 0 0
    Live (tTile tRun) ∧ o.ok rowScalar = true ∧ issues (tTile tRun) o = true ∧ o.dst ≠ 0xFF ∧
    (tile (passCycles 63 1 (tTile tRun)) 63).off o = false ∧ (tile (passCycles 63 1 (tTile tRun)) 63).off { o with pred := 1 } = true ∧
    { o with pred := 1 }.ok rowScalar = true ∧ { o with srcC := 1 }.ok rowScalar = false ∧ issues tState o = false := by decide

/-! ### ScalarMovesAndAddresses -/

theorem wit_ScalarMovesAndAddresses : let u := passCycles 63 1 (tTile tRun)
    Live (tTile tRun) ∧ (tile u 63).off (tOp 0 3 0 0 0 0 0) = false ∧ issues (tTile tRun) (tOp 0 3 0 0 0 0 0) = true ∧
    (tOp 0 3 0 0 0 0 9).ok rowMovi = true ∧ cmpOk (tOp 1 0xC1 1 2 0 0xE 0) = true ∧ (tOp 1 0xC1 1 2 0 0xE 0).fieldOf 1 4 = 7 ∧
    (tOp 0 3 1 2 0xC1 0 0).ok rowSel = true ∧ (tOp 0 3 0 0 0 0 0).ok rowDst = true ∧ (tOp 0 3 0x41 0 0 0 0).ok rowAmov = true ∧
    (tOp 2 0x42 0x41 0 0 1 9).ok rowAdda = true ∧ (tOp 2 0x42 0x41 0x3F 0 0 0).ok rowAdda = true ∧ (tOp 2 0x42 0x41 0x40 0 0 0).ok rowAdda = true ∧
    (tOp 3 0x42 1 0 0 0 0).ok rowMova = true ∧ setaOk (tOp 3 0x42 0 0 0 0 9) = true ∧ wrapOk (tOp 3 0x42 0x41 0 0 0x2C 1) = true ∧
    (tOp 3 0x42 0x41 0 0 0x2C 1).fieldOf 1 5 = 22 := by decide

/-! ### VectorLanes -/

theorem wit_VectorLanes : Live (tTile tRun) ∧ issues (tTile tRun) (tOp 4 0x83 0x81 0x82 0 0 0) = true ∧ (tOp 4 0x83 0x81 0x82 0 0 0).ok rowVec2 = true ∧
    (tOp 7 0x83 0x81 1 0 1 0).ok rowVec2 = true ∧ (tOp 7 0x83 0x81 0x82 0x83 0 0).ok rowVec3 = true ∧ vshOk (tOp 4 0x83 0x81 0x82 0 4 0) = true ∧
    (tOp 4 0x83 0x81 0x82 0 4 0).fieldOf 1 2 = 2 ∧ (tOp 4 0x83 0x81 0x82 0xC1 0 0).ok rowVsel = true ∧
    (tOp 4 0x83 0x81 0 0 0 0xFFFFFFFFFFFFFFFF).ok rowLsh = true ∧ fcmpOk (tOp 4 0xC1 0x81 0x82 0 0xA 0) = true ∧
    (tile (passCycles 63 1 (tTile tRun)) 63).off (tOp 4 0xC1 0x81 0x82 0 0xA 0) = false ∧
    (tile (passCycles 63 1 (tTile tRun)) 63).off { tOp 4 0xC1 0x81 0x82 0 0xA 0 with pred := 1 } = true := by decide

/-! ### VectorSingles -/

theorem wit_VectorSingles : let o := tOp 4 0x83 0x81 0x82 0x83 0x3F00 0xFF
    let m : MidwayDef := ⟨0, 0x8000000000000000, [], [], []⟩
    let s := { tTile tRun with si := { tCfg.si with conf := { tConf with midways := [m] } } }
    Live (tTile tRun) ∧ (tOp 5 0x83 0x81 0 0 0 0).ok rowVec1 = true ∧ issues (tTile tRun) o = true ∧ cvtOk (tOp 4 0x83 0x81 0x82 0 8 0) = true ∧
    cvtOk (tOp 4 0x83 0x81 0 0 0xA 0) = true ∧ customOk o = true ∧ o.fieldOf 8 6 = 63 ∧
    (tile (passCycles 63 1 s) 63).cmd.bind (fun c => midwayOf (passCycles 63 1 s) c.part 63) = some m ∧
    (tile (passCycles 63 1 (tTile tRun)) 63).cmd.bind (fun c => midwayOf (passCycles 63 1 (tTile tRun)) c.part 63) = none := by decide

/-! ### MatrixAndRoute -/

theorem wit_MatrixAndRoute : let u := passCycles 63 1 (tTile tRun)
    Live (tTile tRun) ∧ issues (tTile tRun) (tOp 8 0 0x81 0x41 0 0 0) = true ∧ mulOk (tOp 8 0 0x81 0x41 0 0x27 0) = true ∧ (tOp 8 0 0x81 0x41 0 0x27 0).flag 3 = false ∧
    mulOk (tOp 8 0 0x81 0x41 1 0x2F 0) = true ∧ (tOp 8 0 0x81 0x41 1 0x2F 0).flag 3 = true ∧
    (tile u 63).off (tOp 8 0 0x81 0x41 0 0 0) = false ∧ (tile u 63).off { tOp 8 0 0x81 0x41 0 0 0 with pred := 1 } = true ∧
    fillOk rowWfill (tOp 9 0 0x41 0x82 0 0x12 0) = true ∧ fillOk rowSfill (tOp 9 0 0x41 0 0 0 0) = true ∧ (tOp 13 0x83 0 0x41 0 1 0).ok rowA2v = true ∧
    (tOp 13 0 0x81 0x41 0 1 0).ok rowV2a = true ∧ (tOp 13 0x83 0x81 0 0 0 0).ok rowVmov = true ∧ laneOk rowV2s (tOp 13 3 0x81 0 0 0 63) = true ∧
    laneOk rowS2v (tOp 13 0x83 1 0 0 0 63) = true := by decide

/-! ### LoadsAndStores -/

theorem wit_LoadsAndStores : let u := passCycles 63 1 (tTile tRun)
    Live (tTile tRun) ∧ issues (tTile tRun) (tOp 10 0x83 0x41 0 0 0 0) = true ∧ (tOp 10 0x83 0x41 0 0 0 0x10000000000).ok rowLdv = true ∧
    (tOp 12 3 0x41 0 0 0xE 0).ok rowLds = true ∧ (tOp 10 0 0x41 0x81 0 0 0).ok rowStv = true ∧ (tOp 10 0 0x41 1 0 6 0).ok rowSts = true ∧
    damageIn u .spad 63 0x200 256 = [] ∧ inbound u = [] ∧ (tile u 63).off (tOp 10 0 0x41 0x81 0 0 0) = false ∧ (tile u 63).freeze = [] ∧
    (tile u 63).lines < 64 ∧ (tile u 63).cmd.isSome = true ∧ (part? u 0).map (·.tiles) = some 1 ∧
    (part? u 0).map (fun pd => (tsInside pd 0x100 256, tsInside pd 0x3FFF00 256, tsInside pd 0x3FFF00 257, tsInside pd 0x400000 256)) = some (true, true, false, false) ∧
    (tile u 63).off { tOp 10 0 0x41 0x81 0 0 0 with pred := 1 } = true := by decide

/-! ### TransfersMove -/

theorem wit_TransfersMove : let x : Xfer := ⟨3, false, 0xFFFFC00, 0, 1024, 0, none, [], 0, some 0⟩
    let s := tTile { tRun with xfers := [x], sxfers := [{ x with lane := 8, len := 256 }], puts := [.line 0xFFFFF00 zeros] }
    let u := passCycles 63 1 (tTile tRun)
    Live s ∧ (tile s (63 : BitVec 6).toNat).xfers.find? (fun x => x.lane == (3 : BitVec 3).toNat) = some x ∧ (part? s 0).isSome = true ∧
    x.addr + x.len ≤ 2 ^ 28 ∧ tsOpen s x.addr x.len = true ∧ (tile s (63 : BitVec 6).toNat).sxfers[0]? = some { x with lane := 8, len := 256 } ∧
    (tile s 63).puts = .line 0xFFFFF00 zeros :: [] ∧ tileHeld s (0xFFFFF00 / 0x400000) = false ∧
    tileHeld { s with tl := { s.tl with vacant := 0x8000000000000000 } } (0xFFFFF00 / 0x400000) = true ∧
    xferOk (tOp 10 0 0x41 1 0 0x10 0) = true ∧ xferOk (tOp 10 0 0x41 1 0 0x100 0) = true ∧ sxferOk (tOp 10 0 0x41 1 0 4 0) = true ∧
    issues (tTile tRun) (tOp 10 0 0x41 1 0 0x10 0) = true ∧ (part? u 0).map (fun pd => tsInside pd (tsOperand (tile u 63) (tOp 10 0 0x41 1 0 0x10 0)) 1024) = some true ∧
    (tile u 63).off (tOp 10 0 0x41 1 0 0x10 0) = false := by decide
theorem wit_TransfersMove_out : let x : Xfer := ⟨3, true, 0xFFFFC00, 0, 0, 0, some 0x3F05, [], 0, some 0⟩
    let s := { tTile { tRun with xfers := [x], sxfers := [{ x with lane := 8, tok := none }] } with now := 16 }
    let u := passCycles 63 1 (tTile { tRun with xfers := List.replicate 8 x })
    Live s ∧ (tile s 63).xfers.find? (fun x => x.lane == 3) = some x ∧ (tile s 63).sxfers[0]? = some { x with lane := 8, tok := none } ∧
    (tok s 0x3F05).owner ≠ 0x0FFF ∧ tileHeld s 63 = false ∧ (tok s 0x3F05).count.toNat + 1 < 2 ^ 32 ∧ (0#64).toNat + 16 ≤ s.now.toNat ∧
    8 ≤ ((tile u 63).xfers.filter (fun y => y.lane == 3)).length ∧ (part? s 0).map (fun pd => (tsInside pd 0xFFFFC00 1024, tsInside pd 0 1024)) = some (false, true) := by
  decide

/-! ### TokensAndWaits -/

theorem wit_TokensAndWaits : let o := tOp 14 0 0 0 0 0 0x13F05
    let s := { tTile tRun with tl := { (tTile tRun).tl with toks := [(0x3F05, ⟨1, 0xFFFF, 0⟩)] } }
    let u := passCycles 63 1 s
    let f := fun (x : Freeze) => ({ s with tl := { s.tl with tiles := [(63, { tRun with freeze := [x] })] } } : State)
    Live s ∧ tokOk o = true ∧ issues s o = true ∧ o.imm.toNat % 16384 = 0x3F05 ∧ tokCount (tile u 63) o = 1 ∧ (tile u 63).off o = false ∧
    damageIn u .token 0 (8 * 0x3F05) 8 = [] ∧ 0x3F05 / 256 = 63 ∧ 1 ≤ (tok u 0x3F05).count.toNat ∧ waiters u 0x3F05 = [] ∧ 0x3E05 / 256 ≠ 63 ∧
    tokOk (tOp 14 0 0 0 0 0 0x13E05) = true ∧ ((tile u 63).cmd.map (fun c => (chainTok u c 0x3F05, ownTok u 63 c 0x3F05))) = some (false, false) ∧
    testOk (tOp 14 3 0 0 0 0 0x3F05) = true ∧ (tOp 14 0 0 0 0 0 0).ok rowFence = true ∧ (tile u 63).quiet = true ∧
    { tRun with puts := [.line 0 zeros] }.quiet = false ∧ waiters (f (.token 0x3F05 1 4)) 0x3F05 = [(63, 1, 4)] ∧ tileHeld s 63 = false ∧
    waiters (f (.token 0x3F05 2 4)) 0x3F05 = [(63, 2, 4)] ∧ (tok (f (.token 0x3F05 2 4)) 0x3F05).count.toNat < 2 := by decide

/-! ### ControlFlow -/

theorem wit_ControlFlow : let u := passCycles 63 1 (tTile tRun)
    Live (tTile tRun) ∧ issues (tTile tRun) (tOp 15 0 0 0 0 0 0x3FF) = true ∧ jOk (tOp 15 0 0 0 0 0 0x3FF) = true ∧ loopOk (tOp 15 0 1 0 0 0 0x103FF) = true ∧
    (tOp 15 0 0 0 0 0 0).ok rowEnd = true ∧ (tile u 63).off (tOp 15 0 0 0 0 0 0) = false ∧ (tile u 63).off { tOp 15 0 0 0 0 0 0 with pred := 1 } = true ∧
    (tile u 63).readS 1 - 1 ≠ 0 ∧ tabGet (tile u 63).loops (tile u 63).pc 0 < 1 ∧ (tile u 63).cmd.isSome = true ∧
    (passCycles 63 1 (tTile { tRun with s := [(1, 1)] }) |> fun v => (tile v 63).readS 1 - 1 = 0) ∧
    (passCycles 63 1 (tTile { tRun with loops := [(1, 1)] }) |> fun v => 1 ≤ tabGet (tile v 63).loops (tile v 63).pc 0) := by decide

/-! ### ResultsLandOnTime -/

theorem wit_ResultsLandOnTime : let s := tTile { tRun with land := [⟨3, 0, 0, .sreg 4 9⟩] }
    1 ≤ 3 ∧ (tile s 63).fills = [] ∧ (tile s 63).land = [⟨(tile s 63).cyc + 3, 0, 0, .sreg 4 9⟩] ∧
    (tile (passCycles 63 2 s) 63).sReg 4 = 0 ∧ (tile (passCycles 63 3 s) 63).sReg 4 = 9 ∧ s.dm.damage = [] ∧
    s.tl.tiles.all (fun e => e.2.xfers == [] && e.2.sxfers == [] && e.2.freeze == []) = true := by decide

/-! ### DispatchReachesItsTile -/

/-- A job of queue 7 has the turn on tile 0, whose route runs routine 3 for stage 1. -/
def tJob : Job := ⟨0, 5, 0, some 7, none, 1, 0, 0, 0, [], 0, 0, 0, false, [], []⟩
def tReq3 : DispatchReq := ⟨0, 0, some 7, none, 1, 3, [11, 12], []⟩
def tSched : State :=
  { tQ (tQueue .opened) with
    si := { tState.si with conf := { tConf with routes := [⟨0, 0, 1, 0, 3, 1⟩], routines := [⟨0, 3, 40, 1, 1, 0, 0, 10, [], [], [], [], []⟩] } }
    rm := { tState.rm with jobs := [tJob], scheds := [(0, ⟨[], some (0, 5), some (0, 5), 1000000, 1000000, false, none⟩)] } }
theorem wit_DispatchReachesItsTile : Live tSched ∧ tSched.pw.mode = modeRun ∧ jobFor tSched tReq3 = some tJob ∧ job? tSched tJob.key = some tJob ∧
    mayLaunch tSched tReq3 tJob = true ∧ tSched.rm.donations = [] ∧ jobFor tState tReq3 = none := by decide
theorem wit_DispatchReachesItsTile_busy :
    let s := { tSched with tl := { tSched.tl with tiles := [(0, { Tile.init with cmd := some ⟨0, 5, some 7, none, 1, 3, [], [], 1, 0, 0, false, false, false, none, tReq3, []⟩ })] } }
    (tile s tReq3.tile.toNat).cmd.isSome = true ∧ jobFor s tReq3 = some tJob ∧ (∀ e ∈ s.rm.ready, e.1 ≠ tReq3) := by decide
/-- A sound operator descriptor of an 8 by 8 map. -/
def tOper : List Word := [0x1, 0x0001000100080008, 0x101010101, 0, 0, 0, 0, 0, 0, 0x0000000000080000, 0, 0, 0, 0]
theorem wit_DispatchReachesItsTile_oper : operCheck tOper = 0 ∧ operCheck [0] = cVersion := by decide
/-- Tile 0 is the producer of a fused chain and the class has that descriptor as its template. -/
def tForm (tpls : List Bytes) : State :=
  { tSched with si := { tSched.si with conf := { tSched.si.conf with
      classes := tConf.classes.map (fun k => { k with tpls := tpls })
      routines := [⟨0, 3, 40, 1, 1, 0, 0, 10, [1], [], [], [], []⟩]
      chains := [⟨0, 0, 0, 1, 1, 2, 0, 1⟩] } } }
theorem wit_DispatchReachesItsTile_formed : let o := { tReq3 with args := tOper }
    jobFor (tForm []) o = some tJob ∧ operFormed (tForm []) o tJob = false ∧
    operFormed (tForm [tOper.flatMap (fun w => leBytes 8 w.toNat)]) o tJob = true := by decide

/-! ### CommandCommits -/

/-- Tile 63 has ended the command of a decoder job of slot 4,094, in a chain or not. -/
def tEnded (g : Option Nat) (e : Bool) : State :=
  let c : TileCmd := ⟨0, 4094, none, some 0, 4, 3, [], [], 1, 0, 0, e, false, false, g, ⟨63, 0, none, some 0, 4, 3, [], []⟩, []⟩
  { tState with tl := { tState.tl with tiles := [(63, { Tile.init with cmd := some c })] }
                si := { tState.si with conf := { tConf with chains := [⟨0, 0, 63, 62, 1, 2, 0, 1⟩] } } }
theorem wit_CommandCommits : Live (tEnded none true) ∧
    (∀ g ∈ [none, some 0], ((tile (tEnded g true) (63 : BitVec 6).toNat).cmd.map (·.ended)) = some true ∧
      ((tile (tEnded g true) 63).cmd.map (·.failed)) = some false ∧ ((tile (tEnded g true) 63).cmd.map (·.group)) = some g ∧
      (tile (tEnded g true) 63).quiet = true ∧ (tile (tEnded g true) 63).freeze = [] ∧ (tile (tEnded g true) 63).land = [] ∧
      (tile (tEnded g true) 63).posts = [] ∧ (tEnded g true).dm.damage = [] ∧ (tEnded g true).rm.opers = [] ∧ (tEnded g true).tl.leaving = [] ∧
      (tEnded g true).pp.owing = [] ∧ (tEnded g true).kv.attends = []) ∧
    ((tile (tEnded none false) 63).cmd.map (·.ended)) = some false ∧ (tile tState 63).cmd = none ∧
    ((tEnded (some 0) true).si.conf.chains[0]?).map (·.cons) = some 62 := by decide

/-! ### TurnsOfTheRunOrder -/

/-- Jobs 5 and 6 of partition 0 on tile 0; job 5's slice has ended, job 6 waits in the ring or has been switched to. -/
def tTurn (x : TileSched) : State := { tSched with rm := { tSched.rm with jobs := [tJob, { tJob with slot := 6 }], scheds := [(0, x)] } }
theorem wit_TurnsOfTheRunOrder : let x : TileSched := ⟨[(0, 6)], some (0, 5), some (0, 5), 0, 0, false, none⟩
    Live (tTurn x) ∧ sched (tTurn x) (0 : BitVec 6).toNat = x ∧ (tile (tTurn x) 0).cmd = none ∧ (tTurn x).rm.donations = [] ∧
    job? (tTurn x) (0, 6) = some { tJob with slot := 6 } ∧ (0 : Nat) < sliceOf (tTurn x) 0 ∧ jobReady (tTurn x) (0, 5) = false := by decide

/-! ### CountsAndGrants -/

/-- An attend of partition 0, which has share 1, with two blocks left on depot 0, a walker at work on it or not. -/
def tAtt (b : Bool) : Attend := ⟨0, 0, 0, 0, 1, 0, 0, 0, (2, 0), (b, false), 1⟩
theorem wit_CountsAndGrants : let s := fun b => { tCfg with kv := { tCfg.kv with attends := [tAtt b] } }
    Live (s false) ∧ Made (s false) ⟨.firmware, 0, 255⟩ ∧ (grantPick (s false) (4 : BitVec 4).toNat [0]).map (·.1) = some 0 ∧
    (s false).kv.attends.filter (fun a => a.leftOn 0 != 0 && !(attHeld (s false) a)) = [tAtt false] ∧ (s false).kv.attends.any (fun a => a.busyOn 0) = false ∧
    (s true).kv.attends.find? (fun a => a.busyOn 0) = some (tAtt true) ∧ 1 < (tAtt true).left.1 + (tAtt true).left.2 ∧ (tAtt true).leftOn 0 ≠ 0 ∧
    grantPick (s false) (3 : BitVec 4).toNat ((pairless (s false)).map (·.part)) = none ∧ (s false).si.job = none ∧
    (s true).kv.attends.any (fun a => a.busyOn 1) = false := by decide +kernel
theorem wit_CountsAndGrants_pairs : let c : EngineCmd := ⟨true, none, 0, [], [0], 1⟩
    let s := { tCfg with pp := { tCfg.pp with pages := [(1, tPage .prep)] }, dm := { tCfg.dm with cmds := [c] } }
    pairIdle s (3 : BitVec 4).toNat = true ∧ (grantPick s (3 : BitVec 4).toNat ((pairless s).map (·.part))).map (·.1) = some 0 ∧
    (s.pp.pages.all (fun y => y.2.id == y.1)) = true ∧ c.fits (8 : BitVec 4).toNat = true ∧ (grantPick s (8 : BitVec 4).toNat [c.part]).map (·.1) = some 0 := by
  decide +kernel
theorem wit_CountsAndGrants_decl : let v := fun d : Word => putBits (declOf tState 255) d (maskOf 16 48) (enMask 255)
    fld (v 0x0010000120000000) 32 16 = 1 ∧ fld (v 0x0010000120000000) 16 16 = 8192 ∧ fld (v 0x0010FFFF20010000) 16 16 = 8193 ∧
    fld (v 0x00100000FFFF0000) 32 16 = 0 ∧ fld (v 0x0010000100000000) 16 16 = 0 := by decide +kernel

/-! ### WalkerSteps -/

theorem wit_WalkerSteps : Live (tDec .ready false) ∧ (walkCmd [0]).zero = true ∧ (walkCmd [0]).kop = 0 ∧ (walkCmd [0x04000001]).kop = 1 ∧
    (walkCmd [0x04000001]).count = 1 ∧ (walkCmd [2]).kop = 2 ∧ (walkCmd [4]).zero = false ∧ (walkCmd [3]).kop = 3 ∧ (walkCmd [0x04000101]).layer = 1 ∧ (decDef (tDec .ready false) 0 0).isSome = true ∧
    (part? (tDec .ready false) 0).isSome = true ∧ stepOpen (tDec .ready false) 0 0 = false ∧ stepOpen (tDec .step true) 0 0 = true ∧
    (tDec .ready false).kv.seqs.Pairwise (fun a b => a.1 < b.1) ∧ (tDec .step true).dm.damage = [] ∧
    ((stepRec (tDec .step true) 0 0).map (fun r => (r.list.map (·.1)))) = some [0, 8191] ∧ ([0, 8191] : List Nat).Nodup ∧
    (∀ i ∈ [0, 8191], (seqEnt (tDec .step true) i).st = .step ∧ (seqEnt (tDec .step true) i).n + 1 < 8192 ∧ (seqEnt (tDec .step true) i).lost = false) := by decide +kernel
theorem wit_WalkerSteps_refused : let s := tDec .ready false
    walkRefusal s 0 0 (walkCmd [4]) = cReserved ∧ walkRefusal s 0 0 (walkCmd [3]) = cVersion ∧ walkRefusal s 0 1 (walkCmd [0x04000001]) = cClaim ∧
    walkRefusal s 0 0 (walkCmd [0]) = 0 := by decide +kernel
theorem wit_WalkerSteps_attend : let s := tDec .step true
    let a : Attend := ⟨0, 0, 0, 0, 1, 0, 0, 0, (0, 0), (true, true), 1⟩
    (decDef s 0 0).map (fun d => (attSplit s d a, attBlockCount s d a 0 + attBlockCount s d a 1)) = some ([(0, 1)], 4) ∧
    a.busyOn 0 = true ∧ a.busyOn 1 = true := by decide +kernel
theorem wit_WalkerSteps_window (o : Nat) : (part? (tDec .step true) 0).map (fun pd => (pd.stgBase, pd.stgSize)) = some ((0, 0), (1, 1)) ∧
    stgAddr { tiles := 1, pixq := 1000, slice := 1, share := 1, dramBase := 0, dramSize := 1, stgBase := (0, 0), stgSize := (1, 1) } 0 o < 0x3C00000 := by
  refine ⟨by decide +kernel, ?_⟩
  simp only [stgAddr]; have := Nat.mod_lt o (show 0 < 65536 by decide); simp; omega

/-! ### SequenceTables -/

theorem wit_SequenceTables : let s := { tDec .ready false with kv := { (tDec .ready false).kv with segs := [(0, 1, 3)] }
                                                               pp := { (tDec .ready false).pp with pages := [(1, tPage .recog)] } }
    Live s ∧ s.kv.segs.find? (fun g => g.1 == (0 : BitVec 4).toNat) = some (0, 1, 3) ∧ (page? s 1).isSome = true ∧ (poolDef s 0).isSome = true ∧
    ((List.range 3).map (0 + ·)).find? (fun i => (seqEnt s i).st == .free && (freeTable s (home i)).isSome) = some 1 ∧ freeTable s (home 1) = some 8192 ∧
    Made s ⟨.firmware, 0x8000000000000000, 255⟩ ∧ bitOf ((0x8000000000000000 : Word) &&& enMask 255) 63 = true := by decide +kernel

/-! ### CarouselSlots -/

/-- Slot 511 in a state with a ticket and a CRC. -/
def tCar (st : Nat) (c : BitVec 32) : State := { tDec .inPend false with kv := { (tDec .inPend false).kv with slots := [(511, ⟨slotWord 0 0 st, c, 0⟩)] } }
theorem wit_CarouselSlots : Live (tCar 1 0) ∧ locked (tCar 1 0) = true ∧ (tCar 1 0).pw.mode ≠ modeLeaving ∧ (tCar 1 0).pw.mode ≠ modeDeep ∧
    (carSlot (tCar 1 0) 511).state = 1 ∧ (carSlot (tCar 2 0) 511).state = 2 ∧ (carSlot (tCar 3 0) 511).state = 3 ∧ (carSlot (tCar 3 0) 0).state = 0 ∧
    lowestFree (tCar 3 0) = some 0 ∧ slotsOut (tCar 1 0) < 448 ∧ (tCar 3 0).dm.damage = [] ∧ (tCar 3 0).kv.outq = [] := by decide +kernel
theorem wit_CarouselSlots_out : let e : SeqEntry := { SeqEntry.init with st := .outPend, moving := [(0, 0)] }
    let s := { tDec .inPend false with kv := { (tDec .inPend false).kv with seqs := [(8191, e)], outq := [8191] } }
    s.kv.outq = 8191 :: [] ∧ seqEnt s 8191 = e ∧ e.moving = (0, 0) :: [] ∧ lowestFree s = some 0 ∧ slotsOut s < 448 := by decide +kernel
theorem wit_CarouselSlots_crc (c : BitVec 32) : (carSlot (tCar 3 c) 511).crc = c ∧ (carSlot (tCar 3 c) 511).state = 3 := by
  constructor
  · rfl
  · change fld (slotWord 0 0 3) 0 8 = 3; decide

/-! ### HaulersAndCodecs -/

/-- A hauler fill of 256 bytes in the DRAM window on engine 8, and a pack on engine 7. -/
def tHaul (ws : List Word) (h : Bool) (e : Nat) : State := { tDec .ready false with dm := { (tDec .ready false).dm with cmds := [⟨h, some e, 0, [], ws, 1⟩] } }
theorem wit_HaulersAndCodecs : let f : List Word := [1, 0, 0x100, 0x100, 0x1122334455667788, 0]
    let k : List Word := [0x0001000000010002, 0, 0, 0]
    Live (tHaul f true 8) ∧ haulerCode f = 0 ∧ haulerCode (f.set 0 0) = 0 ∧ haulerCode (f.set 0 0x80) = cVersion ∧ codecCode k = 0 ∧ codecCode (k.set 0 0x0001000000010003) = 0 ∧ codecCode (k.set 0 2) = cDimLimit ∧ (tHaul f true 8).kv.attends = [] ∧
    (tHaul f true 8).dm.damage = [] ∧ (part? (tHaul f true 8) 0).map (·.dramSize) = some 1 ∧
    (tHaul f true 8).dm.cmds.find? (fun c => c.engine == some (8 + 0)) = some ⟨true, some 8, 0, [], f, 1⟩ ∧
    (let x : EngineCmd := ⟨true, some 8, 0, [], f, 1⟩
     hLen x % 8 = 0 ∧ hLen x = 256 ∧ hSrcT x = 0 ∧ hDstT x = 0 ∧ fld (nth x.words 2 0) 0 48 + hLen x ≤ 1 * 0x100000) ∧
    (tHaul k false 7).dm.cmds.find? (fun c => c.engine == some (6 + 1)) = some ⟨false, some 7, 0, [], k, 1⟩ ∧
    zRows ⟨false, some 7, 0, [], k, 1⟩ = 1 ∧ fld (nth k 0 0) 0 1 = 0 ∧ (part? (tHaul f true 8) 0).map (·.share) = some 1 ∧ applying (tHaul f true 8) 0 = false := by decide +kernel
/-- An empty slot fails its first check; no row gives no line. -/
theorem wit_HaulersAndCodecs_unpack : let x : EngineCmd := ⟨false, some 7, 0, [], [0x0001000000010003, 0, 0, 0], 1⟩
    let z : EngineCmd := ⟨false, some 7, 0, [], [0x0000000000010003, 0, 0, 0], 1⟩
    fld (nth x.words 0 0) 0 1 = 1 ∧ zRows z = 0 ∧ (∀ pd s, unpackRows z pd s (zRows z) 0 [] = .inr []) :=
  ⟨by decide, by decide, fun _ _ => rfl⟩

/-! ### CalendarAndScrub -/

/-- At position 4,095, 65,520 ns after a turn's start, of a calendar whose last positions are given. -/
def tCal (now : BitVec 64) (o : Nat) (x : Option Xfer) : State :=
  { tState with now := now, dm := { tState.dm with calOn := true, cal := [(4095, o)] }, tl := { tState.tl with tiles := [(63, { Tile.init with xfers := x.toList })] } }
theorem wit_CalendarAndScrub : let x : Xfer := ⟨7, false, 0, 0, 256, 0, none, [], 0, none⟩
    let s := tCal 65520 (0x1000 + 8 * 63 + 7) (some x)
    Live s ∧ s.now.toNat % 16 = 0 ∧ s.dm.calOn = true ∧ calOwner s (s.now.toNat / 16 % 4096) = 0x11FF ∧ calOwner (tCal 65520 1 none) 4095 = 1 ∧
    (tile s 63).xfers.findIdx (fun y => y.lane == 7 && y.slotAt.isNone) = 0 ∧ (tile s 63).xfers[0]? = some x ∧ readyAt x ≤ s.now.toNat * 256 ∧
    (0 : Nat) * 256 < readyAt x ∧ (tCal 65521 1 none).now.toNat % 16 ≠ 0 ∧ scrubs .dram s = true ∧ scrubLen .dram ≠ 0 ∧ scrubLen .token = 0 := by decide +kernel
theorem wit_CalendarAndScrub_ce : let d : Damage := ⟨.dram, 0, 511, false⟩
    let s := { tState with dm := { tState.dm with damage := [d], back := [d] } }
    s.dm.back.find? (fun d => d.mem == .dram) = some d ∧ scrubFinds s .dram (511 * 64 / 32768) = [d] ∧ tState.sn.ces = [] := by decide +kernel
/-- A calendar like that in force applies at the start of a turn. -/
theorem wit_CalendarAndScrub_apply : let s := { tState with dm := { tState.dm with next := some [] } }
    s.dm.next = some [] ∧ s.now.toNat % 65536 = 0 ∧ reloadedRuns s = false ∧ (∀ cal, cal = [] → (changedOwners s cal).any (laneBusy s) = false) := by
  refine ⟨rfl, by decide, by decide, ?_⟩
  rintro cal rfl
  have h : changedOwners { tState with dm := { tState.dm with next := some [] } } [] = [] := by
    have h0 : ((List.range 4096).flatMap (fun _ => ([] : List Nat))) = [] := by simp
    simp only [changedOwners, calOwner, tState, State.reset, Depot.init, tabGet, if_true, h0]
    simp
  rw [h]; rfl

/-! ### ImageLoads -/

/-- A load of partition 15 in a state of SI_STAT. -/
def tLoad (st : Nat) : State :=
  { tState with si := { tState.si with stat := place st 0 3, job := some ⟨false, 15, 1, 2, [], ImgConf.none⟩ } }
theorem wit_ImageLoads : let w : RegWr := ⟨.firmware, 0x8000000000000000, 255⟩
    Live tState ∧ locked tState = true ∧ Made tState w ∧ bitOf (w.data &&& enMask w.be) 63 = true ∧ tState.si.job = none ∧ tState.tr.waiting = [] ∧
    swapping tState = false ∧ tState.dm.damage = [] ∧ tState.dq.busy ≠ some .load ∧ tState.si.retryJudge = [] ∧ fld (tLoad 2).si.stat 0 3 = 2 ∧
    loadDrained (tLoad 2) ⟨false, 15, 1, 2, [], ImgConf.none⟩ = true ∧ fld (tLoad 3).si.stat 0 3 = 3 ∧ (tLoad 3).dm.next = none ∧
    (tLoad 3).rm.ready = [] ∧ (tLoad 3).dm.cmds = [] := by decide
/-- A copy of 64 zero bytes fails check 1. -/
theorem wit_ImageLoads_refused : imageErr tState (List.replicate 64 0) = some (1, cVersion, 0xFFFF, 0) := by decide +kernel

/-! ### CaravanFrames -/

/-- A frame of type `ty` on flow 255 with flags `fl`, sequence number 7 and a body, from the peer that a flow names. -/
def tFrame (ty fl : Byte) (body : Bytes) : CvFrame :=
  { port := 0, mac := 0xAABBCCDDEEFF, vlan := none, srcIp := .v4 0x0A000001, dstIp := .v4 0x0A000002, sport := 50000, dport := 50000,
    payload := [1, ty, 255, 0, 7, 0, 0, 0, 0, 0, 0, 0, 0, 0, 0, 0] ++ leBytes 2 body.length ++ [fl, 0, 0, 0, 0, 0, 0, 0, 0, 0, 0, 0, 0, 0] ++ body }
/-- Flow 255 on port 0, up or not, with reservations and what it has in progress. -/
def tFlow (up : Bool) (rs : List Resv) (c : InPage) : State :=
  let x : Flow := { Flow.init with cfg := 0x80000100C3502398 , peer0 := 0x0A000001, inForce := (0x80000100C3502398, 0x0A000001, 0), up := up, m := 4096, e := 7, resv := rs,
                                   plimit := BitVec.ofNat 32 rs.length, cur := c }
  let s := tQ { tQueue .opened with door := 3, sel := 255 }
  { s with cv := { s.cv with port := [(0, 0xD000000000000000)], addr := [(0, 0xC35000000A000002)], flows := [(255, { x with cfg := 0x80000100C3502398 })] }
           pp := { s.pp with pages := [(1, { tPage .intake with claim := ⟨0, 0, 0, 64, 1, 0, 300⟩ })] } }
theorem wit_CaravanFrames : Live (tFlow true [] .none) ∧ FrameFor 5 (tFrame 5 0 []) (tFlow true [] .none) 255 ∧
    cvSeq (tFrame 5 0 []) = (flow (tFlow true [] .none) 255).e ∧ (flow (tFlow true [] .none) 255).unack = [] := by decide +kernel
theorem wit_CaravanFrames_bye : FrameFor 7 (tFrame 7 0 []) (tFlow true [] .none) 255 := by decide +kernel
theorem wit_CaravanFrames_start : FrameFor 3 (tFrame 3 1 [0]) (tFlow true [Resv.none] .none) 255 ∧ cvStart (tFrame 3 1 [0]) = true ∧
    (flowQueue (tFlow true [Resv.none] .none) 255).map (·.1) = some 7 ∧ seqLater (flow (tFlow true [Resv.none] .none) 255).plimit (cvAux (tFrame 3 1 [0])) = true := by decide +kernel
theorem wit_CaravanFrames_end : FrameFor 3 (tFrame 3 2 [0]) (tFlow true [] (.page 1)) 255 ∧ cvEnd (tFrame 3 2 [0]) = true ∧ cvStart (tFrame 3 2 [0]) = false := by
  decide +kernel
theorem wit_CaravanFrames_command : FrameFor 6 (tFrame 6 0 (List.replicate 128 0)) (tFlow true [] .none) 255 ∧
    cvLen (tFrame 6 0 (List.replicate 128 0)) = 128 := by decide +kernel
theorem wit_CaravanFrames_hello : FrameFor 1 (tFrame 1 0 (List.replicate 8 0)) (tFlow false [] .none) 255 ∧
    cvLen (tFrame 1 0 (List.replicate 8 0)) = 8 ∧ leAt (cvBody (tFrame 1 0 (List.replicate 8 0))) 2 6 = 0 := by decide +kernel
theorem wit_CaravanFrames_bad : badHead (tFrame 2 0 []) = true ∧ cvType (tFrame 5 0 []) ≠ 7 ∧ lowerOk tState (tFrame 5 0 []) = false := by decide +kernel
theorem wit_CaravanFrames_page : (page? (tFlow true [] (.page 1)) 1).map (fun p => (p.id, p.queue)) = some (1, 7) ∧
    (cvBody (tFrame 3 2 [0])).length = 1 ∧ (tPage .intake).data.length + 1 ≤ (tQueue .opened).quota * 4096 ∧
    seqLater 8 (cvSeq (tFrame 5 0 [])) = true := by decide +kernel

/-! ### CaravanEvents -/

/-- Flow 255 with what it has to send and has sent, 2 s after reset. -/
def tSend (o : List Chunk) (u : List SentFrame) (c : InPage) : State :=
  let s := tFlow true [] c
  { s with now := 2000000000, cv := { s.cv with flows := [(255, { flow s 255 with out := o, unack := u, rlimit := 1 })] } }
theorem wit_CaravanEvents : let s := tSend [⟨[1], true, true, none⟩] [] .none
    Live s ∧ (flow s (255 : Byte).toNat).up = true ∧ canSend s 255 = true ∧ seqLater (flow s 255).rlimit (flow s 255).tx = true ∧
    takeParts (flow s 255).m (flow s 255).out = ([⟨[1], true, true, none⟩], [], true) ∧
    (flow s 255).heard.toNat + 10 * (fld s.cv.timer 32 16 * 1000000) ≤ s.now.toNat ∧ (flow s 255).spoke.toNat + fld s.cv.timer 32 16 * 1000000 / 4 ≤ s.now.toNat ∧
    (flow (tSend [] [⟨0, [], 0⟩] .none) 255).unack = [⟨0, [], 0⟩] ∧ (0 : BitVec 64).toNat + fld s.cv.timer 48 16 * 1000 ≤ s.now.toNat ∧
    (flow (tSend [] [] (.page 1)) 255).cur = .page 1 ∧ (page? (tSend [] [] (.page 1)) 1).map (·.id) = some 1 ∧
    ownAddr s 0 (.v4 0x0A000002) = true ∧ ownAddr s 0 (.v4 0x0A000003) = false ∧ bitOf (cvPort s 1) 63 = false := by decide +kernel

/-! ### FailedCommandsAndRemaps -/

/-- Tile 63 runs a command for the n-th time. -/
def tFails (n : Nat) : State :=
  let c : TileCmd := ⟨0, 4094, none, some 0, 4, 3, [], [], n, 0, 0, false, false, false, none, ⟨63, 0, none, some 0, 4, 3, [], []⟩, []⟩
  { tState with tl := { tState.tl with tiles := [(63, { Tile.init with cmd := some c })], remaps := [(5, some 5, 32)] } }
theorem wit_FailedCommandsAndRemaps : Live (tFails 1) ∧ ((tile (tFails 1) (63 : BitVec 6).toNat).cmd.map (fun c => (c.runs, c.group, c.tokBad))) = some (1, none, false) ∧
    ((tile (tFails 4) 63).cmd.map (·.runs)) = some 4 ∧ underTest (tFails 1) (7, 16383) = false ∧ swapping (tFails 1) = false ∧ (tFails 1).dm.damage = [] ∧
    physOf (tFails 1) 62 = 70 ∧ underTest (tFails 1) (1, 70) = false ∧ logicalOf (tFails 1) 70 = 62 ∧ tileHeld (tFails 1) 62 = false ∧
    freeSpares (tFails 1) = [32, 33, 34, 35, 36, 37, 38, 39] ∧ (tile (tFails 1) 62).cmd = none ∧ (tFails 1).tl.vacant.getLsbD 62 = false ∧
    (tFails 1).tl.remaps.find? (fun r => r.1 == (5 : BitVec 6).toNat) = some (5, some 5, 32) ∧ (tFails 1).tl.held = [] ∧ (tFails 1).tl.leaving = [] ∧
    (tFails 1).tl.remaps.find? (fun r => r.1 == 6) = none := by decide +kernel
theorem wit_FailedCommandsAndRemaps_record : let k : Kept := ⟨511, List.replicate 64 7, [], 0, 0, none⟩
    let s := { tState with dq := { tState.dq with rings := [(255, { Ring.init with kept := [k] })] }, dm := { tState.dm with damage := [⟨.aperture, 0, 0x8FFFC0 / 8, true⟩] } }
    (damageIn s .aperture 0 (0x8FFFC0 : BitVec 32).toNat 1).any (·.ue) = true ∧ 0x00100000 + 255 * 0x8000 + k.idx.toNat % 512 * 64 = 0x8FFFC0 ∧ k.bytes.length = 64 ∧
    (damageIn s .aperture 0 (0x8FFFBF : BitVec 32).toNat 1).any (·.ue) = false := by decide +kernel

/-! ### TestsAndAgeing -/

/-- Physical tile 71 and token 16,383 are under test. -/
def tTests : State :=
  { tState with sn := { tState.sn with tests := [⟨1, 71, some 32⟩, ⟨7, 16383, none⟩], low := 9, ageLim := 0x00000384028A0028 }
                pw := { tState.pw with inForce := 800 } }
theorem wit_TestsAndAgeing : Live tTests ∧ tTests.sn.tests.find? (fun t => t.cls == (1 : Byte).toNat && t.idx == 71) = some ⟨1, 71, some 32⟩ ∧
    tTests.sn.tests.find? (fun t => t.cls == (7 : Byte).toNat && t.idx == 16383) = some ⟨7, 16383, none⟩ ∧ tTests.sn.dueTests = [] ∧ tTests.sn.passes = [] ∧ tTests.sn.dueLines = [] ∧
    underTest tTests (1, 70) = false ∧ swapState tTests ≠ 2 ∧ swapState tTests ≠ 3 ∧ swapping tTests = false ∧ tTests.pw.inForce = fld tTests.sn.age 32 12 ∧
    tTests.sn.lowOther = 0 ∧ fld tTests.sn.ageLim 0 8 = 40 ∧ fld tTests.sn.age 32 12 < fld tTests.sn.ageLim 32 12 ∧ tTests.pw.mode = modeRun ∧
    tTests.pw.avs = none ∧ tTests.sn.low = 9 := by decide +kernel
theorem wit_TestsAndAgeing_quiesce : swapState { tState with tr := { tState.tr with fwStat := 2 } } = 2 ∧
    fld ({ tTests with sn := { tTests.sn with ageLim := 0x0000032000000028 } } : State).sn.ageLim 32 12 ≤ fld tTests.sn.age 32 12 := by decide +kernel

/-! ### BootStages -/

/-- A stage of boot. -/
def tBoot (n : Nat) : State := { tState with tr := { tState.tr with boot := place n 8 8 }, pw := { tState.pw with spiReset := false } }
theorem wit_BootStages : Live (tBoot 0) ∧ (∀ n ∈ [0, 1, 2, 3, 4, 5, 6], bootStage (tBoot n) = n) ∧ (tBoot 2).pw.spiReset = false ∧
    bankOrder (tBoot 2) = [] ∧ (tBoot 0).pk.repair0.ok = true ∧ (tBoot 0).pk.ageOk = true ∧ (tBoot 2).pk.owner0.outerLock = false ∧ (tBoot 2).pk.owner1.outerLock = false ∧ bitOf (tBoot 5).tr.bootCtl 0 = false ∧
    bankField (tBoot 5) (takenBank (tBoot 5)) 0x1C = 0 ∧ (readOwner (tBoot 2)).1 = false ∧
    (let s := { tBoot 2 with pk := { (tBoot 2).pk with owner0 := { (tBoot 2).pk.owner0 with outerLock := true } } }
     (readOwner s).1 = false ∧ (readOwner s).2.1.outerLock = true) := by decide +kernel
/-- A region of zeros does not end in its own digest. -/
theorem wit_BootStages_blank : regionOk [] 0 0x100 = false := by decide +kernel

/-! ### OwnerSwapAttest -/

/-- Firmware 7 runs; the image before it, and a swap's end, are given. -/
def tSwap (st : Nat) (p : Option Bytes) (t0 : Option (BitVec 64)) : State :=
  { tState with now := 1000000001, tr := { tState.tr with fwStat := place st 0 3, swapImage := some [1], prevFw := p, swapDone := t0 } }
theorem wit_OwnerSwapAttest : let w : RegWr := ⟨.firmware, 0x8000000000000000, 255⟩
    Live tState ∧ Made tState w ∧ locked tState = true ∧ bitOf (w.data &&& enMask w.be) 63 = true ∧ swapping tState = false ∧ swapping (tSwap 2 none none) = true ∧
    tState.si.job = none ∧ tState.dm.damage = [] ∧ swapState (tSwap 2 none none) = 2 ∧ (tSwap 2 none none).sn.tests = [] ∧
    (tSwap 2 none none).sn.dueTests = [] ∧ (tSwap 2 none none).tr.waiting = [] ∧ (tSwap 2 none none).dq.busy ≠ some .load ∧ fwRuns tState = true ∧
    fwRuns { tState with tr := { tState.tr with boot := 0 } } = false ∧ 1000000000 < ((tSwap 4 (some []) (some 0)).now - 0).toNat ∧ ((tSwap 4 (some []) (some 1)).now - 1).toNat ≤ 1000000000 ∧
    holds tState = false ∧ tState.tr.att = none ∧ tState.tr.secret = none ∧
    bitOf (putBits tState.tr.attCtl w.data (maskOf 0 63) (enMask w.be)) 6 = false ∧ fld (putBits tState.tr.attCtl w.data (maskOf 0 63) (enMask w.be)) 7 56 = 0 := by
  decide +kernel
/-- A copy of zeros fails the first check of an owner request. -/
theorem wit_OwnerSwapAttest_check : ownCheck tState (List.replicate 3812 0) = cVersion ∧ fwCheck tState none (List.replicate 64 0) = cVersion := by decide +kernel

/-! ### ClockWrites -/

/-- A firmware write of a whole word. -/
def tFw (d : Word) : RegWr := ⟨.firmware, d, 255⟩
/-- The word that a write of CK_PLL_S would leave. -/
def tPll (d : Word) : Word := putBits tState.ck.pllS (tFw d).data (maskOf 63 1 ||| maskOf 40 18 ||| maskOf 32 8 ||| maskOf 0 9) (enMask 255)
/-- VCO of 1,600 MHz exactly with SCLK of 400 MHz; of 3,200 MHz with SCLK of 10 MHz; one unit of FB_FRAC above it. -/
theorem wit_ClockWrites_pll : Made tState (tFw 0) ∧ fld (tPll 0x1000000004) 32 8 = 16 ∧ fld (tPll 0x1000000004) 0 9 = 4 ∧
    fld (tPll 0x2000000140) 32 8 = 32 ∧ fld (tPll 0x2000000140) 0 9 = 320 ∧ fld (tPll 0x2000000140) 56 2 = 0 ∧
    fld (tPll 0x12000000140) 40 16 = 1 ∧ bitOf tState.ck.sel 2 = false := by decide
theorem wit_ClockWrites : Live tState ∧ locked tState = true ∧ fld tState.ck.ss 0 5 = 10 ∧ fld tState.ck.ss 8 6 = 32 ∧ bitOf tState.ck.ss 63 = false ∧
    fld (putBits tState.ck.ss 0x1814 (maskOf 63 1 ||| maskOf 8 6 ||| maskOf 0 5) (enMask 255)) 0 5 = 20 ∧
    fld (putBits tState.ck.ss 0x1814 (maskOf 63 1 ||| maskOf 8 6 ||| maskOf 0 5) (enMask 255)) 8 6 = 24 ∧
    fld (putBits tState.ck.ss 0x1715 (maskOf 63 1 ||| maskOf 8 6 ||| maskOf 0 5) (enMask 255)) 8 6 = 23 ∧
    claimed tState 0x08000000 = false ∧ bitOf tState.ck.ready 5 = false ∧ bitOf tState.ck.ready 0 = false ∧ bootedDram tState = true ∧
    tState.pw.mode ≠ modeDeep ∧ tState.pw.mode ≠ modeLeaving ∧ (gateOf tState 8 &&& ~~~ putBits (gateOf tState 8) 1 3 (enMask 255)) ≠ 0 ∧
    tState.sf.running = false ∧ camOn tState = false ∧ tState.dq.queues = [] ∧ bitOf (cvPort tState 1) 63 = false ∧
    bitOf { tState.ck with ready := 0x24 }.ready 5 = true ∧ bitOf { tState.ck with ready := 0x24 }.ready 2 = true ∧
    bitOf { tState.ck with pllS := 0x8000001800000008 }.pllS 63 = true := by decide
/-- The PLL_S example of R475 is taken and 15 in FB_INT is refused. -/
theorem wit_ClockWrites_frequency : pllSFits (tPll 0x1800000008) = true ∧ pllSFits (tPll 0x1000000004) = true ∧ pllSFits (tPll 0x2000000140) = true ∧
    pllSFits (tPll 0x12000000140) = false ∧ pllSFits (tPll 0x0F00000004) = false ∧ pllSFits (tPll 0x1800000005) = false := by decide +kernel

/-! ### PowerModes -/

/-- A mode, a setpoint that waits for its end, one more that waits, the selection before. -/
def tMode (m : Nat) (a : Option Nat) (sel : Word) : State :=
  { tState with pw := { tState.pw with mode := m, avs := a, selBefore := sel }, ck := { tState.ck with ready := 0x20 }, sn := { tState.sn with plan := [755] } }
/-- Every condition of R483 holds. -/
def tNight : State :=
  { tMode modeSleep none 0 with pw := { tState.pw with mode := modeSleep, ctl := 0x800003E800000064 }, hp := { tState.hp with idle := some .selfRefresh } }
theorem wit_PowerModes : Live tState ∧ Made tState ⟨.mgmt, 1, 255⟩ ∧ tState.pw.mode = modeRun ∧ tilesIdle tState = true ∧
    (let s := { tMode modeSleep none 0 with tl := { tState.tl with remaps := [(0, some 1, 2)] } }; s.pw.mode = modeSleep ∧ tilesIdle s = false) ∧
    tNight.pw.mode = modeSleep ∧ (∀ c ∈ deepConds tNight, c = true) ∧ blockBits (tMode modeSleep none 0) = 1 ∧
    (let s := { tNight with pw := { tNight.pw with mode := modeDeep } }; s.pw.mode = modeDeep ∧ s.hp.idle.isSome = true ∧ Live s) := by decide +kernel
theorem wit_PowerModes_leaving : (tMode modeLeaving none 0).pw.mode = modeLeaving ∧ (tMode modeLeaving none 0).pw.avs = none ∧ (tMode modeLeaving none 0).held = [] ∧
    (∀ k < 4, bitOf (tMode modeLeaving none 0).pw.selBefore k = true → bitOf (tMode modeLeaving none 0).ck.ready k = true) ∧
    (∃ k < 4, bitOf (tMode modeLeaving none 8).pw.selBefore k = true ∧ bitOf (tMode modeLeaving none 8).ck.ready k = false) ∧
    (tMode modeLeaving (some 750) 0).pw.avs = some 750 ∧ (tMode modeRun (some 750) 0).pw.avs = some 750 ∧ (tMode modeRun (some 750) 0).pw.mode = modeRun ∧
    fld tState.pw.therm 48 8 = 100 ∧ bitOf tState.pw.therm 0 = false ∧ fld tState.pw.therm 48 8 ≤ (100 : Byte).toNat ∧
    (95 : Byte).toNat + 5 ≤ fld tState.pw.therm 48 8 ∧ (99 : Byte).toNat < fld tState.pw.therm 48 8 ∧ fld tState.pw.therm 48 8 < (96 : Byte).toNat + 5 ∧
    (119 : Byte).toNat < 120 ∧ 120 ≤ (120 : Byte).toNat := by decide +kernel

/-! ### I3cTarget -/

/-- A target with or without an address, with an interrupt's cause. -/
def tI3c (da : Option Byte) (nacked : Bool) : State :=
  { tState with mg := { tState.mg with da := da, enint := true, ibiEn := 0x200, ibiStat := 0x200, ibiNacked := nacked } }
theorem wit_I3cTarget : Live (tI3c none false) ∧ bootStage (tI3c none false) ≠ 0 ∧ bootStage (tI3c none false) ≠ 0xE2 ∧ (tI3c none false).mg.enhj = true ∧
    (tI3c (some 0x10) false).mg.da.isSome = true ∧ (ibiStat (tI3c (some 0x10) false) &&& (tI3c (some 0x10) false).mg.ibiEn) ≠ 0 ∧
    (tI3c (some 0x10) false).mg.ibiServed = false ∧ (tI3c (some 0x10) true).mg.ibiNacked = true ∧ ibiPending (tI3c none false) = false ∧
    bootStage { tState with tr := { tState.tr with boot := 0 } } = 0 ∧
    (let d : Bytes := [0x01, 0xF8, 0xFF]; leAt d 0 1 = 1 ∧ leAt d 1 2 = 0xFFF8 ∧ 3 ≤ d.length) ∧ (let d : Bytes := [0x02, 0x00, 0x40]; leAt d 1 2 = 0x4000) := by decide +kernel
theorem wit_I3cTarget_wake : exec (.wake .i3cWrite) (tI3c (some 0x10) false) = .next (tI3c (some 0x10) false) :=
  (run_live (show Live (tI3c (some 0x10) false) by decide) _).trans rfl
/-- The second of the three units of the worked enumeration (R511) takes the second address. -/
theorem wit_I3cTarget_enumeration : ((entdaa [0xBC750C94E6100600, 0xBC75A1B200440600] [0x10, 0x11, 0x12]
    { tI3c none false with mg := { (tI3c none false).mg with pid := 0xBC753F0012A7 } }).mg.da = some 0x11) := by decide +kernel

/-! ### JtagAndFlash -/

/-- The boot flash in use or not, in a stage of boot. -/
def tFlash (n : Nat) (j : Option FlashJob) : State :=
  { tState with mg := { tState.mg with flash := j }, tr := { tState.tr with boot := place n 8 8 } }
theorem wit_JtagAndFlash : Live (tFlash 9 none) ∧ Made (tFlash 9 none) ⟨.mgmt, 0x8000000100000000, 255⟩ ∧ locked tState = true ∧
    (let x := putBits (tFlash 9 none).mg.flashCtl 0x8000000100000000 (maskOf 0 35) (enMask 255); fld x 32 3 = 1 ∧ fld x 0 32 = 0) ∧
    bitOf ((0x8000000100000000 : Word) &&& enMask 255) 63 = true ∧ bitOf ((0x4000000000000000 : Word) &&& enMask 255) 62 = true ∧
    bootStage (tFlash 2 none) < 3 ∧ bootStage (tFlash 0xE1 none) = 0xE1 ∧ takenBank (tFlash 9 none) = 0 ∧ (tFlash 9 (some ⟨1, 0⟩)).mg.flash = some ⟨1, 0⟩ ∧
    tState.pw.porst = false ∧ tState.mg.tlr = true ∧ bitOf tState.tr.owner 1 = false ∧
    (let d : BitVec 80 := 0x52000000000000000000; d.extractLsb' 78 2 = 1 ∧ (d.extractLsb' 65 13).toNat * 8 = 0x4800) ∧
    inReset { tState with pw := { tState.pw with porst := true } } = true := by decide +kernel
/-- The last 128 bytes of the flash lie within it, the next do not; the first bytes of the bank that was not taken are not the taken bank's own, the last
of the taken bank are. -/
theorem wit_JtagAndFlash_range : (Config.flashSize - 128) % 128 = 0 ∧ Config.flashSize - 128 + 128 ≤ Config.flashSize ∧
    bankBase (takenBank (tFlash 9 none)) + bankSize ≤ Config.flashSize - 128 ∧ Config.flashSize % 128 = 0 ∧ Config.flashSize < Config.flashSize + 128 ∧
    bankSize % 128 = 0 ∧ bankSize + 128 ≤ Config.flashSize ∧ bankBase (takenBank (tFlash 9 none)) + bankSize ≤ bankSize ∧
    bankSize - 128 < bankBase (takenBank (tFlash 9 none)) + bankSize ∧ bankBase (takenBank (tFlash 9 none)) < bankSize - 128 + 128 := by
  have h : takenBank (tFlash 9 none) = 0 := by decide +kernel
  simp only [h, bankBase, bankSize, Config.flashSize]
  omega

/-! ### ResetLeaves -/

/-- PORST_N asserted or not, with rails below their limits. -/
def tHeld (p : Bool) (r : List Nat) : State := { tState with pw := { tState.pw with porst := p, rails := r } }
theorem wit_ResetLeaves : (tHeld true []).pw.tripped = false ∧ (tHeld true []).pw.porst = true ∧ (tHeld false [4]).pw.rails.contains (4 : BitVec 4).toNat = true ∧
    (tHeld false [4]).pw.rails.contains (0 : BitVec 4).toNat = false ∧ (tHeld false [4]).pw.rails.erase 4 = [] ∧ inReset (tHeld false [4]) = true ∧
    inReset (tHeld false []) = false ∧ (4 : BitVec 4) < 5 ∧ (4 : BitVec 4) ≤ 4 := by decide
/-- Words that R58, R95, R241, R401, R380, R476, R487 and R507 reset to other values than zero. -/
theorem test_resetWords : (regRead 0x4010 State.reset).map Prod.fst = some 4096 ∧ (regRead 0x8800 State.reset).map Prod.fst = some 0x100020100010001D ∧
    (regRead 0xE450 State.reset).map Prod.fst = some 0x10000002398 ∧ (regRead 0xF000 State.reset).map Prod.fst = some 0x4000400000 ∧
    (regRead 0xFE08 State.reset).map Prod.fst = some 0x10001 := by decide +kernel

/-! ### EveryStepKeepsMemories -/

theorem wit_EveryStepKeepsMemories : memsWf { State.reset with pending := [.sleepEntry] } = true ∧
    step { State.reset with pending := [.sleepEntry] } = .next (sleepEntry State.reset) :=
  ⟨by decide +kernel, run_live (show Live State.reset by decide) _⟩

/-! ### Ill-formed commands -/

/-- An operation whose fields are all zero but a slot. -/
def tSlot (slot : BitVec 4) : Op :=
  { tile := 0, gap := 0, slot := slot, pred := 0, pneg := false, dst := 0, srcA := 0, srcB := 0, srcC := 0, mod := 0, imm := 0 }

theorem test_wf_add : (Instr.add (tSlot 0)).wf = true := by decide
theorem test_wf_slot : (Instr.add (tSlot 2)).wf = false := by decide
theorem test_wf_pneg : (Instr.add { tSlot 0 with pneg := true }).wf = false := by decide
theorem test_wf_dst_file : (Instr.add { tSlot 0 with dst := 0x80 }).wf = false := by decide
theorem test_wf_srcA_file : (Instr.add { tSlot 0 with srcA := 0x40 }).wf = false := by decide
theorem test_wf_srcB_with_immediate : (Instr.add { tSlot 0 with mod := 1, srcB := 1 }).wf = false := by decide
theorem test_wf_unused_srcC : (Instr.add { tSlot 0 with srcC := 1 }).wf = false := by decide
theorem test_wf_unused_mod : (Instr.add { tSlot 0 with mod := 2 }).wf = false := by decide
theorem test_wf_unused_imm : (Instr.add { tSlot 0 with imm := 1 }).wf = false := by decide
theorem test_wf_cmp_mode : (Instr.cmp { tSlot 0 with dst := 0xC0, mod := 0x10 }).wf = false := by decide
theorem test_wf_wrap_log : (Instr.wrap { tSlot 2 with dst := 0x40, srcA := 0x40, mod := 0x2E }).wf = false := by decide
theorem test_wf_wrap_zero : (Instr.wrap { tSlot 2 with dst := 0x40, srcA := 0x40 }).wf = false := by decide
theorem test_wf_fcmp_mode : (Instr.fcmp { tSlot 4 with dst := 0xC0, srcA := 0x80, srcB := 0x80, mod := 0xC }).wf = false := by decide
theorem test_wf_vsh_mode : (Instr.vsh { tSlot 4 with dst := 0x80, srcA := 0x80, srcB := 0x80, mod := 6 }).wf = false := by decide
theorem test_wf_cvt_mode : (Instr.cvt { tSlot 4 with dst := 0x80, srcA := 0x80, mod := 0xC }).wf = false := by decide
theorem test_wf_mul_form : (Instr.mxMul { tSlot 8 with srcA := 0x80, srcB := 0x40, mod := 0x30 }).wf = false := by decide
theorem test_wf_custom_code : (Instr.custom { tSlot 4 with dst := 0x80, srcA := 0x80, srcB := 0x80, srcC := 0x80, imm := 0x40 }).wf = false := by decide
theorem test_wf_lane : (Instr.v2s { tSlot 13 with srcA := 0x80, imm := 64 }).wf = false := by decide
theorem test_wf_xfer_lines : (Instr.xfer { tSlot 10 with srcA := 0x40 }).wf = false := by decide
theorem test_wf_sxfer_lines : (Instr.sxfer { tSlot 10 with srcA := 0x40, mod := 0x44 }).wf = false := by decide
theorem test_wf_post_count : (Instr.post { tSlot 14 with imm := 5 }).wf = false := by decide
theorem test_wf_wait_token : (Instr.wait { tSlot 14 with imm := 0x14000 }).wf = false := by decide
theorem test_wf_test_token : (Instr.tokTest { tSlot 14 with imm := 16384 }).wf = false := by decide
theorem test_wf_jump_target : (Instr.jump { tSlot 15 with imm := 1024 }).wf = false := by decide
theorem test_wf_loop_bound : (Instr.tileLoop { tSlot 15 with imm := 5 }).wf = false := by decide
theorem test_wf_burst : (Instr.stagedWindowWrite ⟨⟨0, 0, 0, 0⟩, List.replicate 16 0, List.replicate 16 true⟩).wf = false := by decide
theorem test_wf_burst_mask : (Instr.registerWrite (.host ⟨⟨0, 0, 0, 0⟩, List.replicate 32 0, []⟩)).wf = false := by decide
theorem test_wf_fifo : (Instr.writeDqFifoTraining 0 [] .enter).wf = false := by decide
theorem test_wf_stage_slot : (Instr.stageRequest 56 ⟨.host, 0, 255⟩).wf = false := by decide
theorem test_wf_mailbox : (Instr.queueOpen ⟨0, 0, 0, 0, []⟩).wf = false := by decide
theorem test_wf_door : (Instr.reservation 6).wf = false := by decide
theorem test_wf_carousel : (Instr.carouselRelease 512).wf = false := by decide
theorem test_wf_dispatch_args : (Instr.dispatch ⟨0, 0, none, none, 0, 0, List.replicate 15 0, []⟩).wf = false := by decide

/-! ### Values that the manual works out -/

/-- Conversions to K12 of the table after R245: ties go to even, subnormals stay, out of range saturates. -/
theorem test_k12 : (toK12 (f32 0x3F810000)).code = 0x3C0 ∧ (toK12 (f32 0x3F830000)).code = 0x3C2 ∧ (toK12 (f32 0x36C00000)).code = 0x006 ∧
    (toK12 (f32 0xB5000000)).code = 0x800 ∧ (toK12 (f32 0x48435000)).code = 0x7FF ∧ (toK12 (f32 0x48435000)).sat = true ∧
    (toK12 (f32 0x7F800000)).code = 0x7FF ∧ (toK12 (f32 0x3F810000)).sat = false := by decide +kernel

/-- The Q8 weight worked out after R250. -/
theorem test_weight : (expandWeight 91 0x2E66).code = 0x489 := by decide +kernel

/-- The claims of the short census page: its height misread, its quota too small, and right (R134). -/
theorem test_census_claim : let a : Word := 0x10001000FF00012C
    let c := fun h => claimCheck a h.2 true false ⟨2, 0, 1000, 2480, h.1, 0, 300⟩ (fun _ => 0)
    c (35080, 2124) = .inl cDimLimit ∧ c (3508, 2000) = .inl cDimLimit ∧ c (3508, 2124) = .inr (2480, 3508) := by decide +kernel

/-- CRC-32 of the nine digits, the check value of the IEEE 802.3 polynomial (R322). -/
theorem test_crc : crc32 [0x31, 0x32, 0x33, 0x34, 0x35, 0x36, 0x37, 0x38, 0x39] = 0xCBF43926 := by decide +kernel

/-- SHA3-256 of no byte, as FIPS 202's examples give it (R359). -/
theorem test_sha3 : sha3 [] = [0xA7, 0xFF, 0xC6, 0xF8, 0xBF, 0x1E, 0xD7, 0x66, 0x51, 0xC1, 0x47, 0x56, 0xA0, 0x61, 0xD6, 0x62, 0xF5, 0x80, 0xFF, 0x4D, 0xE4, 0x3B,
    0x49, 0xFA, 0x82, 0xD8, 0x0A, 0x4B, 0x80, 0xF8, 0x43, 0x4A] := by decide +kernel

/-- A line cut from a truncated page may also be retried: TRUNCATED is reported (R9). -/
theorem test_strongest : pickCode [0x14, 0x02] = 0x02 := by decide

end Sys2Proof.Machine
end

section
/-! PROOFS. The register window as a source sees it (R4, R30, R35, R58, R531, R532): the one read and the one write of a register word that every
meaning of the window goes through, and the host's bursts by area (R37, R38). -/

namespace Sys2Proof.Machine

/-! ### Parts of the state -/

/-- A frame may name more parts than it has to. -/
theorem Only.mono {ps qs : List Part} {s t : State} (h : Only ps s t) (hs : ∀ p ∈ ps, p ∈ qs) : Only qs s t :=
  fun p => (h p).imp_left (hs p)

@[simp] theorem ibiSettle_hp (s : State) : (ibiSettle s).hp = s.hp := by unfold ibiSettle; split <;> rfl

/-! ### Reading one register word -/

theorem regWord_of_some {src : Src} {off : Nat} {s : State} {r : Word × State} (h : regRead off s = some r) : regWord src off s = r := by
  unfold regWord
  rw [h]

theorem regWord_of_none {src : Src} {off : Nat} {s : State} (h : regRead off s = none) :
    regWord src off s = (0, if src = .host then rzero s else s) := by
  unfold regWord
  rw [h]

theorem exec_rcRegisterRead {s : State} (h : Live s) (src : Src) (off : BitVec 16) :
    exec (.rcRegisterRead src off) s = .next (rcRead src off.toNat s) := run_live h _

/-- The source may read registers: it is not the host before the lock (R30). -/
theorem rcRead_visible {src : Src} {s : State} (hv : src ≠ .host ∨ locked s = true) (off : Nat) :
    rcRead src off s = { (regWord src (off / 8 * 8) s).2 with rd := (regWord src (off / 8 * 8) s).1 } := by
  have : ¬ (src = .host ∧ ¬ locked s = true) := by tauto
  simp only [rcRead, if_neg this]

theorem rcRead_of_some {src : Src} {s t : State} {off : Nat} {w : Word} (hv : src ≠ .host ∨ locked s = true)
    (h : regRead (off / 8 * 8) s = some (w, t)) : rcRead src off s = { t with rd := w } := by
  rw [rcRead_visible hv, regWord_of_some h]

theorem rcRead_of_none {src : Src} {s : State} {off : Nat} (hv : src ≠ .host ∨ locked s = true)
    (h : regRead (off / 8 * 8) s = none) : rcRead src off s = { (if src = .host then rzero s else s) with rd := 0 } := by
  rw [rcRead_visible hv, regWord_of_none h]

theorem rcRead_unlocked {s : State} (h : locked s = false) (off : Nat) : rcRead .host off s = { s with rd := 0 } := by
  simp [rcRead, h]

/-- Every table that is asked before the Safety net's ends below it (R441). -/
theorem regRead_of_snRead {off : Nat} {s : State} {r : Word × State} (hoff : 0xFA00 ≤ off) (h : snRead off s = some r) :
    regRead off s = some r := by
  have hne {c : Nat} (hc : c < 0xFA00) : off ≠ c := by omega
  have hlt {c : Nat} (hc : c ≤ 0xFA00) : ¬ off < c := by omega
  have h1 : hpRead off s = none := by simp [hpRead, hne, hlt]
  have h2 : dqRead off s = none := by simp [dqRead, hne, hlt]
  have h3 : sfRead off s = none := by simp [sfRead, sfPlain, hne, hlt]
  have h4 : ppRead off s = none := by simp [ppRead, hne, hlt]
  have h5 : tlRead off s = none := by simp [tlRead, hne, hlt]
  have h6 : kvRead off s = none := by simp [kvRead, hne, hlt]
  have h7 : dmRead off s = none := by simp [dmRead, hne, hlt]
  have h8 : siRead off s = none := by simp [siRead, hne, hlt]
  have h9 : cvRead off s = none := by simp [cvRead, hne, hlt]
  have h10 : rmRead off s = none := by simp [rmRead, hne, hlt]
  simp [regRead, h1, h2, h3, h4, h5, h6, h7, h8, h9, h10, h]

theorem snRead_count (s : State) {k : Nat} (hk : k < 8) : snRead (0xFA00 + 8 * k) s =
    some ((tabGet s.sn.cnt k 0).setWidth 64, { s with sn := { s.sn with cnt := tabSet s.sn.cnt k 0 } }) := by
  rw [snRead, if_pos (by omega)]
  simp

/-! ### Writing one register word -/

theorem exec_registerWrite {s : State} (h : Live s) (r : RegAccess) : exec (.registerWrite r) s = .next (registerWrite r s) := run_live h _

/-- The word write of a source that may write: not the host before the lock (R30). -/
theorem registerWrite_visible {src : Src} {s : State} (hv : src ≠ .host ∨ locked s = true) (off : BitVec 16) (d : Word) (be : BitVec 8) :
    registerWrite (.reg off ⟨src, d, be⟩) s = regWrite src (off.toNat / 8 * 8) d be s := by
  have : ¬ (src = .host ∧ ¬ locked s = true) := by tauto
  simp only [registerWrite, if_neg this]

theorem registerWrite_unlocked {s : State} (h : locked s = false) (off : BitVec 16) (d : Word) (be : BitVec 8) :
    registerWrite (.reg off ⟨.host, d, be⟩) s = s := by simp [registerWrite, h]

@[simp] theorem regWrite_noBytes (src : Src) (off : Nat) (d : Word) (s : State) : regWrite src off d 0 s = s := by simp [regWrite]

/-- In RUN no write waits (R485, R515). -/
theorem regWrite_run {s : State} (hm : s.pw.mode = modeRun) {be : BitVec 8} (hb : be ≠ 0) (src : Src) (off : Nat) (d : Word) :
    regWrite src off d be s = regApply src off d (enMask be) s := by
  rw [regWrite, if_neg hb, if_neg (by simp [mgmtHolds, holds, hm, modeRun, modeDeep, modeLeaving])]

theorem regApply_of_some {src : Src} {off : Nat} {d en : Word} {s t : State} (h : regPut src off d en s = some t) :
    regApply src off d en s = ibiSettle t := by
  unfold regApply
  rw [h]

theorem regApply_of_none {src : Src} {off : Nat} {d en : Word} {s : State} (h : regPut src off d en s = none) :
    regApply src off d en s = (match src with | .host => wdisc s | .mgmt | .jtag => mgErr s | .firmware => s) := by
  unfold regApply
  rw [h]
  cases src <;> rfl

theorem and_enMask_all (w : Word) : w &&& enMask 255#8 = w := by
  rw [show enMask 255#8 = BitVec.allOnes 64 by decide, BitVec.and_allOnes]

theorem registerWrite_of_some {src : Src} {off : BitVec 16} {d : Word} {be : BitVec 8} {s t : State} (hv : src ≠ .host ∨ locked s = true)
    (hm : s.pw.mode = modeRun) (hb : be ≠ 0) (h : regPut src (off.toNat / 8 * 8) d (enMask be) s = some t) :
    registerWrite (.reg off ⟨src, d, be⟩) s = ibiSettle t := by
  rw [registerWrite_visible hv, regWrite_run hm hb, regApply_of_some h]

theorem registerWrite_of_none {src : Src} {off : BitVec 16} {d : Word} {be : BitVec 8} {s : State} (hv : src ≠ .host ∨ locked s = true)
    (hm : s.pw.mode = modeRun) (hb : be ≠ 0) (h : regPut src (off.toNat / 8 * 8) d (enMask be) s = none) :
    registerWrite (.reg off ⟨src, d, be⟩) s = (match src with | .host => wdisc s | .mgmt | .jtag => mgErr s | .firmware => s) := by
  rw [registerWrite_visible hv, regWrite_run hm hb, regApply_of_none h]
  cases src <;> rfl

/-- A write that the host port takes changes the port, and settles the in-band interrupt. -/
theorem registerWrite_hp {src : Src} {off : BitVec 16} {d : Word} {be : BitVec 8} {s : State} {p : HostPort} (hl : Live s)
    (hv : src ≠ .host ∨ locked s = true) (hm : s.pw.mode = modeRun) (hb : be ≠ 0)
    (h : hpWrite src (off.toNat / 8 * 8) d (enMask be) s = some { s with hp := p }) :
    Does (.registerWrite (.reg off ⟨src, d, be⟩)) s (fun t => t.hp = p ∧ Only [.hp, .mg] s t) := by
  refine ⟨_, exec_registerWrite hl _, ?_⟩
  rw [registerWrite_of_some hv hm hb (regPut_hp h)]
  have hs : Only [.hp] s { s with hp := p } := fun q => by cases q <;> simp [Part.same]
  exact ⟨ibiSettle_hp _, (hs.mono (by simp)).trans ((ibiSettle_only _).mono (by simp))⟩

theorem hpWrite_alertEn (src : Src) (d : Word) (s : State) : hpWrite src 0x4060 d (enMask 255) s =
    some { s with hp := { s.hp with alertEn := (s.hp.alertEn &&& ~~~ 0x7F) ||| (d &&& 0x7F) } } := by
  simp [hpWrite, putBits, maskOf, and_enMask_all]

theorem hpWrite_alertStat (src : Src) (d : Word) (s : State) :
    hpWrite src 0x4058 d (enMask 255) s = some { s with hp := { s.hp with alertStat := s.hp.alertStat &&& ~~~ d } } := by
  simp [hpWrite, and_enMask_all]

/-! ### Host bursts -/

/-- A burst that reaches the window writes the area of its address. -/
theorem registerWrite_burst {s : State} (hl : locked s = true) {b₀ b : Burst} (hb : b = received s b₀)
    (ht : s.hp.training.getLsbD b.addr.ch.toNat = false) :
    registerWrite (.host b₀) s =
      burstWrite (busWindow s b.addr - busWindow s b.addr % (if b.data.length = 32 then 32 else 64)) b s := by
  subst hb; simp [registerWrite, ht, hl]

theorem registerWrite_burst_idle {s : State} {b₀ b : Burst} (hb : b = received s b₀)
    (h : s.hp.training.getLsbD b.addr.ch.toNat = true ∨ locked s = false) : registerWrite (.host b₀) s = s := by
  subst hb
  have : s.hp.training.getLsbD (received s b₀).addr.ch.toNat = true ∨ ¬ locked s = true := by simpa using h
  simp only [registerWrite, if_pos this]

theorem burstWrite_regs {a : Nat} {b : Burst} {s : State} (h : areaOf a = .regs) :
    burstWrite a b s = (writeWords a b).foldl (fun s w => regWrite .host w.1 w.2.1 w.2.2 s) s := by
  unfold burstWrite
  rw [h]

theorem burstWrite_carousel {a : Nat} {b : Burst} {s : State} (h : areaOf a = .carousel) : burstWrite a b s = carouselBurst a b s := by
  unfold burstWrite
  rw [h]

theorem burstWrite_remainder {a : Nat} {b : Burst} {s : State} (h : areaOf a = .remainder) : burstWrite a b s = wdisc s := by
  unfold burstWrite
  rw [h]

/-- The areas that take no write discard a burst (R38, R39, R532). -/
theorem burstWrite_readOnly {a : Nat} {b : Burst} {s : State}
    (h : areaOf a ∈ [Area.status, .probe, .reserved, .rings, .text, .stageBuf]) : burstWrite a b s = discardBurst b s := by
  unfold burstWrite
  simp only [List.mem_cons, List.not_mem_nil, or_false] at h
  rcases h with h | h | h | h | h | h <;> rw [h]

theorem Memory.read_writeMasked (m : Memory) (a : Nat) (bs : Bytes) (es : List Bool) (k : Nat) :
    Memory.read (Memory.writeMasked m a bs es) k =
      if a ≤ k ∧ es[k - a]? = some true then (bs[k - a]?).getD (Memory.read m k) else Memory.read m k := by
  induction bs generalizing m a es with
  | nil => simp [writeMasked]
  | cons b bs ih =>
    cases es with
    | nil => simp [writeMasked]
    | cons e es =>
      simp only [writeMasked, ih]
      rcases Nat.lt_trichotomy k a with h | rfl | h
      · rw [if_neg (show ¬ (a + 1 ≤ k ∧ _) by omega), if_neg (show ¬ (a ≤ k ∧ _) by omega)]
        cases e <;> simp [read_write, Nat.ne_of_lt h]
      · rw [if_neg (by omega)]
        cases e <;> simp [read_write]
      · obtain ⟨j, rfl⟩ : ∃ j, k = a + 1 + j := ⟨k - (a + 1), by omega⟩
        have hj : a + 1 + j - a = j + 1 := by omega
        have hk : Memory.read (if e then write m a b else m) (a + 1 + j) = Memory.read m (a + 1 + j) := by
          cases e <;> simp [read_write, show a + 1 + j ≠ a by omega]
        simp only [hk, hj, List.getElem?_cons_succ, Nat.add_sub_cancel_left, Nat.le_add_right, true_and, show a ≤ a + 1 + j by omega]

theorem setAp_only (m : Memory) (s : State) : Only [.mem] s (setAp s m) := fun p => by cases p <;> simp [Part.same, setAp]

theorem heal_only (m : MemKind) (unit lo n : Nat) (s : State) : Only [.dm] s (heal m unit lo n s) := fun p => by
  cases p <;> simp [Part.same]

/-- A Carousel burst stores its enabled bytes in the aperture; the fresh check bits of its words stand in the damage records (R324, R422). -/
theorem carouselBurst_parts (a : Nat) (b : Burst) (s : State) :
    (carouselBurst a b s).mem = { s.mem with ap := Memory.writeMasked s.mem.ap a b.data b.mask } ∧ Only [.mem, .dm] s (carouselBurst a b s) := by
  unfold carouselBurst
  generalize Memory.writeMasked s.mem.ap a b.data b.mask = m
  refine List.foldlRecOn (motive := fun t => t.mem = { s.mem with ap := m } ∧ Only [.mem, .dm] s t) _ _
    ⟨rfl, (setAp_only m s).mono (by simp)⟩ ?_
  rintro t ⟨hmem, honly⟩ w -
  split
  · exact ⟨hmem, honly⟩
  · exact ⟨hmem, honly.trans ((heal_only _ _ _ _ t).mono (by simp))⟩

/-- Settles O12: a word access comes down to `regRead` and `regPut` of its register, and a burst to `burstWrite` of its area. -/
theorem registerAccess : Obligations.RegisterAccess := by
  intro s src d be hl hm
  have read (src : Src) (off : BitVec 16) : exec (.rcRegisterRead src off) s = .next (rcRead src off.toNat s) := exec_rcRegisterRead hl src off
  have write (r : RegAccess) : exec (.registerWrite r) s = .next (registerWrite r s) := exec_registerWrite hl r
  refine ⟨fun hv => ⟨?named, ?unnamed, ?wdisc, ?rzero, ?mrwIgn, ?snCnt, ?noWord, ?takes, ?discards, ?noBytes, ?alertEn, ?alertStat⟩,
    ?hostDiscards, ?beforeLock, ?bursts⟩
  case named => exact fun off w t h => by rw [read, rcRead_of_some hv h]
  case unnamed => exact fun off h => by rw [read, rcRead_of_none hv h]
  case wdisc => rw [read, rcRead_of_some hv (regRead_hp rfl)]
  case rzero => rw [read, rcRead_of_some hv (regRead_hp rfl)]
  case mrwIgn => rw [read, rcRead_of_some hv (regRead_hp rfl)]
  case snCnt =>
    intro k hk
    have hoff : (BitVec.ofNat 16 (0xFA00 + 8 * k)).toNat / 8 * 8 = 0xFA00 + 8 * k := by simp; omega
    rw [read, rcRead_of_some hv (hoff ▸ regRead_of_snRead (by omega) (snRead_count s hk))]
  case noWord => rw [read, rcRead_of_none hv (regRead_none s)]
  case takes => exact fun off t hb h => by rw [write, registerWrite_of_some hv hm hb h]
  case discards => exact fun off hb h => by rw [write, registerWrite_of_none hv hm hb h]; cases src <;> rfl
  case noBytes => exact fun off => by rw [write, registerWrite_visible hv, regWrite_noBytes]
  case alertEn => exact registerWrite_hp hl hv hm (by decide) (hpWrite_alertEn src d s)
  case alertStat => exact registerWrite_hp hl hv hm (by decide) (hpWrite_alertStat src d s)
  case hostDiscards => exact fun hlk hb => by rw [write, registerWrite_of_none (.inr hlk) hm hb (regPut_none _ _ _ _)]
  case beforeLock => exact fun hu => ⟨by rw [read, rcRead_unlocked hu], by rw [write, registerWrite_unlocked hu]⟩
  case bursts =>
    intro b₀ b n a hb hn ha
    refine ⟨fun h => by rw [write, registerWrite_burst_idle hb h], fun ht hlk => ?_⟩
    have burst : exec (.registerWrite (.host b₀)) s = .next (burstWrite a b s) := by
      rw [write, registerWrite_burst hlk hb ht, ← hn, ← ha]
    rw [burst]
    refine ⟨fun h => ?regs, fun h _ _ => ?carousel, fun h => ?remainder, fun h => ?readOnly⟩
    case regs => rw [burstWrite_regs h]
    case carousel =>
      refine ⟨_, burst, ?_⟩
      obtain ⟨hmem, honly⟩ := carouselBurst_parts a b s
      rw [burstWrite_carousel h]
      refine ⟨fun i v e hv he => ?_, fun k hk => ?_, by rw [hmem], honly⟩
      · simp [hmem, Memory.read_writeMasked, hv, he]
      · rw [hmem, Memory.read_writeMasked]
        split
        · rw [List.getElem?_eq_none (by omega), Option.getD_none]
        · rfl
    case remainder => rw [burstWrite_remainder h]
    case readOnly => rw [burstWrite_readOnly h, discardBurst]

end Sys2Proof.Machine
end

section
/-! PROOFS. QUEUE_OPEN through the mailbox (R66 to R68, R389): what the device holds of a request, what a judgement leaves alone, and what an
accepted open leaves. -/

namespace Sys2Proof.Machine

/-! ### Frames -/

/-- A part that a frame does not name is as before. -/
theorem Only.same {ps : List Part} {s t : State} (h : Only ps s t) (p : Part) (hp : p ∉ ps) : p.same s t := (h p).resolve_left hp

theorem alert_only (i : Nat) (s : State) : Only [.hp] s (alert i s) := fun p => by cases p <;> simp [Part.same]

theorem setQueue_only (q : Nat) (r : Queue) (s : State) : Only [.dq] s (setQueue q r s) := fun p => by cases p <;> simp [Part.same]

/-! ### Queue records -/

theorem queue?_congr {s t : State} (h : t.dq.queues = s.dq.queues) (q : Nat) : queue? t q = queue? s q := by rw [queue?, queue?, h]

theorem qstate_congr {s t : State} {q : Nat} (h : queue? t q = queue? s q) : qstate t q = qstate s q := by rw [qstate, qstate, h]

theorem judgedAs_congr {s t : State} {q : Nat} (h : queue? t q = queue? s q) : judgedAs t q = judgedAs s q := by rw [judgedAs, judgedAs, h]

theorem declLines_congr {s t : State} (h : t.rm = s.rm) (cls : Nat) : declLines t cls = declLines s cls := by
  rw [declLines, declLines, declOf, declOf, h]

theorem queue?_setQueue (q p : Nat) (r : Queue) (s : State) : queue? (setQueue q r s) p = if p = q then some r else queue? s p := by
  split
  · next h => subst h; simp [queue?]
  · next h => simp [queue?, find_tabSet_ne _ _ _ _ h]

theorem qstate_of_queue {s : State} {q : Nat} {r : Queue} (h : queue? s q = some r) : qstate s q = r.st := by rw [qstate, h]

/-- The state of a queue is no part of what a judgement changes (R388). -/
theorem qstate_eq_judgedAs (s : State) (q : Nat) : qstate s q = ((judgedAs s q).map (·.st)).getD .closed := by
  unfold qstate judgedAs
  cases queue? s q <;> rfl

theorem pushQevt_queues (w : Word) (s : State) : (pushQevt w s).dq.queues = s.dq.queues := by unfold pushQevt; split <;> rfl

theorem pushQevt_taken (w : Word) (s : State) : (pushQevt w s).dq.taken = s.dq.taken := by unfold pushQevt; split <;> rfl

theorem pushQevt_only (w : Word) (s : State) : Only [.dq] s (pushQevt w s) := fun p => by
  unfold pushQevt; split <;> cases p <;> simp [Part.same]

/-- A queue that is not OPEN moves to OPEN: its record changes in the state alone (R62, R64). -/
theorem moveQueue_opened {s : State} {q : Nat} {r : Queue} (hq : queue? s q = some r) (hst : r.st ≠ .opened) :
    (∀ p, queue? (moveQueue q .opened s) p = if p = q then some { r with st := .opened } else queue? s p) ∧
      (moveQueue q .opened s).dq.taken = s.dq.taken ∧ Only [.hp, .dq] s (moveQueue q .opened s) := by
  have h : moveQueue q .opened s = alert 1 (pushQevt (qevtWord q .opened) (setQueue q { r with st := .opened } s)) := by
    simp [moveQueue, hq, hst]
  rw [h]
  refine ⟨fun p => ?_, pushQevt_taken _ _, ?_⟩
  · rw [queue?_congr (t := alert 1 _) (pushQevt_queues _ _), queue?_setQueue]
  · exact Only.trans ((Only.trans (setQueue_only _ _ _) (pushQevt_only _ _)).mono (by simp)) ((alert_only _ _).mono (by simp))

/-! ### Judgements -/

/-- A state that judgements of queues have left: each queue is as before but for its LINES, nothing else of Dechel changed, and outside of it the
Ringmaster alone, which notes the bounds (R388, R389, R394). -/
structure Judged (s t : State) : Prop where
  queues : ∀ p, judgedAs t p = judgedAs s p
  dq : t.dq = { s.dq with queues := t.dq.queues }
  only : Only [.dq, .rm] s t

theorem Judged.refl (s : State) : Judged s s := ⟨fun _ => rfl, rfl, Only.refl _ _⟩

theorem Judged.trans {s t u : State} (h : Judged s t) (k : Judged t u) : Judged s u where
  queues p := (k.queues p).trans (h.queues p)
  dq := by rw [k.dq, h.dq]
  only := h.only.trans k.only

theorem reqTag_congr {s t : State} (h : t.dq.taken = s.dq.taken) : reqTag t = reqTag s := by rw [reqTag, reqTag, reqWord, reqWord, h]

theorem Judged.reqTag_eq {s t : State} (h : Judged s t) : reqTag t = reqTag s := reqTag_congr (by rw [h.dq])

theorem Judged.qstate_eq {s t : State} (h : Judged s t) (q : Nat) : qstate t q = qstate s q := by
  rw [qstate_eq_judgedAs, qstate_eq_judgedAs, h.queues]

theorem modLines_judged (q : Nat) (f : Queue → Nat) (s : State) : Judged s (modQueue q (fun x => { x with lines := f x }) s) := by
  unfold modQueue
  split
  · next r hr =>
    refine ⟨fun p => ?_, rfl, (setQueue_only _ _ _).mono (by simp)⟩
    unfold judgedAs
    rw [queue?_setQueue]
    split
    · next h => subst h; rw [hr]; rfl
    · rfl
  · exact Judged.refl s

theorem setQstat_judged (l : List (Nat × QStat)) (s : State) : Judged s { s with rm := { s.rm with qstat := l } } :=
  ⟨fun _ => rfl, rfl, fun p => by cases p <;> simp [Part.same]⟩

theorem noteBound_judged (q : Nat) (b : Bound) (s : State) : Judged s (noteBound q b s) :=
  (setQstat_judged _ s).trans (modLines_judged q (fun x => declLines s x.cls) _)

theorem foldNotes_judged {s u : State} (hu : Judged s u) (f : State → TQ → Bound) (l : List TQ) :
    Judged s (l.foldl (fun s x => noteBound x.q (f s x) s) u) :=
  List.foldlRecOn (motive := Judged s) _ _ hu (fun _ ht _ _ => ht.trans (noteBound_judged _ _ _))

/-- Whatever a judgement answers, it leaves a judged state. The answer is named in a hypothesis, for a projection of `judge` would make the kernel
evaluate the bounds. -/
theorem judge_judged {cand : TQ} {s u : State} {ok : Bool} {b : Nat} (h : judge cand s = (ok, b, u)) : Judged s u := by
  have h1 := noteBound_judged cand.q (boundOf s s.si.conf (cand :: openTqs s cand.q) cand) s
  have hs := foldNotes_judged h1 (fun s' x => boundOf s' s.si.conf (cand :: openTqs s cand.q) x)
  unfold judge at h
  dsimp only at h
  split at h
  · cases h; exact h1
  · split at h
    · cases h; exact hs _
    · cases h; exact hs _

/-! ### What jobs and flows leave alone -/

theorem addJobs_only (js : List Job) (s : State) : Only [.rm] s (addJobs js s) := by
  unfold addJobs
  refine List.foldlRecOn (motive := Only [.rm] s) _ _ (Only.refl _ _) (fun t ht j _ => ?_)
  dsimp only
  split
  · exact ht.trans (fun p => by cases p <;> simp [Part.same])
  · exact ht

theorem reserveOne_only (f : Nat) (s : State) : Only [.cv, .pp] s (reserveOne f s) := by
  unfold reserveOne
  split
  · dsimp only
    split
    · exact fun p => by cases p <;> simp [Part.same, r2take]
    · exact Only.refl _ _
  · exact Only.refl _ _

theorem reserveFlow_only (f : Nat) (s : State) : Only [.cv, .pp] s (reserveFlow f s) :=
  (((reserveOne_only f _).trans (reserveOne_only f _)).trans (reserveOne_only f _)).trans (reserveOne_only f _)

theorem reserveFlows_only (s : State) : Only [.cv, .pp] s (reserveFlows s) :=
  List.foldlRecOn (motive := Only [.cv, .pp] s) _ _ (Only.refl _ _) (fun _ ht f _ => ht.trans (reserveFlow_only f _))

/-! ### Requests and replies -/

theorem postReply_queue? (tag code st : Nat) (r8 r10 : Word) (s : State) (p : Nat) : queue? (postReply tag code st r8 r10 s) p = queue? s p := rfl

theorem postReply_reply (tag code st : Nat) (r8 r10 : Word) (s : State) : (postReply tag code st r8 r10 s).dq.reply =
    [(0, place tag 0 32 ||| place code 32 8 ||| place st 40 8), (1, r8), (2, r10)] := rfl

theorem postReply_only (tag code st : Nat) (r8 r10 : Word) (s : State) : Only [.hp, .dq] s (postReply tag code st r8 r10 s) :=
  fun p => by cases p <;> simp [Part.same, postReply]

theorem postReply_alert (tag code st : Nat) (r8 r10 : Word) (s : State) : bitOf (postReply tag code st r8 r10 s).hp.alertStat 6 = true := by
  simp [postReply, bitOf, maskOf]

/-- A refusal replies and touches no queue (R66). -/
theorem postReply_refusal {s s' : State} (hs : Only [.dq] s s') (hq : s'.dq.queues = s.dq.queues) (tag code st : Nat) :
    (postReply tag code st 0 0 s').dq.queues = s.dq.queues ∧ (postReply tag code st 0 0 s').dq.reply =
      [(0, place tag 0 32 ||| place code 32 8 ||| place st 40 8), (1, 0), (2, 0)] ∧ Only [.hp, .dq] s (postReply tag code st 0 0 s') :=
  ⟨hq, rfl, (hs.mono (by simp)).trans (postReply_only _ _ _ _ _ _)⟩

theorem mboxTaken_only (mop : Nat) (r : MboxRec) (s : State) : Only [.dq] s (mboxTaken mop r s) := fun p => by
  cases p <;> simp [Part.same, mboxTaken, mboxPut]

theorem reqWord_mboxTaken (mop : Nat) (r : MboxRec) (s : State) {k : Nat} (hk : k < 14) :
    reqWord (mboxTaken mop r s) (k + 2) = nth r.args k 0 := by
  interval_cases k <;> rfl

theorem fld_lt (w : Word) (lo n : Nat) : fld w lo n < 2 ^ n := Nat.mod_lt _ (Nat.two_pow_pos n)

theorem fld_eq_extract (w : Word) (lo n : Nat) : fld w lo n = (w.extractLsb' lo n).toNat := by simp [fld]

theorem reqTag_mboxTaken (mop : Nat) (r : MboxRec) (s : State) : reqTag (mboxTaken mop r s) = r.tag.toNat := by
  have h : reqWord (mboxTaken mop r s) 1 = r.rsvHi.setWidth 64 <<< 48 ||| r.tag.setWidth 64 <<< 16 ||| r.rsvLo.setWidth 64 <<< 1 := rfl
  rw [reqTag, h, fld_eq_extract]
  congr 1
  ext i hi
  simp [show 16 + i < 64 by omega, show 16 + i < 48 by omega, BitVec.getLsbD_eq_getElem hi]

theorem reqMop_mboxTaken_open (r : MboxRec) (s : State) : fld (reqWord (mboxTaken 1 r s) 0) 0 8 = 1 := by
  have h : reqWord (mboxTaken 1 r s) 0 = r.rsv0.setWidth 64 <<< 8 ||| 1 := rfl
  have low : (r.rsv0.setWidth 64 <<< 8).toNat % 2 ^ 8 = 0 := by simp [Nat.shiftLeft_eq]
  rw [h, fld, Nat.shiftRight_zero, BitVec.toNat_or, Nat.or_mod_two_pow, low]
  rfl

/-- A mailbox request that need not wait is acted on with the record as its GO found it (R66). -/
theorem exec_queueOpen {s : State} (r : MboxRec) (hl : Live s) (hk : locked s = true) (h1 : s.pw.mode ≠ modeLeaving) (h2 : s.pw.mode ≠ modeDeep)
    (hb : s.dq.busy = none) : exec (.queueOpen r) s = .next (actMbox (mboxTaken 1 r s)) := by
  have h : exec (.queueOpen r) s = .next (hostAct (mboxRow 1 r) s) := run_live hl _
  rw [h, hostAct, if_pos hk, mboxRow, if_neg (by simp [hb]), if_neg (by simp [h1, h2])]
  rfl

/-! ### QUEUE_OPEN -/

theorem openCheck_of_not_closed {s : State} (h : qstate s (fld (reqWord s 2) 0 16) ≠ .closed) : openCheck s = cClaim := by
  simp only [openCheck, if_pos h]

theorem openCheck_of_g3 {s : State} (h : qstate s (fld (reqWord s 2) 0 16) = .closed) (hg : fld (reqWord s 2) 16 4 ≠ 0) :
    openCheck s = cReserved := by
  simp only [openCheck, if_neg (not_not.2 h), if_pos hg]

theorem openCheck_of_gen {s : State} (h : qstate s (fld (reqWord s 2) 0 16) = .closed) (hg : fld (reqWord s 2) 16 4 = 0)
    (hv : fld (reqWord s 2) 20 4 = 0 ∨ 3 < fld (reqWord s 2) 20 4) : openCheck s = cVersion := by
  have hv' : fld (reqWord s 2) 20 4 < 1 ∨ 3 < fld (reqWord s 2) 20 4 ∨
      (fld (reqWord s 2) 20 4 = 1 ∧ 0x0FFF < fld (reqWord s 2) 0 16) := by omega
  simp only [openCheck, if_neg (not_not.2 h), if_neg (not_not.2 hg), if_pos hv']

theorem actMbox_reserved {s : State} (hs : swapping s = false) (hm : fld (reqWord s 0) 0 8 = 1) (hr : reqReserved s 1 = true) :
    actMbox s = postReply (reqTag s) cReserved (qstate s (fld (reqWord s 2) 0 16)).value 0 0 s := by
  simp [actMbox, hs, hm, hr]

theorem actMbox_open {s : State} (hs : swapping s = false) (hm : fld (reqWord s 0) 0 8 = 1) (hr : reqReserved s 1 = false)
    (hd : loading s (fld (reqWord s 2) 28 4) = false) : actMbox s = doOpen s := by
  simp [actMbox, hs, hm, hr, hd]

/-! The three answers of `doOpen`. Its body is entered by `delta` and taken apart branch by branch: a simplified body with projections of `judge`
would have to be evaluated to be compared. -/

theorem doOpen_refused {s : State} (h : openCheck s ≠ 0) :
    doOpen s = postReply (reqTag s) (openCheck s) (qstate s (fld (reqWord s 2) 0 16)).value 0 0 s := by
  delta doOpen
  exact if_pos h

/-- The queue that an open request asks to be judged (R67, R389). -/
def openCandidate (s : State) : TQ :=
  ⟨fld (reqWord s 2) 0 16, (openedQueue s).part, (openedQueue s).cls, (openedQueue s).quota⟩

/-- A queue's new record stands and its counters are clear (R67, R394). -/
def enrolled (q : Nat) (r : Queue) (s : State) : State :=
  let s := setQueue q r s
  { s with rm := { s.rm with qstat := tabSet s.rm.qstat q { tabGet s.rm.qstat q QStat.init with wait := 0, preempt := 0 } } }

/-- The accepted open before its reply: the enrolled queue is OPEN and has its jobs, and the flows reserve what they can (R67, R372, R401). -/
def acceptedOpen (q : Nat) (r : Queue) (s : State) : State :=
  reserveFlows (addJobs (queueJobs (enrolled q r s).si.conf q r.part r.cls) (moveQueue q .opened (enrolled q r s)))

theorem doOpen_notAdmissible {s u : State} {b : Nat} (h : openCheck s = 0) (hj : judge (openCandidate s) s = (false, b, u)) :
    doOpen s = postReply (reqTag u) cNotAdmissible (qstate u (fld (reqWord s 2) 0 16)).value 0 (BitVec.ofNat 64 b) u := by
  delta doOpen
  refine (if_neg (not_not.2 h)).trans ?_
  extract_lets r
  rw [show judge ⟨fld (reqWord s 2) 0 16, r.part, r.cls, r.quota⟩ s = _ from hj]
  exact if_neg Bool.false_ne_true

theorem doOpen_accepted {s u v : State} {b : Nat} (h : openCheck s = 0) (hj : judge (openCandidate s) s = (true, b, u))
    (hv : v = acceptedOpen (fld (reqWord s 2) 0 16) (openedQueue s) u) :
    doOpen s = postReply (reqTag v) cOk (qstate v (fld (reqWord s 2) 0 16)).value (place (openedQueue s).gen 0 4) (BitVec.ofNat 64 b) v := by
  delta doOpen
  refine (if_neg (not_not.2 h)).trans ?_
  extract_lets r
  rw [show judge ⟨fld (reqWord s 2) 0 16, r.part, r.cls, r.quota⟩ s = _ from hj, hv]
  exact if_pos rfl

theorem queue?_enrolled (q p : Nat) (r : Queue) (s : State) : queue? (enrolled q r s) p = if p = q then some r else queue? s p :=
  queue?_setQueue q p r s

theorem enrolled_only (q : Nat) (r : Queue) (s : State) : Only [.dq, .rm] s (enrolled q r s) := fun p => by
  cases p <;> simp [Part.same, enrolled]

/-- An accepted open changes the record of its queue alone, and keeps the request that was taken. -/
theorem acceptedOpen_parts (q : Nat) (r : Queue) (s : State) (hr : r.st = .closed) :
    (∀ p, queue? (acceptedOpen q r s) p = if p = q then some { r with st := .opened } else queue? s p) ∧
      (acceptedOpen q r s).dq.taken = s.dq.taken ∧ Only [.hp, .dq, .rm, .cv, .pp] s (acceptedOpen q r s) := by
  obtain ⟨hmove, htaken, hframe⟩ :=
    moveQueue_opened ((queue?_enrolled q q r s).trans (if_pos rfl)) (show r.st ≠ .opened by rw [hr]; decide)
  have hjobs := addJobs_only (queueJobs (enrolled q r s).si.conf q r.part r.cls) (moveQueue q .opened (enrolled q r s))
  have hflows : Only [.cv, .pp] _ (acceptedOpen q r s) := reserveFlows_only _
  have hdq : (acceptedOpen q r s).dq = (moveQueue q .opened (enrolled q r s)).dq :=
    (hflows.same .dq (by decide)).trans (hjobs.same .dq (by decide))
  refine ⟨fun p => ?_, (congrArg _ hdq).trans htaken, ?_⟩
  · rw [queue?_congr (congrArg _ hdq), hmove, queue?_enrolled]
    split <;> rfl
  · have hmoved : Only [.hp, .dq, .rm] s (moveQueue q .opened (enrolled q r s)) :=
      ((enrolled_only q r s).mono (by simp)).trans (hframe.mono (by simp))
    exact (hmoved.mono (by simp)).trans (Only.trans (hjobs.mono (by simp)) (hflows.mono (by simp)))

/-- An accepted open leaves its queue OPEN with the record that the request describes (R62, R67). -/
theorem acceptedOpen_queue (s' u : State) :
    queue? (acceptedOpen (fld (reqWord s' 2) 0 16) (openedQueue s') u) (fld (reqWord s' 2) 0 16) = some { openedQueue s' with st := .opened } :=
  ((acceptedOpen_parts _ _ u rfl).1 _).trans (if_pos rfl)

/-- Settles O14: the request is acted on as the device holds it, each reply is one `postReply`, a judgement changes LINES and the noted bounds alone
(`judge_judged`), and an accepted open the record of its queue alone (`acceptedOpen_parts`). -/
theorem mailboxOpen : Obligations.MailboxOpen := by
  intro s s' r w q hl hk hlv hdp hs hb hs' hw hq
  have hexec : exec (.queueOpen r) s = .next (actMbox s') := hs' ▸ exec_queueOpen r hl hk hlv hdp hb
  have hmop : fld (reqWord s' 0) 0 8 = 1 := hs' ▸ reqMop_mboxTaken_open r s
  have htag : reqTag s' = r.tag.toNat := hs' ▸ reqTag_mboxTaken 1 r s
  have hframe : Only [.dq] s s' := hs' ▸ mboxTaken_only 1 r s
  have hqueues : s'.dq.queues = s.dq.queues := hs' ▸ rfl
  have hload (part : Nat) : loading s' part = loading s part := hs' ▸ rfl
  have hswap : swapping s' = false := hs' ▸ hs
  have hw2 : w = reqWord s' 2 := by rw [hw, hs', reqWord_mboxTaken _ _ _ (by decide)]
  have hw4 : nth r.args 2 0 = reqWord s' 4 := by rw [hs', reqWord_mboxTaken _ _ _ (by decide)]
  have hw5 : nth r.args 3 0 = reqWord s' 5 := by rw [hs', reqWord_mboxTaken _ _ _ (by decide)]
  have hstate (p : Nat) : qstate s p = qstate s' p := (qstate_congr (queue?_congr hqueues p)).symm
  clear hs' hw hs
  subst hw2 hq
  rw [hw4, hw5, hstate, ← hload, ← htag]
  refine ⟨fun hr => ?reserved, fun hr hd hc => ?refused, openCheck_of_not_closed, openCheck_of_g3, openCheck_of_gen,
    fun ok b u hj hr hd hc => ⟨?notAdmissible, ?accepted⟩⟩
  case reserved => exact ⟨_, hexec.trans (congrArg _ (actMbox_reserved hswap hmop hr)), postReply_refusal hframe hqueues _ _ _⟩
  case refused =>
    exact ⟨_, hexec.trans (congrArg _ ((actMbox_open hswap hmop hr hd).trans (doOpen_refused hc))),
      postReply_refusal hframe hqueues _ _ _⟩
  case notAdmissible =>
    rintro rfl
    have hu := judge_judged hj
    refine ⟨_, hexec.trans (congrArg _ ((actMbox_open hswap hmop hr hd).trans (doOpen_notAdmissible hc hj))), fun p => ?_, ?_, ?_⟩
    · exact (judgedAs_congr (postReply_queue? _ _ _ _ _ _ p)).trans <| (hu.queues p).trans (judgedAs_congr (queue?_congr hqueues p))
    · rw [postReply_reply, hu.reqTag_eq, hu.qstate_eq]
    · exact ((hframe.mono (by simp)).trans (hu.only.mono (by simp))).trans ((postReply_only _ _ _ _ _ _).mono (by simp))
  case accepted =>
    rintro rfl
    have hu := judge_judged hj
    obtain ⟨hqueue, htaken, hadm⟩ := acceptedOpen_parts (fld (reqWord s' 2) 0 16) (openedQueue s') u rfl
    refine ⟨_, hexec.trans (congrArg _ ((actMbox_open hswap hmop hr hd).trans (doOpen_accepted hc hj rfl))), ?_, fun p hp => ?_, ?_,
      postReply_alert _ _ _ _ _ _, ?_⟩
    · refine ⟨_, (postReply_queue? _ _ _ _ _ _ _).trans (acceptedOpen_queue s' u), rfl, rfl, rfl, rfl, rfl, rfl, ?_, rfl, rfl, rfl, rfl, rfl,
        declLines_congr (hframe.same .rm (by decide)) _⟩
      exact (BitVec.toNat_ofNat _ _).trans (Nat.mod_eq_of_lt (fld_lt _ _ _))
    · exact (judgedAs_congr ((postReply_queue? _ _ _ _ _ _ p).trans ((hqueue p).trans (if_neg hp)))).trans
        ((hu.queues p).trans (judgedAs_congr (queue?_congr hqueues p)))
    · rw [postReply_reply, (reqTag_congr htaken).trans hu.reqTag_eq, qstate_of_queue (acceptedOpen_queue s' u)]
      rfl
    · exact (((hframe.mono (by simp)).trans (hu.only.mono (by simp))).trans hadm).trans ((postReply_only _ _ _ _ _ _).mono (by simp))

end Sys2Proof.Machine
end

section
/-! PROOFS. Doors of the scan front and pages of the page table: what their shared operations set and leave alone, reservations (R123) and camera
packets (R125 to R129). -/

namespace Sys2Proof.Machine

/-! ### Doors and pages -/

theorem door_setDoor (d e : Nat) (x : Door) (s : State) : door (setDoor d x s) e = if e = d then x else door s e := tabGet_tabSet _ _ _ _ _

@[simp] theorem door_setDoor_self (d : Nat) (x : Door) (s : State) : door (setDoor d x s) d = x := tabGet_tabSet_self _ _ _ _

theorem door_setDoor_ne {d e : Nat} (h : e ≠ d) (x : Door) (s : State) : door (setDoor d x s) e = door s e := tabGet_tabSet_ne _ _ _ _ _ h

theorem setDoor_only (d : Nat) (x : Door) (s : State) : Only [.sf] s (setDoor d x s) := fun p => by cases p <;> simp [Part.same]

theorem page?_setPage (p : Page) (id : BitVec 32) (s : State) : page? (setPage p s) id = if id = p.id then some p else page? s id := by
  split
  · next h => subst h; simp [page?]
  · next h => simp [page?, find_tabSet_ne _ _ _ _ (fun e => h (BitVec.eq_of_toNat_eq e))]

theorem setPage_only (p : Page) (s : State) : Only [.pp] s (setPage p s) := fun q => by cases q <;> simp [Part.same]

theorem modPage_of_some {pid : BitVec 32} {p : Page} {s : State} (h : page? s pid = some p) (f : Page → Page) :
    modPage pid f s = setPage (f p) s := by simp [modPage, h]

theorem page?_modPage_self {pid : BitVec 32} {p : Page} {s : State} (h : page? s pid = some p) (f : Page → Page) (hid : (f p).id = pid) :
    page? (modPage pid f s) pid = some (f p) := by
  rw [modPage_of_some h, page?_setPage, if_pos hid.symm]

theorem modPage_only (pid : BitVec 32) (f : Page → Page) (s : State) : Only [.pp] s (modPage pid f s) := by
  unfold modPage
  split
  · exact setPage_only _ _
  · exact Only.refl _ _

theorem barker_noted_only {sev : Nat} (h : sev < 2) (event : Nat) (r : EventRef) (s : State) : Only [.sn] s (barker event sev r s) := by
  unfold barker
  rw [if_neg (by omega)]
  exact fun p => by cases p <;> simp [Part.same]

theorem barker_noted_eseq {sev : Nat} (h : sev < 2) (event : Nat) (r : EventRef) (s : State) :
    (barker event sev r s).sn.eseq = s.sn.eseq + 1 := by
  unfold barker
  rw [if_neg (by omega)]

theorem page?_congr {s t : State} (h : t.pp = s.pp) (id : BitVec 32) : page? t id = page? s id := by rw [page?, page?, h]

theorem door_congr {s t : State} (h : t.sf = s.sf) (d : Nat) : door t d = door s d := by rw [door, door, h]

/-! ### Reservations -/

/-- A queue with no record ready need not hold (R87). -/
theorem holdCheck_of_nextRec {s : State} {q : Nat} {r : Queue} (hq : queue? s q = some r) (hn : nextRec r = none) : holdCheck q s = s := by
  simp [holdCheck, hq, hn]

/-- The decision of R123 leaves everything as it is. -/
def Declines (s : State) (d : Nat) (r : Queue) (a : Arming) (need : Resv) : Prop :=
  r.st ≠ .opened ∨ draining s r.part = true ∨ (door s d).free = true ∨ (door s d).expect = false ∨ a.ended = true ∨ a.left = 0 ∨
    (door s d).cal ≠ 0 ∨ r2free s < need.total

/-- The arming after one more page is reserved under it (R98, R123). -/
def Arming.counted (a : Arming) : Arming :=
  { a with left := if a.left = 0xFFFFFFFF then a.left else a.left - 1
           ended := (if a.left = 0xFFFFFFFF then a.left else a.left - 1) == 0 }

/-- The door that has taken a reservation under its last arming (R99, R123). -/
def Door.reserved (x : Door) (a : Arming) (need : Resv) : Door :=
  { x with free := true, freeBytes := need, freeArm := a.cseq, expect := false, arms := x.arms.dropLast ++ [a.counted],
           seen := x.page.isNone && !x.lost && !x.skip && decide (0 < x.run),
           armDone := if a.counted.left = 0 then x.armDone ++ [a.cseq] else x.armDone }

section
variable {s : State} {d q : Nat} {r : Queue} {a : Arming} {need : Resv} (hd : doorQueue s d = some (q, r)) (hq : queue? s q = some r)
  (ha : (door s d).arms.getLast? = some a) (hn : nextRec r = none) (hneed : need = resvOf s r (scanBufBytes s d r.cls a))
include hd hq ha hn hneed

theorem reservation_declined (h : Declines s d r a need) : reservation d s = s := by
  subst hneed
  simp only [reservation, hd, ha, holdCheck_of_nextRec hq hn, qstate_of_queue hq]
  rw [if_pos]
  simp only [Declines] at h
  simp only [Bool.not_eq_true]
  tauto

theorem reservation_taken (h : ¬ Declines s d r a need) :
    reservation d s = setDoor d ((door s d).reserved a need) (r2take need.total s) := by
  subst hneed
  simp only [reservation, hd, ha, holdCheck_of_nextRec hq hn, qstate_of_queue hq]
  rw [if_neg]
  · rfl
  · simp only [Declines] at h
    simp only [Bool.not_eq_true]
    tauto

end

theorem reservation_of_no_queue {s : State} {d : Nat} (h : doorQueue s d = none) : reservation d s = s := by simp [reservation, h]

theorem reservation_of_no_arming {s : State} {d : Nat} (h : (door s d).arms = []) : reservation d s = s := by
  unfold reservation
  split
  · rfl
  · simp [h]

/-! ### The end of a page at a door -/

theorem door_boundary (d e : Nat) (s : State) :
    door (boundary d s) e = if e = d then { door s d with expect := !(door s d).free } else door s e := door_setDoor _ _ _ _

theorem boundary_only (d : Nat) (s : State) : Only [.sf] s (boundary d s) := fun p => by cases p <;> simp [Part.same, boundary]

theorem boundary_cnt (d : Nat) (s : State) : (boundary d s).sf.cnt = s.sf.cnt := rfl

theorem boundary_pp (d : Nat) (s : State) : (boundary d s).pp = s.pp := rfl

/-- What the end of a scan does to the page in progress (R17, R122): its frame stands, its deadline starts, its data is complete. -/
def framed (d : Nat) (cut : Bool) (t : BitVec 64) (s : State) (p : Page) : Page :=
  let f := frameOf s d p (door s d) cut
  { p with frame := some f, buf := frameBytes f ++ List.replicate 32 0 ++ p.buf.drop 64, start := some t, dataEnd := true }

/-- A door whose page in progress, or lost page, has ended. -/
def Door.over (x : Door) (cut : Bool) : Door :=
  { x with page := none, lost := false, skip := cut, run := 0, nonRun := 0, count := 0, repaired := false }

theorem endScan_of_no_page {d : Nat} {s : State} (h : (door s d).page = none) (cut : Bool) (t : BitVec 64) :
    endScan d cut t s = boundary d (setDoor d ((door s d).over cut) s) := by
  simp [endScan, h, Door.over]

/-- The page in progress has ended; a cut one is noted in the Barker log, which changes no other part. -/
theorem endScan_of_page {d : Nat} {s : State} {pid : BitVec 32} (h : (door s d).page = some pid) (cut : Bool) (t : BitVec 64) :
    ∃ u, endScan d cut t s = boundary d (setDoor d ((door s d).over cut) u) ∧ Only [.sn] (modPage pid (framed d cut t s) s) u ∧
      (cut = false → u = modPage pid (framed d cut t s) s) := by
  cases cut
  · exact ⟨modPage pid (framed d false t s) s, by simp only [endScan, h]; rfl, Only.refl _ _, fun _ => rfl⟩
  · exact ⟨_, by simp only [endScan, h]; rfl, barker_noted_only (by decide : 0 < 2) _ _ _, by simp⟩

/-- What ends a page at a door, or may end it: other doors, the door's reservation and the counters stay; without a page in progress nothing outside
the scan front changes, and a page in progress keeps its lines and stays, or has its data. -/
structure MayEnd (d : Nat) (s t : State) : Prop where
  doors : ∀ e, e ≠ d → door t e = door s e
  free : (door t d).free = (door s d).free
  cnt : t.sf.cnt = s.sf.cnt
  frame : Only [.sf, .pp, .sn] s t
  idle : (door s d).page = none → Only [.sf] s t
  page : ∀ pid p, (door s d).page = some pid → page? s pid = some p → p.id = pid →
    ∃ f b a e, page? t pid = some { p with frame := f, buf := b, start := a, dataEnd := e } ∧ ((door t d).page = some pid ∨ e = true)

theorem MayEnd.refl (d : Nat) (s : State) : MayEnd d s s :=
  ⟨fun _ _ => rfl, rfl, rfl, Only.refl _ _, fun _ => Only.refl _ _, fun _ p hx hp _ => ⟨p.frame, p.buf, p.start, p.dataEnd, hp, .inl hx⟩⟩

/-- A door may change in fields that are neither its page nor its reservation. -/
theorem MayEnd.setDoor {d : Nat} {s t : State} {x : Door} (h : MayEnd d s t) (hp : x.page = (door t d).page) (hf : x.free = (door t d).free) :
    MayEnd d s (setDoor d x t) where
  doors e he := (door_setDoor_ne he _ _).trans (h.doors e he)
  free := by rw [door_setDoor_self, hf, h.free]
  cnt := h.cnt
  frame := h.frame.trans ((setDoor_only _ _ _).mono (by simp))
  idle hx := (h.idle hx).trans (setDoor_only _ _ _)
  page pid p hx hp' hid := by
    obtain ⟨f, b, a, e, hpage, hend⟩ := h.page pid p hx hp' hid
    exact ⟨f, b, a, e, hpage, by rwa [door_setDoor_self, hp]⟩

theorem endScan_page {d : Nat} {s : State} {pid : BitVec 32} {p : Page} (hx : (door s d).page = some pid) (hp : page? s pid = some p)
    (hid : p.id = pid) (cut : Bool) (t : BitVec 64) : page? (endScan d cut t s) pid = some (framed d cut t s p) := by
  obtain ⟨u, hu, hframe, -⟩ := endScan_of_page hx cut t
  rw [hu, page?_congr (boundary_pp _ _), page?_congr (setDoor_pp _ _ _), page?_congr (hframe.same .pp (by decide))]
  exact page?_modPage_self hp _ hid

theorem door_endScan_self (d : Nat) (cut : Bool) (t : BitVec 64) (s : State) :
    door (endScan d cut t s) d = { (door s d).over cut with expect := !(door s d).free } := by
  cases hx : (door s d).page with
  | none => simp [endScan_of_no_page hx, door_boundary, Door.over]
  | some pid =>
    obtain ⟨u, hu, -, -⟩ := endScan_of_page hx cut t
    simp [hu, door_boundary, Door.over]

theorem endScan_mayEnd (d : Nat) (cut : Bool) (t : BitVec 64) (s : State) : MayEnd d s (endScan d cut t s) := by
  have hself := door_endScan_self d cut t s
  cases hx : (door s d).page with
  | none =>
    have hframe : Only [.sf] s (endScan d cut t s) := by
      rw [endScan_of_no_page hx]
      exact (setDoor_only _ _ _).trans (boundary_only _ _)
    refine ⟨fun e he => ?_, by rw [hself]; rfl, ?_, hframe.mono (by simp), fun _ => hframe, by simp [hx]⟩
    · rw [endScan_of_no_page hx, door_boundary, if_neg he, door_setDoor_ne he]
    · rw [endScan_of_no_page hx, boundary_cnt]
      rfl
  | some pid =>
    obtain ⟨u, hu, hlog, -⟩ := endScan_of_page hx cut t
    have hpp : Only [.sf, .pp, .sn] s u := ((modPage_only _ _ s).mono (by simp)).trans (hlog.mono (by simp))
    have hsf : u.sf = s.sf := (hlog.same .sf (by decide)).trans ((modPage_only pid _ s).same .sf (by decide))
    refine ⟨fun e he => ?_, by rw [hself]; rfl, ?_, ?_, by simp [hx], fun pid' p hx' hp hid => ?_⟩
    · rw [hu, door_boundary, if_neg he, door_setDoor_ne he, door_congr hsf]
    · rw [hu, boundary_cnt, ← hsf]
      rfl
    · rw [hu]
      exact (hpp.trans ((setDoor_only _ _ _).mono (by simp))).trans ((boundary_only _ _).mono (by simp))
    · exact ⟨_, _, _, _, endScan_page hx' hp hid cut t, .inr rfl⟩

/-! ### The start of a page at a door -/

/-- A queue that a door feeds is a scan queue (R95). -/
theorem doorQueue_door {s : State} {d q : Nat} {r : Queue} (h : doorQueue s d = some (q, r)) : r.door ≠ 0 := by
  have := List.find?_some h
  simp only [Bool.and_eq_true, Bool.or_eq_true, beq_iff_eq] at this
  omega

theorem sfCount_only (k n : Nat) (s : State) : Only [.sf] s (sfCount k n s) := fun p => by cases p <;> simp [Part.same, sfCount]

theorem admitPage_only (q : Nat) (r : Queue) (cseq : BitVec 32) (prof : Nat) (b : Bool) (c : Claim) (t : Option (BitVec 64)) (v : Resv) (s : State) :
    Only [.dq, .pp] s (admitPage q r cseq prof b c t v s).2 := fun p => by
  cases p <;> simp [Part.same, admitPage, takePid]

theorem admitPage_page (q : Nat) (r : Queue) (cseq : BitVec 32) (prof : Nat) (b : Bool) (c : Claim) (t : Option (BitVec 64)) (v : Resv) (s : State) :
    ∃ p, page? (admitPage q r cseq prof b c t v s).2 s.pp.nextPid = some p ∧ p.id = s.pp.nextPid ∧ p.queue = q ∧ p.cls = r.cls ∧ p.cseq = cseq ∧
      p.raw = [] ∧ (r.door ≠ 0 → p.stage = .intake) :=
  ⟨_, by
    unfold admitPage
    exact (page?_congr (setQueue_pp _ _ _) _).trans ((page?_setPage _ _ _).trans (if_pos rfl)), rfl, rfl, rfl, rfl, rfl, fun h => if_neg h⟩

/-- A scan-front page starts on the door's reservation, under the reservation's arming (R13, R123). -/
theorem startPage_parts {s : State} {d q : Nat} {r : Queue} {a : Arming} (hd : doorQueue s d = some (q, r))
    (ha : armOf s d (door s d).freeArm = some a) :
    (door (startPage d s) d).page = some s.pp.nextPid ∧ (door (startPage d s) d).free = false ∧
      (∀ e, e ≠ d → door (startPage d s) e = door s e) ∧ (startPage d s).sf.cnt = s.sf.cnt ∧ Only [.sf, .dq, .pp] s (startPage d s) ∧
      ∃ p, page? (startPage d s) s.pp.nextPid = some p ∧ p.id = s.pp.nextPid ∧ p.queue = q ∧ p.cls = r.cls ∧ p.cseq = a.cseq ∧
        p.raw = [] ∧ p.stage = .intake := by
  obtain ⟨x, claim, hx, hpage, hfree⟩ : ∃ x claim, startPage d s =
      setDoor d x (admitPage q r a.cseq a.profile a.first claim none (door s d).freeBytes s).2 ∧ x.page = some s.pp.nextPid ∧ x.free = false := by
    refine ⟨_, _, by simp only [startPage, hd, ha]; rfl, rfl, rfl⟩
  have hadm := admitPage_only q r a.cseq a.profile a.first claim none (door s d).freeBytes s
  obtain ⟨p, hp, hid, hq, hcls, hseq, hraw, hstage⟩ := admitPage_page q r a.cseq a.profile a.first claim none (door s d).freeBytes s
  rw [hx]
  refine ⟨by simp [hpage], by simp [hfree], fun e he => ?_, ?_, ?_, p, ?_, hid, hq, hcls, hseq, hraw, hstage (doorQueue_door hd)⟩
  · rw [door_setDoor_ne he, door_congr (hadm.same .sf (by decide))]
  · exact congrArg (·.cnt) (show _ = s.sf from hadm.same .sf (by decide))
  · exact (hadm.mono (by simp)).trans ((setDoor_only _ _ _).mono (by simp))
  · rw [page?_congr (setDoor_pp _ _ _), hp]

/-- A window without a reservation is a lost page, counted and noted (R125). -/
theorem startLost_parts (d : Nat) (s : State) :
    door (startLost d s) d = { door s d with lost := true, nonRun := 0 } ∧ (∀ e, e ≠ d → door (startLost d s) e = door s e) ∧
      (startLost d s).sf.cnt = cntAdd s.sf.cnt 1 1 ∧ (startLost d s).sn.eseq = s.sn.eseq + 1 ∧ Only [.sf, .sn] s (startLost d s) := by
  obtain ⟨ref, h⟩ : ∃ ref, startLost d s =
      setDoor d { door (barker 0x0201 1 ref (sfCount 1 1 s)) d with lost := true, nonRun := 0 } (barker 0x0201 1 ref (sfCount 1 1 s)) := ⟨_, rfl⟩
  have hlog := barker_noted_only (by decide : 1 < 2) 0x0201 ref (sfCount 1 1 s)
  have hsf := hlog.same .sf (by decide)
  have hdoor (e : Nat) : door (barker 0x0201 1 ref (sfCount 1 1 s)) e = door s e := door_congr hsf e
  rw [h, hdoor]
  refine ⟨door_setDoor_self _ _ _, fun e he => by rw [door_setDoor_ne he, hdoor], congrArg ScanFront.cnt hsf, ?_, ?_⟩
  · rw [setDoor_sn, barker_noted_eseq (by decide)]
    rfl
  · exact ((sfCount_only 1 1 s).mono (by simp)).trans ((hlog.mono (by simp)).trans ((setDoor_only _ _ _).mono (by simp)))

/-! ### Lines of a page -/

theorem addRaw_of_no_page {d : Nat} {s : State} (h : (door s d).page = none) (ls : List RawLine) :
    addRaw d ls s = setDoor d { door s d with count := (door s d).count + ls.length } s := by
  simp [addRaw, h]

/-- The lines join the page in progress while it is taken in (R96). -/
theorem addRaw_of_page {d : Nat} {s : State} {pid : BitVec 32} {p : Page} (h : (door s d).page = some pid) (hp : page? s pid = some p)
    (hst : p.stage = .intake) (ls : List RawLine) :
    addRaw d ls s = setDoor d { door s d with count := (door s d).count + ls.length } (setPage { p with raw := p.raw ++ ls } s) := by
  simp only [addRaw, h, modPage_of_some hp, if_pos hst]

theorem door_addRaw (d e : Nat) (ls : List RawLine) (s : State) :
    door (addRaw d ls s) e = if e = d then { door s d with count := (door s d).count + ls.length } else door s e := by
  unfold addRaw
  rw [door_setDoor]
  split
  · rfl
  · split
    · exact door_congr ((modPage_only _ _ s).same .sf (by decide)) _
    · rfl

/-! ### Camera lines -/

/-- What may end a camera's window after a line: its own length, or the height limit (R120, R129). -/
def windowEnd (d : Nat) (w : Word) (s : State) : State :=
  if bitOf w 55 ∧ fld w 32 16 ≤ (door s d).count then setDoor d { door (endScan d false s.now s) d with window := false } (endScan d false s.now s)
  else if atLimit s d then endScan d true s.now s else s

theorem windowEnd_mayEnd (d : Nat) (w : Word) (s : State) : MayEnd d s (windowEnd d w s) := by
  unfold windowEnd
  split
  · exact (endScan_mayEnd d false s.now s).setDoor rfl rfl
  · split
    · exact endScan_mayEnd d true s.now s
    · exact MayEnd.refl d s

/-- The page of a line: the one in progress, a new one on the reservation, or a lost page (R125, R129). -/
def lineStart (d : Nat) (s : State) : State :=
  if (door s d).page.isNone ∧ ¬ (door s d).lost then (if (door s d).free then startPage d s else startLost d s) else s

/-- A line stands in the camera's window: the delay's lines are noted and the window is open (R111, R129). -/
def lineNoted (c : Nat) (l : RawLine) (s : State) : State :=
  let x := door s (4 + c)
  setDoor (4 + c) { x with past := (l :: x.past).take 64, window := true, await := false, lastAt := if x.skip then x.lastAt else s.now }
    { s with freeTick := s.freeTick + (delayed s (4 + c) x.past l).2 }

theorem camLine_eq (c : Nat) (l : RawLine) (s : State) : camLine c l s =
    if (door (lineNoted c l s) (4 + c)).skip then lineNoted c l s
    else windowEnd (4 + c) (sfCam s c) (addRaw (4 + c) [(delayed s (4 + c) (door s (4 + c)).past l).1] (lineStart (4 + c) (lineNoted c l s))) := rfl

/-- A tag without colour has no whole-line delay (R111). -/
theorem delayed_mono (s : State) (d : Nat) (past : List RawLine) (px : List (BitVec 16)) : delayed s d past [(3, px)] = ([(3, px)], 0) := by
  simp [delayed, sfDelay]

/-- A line has been noted at door `d`: its door keeps its page, its reservation and its armings, and nothing outside the scan front changes. -/
structure Noted (d : Nat) (cnt : List (Nat × BitVec 32)) (s t : State) : Prop where
  door : ∃ x, door t d = x ∧ x.page = (door s d).page ∧ x.lost = (door s d).lost ∧ x.free = (door s d).free ∧ x.freeArm = (door s d).freeArm ∧
    x.arms = (door s d).arms
  doors : ∀ e, e ≠ d → Machine.door t e = Machine.door s e
  cnt : t.sf.cnt = cnt
  frame : Only [.sf] s t

/-- The pixels that stand for a line of a tag (R128): its own, or, for a damaged one, those of the line before or 0xFFFF. -/
def linePixels (s : State) (c : Nat) (tag : BitVec 2) (good : Bool) (px : List (BitVec 16)) : List (BitVec 16) :=
  if good then px else (((door s (4 + c)).lastPl.find? (fun e => e.1 == tag)).map (·.2)).getD (List.replicate (fld (sfCam s c) 16 16) 0xFFFF)

/-- The state in which a whole mono line of a camera is at hand (R127, R128): a damaged one is counted. -/
def planeTaken (c : Nat) (good : Bool) (px : List (BitVec 16)) (s : State) : State :=
  let x := door s (4 + c)
  setDoor (4 + c) { x with half := [], lastPl := x.lastPl.filter (fun e => e.1 != 3) ++ [(3, px)], repaired := x.repaired || (!good && !x.skip) }
    (if good then s else sfCount 2 1 s)

/-- A mono camera's line is whole with its one plane (R127, R129). -/
theorem camPlane_mono {c : Nat} {s : State} (hv : (bitsOf (fld (sfCam s c) 56 4) 4).length ≠ 3) (hh : (door s (4 + c)).half = [])
    (good : Bool) (px : List (BitVec 16)) :
    camPlane c 3 good px s = camLine c [(3, linePixels s c 3 good px)] (planeTaken c good (linePixels s c 3 good px) s) := by
  have hcam : sfCam (if good = true then s else sfCount 2 1 s) c = sfCam s c := by cases good <;> rfl
  simp only [camPlane, hcam, if_neg hv, hh]
  simp [planeTaken, linePixels]

theorem planeTaken_noted (c : Nat) (good : Bool) (px : List (BitVec 16)) (s : State) :
    Noted (4 + c) (if good then s.sf.cnt else cntAdd s.sf.cnt 2 1) s (planeTaken c good px s) where
  door := ⟨_, door_setDoor_self _ _ _, rfl, rfl, rfl, rfl, rfl⟩
  doors e he := by
    rw [planeTaken, door_setDoor_ne he]
    cases good <;> rfl
  cnt := by cases good <;> rfl
  frame := by
    refine Only.trans ?_ (setDoor_only _ _ _)
    cases good
    · exact sfCount_only 2 1 s
    · exact Only.refl _ _

theorem lineNoted_noted {c : Nat} {cnt : List (Nat × BitVec 32)} {s t : State} (h : Noted (4 + c) cnt s t) (px : List (BitVec 16)) :
    Noted (4 + c) cnt s (lineNoted c [(3, px)] t) where
  door := by
    obtain ⟨x, rfl, hx⟩ := h.door
    exact ⟨_, door_setDoor_self _ _ _, hx⟩
  doors e he := (door_setDoor_ne he _ _).trans (h.doors e he)
  cnt := h.cnt
  frame := h.frame.trans fun p => by
    cases p <;> simp [Part.same, lineNoted]
    exact congrArg Prod.snd (delayed_mono _ _ _ _)

/-- A good or damaged line of a mono camera in its window, or awaited: it is noted and joins its page, and the window may end (R127 to R129). -/
theorem linePacket_mono {c : Nat} {s : State} {vc : BitVec 2} {dt : Byte} {hdr crc good : Bool} {px : List (BitVec 16)}
    (hen : bitOf (sfCam s c) 54 = true) (hdoor : doorEnabled s (4 + c) = true) (hvc : bitsOf (fld (sfCam s c) 56 4) 4 = [vc.toNat])
    (hdt : hdr = false ∨ dt.toNat = 0x2A + fld (sfCam s c) 60 2) (hgood : good = (hdr && crc && decide (px.length = fld (sfCam s c) 16 16)))
    (hw : (door s (4 + c)).window = true ∨ (door s (4 + c)).await = true) (hsk : (door s (4 + c)).skip = false) (hh : (door s (4 + c)).half = []) :
    ∃ u, linePacket c vc dt hdr crc px s = windowEnd (4 + c) (sfCam s c)
        (addRaw (4 + c) [[(3, linePixels s c 3 good (camPixels (0x2A + fld (sfCam s c) 60 2) px))]] (lineStart (4 + c) u)) ∧
      Noted (4 + c) (if good then s.sf.cnt else cntAdd s.sf.cnt 2 1) s u := by
  have htag : camTag s c vc.toNat = some 3 := by simp [camTag, hvc]
  have hpacket : linePacket c vc dt hdr crc px s = camPlane c 3 good (camPixels (0x2A + fld (sfCam s c) 60 2) px) s := by
    simp only [linePacket, htag, hen, hdoor, hgood]
    rw [if_neg (by simp), if_neg (by rcases hdt with h | h <;> simp [h]), if_neg (not_not.2 hw)]
  generalize hpx : linePixels s c 3 good (camPixels (0x2A + fld (sfCam s c) 60 2) px) = px'
  have hcam : sfCam (planeTaken c good px' s) c = sfCam s c := by cases good <;> rfl
  refine ⟨lineNoted c [(3, px')] (planeTaken c good px' s), ?_, lineNoted_noted (planeTaken_noted c good px' s) px'⟩
  rw [hpacket, camPlane_mono (by simp [hvc]) hh, hpx, camLine_eq, delayed_mono, hcam, if_neg]
  simp [lineNoted, planeTaken, hsk]

section
variable {d : Nat} {w : Word} {px : List (BitVec 16)} {cnt : List (Nat × BitVec 32)} {s u t : State} (hu : Noted d cnt s u)
  (ht : t = windowEnd d w (addRaw d [[(3, px)]] (lineStart d u)))
include hu ht

/-- A line of a window with a page in progress joins that page (R129). -/
theorem line_joins_page {pid : BitVec 32} {p : Page} (hx : (door s d).page = some pid) (hp : page? s pid = some p) (hid : p.id = pid)
    (hst : p.stage = .intake) :
    (page? t pid).map (·.raw) = some (p.raw ++ [[(3, px)]]) ∧ t.sf.cnt = cnt ∧
      ((door t d).page = some pid ∨ (page? t pid).map (·.dataEnd) = some true) ∧ (∀ e, e ≠ d → door t e = door s e) ∧ Only [.sf, .pp, .sn] s t := by
  obtain ⟨x, hdu, hpage, -⟩ := hu.door
  have hpu : page? u pid = some p := (page?_congr (hu.frame.same .pp (by decide)) pid).trans hp
  have hxu : (door u d).page = some pid := by rw [hdu, hpage, hx]
  have hstart : lineStart d u = u := by simp [lineStart, hxu]
  have hadd := addRaw_of_page hxu hpu hst [[(3, px)]]
  rw [hstart] at ht
  have hend := windowEnd_mayEnd d w (addRaw d [[(3, px)]] u)
  rw [← ht] at hend
  obtain ⟨f, b, a, e, hpt, hover⟩ := hend.page pid { p with raw := p.raw ++ [[(3, px)]] } (by simp [door_addRaw, hxu])
    (by rw [hadd, page?_congr (setDoor_pp _ _ _), page?_setPage, if_pos hid.symm]) hid
  have hframe : Only [.sf, .pp, .sn] u (addRaw d [[(3, px)]] u) := by
    rw [hadd]
    exact ((setPage_only _ _).mono (by simp)).trans ((setDoor_only _ _ _).mono (by simp))
  refine ⟨by rw [hpt]; rfl, ?_, hover.imp_right fun h => by simp [hpt, h], fun e he => ?_, ?_⟩
  · rw [hend.cnt, ← hu.cnt, hadd]
    rfl
  · rw [hend.doors e he, door_addRaw, if_neg he, hu.doors e he]
  · exact ((hu.frame.mono (by simp)).trans hframe).trans hend.frame

/-- The first line of a window with a reservation starts its page (R123, R129). -/
theorem line_starts_page {q : Nat} {r : Queue} {a : Arming} (hx : (door s d).page = none) (hl : (door s d).lost = false)
    (hf : (door s d).free = true) (hd : doorQueue s d = some (q, r)) (ha : armOf s d (door s d).freeArm = some a) :
    (∃ p, page? t s.pp.nextPid = some p ∧ p.queue = q ∧ p.cls = r.cls ∧ p.cseq = a.cseq ∧ p.raw = [[(3, px)]]) ∧
      t.sf.cnt = cnt ∧ (door t d).free = false ∧ (∀ e, e ≠ d → door t e = door s e) ∧ Only [.sf, .dq, .pp, .sn] s t := by
  obtain ⟨x, hdu, hpage, hlost, hfree, harm, harms⟩ := hu.door
  have hstart : lineStart d u = startPage d u := by simp [lineStart, hdu, hpage, hlost, hfree, hx, hl, hf]
  have hpid : u.pp.nextPid = s.pp.nextPid := by rw [hu.frame.same .pp (by decide)]
  have hdq : doorQueue u d = some (q, r) := by rw [← hd, doorQueue, doorQueue, hu.frame.same .dq (by decide)]
  have ha' : armOf u d (door u d).freeArm = some a := by rw [← ha, armOf, armOf, hdu, harms, harm]
  obtain ⟨hpageS, hfreeS, hdoorsS, hcntS, hframeS, p, hp, hid, hq, hcls, hseq, hraw, hst⟩ := startPage_parts hdq ha'
  rw [hpid] at hpageS hp hid
  have hadd := addRaw_of_page hpageS hp hst [[(3, px)]]
  rw [hstart] at ht
  have hend := windowEnd_mayEnd d w (addRaw d [[(3, px)]] (startPage d u))
  rw [← ht] at hend
  obtain ⟨f, b, at', e, hpt, -⟩ := hend.page _ { p with raw := p.raw ++ [[(3, px)]] } (by simp [door_addRaw, hpageS])
    (by rw [hadd, page?_congr (setDoor_pp _ _ _), page?_setPage, if_pos hid.symm]) hid
  have hframe : Only [.sf, .dq, .pp, .sn] (startPage d u) (addRaw d [[(3, px)]] (startPage d u)) := by
    rw [hadd]
    exact ((setPage_only _ _).mono (by simp)).trans ((setDoor_only _ _ _).mono (by simp))
  refine ⟨⟨_, hpt, hq, hcls, hseq, by simp [hraw]⟩, ?_, ?_, fun e he => ?_, ?_⟩
  · rw [hend.cnt, ← hu.cnt, ← hcntS, hadd]
    rfl
  · rw [hend.free, door_addRaw, if_pos rfl]
    exact hfreeS
  · rw [hend.doors e he, door_addRaw, if_neg he, hdoorsS e he, hu.doors e he]
  · exact (((hu.frame.mono (by simp)).trans (hframeS.mono (by simp))).trans hframe).trans (hend.frame.mono (by simp))

/-- The first line of a window without a reservation starts a lost page (R125). -/
theorem line_starts_lost (hx : (door s d).page = none) (hl : (door s d).lost = false) (hf : (door s d).free = false) :
    t.sf.cnt = cntAdd cnt 1 1 ∧ t.sn.eseq = s.sn.eseq + 1 ∧ t.pp.pages = s.pp.pages ∧ (∀ e, e ≠ d → door t e = door s e) ∧
      Only [.sf, .sn] s t := by
  obtain ⟨x, hdu, hpage, hlost, hfree, -⟩ := hu.door
  have hstart : lineStart d u = startLost d u := by simp [lineStart, hdu, hpage, hlost, hfree, hx, hl, hf]
  obtain ⟨hdoorL, hdoorsL, hcntL, heseqL, hframeL⟩ := startLost_parts d u
  have hpageL : (door (startLost d u) d).page = none := by rw [hdoorL, hdu, hpage, hx]
  have hadd := addRaw_of_no_page hpageL [[(3, px)]]
  rw [hstart] at ht
  have hend := windowEnd_mayEnd d w (addRaw d [[(3, px)]] (startLost d u))
  rw [← ht] at hend
  have hidle : Only [.sf] (startLost d u) t :=
    Only.trans (by rw [hadd]; exact setDoor_only _ _ _) (hend.idle (by simp [door_addRaw, hpageL]))
  have hframe : Only [.sf, .sn] s t := ((hu.frame.mono (by simp)).trans hframeL).trans (hidle.mono (by simp))
  refine ⟨?_, ?_, congrArg (·.pages) (show t.pp = s.pp from hframe.same .pp (by decide)), fun e he => ?_, hframe⟩
  · rw [hend.cnt, ← hu.cnt, ← hcntL, hadd]
    rfl
  · rw [hidle.same .sn (by decide), heseqL, hu.frame.same .sn (by decide)]
  · rw [hend.doors e he, door_addRaw, if_neg he, hdoorsL e he, hu.doors e he]

end

/-- One plane of a colour camera's line leaves the line incomplete (R127). -/
theorem linePacket_colour {c : Nat} {s : State} {vc : BitVec 2} {dt : Byte} {px : List (BitVec 16)} {tag : BitVec 2}
    (hen : bitOf (sfCam s c) 54 = true) (hdoor : doorEnabled s (4 + c) = true) (hthree : (bitsOf (fld (sfCam s c) 56 4) 4).length = 3)
    (htag : camTag s c vc.toNat = some tag) (hdt : dt.toNat = 0x2A + fld (sfCam s c) 60 2) (hlen : px.length = fld (sfCam s c) 16 16)
    (hw : (door s (4 + c)).window = true) (hh : (door s (4 + c)).half = []) :
    linePacket c vc dt true true px s = setDoor (4 + c) { door s (4 + c) with
      half := [(tag, camPixels dt.toNat px)]
      lastPl := (door s (4 + c)).lastPl.filter (fun e => e.1 != tag) ++ [(tag, camPixels dt.toNat px)] } s := by
  have hpacket : linePacket c vc dt true true px s = camPlane c tag true (camPixels dt.toNat px) s := by
    simp only [linePacket, htag, hen, hdoor, hw, hdt, hlen]
    simp
  have hpart : ∀ g : BitVec 2, ([0, 1, 2] : List (BitVec 2)).all (fun t => g == t) = false := by decide
  rw [hpacket]
  simp only [camPlane, hthree, hh, if_true, List.nil_append, List.any_cons, List.any_nil, Bool.or_false, hpart]
  simp

/-! ### Frames of a camera -/

section
variable {c : Nat} {s : State}

theorem frameStart_idle (h : bitOf (sfCam s c) 54 = false ∨ doorEnabled s (4 + c) = false ∨ (door s (4 + c)).window = true) : frameStart c s = s := by
  simp only [frameStart]
  rw [if_pos (by simpa using h)]

/-- The door of a camera whose frame starts (R129). -/
def Door.framing (x : Door) : Door := { x with skip := false, half := [], lastPl := [], repaired := false }

theorem frameStart_open (hen : bitOf (sfCam s c) 54 = true) (hdoor : doorEnabled s (4 + c) = true) (hw : (door s (4 + c)).window = false) :
    frameStart c s = if bitOf (sfCam s c) 55 then setDoor (4 + c) { (door s (4 + c)).framing with await := true } s
      else if (door s (4 + c)).free then setDoor (4 + c) { (door s (4 + c)).framing with window := true } s
      else startLost (4 + c) (setDoor (4 + c) { (door s (4 + c)).framing with window := true } s) := by
  simp only [frameStart]
  rw [if_neg (by simp [hen, hdoor, hw])]
  rfl

theorem frameStart_lost (hen : bitOf (sfCam s c) 54 = true) (hdoor : doorEnabled s (4 + c) = true) (hw : (door s (4 + c)).window = false)
    (hm : bitOf (sfCam s c) 55 = false) (hf : (door s (4 + c)).free = false) :
    (door (frameStart c s) (4 + c)).window = true ∧ (door (frameStart c s) (4 + c)).lost = true ∧
      (frameStart c s).sf.cnt = cntAdd s.sf.cnt 1 1 ∧ (frameStart c s).sn.eseq = s.sn.eseq + 1 ∧
      (∀ e, e ≠ 4 + c → door (frameStart c s) e = door s e) ∧ Only [.sf, .sn] s (frameStart c s) := by
  have h := frameStart_open hen hdoor hw
  rw [if_neg (by simp [hm]), if_neg (by simp [hf])] at h
  obtain ⟨hself, hdoors, hcnt, heseq, hframe⟩ := startLost_parts (4 + c) (setDoor (4 + c) { (door s (4 + c)).framing with window := true } s)
  rw [h]
  refine ⟨by simp [hself], by simp [hself], hcnt, heseq, fun e he => ?_, ((setDoor_only _ _ _).mono (by simp)).trans hframe⟩
  rw [hdoors e he, door_setDoor_ne he]

/-- Frame End on a camera with a page or a lost page ends it, its last line's capture being the deadline's start (R17, R129). -/
theorem frameEnd_eq (c : Nat) (s : State) : ∃ u, frameEnd c s = setDoor (4 + c) { door u (4 + c) with window := false, await := false, skip := false } u ∧
    ((door s (4 + c)).page.isSome = true ∨ (door s (4 + c)).lost = true → u = endScan (4 + c) false (door s (4 + c)).lastAt s) ∧
    (¬ ((door s (4 + c)).page.isSome = true ∨ (door s (4 + c)).lost = true) → u = s) :=
  ⟨_, rfl, fun h => if_pos h, fun h => if_neg h⟩

/-- An end that is not a cut logs nothing. -/
theorem endScan_uncut_only (d : Nat) (t : BitVec 64) (s : State) : Only [.sf, .pp] s (endScan d false t s) := by
  cases hx : (door s d).page with
  | none => exact ((endScan_mayEnd d false t s).idle hx).mono (by simp)
  | some pid =>
    obtain ⟨u, hu, -, hcut⟩ := endScan_of_page hx false t
    rw [hu, hcut rfl]
    exact ((modPage_only _ _ _).mono (by simp)).trans (((setDoor_only _ _ _).mono (by simp)).trans ((boundary_only _ _).mono (by simp)))

theorem frameEnd_parts (c : Nat) (s : State) :
    (door (frameEnd c s) (4 + c)).window = false ∧ (door (frameEnd c s) (4 + c)).await = false ∧ (door (frameEnd c s) (4 + c)).skip = false ∧
      ((door s (4 + c)).page.isSome = true ∨ (door s (4 + c)).lost = true →
        (door (frameEnd c s) (4 + c)).page = none ∧ (door (frameEnd c s) (4 + c)).lost = false) ∧
      (∀ pid p, (door s (4 + c)).page = some pid → page? s pid = some p → p.id = pid →
        (page? (frameEnd c s) pid).map (fun p => (p.dataEnd, p.start)) = some (true, some (door s (4 + c)).lastAt)) ∧
      (∀ e, e ≠ 4 + c → door (frameEnd c s) e = door s e) ∧ Only [.sf, .pp] s (frameEnd c s) := by
  obtain ⟨u, hu, hends, hidle⟩ := frameEnd_eq c s
  have hdoors : (∀ e, e ≠ 4 + c → door u e = door s e) ∧ Only [.sf, .pp] s u := by
    by_cases h : (door s (4 + c)).page.isSome = true ∨ (door s (4 + c)).lost = true
    · rw [hends h]
      exact ⟨(endScan_mayEnd _ _ _ _).doors, endScan_uncut_only _ _ _⟩
    · rw [hidle h]
      exact ⟨fun _ _ => rfl, Only.refl _ _⟩
  rw [hu]
  refine ⟨by simp, by simp, by simp, fun h => ?_, fun pid p hx hp hid => ?_, fun e he => ?_, hdoors.2.trans ((setDoor_only _ _ _).mono (by simp))⟩
  · simp [hends h, door_endScan_self, Door.over]
  · rw [hends (.inl (by simp [hx])), page?_congr (setDoor_pp _ _ _), endScan_page hx hp hid]
    rfl
  · rw [door_setDoor_ne he, hdoors.1 e he]

end

/-! ### The statement -/

/-- Settles O27: a reservation is one condition and one change of the door (`reservation_declined`, `reservation_taken`); a camera line is noted,
finds or starts its page and may end the window (`linePacket_mono`, `line_joins_page`, `line_starts_page`, `line_starts_lost`). -/
theorem reservationsAndCameras : Obligations.ReservationsAndCameras := by
  intro s hl
  refine ⟨fun d q r a need hd hq ha hn hneed => ⟨fun ho hdr hf hx he hleft hc hr => ?taken, fun h => ?declined⟩, fun d h => ?noDoor,
    fun c x w hx hw => ?camera⟩
  case taken =>
    have h := reservation_taken hd hq ha hn hneed (by simp [Declines, ho, hdr, hf, hx, he, hc, hr]; exact hleft)
    refine ⟨_, run_live hl _, ?_⟩
    rw [h]
    refine ⟨by simp [Door.reserved], by simp [Door.reserved], by simp [Door.reserved], by simp [Door.reserved],
      by simp [Door.reserved, Arming.counted], rfl, fun e he => by rw [door_setDoor_ne he]; rfl, fun p => ?_⟩
    cases p <;> simp [Part.same, r2take]
  case declined => exact (run_live hl _).trans (congrArg _ (reservation_declined hd hq ha hn hneed h))
  case noDoor => exact (run_live hl _).trans (congrArg _ (h.elim reservation_of_no_queue reservation_of_no_arming))
  case camera =>
    subst hx hw
    have start : exec (.csi2FrameStart c) s = .next (frameStart c.toNat s) := run_live hl _
    have line (vc dt hdr crc px) : exec (.csi2LinePacket c vc dt hdr crc px) s = .next (linePacket c.toNat vc dt hdr crc px s) := run_live hl _
    have other (dt) : exec (.csi2OtherPacket c dt) s = .next (otherPacket c.toNat dt s) := run_live hl _
    refine ⟨fun h => ?startIdle, fun hen hdoor hwin => ⟨fun hm => ?startAwait, fun hm hf => ?startWindow, fun hm hf => ?startLost⟩, ?frameEnd,
      fun vc dt hdr crc px h => ?notTaken, fun vc dt hdr crc px hen hdoor htag => ⟨fun hh hdt => ?wrongType, fun hdt hwin haw => ?outside⟩,
      fun vc dt hdr crc px good px' cnt hen hdoor hvc hdt hgood hpx hcnt hwin hsk hh => ?mono,
      fun vc dt px tag hen hdoor hthree htag hdt hlen hwin hh => ?colour, fun dt h => ?otherIdle, fun dt hen hdoor => ⟨fun h => ?ignored, fun h => ?counted⟩⟩
    case startIdle => rw [start, frameStart_idle h]
    case startAwait => rw [start, frameStart_open hen hdoor hwin, if_pos hm]; rfl
    case startWindow => rw [start, frameStart_open hen hdoor hwin, if_neg (by simp [hm]), if_pos hf]; rfl
    case startLost => exact ⟨_, start, frameStart_lost hen hdoor hwin hm hf⟩
    case frameEnd => exact ⟨_, run_live hl _, frameEnd_parts c.toNat s⟩
    case notTaken =>
      rw [line, linePacket]
      rcases h with h | h | h <;> simp [h]
    case wrongType =>
      obtain ⟨tag, htag⟩ := Option.isSome_iff_exists.1 htag
      rw [line]
      simp [linePacket, hen, hdoor, htag, hh, hdt, sfCount]
    case outside =>
      obtain ⟨tag, htag⟩ := Option.isSome_iff_exists.1 htag
      rw [line]
      rcases hdt with h | h <;> simp [linePacket, hen, hdoor, htag, h, hwin, haw]
    case mono =>
      obtain ⟨u, hpacket, hu⟩ := linePacket_mono hen hdoor hvc hdt hgood hwin hsk hh
      rw [← show cnt = _ from hcnt] at hu
      rw [← show px' = linePixels s c.toNat 3 good (camPixels (0x2A + fld (sfCam s c.toNat) 60 2) px) from hpx] at hpacket
      exact ⟨fun pid p hx hp hid hst => ⟨_, line _ _ _ _ _, line_joins_page hu hpacket hx hp hid hst⟩,
        fun q r a hx hlost hf hd ha => ⟨_, line _ _ _ _ _, line_starts_page hu hpacket hx hlost hf hd ha⟩,
        fun hx hlost hf => ⟨_, line _ _ _ _ _, line_starts_lost hu hpacket hx hlost hf⟩⟩
    case colour => rw [line, linePacket_colour hen hdoor hthree htag hdt hlen hwin hh]
    case otherIdle =>
      rw [other, otherPacket]
      rcases h with h | h <;> simp [h]
    case ignored => rw [other, otherPacket, if_neg (by simp [hen, hdoor]), if_pos h]
    case counted => rw [other, otherPacket, if_neg (by simp [hen, hdoor]), if_neg h]; rfl

end Sys2Proof.Machine
end

section
/-! PROOFS. Two statements that fail of a page table which lists a page under another number than its own (R13, R385): a preparation pair's grant looks
the page up by its number and stores it under the number that it carries. -/

namespace Sys2Proof.Machine

/-! ### A page table in order -/

/-- Each page of the table stands under its own number. -/
def Filed (s : State) : Prop := s.pp.pages.all (fun e => e.1 == e.2.id.toNat) = true

theorem Filed.id_eq {s : State} (h : Filed s) {pid : BitVec 32} {p : Page} (hp : page? s pid = some p) : p.id = pid := by
  obtain ⟨⟨k, x⟩, hfind, rfl⟩ := Option.map_eq_some_iff.1 hp
  have hkey : k = pid.toNat := by simpa using List.find?_some hfind
  have hid : k = x.id.toNat := by simpa using List.all_eq_true.1 h _ (List.mem_of_find?_eq_some hfind)
  exact BitVec.eq_of_toNat_eq (hid.symm.trans hkey)

/-- A table in order stays so when a page takes a pair, and each page is as before but for its pair. -/
theorem Filed.givePair {s : State} (h : Filed s) (pid : BitVec 32) (e : Nat) :
    Filed (modPage pid (fun g => { g with pair := some e }) s) ∧
      ∀ id, pageAs (modPage pid (fun g => { g with pair := some e }) s) id = pageAs s id := by
  cases hp : page? s pid with
  | none => simp [modPage, hp, h]
  | some p =>
    rw [modPage_of_some hp]
    refine ⟨all_tabSet _ _ _ _ h (by simp), fun id => ?_⟩
    rw [pageAs, page?_setPage]
    split
    · next hid => rw [pageAs, hid, show page? s p.id = some p from h.id_eq hp ▸ hp]; rfl
    · rfl

/-- A grant keeps a table in order and every page in it but for the pair that it takes (R385). -/
theorem grantPair_pageAs {s : State} (h : Filed s) (e : Nat) : Filed (grantPair e s) ∧ ∀ id, pageAs (grantPair e s) id = pageAs s id := by
  unfold grantPair
  dsimp only
  split
  · split
    · exact ⟨h, fun _ => rfl⟩
    · split
      · exact ⟨h, fun _ => rfl⟩
      · next x _ _ _ _ _ => exact Filed.givePair (s := setEngine e x s) h _ e
  · exact ⟨h, fun _ => rfl⟩

theorem grantPairs_pageAs {s : State} (h : Filed s) : Filed (grantPairs s) ∧ ∀ id, pageAs (grantPairs s) id = pageAs s id :=
  List.foldlRecOn (motive := fun t => Filed t ∧ ∀ id, pageAs t id = pageAs s id) _ _ ⟨h, fun _ => rfl⟩ fun _ ht e _ =>
    ⟨(grantPair_pageAs ht.1 e).1, fun id => ((grantPair_pageAs ht.1 e).2 id).trans (ht.2 id)⟩

/-! ### A page table out of order -/

/-- A host-door page of queue 7 in preparation: 64 by 1 raw pixels. -/
def rawPage (id : BitVec 32) (pair : Option Nat) : Page :=
  { id := id, queue := 7, door := 0, cseq := 4, cls := 0, part := 0, ppA := 0x80008000FF00012C, ppB := 0x100020100010001D, deadline := 120000000,
    start := some 0, prof := none, batchStart := false, before := none, sfRegs := [], claim := ⟨0, 0x08000000, 64, 64, 1, 0, 300⟩, frame := none,
    raw := [], buf := [], data := [], dataEnd := true, pair := pair, trunc := false, retried := false, stripes := 0, bgStripes := 0, prep := none,
    found := [], regions := [], fellBack := false, rows := 0, segsLeft := 0, segEnds := [], stage := .prep, resvBuf := 0, resvPrep := 0,
    resvRec := 0, drawn := 0 }

/-- The PAGE command of 64 by 1 raw pixels at window address 0x0800_0000. -/
def rawCommand : Cmd :=
  { desc := [1] ++ List.replicate 18 0 ++ [8] ++ List.replicate 4 0 ++ [64, 0, 0, 0, 0, 0, 0, 0, 64, 0, 1], image := none, seq := 5, start := 0,
    attach := none, resv := Resv.none }

/-- Queue 7 at the host door, with that command as its current one. -/
def rawQueue : Queue :=
  { st := .opened, gen := 2, door := 0, part := 0, sel := 0, ring := 0, cls := 0, crBase := 0x0A000000, crLog := 0, seq0 := 4, drainMs := 500,
    quota := 100, lines := 0, c := 6, t := 6, marks := [], stopped := false, retryAt := 0, rseq := 0, holdSince := 0, cur := some rawCommand,
    items := [], missed := 0, lastPage := none, prev := [] }

/-- A live device with one partition, whose page table lists page 2 under 1 and page 3 under 2; page 0 stands right and has pair 0. -/
def misfiled : State :=
  { State.reset with
    dq := { State.reset.dq with queues := [(7, rawQueue)] }
    si := { State.reset.si with conf := { ImgConf.none with parts := [(0,
      { tiles := 1, pixq := 1000, slice := 1, share := 1, dramBase := 0, dramSize := 0, stgBase := (0, 0), stgSize := (0, 0) })] } }
    pp := { State.reset.pp with nextPid := 4, pages := [(0, rawPage 0 (some 0)), (1, rawPage 2 none), (2, rawPage 3 none)] } }

theorem misfiled_live : Live misfiled := by decide

/-- No page 3 can be found in the table: the page that carries this number stands under 2. -/
theorem misfiled_page3 : pageAs misfiled 3 = none := by decide

/-- The queue's PAGE is admitted with its claimed size (R134). -/
theorem misfiled_claim : claimCheck (ppClassA misfiled rawQueue.cls) rawQueue.quota
    (backedRange misfiled (pageClaim rawCommand.desc).src (pageClaim rawCommand.desc).len && decide ((pageClaim rawCommand.desc).len ≤ 0x10000000))
    false (pageClaim rawCommand.desc) (fun i => swByte misfiled ((pageClaim rawCommand.desc).src + i)) = .inr (64, 1) := by decide +kernel

/-- Refutes O22: a state whose page table lists page 2 under 1 and page 3 under 2 (`misfiled`) admits its queue's PAGE as page 4, and pair 1 then takes
page 2, the oldest that waits. The grant finds page 3 under 2 and stores it under 3, where no page stood: the statement, which keeps every page but page 4,
would need that each page stands under its own number (`grantPairs_pageAs`). -/
theorem not_pagesAndProfiles : ¬ Obligations.PagesAndProfiles := by
  intro h
  obtain ⟨hpage, -⟩ := h misfiled misfiled_live
  obtain ⟨-, hadmit⟩ := hpage 7 rawQueue rawCommand (by decide +kernel) rfl (by decide) (by decide) _ _ rfl rfl
  obtain ⟨t, ht, -, -, -, hkept, -⟩ := hadmit 64 1 misfiled_claim (.inl (by decide))
  have hexec : exec (.page 7) misfiled = .next (doPage 7 misfiled) := run_live misfiled_live _
  obtain rfl : doPage 7 misfiled = t := Host.Outcome.next.inj (hexec.symm.trans ht)
  have hstored : (pageAs (doPage 7 misfiled) 3).isSome = true := by decide +kernel
  rw [hkept 3 (by decide), misfiled_page3] at hstored
  cases hstored

/-- Refutes O28, on the state that refutes O22: page 0's one stripe commits, and before and after it idle pairs take waiting pages, which stores the
page found under 2 anew under 3. The statement keeps every page but page 0. -/
theorem not_preparationAndBatches : ¬ Obligations.PreparationAndBatches := by
  intro h
  obtain ⟨hstripe, -⟩ := h misfiled misfiled_live
  obtain ⟨hsound, -⟩ := hstripe 0 (rawPage 0 (some 0)) _ _ _ _ rfl (by decide +kernel) rfl rfl rfl rfl rfl rfl
  obtain ⟨t, ht, -, hkept, -⟩ := hsound (by decide +kernel)
  have hexec : exec (.prepStripeCommit 0) misfiled = .next (prepStep 0 misfiled) := run_live misfiled_live _
  obtain rfl : prepStep 0 misfiled = t := Host.Outcome.next.inj (hexec.symm.trans ht)
  have hstored : (pageAs (prepStep 0 misfiled) 3).isSome = true := by decide +kernel
  rw [hkept 3 (by decide), misfiled_page3] at hstored
  cases hstored

end Sys2Proof.Machine
end

section
/-! PROOFS. What leaves the memories' canonical form as it is (log 6): one equation `memsWf (f s) = memsWf s` for each function of the model that writes
no memory, no stage slot's copy and no job's saved context, under the heading of the file that the function stands in. -/

namespace Sys2Proof.Machine

/-! ### Record updates and control -/

section
variable (s : State) (dq : Dechel) (sf : ScanFront) (pp : Prep) (si : StructImg) (kv : KvCache) (dm : Depot) (tl : Tiles) (cv : Caravan) (sn : Safety)
  (tr : Trust) (pk : Package) (ck : Clocks) (pw : Power) (mg : Mgmt) (now : BitVec 64) (freeTick : Nat)
  (held : List HeldReq) (rd : Word) (pending : List Instr)

@[simp] theorem memsWf_setParts :
    memsWf ⟨s.hp, dq, sf, pp, si, s.rm, kv, dm, s.mem, tl, cv, sn, tr, pk, ck, pw, mg, now, freeTick, held, rd, pending⟩ = memsWf s := (rfl)

@[simp] theorem memsWf_setHp (cfg limit wcred used wdrop dropLast wdisc rzero train mrwIgn stageBound alertStat alertEn ext mrs fifo training
      trainOf zq idle dq' comb stageQ) :
    memsWf ⟨⟨cfg, limit, wcred, used, wdrop, dropLast, wdisc, rzero, train, mrwIgn, stageBound, alertStat, alertEn, ext, mrs, fifo, training, trainOf,
      zq, idle, dq', comb, s.hp.slots, stageQ⟩, dq, sf, pp, si, s.rm, kv, dm, s.mem, tl, cv, sn, tr, pk, ck, pw, mg, now, freeTick, held, rd,
      pending⟩ = memsWf s := (rfl)

@[simp] theorem memsWf_setRm (decl qsel qstat swevt swLost swOver swCount depthFail donated ready groups scheds donations engines figs opers
      maps ended) :
    memsWf ⟨s.hp, dq, sf, pp, si, ⟨decl, qsel, qstat, swevt, swLost, swOver, swCount, depthFail, donated, s.rm.jobs, ready, groups, scheds,
      donations, engines, figs, opers, maps, ended⟩, kv, dm, s.mem, tl, cv, sn, tr, pk, ck, pw, mg, now, freeTick, held, rd, pending⟩ = memsWf s := (rfl)

end

@[simp] theorem memsWf_ite (c : Prop) [Decidable c] (s t : State) :
    memsWf (if c then s else t) = if c then memsWf s else memsWf t := apply_ite memsWf c s t

@[simp] theorem memsWf_ite_snd {α : Type} (c : Prop) [Decidable c] (x y : α × State) :
    memsWf (if c then x else y).2 = if c then memsWf x.2 else memsWf y.2 := apply_ite (fun x : α × State => memsWf x.2) c x y

@[simp] theorem memsWf_foldl {α : Type} (g : State → α → State) (hg : ∀ s x, memsWf (g s x) = memsWf s) (l : List α) (s : State) :
    memsWf (l.foldl g s) = memsWf s := by
  induction l generalizing s with
  | nil => rfl
  | cons x l ih => rw [List.foldl_cons, ih, hg]

@[simp] theorem memsWf_foldl_snd {α β : Type} (g : β × State → α → β × State) (hg : ∀ a x, memsWf (g a x).2 = memsWf a.2) (l : List α)
    (a : β × State) : memsWf (l.foldl g a).2 = memsWf a.2 := by
  induction l generalizing a with
  | nil => rfl
  | cons x l ih => rw [List.foldl_cons, ih, hg]

theorem forall_mem_ite {α : Type} {c : Prop} [Decidable c] {x y : Option α} {P : α → Prop} (hx : ∀ r ∈ x, P r) (hy : ∀ r ∈ y, P r) :
    ∀ r ∈ (if c then x else y), P r := by
  split <;> assumption

/-! ### Ops -/

@[simp] theorem wdisc_memsWf (s) : memsWf (wdisc s) = memsWf s := (rfl)

@[simp] theorem rzero_memsWf (s) : memsWf (rzero s) = memsWf s := (rfl)

@[simp] theorem alert_memsWf (i s) : memsWf (alert i s) = memsWf s := (rfl)

@[simp] theorem barker_memsWf (event sev r s) : memsWf (barker event sev r s) = memsWf s := by simp [barker]

@[simp] theorem fresh_memsWf (s) : memsWf (fresh s).2 = memsWf s := (rfl)

@[simp] theorem freshBytes_memsWf (n s) : memsWf (freshBytes n s).2 = memsWf s := (rfl)

@[simp] theorem completed_memsWf (kind part code s) : memsWf (completed kind part code s) = memsWf s := (rfl)

@[simp] theorem ckRefuse_memsWf (code s) : memsWf (ckRefuse code s) = memsWf s := (rfl)

@[simp] theorem leaveSleep_memsWf (s) : memsWf (leaveSleep s) = memsWf s := by simp [leaveSleep]

@[simp] theorem snCount_memsWf (k n s) : memsWf (snCount k n s) = memsWf s := (rfl)

/-! ### QueueOps -/

@[simp] theorem setQueue_memsWf (q r s) : memsWf (setQueue q r s) = memsWf s := (rfl)

@[simp] theorem modQueue_memsWf (q f s) : memsWf (modQueue q f s) = memsWf s := by
  unfold modQueue
  split <;> simp

@[simp] theorem pushQevt_memsWf (w s) : memsWf (pushQevt w s) = memsWf s := by simp [pushQevt]

@[simp] theorem moveQueue_memsWf (q st s) : memsWf (moveQueue q st s) = memsWf s := by
  unfold moveQueue
  split <;> simp

@[simp] theorem creditFault_memsWf (q s) : memsWf (creditFault q s) = memsWf s := by
  unfold creditFault
  split <;> simp

@[simp] theorem dropAt_memsWf (a s) : memsWf (dropAt a s) = memsWf s := by
  simp only [dropAt]
  repeat' split
  all_goals simp

@[simp] theorem setRing_memsWf (n r s) : memsWf (setRing n r s) = memsWf s := (rfl)

/-! ### Tightrope -/

@[simp] theorem noteBound_memsWf (q b s) : memsWf (noteBound q b s) = memsWf s := by simp [noteBound]

@[simp] theorem judge_memsWf (cand s) : memsWf (judge cand s).2.2 = memsWf s := by
  simp only [judge]
  repeat' split
  all_goals simp

@[simp] theorem readmitFewer_memsWf (part s) : memsWf (readmitFewer part s) = memsWf s :=
  List.foldlRecOn (motive := fun a : State × List TQ => memsWf a.1 = memsWf s) _ _ rfl
    (fun a ha x _ => by simp only []; split <;> simpa using ha)

@[simp] theorem readmitMore_memsWf (part s) : memsWf (readmitMore part s) = memsWf s := by
  refine memsWf_foldl _ (fun t x => ?_) _ _
  have h := judge_memsWf x t
  generalize judge x t = p at h ⊢
  obtain ⟨ok, b, u⟩ := p
  simpa using h

@[simp] theorem readmit_memsWf (part fewer s) : memsWf (readmit part fewer s) = memsWf s := by simp [readmit]

/-! ### Pages -/

@[simp] theorem ppCount_memsWf (cls k n s) : memsWf (ppCount cls k n s) = memsWf s := by simp [ppCount]

@[simp] theorem setPage_memsWf (p s) : memsWf (setPage p s) = memsWf s := (rfl)

@[simp] theorem modPage_memsWf (pid f s) : memsWf (modPage pid f s) = memsWf s := by
  unfold modPage
  split <;> simp

@[simp] theorem r2take_memsWf (n s) : memsWf (r2take n s) = memsWf s := (rfl)

@[simp] theorem r2give_memsWf (n s) : memsWf (r2give n s) = memsWf s := (rfl)

@[simp] theorem admitPage_memsWf (q r cseq profile batchStart claim start resv s) :
    memsWf (admitPage q r cseq profile batchStart claim start resv s).2 = memsWf s := (rfl)

@[simp] theorem pushItem_memsWf (q i s) : memsWf (pushItem q i s) = memsWf s := by simp [pushItem]

@[simp] theorem pushCmdRec_memsWf (q cseq code ready s) : memsWf (pushCmdRec q cseq code ready s) = memsWf s := by simp [pushCmdRec]

@[simp] theorem modItem_memsWf (q pid f s) : memsWf (modItem q pid f s) = memsWf s := by simp [modItem]

@[simp] theorem giveOrOwe_memsWf (pid n s) : memsWf (giveOrOwe pid n s) = memsWf s := by simp [giveOrOwe]

@[simp] theorem settleOwing_memsWf (s) : memsWf (settleOwing s) = memsWf s := (rfl)

@[simp] theorem dropRows_memsWf (pid s) : memsWf (dropRows pid s) = memsWf s := (rfl)

@[simp] theorem pruneReady_memsWf (s) : memsWf (pruneReady s) = memsWf s := (rfl)

@[simp] theorem dropPrev_memsWf (p s) : memsWf (dropPrev p s) = memsWf s := by simp [dropPrev]

@[simp] theorem sendBytes_memsWf (x lap q r status textOff s) : memsWf (sendBytes x lap q r status textOff s).2 = memsWf s := by simp [sendBytes]

@[simp] theorem holdCheck_memsWf (q s) : memsWf (holdCheck q s) = memsWf s := by
  unfold holdCheck
  repeat' split
  all_goals simp

@[simp] theorem unholdCheck_memsWf (q s) : memsWf (unholdCheck q s) = memsWf s := by
  unfold unholdCheck
  split <;> simp

@[simp] theorem retirePage_memsWf (pid s) : memsWf (retirePage pid s) = memsWf s := by
  unfold retirePage
  split <;> simp

@[simp] theorem sweepProfiles_memsWf (s) : memsWf (sweepProfiles s) = memsWf s := (rfl)

@[simp] theorem itemDone_memsWf (q k i s) : memsWf (itemDone q k i s) = memsWf s := by
  unfold itemDone
  split <;> simp

/-! ### Flows -/

@[simp] theorem setFlow_memsWf (f x s) : memsWf (setFlow f x s) = memsWf s := (rfl)

@[simp] theorem cvCount_memsWf (k n s) : memsWf (cvCount k n s) = memsWf s := (rfl)

@[simp] theorem reserveOne_memsWf (f s) : memsWf (reserveOne f s) = memsWf s := by
  unfold reserveOne
  split <;> simp

@[simp] theorem reserveFlow_memsWf (f s) : memsWf (reserveFlow f s) = memsWf s := by simp [reserveFlow]

@[simp] theorem reserveFlows_memsWf (s) : memsWf (reserveFlows s) = memsWf s := by simp [reserveFlows]

@[simp] theorem acquireFrames_memsWf (f k need s) : memsWf (acquireFrames f k need s).2 = memsWf s := by
  have hj (c : Nat) (j : Job) : (if j.part = k.1 ∧ j.slot = k.2 then { j with credits := c } else j).save = j.save := by split <;> rfl
  simp only [acquireFrames]
  split <;> simp [memsWf, setFlow, List.all_map, Function.comp_def, hj]

/-! ### Units -/

@[simp] theorem setTile_memsWf (l t s) : memsWf (setTile l t s) = memsWf s := (rfl)

@[simp] theorem modTile_memsWf (l f s) : memsWf (modTile l f s) = memsWf s := (rfl)

@[simp] theorem beginTest_memsWf (u cover s) : memsWf (beginTest u cover s) = memsWf s := by simp [beginTest]

@[simp] theorem setPhys_memsWf (p st s) : memsWf (setPhys p st s) = memsWf s := (rfl)

@[simp] theorem startRemap_memsWf (l old q s) : memsWf (startRemap l old q s) = memsWf s := by simp [startRemap]

@[simp] theorem vacate_memsWf (l s) : memsWf (vacate l s) = memsWf s := (rfl)

@[simp] theorem tileOut_memsWf (l u choice s) : memsWf (tileOut l u choice s) = memsWf s := by
  simp only [tileOut]
  repeat' split
  all_goals simp

@[simp] theorem coverError_memsWf (u choice s) : memsWf (coverError u choice s) = memsWf s := by
  unfold coverError
  repeat' split
  all_goals simp

@[simp] theorem useLine_memsWf (s) : memsWf (useLine s) = memsWf s := by
  unfold useLine
  split <;> simp

@[simp] theorem unitError_memsWf (u choice s) : memsWf (unitError u choice s) = memsWf s := by
  simp only [unitError]
  repeat' split
  all_goals simp

@[simp] theorem leaveNow_memsWf (l s) : memsWf (leaveNow l s) = memsWf s := by
  unfold leaveNow
  split <;> simp

@[simp] theorem useSpare_memsWf (p s) : memsWf (useSpare p s) = memsWf s := by
  unfold useSpare
  repeat' split
  all_goals simp

@[simp] theorem startDue_memsWf (s) : memsWf (startDue s) = memsWf s := by simp [startDue]

/-! ### Ecc -/

@[simp] theorem noteCe_memsWf (u s) : memsWf (noteCe u s) = memsWf s := by simp [noteCe]

@[simp] theorem foundDamage_memsWf (d s) : memsWf (foundDamage d s) = memsWf s := by
  simp only [foundDamage]
  repeat' split
  all_goals simp

@[simp] theorem addDamage_memsWf (m hits s) : memsWf (addDamage m hits s) = memsWf s := by
  unfold addDamage
  exact memsWf_foldl _ (fun _ _ => memsWf_setParts ..) _ _

@[simp] theorem readCheck_memsWf (m unit lo n s) : memsWf (readCheck m unit lo n s).2 = memsWf s := by simp [readCheck]

@[simp] theorem heal_memsWf (m unit lo n s) : memsWf (heal m unit lo n s) = memsWf s := (rfl)

@[simp] theorem ceWriteBack_memsWf (m s) : memsWf (ceWriteBack m s) = memsWf s := by
  unfold ceWriteBack
  split <;> simp

/-! ### Flags -/

@[simp] theorem raiseFlag_memsWf (tile f s) : memsWf (raiseFlag tile f s) = memsWf s := (rfl)

@[simp] theorem raiseFlags_memsWf (tile fs s) : memsWf (raiseFlags tile fs s) = memsWf s := by simp [raiseFlags]

@[simp] theorem nflagWrite_memsWf (d en s) : memsWf (nflagWrite d en s) = memsWf s := (rfl)

/-! ### Operands -/

@[simp] theorem dramCheck_memsWf (pd off n s) : memsWf (dramCheck pd off n s).2 = memsWf s := by simp [dramCheck]

@[simp] theorem tsCheck_memsWf (a n s) : memsWf (tsCheck a n s).2 = memsWf s := by simp [tsCheck]

@[simp] theorem mixWrites_memsWf (a n s) : memsWf (mixWrites a n s) = memsWf s := by simp [mixWrites]

@[simp] theorem setTok_memsWf (t r s) : memsWf (setTok t r s) = memsWf s := (rfl)

@[simp] theorem landPost_memsWf (who t k s) : memsWf (landPost who t k s) = memsWf s := by simp [landPost]

@[simp] theorem post_memsWf (who t k s) : memsWf (post who t k s) = memsWf s := by simp [post]

@[simp] theorem enginePost_memsWf (w s) : memsWf (enginePost w s) = memsWf s := by simp [enginePost]

@[simp] theorem readFails_memsWf (l ue s) : memsWf (readFails l ue s) = memsWf s := by simp [readFails]

@[simp] theorem fillStep_memsWf (l c f s) : memsWf (fillStep l c f s).2 = memsWf s := by
  unfold fillStep
  split <;> simp

@[simp] theorem countFreeze_memsWf (l s) : memsWf (countFreeze l s) = memsWf s := by
  unfold countFreeze
  exact memsWf_setParts ..

@[simp] theorem lands_memsWf (l o n e s) : memsWf (lands l o n e s) = memsWf s := (rfl)

@[simp] theorem putS_memsWf (l o n v s) : memsWf (putS l o n v s) = memsWf s := by simp [putS]

@[simp] theorem putA_memsWf (l o n v s) : memsWf (putA l o n v s) = memsWf s := by simp [putA]

@[simp] theorem putV_memsWf (l o n v mask s) : memsWf (putV l o n v mask s) = memsWf s := by simp [putV]

@[simp] theorem putP_memsWf (l o n v s) : memsWf (putP l o n v s) = memsWf s := by simp [putP]

/-! ### Sched -/

@[simp] theorem setSched_memsWf (l x s) : memsWf (setSched l x s) = memsWf s := (rfl)

@[simp] theorem modJob_memsWf {f : Job → Job} (hf : ∀ j, (f j).save = j.save) (k s) : memsWf (modJob k f s) = memsWf s := by
  have hj (j : Job) : (if j.key = k then f j else j).save = j.save := by split <;> simp [hf]
  simp [memsWf, modJob, List.all_map, Function.comp_def, hj]

@[simp] theorem countPreempt_memsWf (k s) : memsWf (countPreempt k s) = memsWf s := by
  unfold countPreempt
  split <;> simp

@[simp] theorem takeTurn_memsWf (l k s) : memsWf (takeTurn l k s) = memsWf s := by
  simp only [takeTurn]
  repeat' split
  all_goals simp

@[simp] theorem nextTurn_memsWf (l n s) : memsWf (nextTurn l n s) = memsWf s := by
  induction n generalizing s with
  | zero => rfl
  | succ n ih =>
    simp only [nextTurn]
    repeat' split
    all_goals simp [ih]

@[simp] theorem giveUp_memsWf (l s) : memsWf (giveUp l s) = memsWf s := by simp [giveUp]

@[simp] theorem startDonation_memsWf (l s) : memsWf (startDonation l s) = memsWf s := by
  unfold startDonation
  split <;> simp

@[simp] theorem joinRing_memsWf (k l s) : memsWf (joinRing k l s) = memsWf s := by simp [joinRing]

@[simp] theorem wakeJobs_memsWf (s) : memsWf (wakeJobs s) = memsWf s := by
  refine memsWf_foldl _ (fun t r => ?_) _ _
  split <;> simp

@[simp] theorem donate_memsWf (l t s) : memsWf (donate l t s).2 = memsWf s := by
  unfold donate
  split <;> simp

@[simp] theorem endDonation_memsWf (l s) : memsWf (endDonation l s) = memsWf s := by
  unfold endDonation
  split <;> simp

@[simp] theorem afterCommand_memsWf (l s) : memsWf (afterCommand l s) = memsWf s := by
  simp only [afterCommand]
  repeat' split
  all_goals simp

@[simp] theorem sliceEnd_memsWf (l s) : memsWf (sliceEnd l s) = memsWf s := by
  simp only [sliceEnd]
  repeat' split
  all_goals simp

@[simp] theorem restoreHeld_memsWf (k s) : memsWf (restoreHeld k s) = memsWf s := by simp [restoreHeld]

/-! ### Dechel -/

@[simp] theorem postReply_memsWf (tag code st r8 r10 s) : memsWf (postReply tag code st r8 r10 s) = memsWf s := (rfl)

@[simp] theorem doResume_memsWf (s) : memsWf (doResume s) = memsWf s := by
  unfold doResume
  extract_lets q reply
  have hreply (code r10 t) : memsWf (reply code r10 t) = memsWf t := postReply_memsWf ..
  split
  · exact hreply ..
  · next r _ =>
    split
    · have h := judge_memsWf ⟨q, r.part, r.cls, r.quota⟩ s
      generalize judge ⟨q, r.part, r.cls, r.quota⟩ s = p at h ⊢
      obtain ⟨ok, b, u⟩ := p
      simpa [hreply] using h
    · exact hreply ..

@[simp] theorem setDoor_memsWf (d r s) : memsWf (setDoor d r s) = memsWf s := (rfl)

@[simp] theorem disarm_memsWf (d s) : memsWf (disarm d s) = memsWf s := by simp [disarm]

@[simp] theorem settleArms_memsWf (q s) : memsWf (settleArms q s) = memsWf s := by
  unfold settleArms
  split <;> simp

@[simp] theorem doClose_memsWf (s) : memsWf (doClose s) = memsWf s := by
  simp only [doClose]
  repeat' split
  all_goals simp

@[simp] theorem doQuery_memsWf (s) : memsWf (doQuery s) = memsWf s := by
  simp only [doQuery]
  repeat' split
  all_goals simp

@[simp] theorem mboxPut_memsWf (mop r s) : memsWf (mboxPut mop r s) = memsWf s := (rfl)

@[simp] theorem dbBad_memsWf (s) : memsWf (dbBad s) = memsWf s := (rfl)

@[simp] theorem cmdDoorbell_memsWf (q v s) : memsWf (cmdDoorbell q v s) = memsWf s := by
  unfold cmdDoorbell
  split <;> simp

@[simp] theorem consume_memsWf (n v s) : memsWf (consume n v s) = memsWf s := by
  refine (memsWf_foldl _ (fun t pid => ?_) _ _).trans (by simp)
  split <;> simp

@[simp] theorem ringDoorbell_memsWf (id v s) : memsWf (ringDoorbell id v s) = memsWf s := by
  simp only [ringDoorbell]
  split_ifs
  · simp
  · simp
  · rw [reserveFlows_memsWf, memsWf_foldl, consume_memsWf]
    intro t q
    split <;> simp

@[simp] theorem takeDoorbell_memsWf (w s) : memsWf (takeDoorbell w s) = memsWf s := by simp [takeDoorbell]

@[simp] theorem doorbell_memsWf (w s) : memsWf (doorbell w s) = memsWf s := by simp [doorbell]

@[simp] theorem refuseCmd_memsWf (q seq isPage code s) : memsWf (refuseCmd q seq isPage code s) = memsWf s := by simp [refuseCmd]

@[simp] theorem takeCmd_memsWf (q r cmd s) : memsWf (takeCmd q r cmd s) = memsWf s := by simp [takeCmd]

@[simp] theorem fabricFetch_memsWf (q r s) : memsWf (fabricFetch q r s) = memsWf s := by
  unfold fabricFetch
  split <;> simp

@[simp] theorem commandFetch_memsWf (q s0) : memsWf (commandFetch q s0) = memsWf s0 := by
  simp only [commandFetch]
  repeat' split
  all_goals simp

@[simp] theorem clearCur_memsWf (q s) : memsWf (clearCur q s) = memsWf s := by simp [clearCur]

@[simp] theorem doNop_memsWf (q s) : memsWf (doNop q s) = memsWf s := by
  unfold doNop
  split <;> simp

@[simp] theorem doFence_memsWf (q s) : memsWf (doFence q s) = memsWf s := by
  unfold doFence
  split <;> simp

@[simp] theorem fenceComplete_memsWf (q s) : memsWf (fenceComplete q s) = memsWf s := by simp [fenceComplete]

@[simp] theorem pageRelease_memsWf (pid s) : memsWf (pageRelease pid s) = memsWf s := by
  unfold pageRelease
  repeat' split
  all_goals simp

@[simp] theorem drainTimeout_memsWf (q s) : memsWf (drainTimeout q s) = memsWf s := by
  unfold drainTimeout
  split <;> simp

@[simp] theorem popQevt_memsWf (s) : memsWf (popQevt s).2 = memsWf s := by
  unfold popQevt
  split <;> simp

theorem dqRead_memsWf (off s) : ∀ r ∈ dqRead off s, memsWf r.2 = memsWf s := by
  simp only [dqRead]
  repeat' apply forall_mem_ite
  all_goals simp

theorem dqWrite_memsWf {off : Nat} {d en : Word} {s t : State} (h : dqWrite off d en s = some t) : memsWf t = memsWf s := by
  simp only [dqWrite] at h
  repeat' split at h
  all_goals cases h <;> simp

/-! ### Engines -/

@[simp] theorem setEngine_memsWf (e x s) : memsWf (setEngine e x s) = memsWf s := (rfl)

@[simp] theorem grantPair_memsWf (e s) : memsWf (grantPair e s) = memsWf s := by
  simp only [grantPair]
  repeat' split
  all_goals simp

@[simp] theorem grantPairs_memsWf (s) : memsWf (grantPairs s) = memsWf s := by simp [grantPairs]

@[simp] theorem grantCmd_memsWf (e s) : memsWf (grantCmd e s) = memsWf s := by
  simp only [grantCmd]
  repeat' split
  all_goals simp

@[simp] theorem grantCmds_memsWf (s) : memsWf (grantCmds s) = memsWf s := memsWf_foldl _ (fun t e => grantCmd_memsWf e t) _ _

/-! ### Preparation -/

@[simp] theorem countRefusal_memsWf (cls code s) : memsWf (countRefusal cls code s) = memsWf s := by simp [countRefusal]

@[simp] theorem doPage_memsWf (q s) : memsWf (doPage q s) = memsWf s := by
  simp only [doPage]
  repeat' split
  all_goals simp

@[simp] theorem loadProfile_memsWf (part pid remove srcOk img s) :
    memsWf (loadProfile part pid remove srcOk img s).2 = memsWf s := by simp [loadProfile]

@[simp] theorem doProfileLoad_memsWf (q s) : memsWf (doProfileLoad q s) = memsWf s := by
  unfold doProfileLoad
  split <;> simp

@[simp] theorem prepReads_memsWf (s p) : memsWf (prepReads s p).2 = memsWf s := by simp [prepReads]

@[simp] theorem commitCutout_memsWf (pid corrupt s) : memsWf (commitCutout pid corrupt s) = memsWf s := by
  unfold commitCutout
  repeat' split
  all_goals simp

@[simp] theorem encoderBatchForm_memsWf (q s) : memsWf (encoderBatchForm q s) = memsWf s := by
  simp only [encoderBatchForm]
  repeat' split
  all_goals simp

@[simp] theorem batchSent_memsWf (r k s) : memsWf (batchSent r k s) = memsWf s := by simp [batchSent]

@[simp] theorem corruptRows_memsWf (hits s) : memsWf (corruptRows hits s) = memsWf s := by
  refine (memsWf_foldl _ (fun t x => ?_) _ _).trans (by simp)
  split <;> simp

@[simp] theorem commitEncoder_memsWf (k hits s) : memsWf (commitEncoder k hits s) = memsWf s := by
  unfold commitEncoder
  split <;> simp

@[simp] theorem segmentEnded_memsWf (pid line code s) : memsWf (segmentEnded pid line code s) = memsWf s := by simp [segmentEnded]

theorem ppRead_memsWf (off s) : ∀ r ∈ ppRead off s, memsWf r.2 = memsWf s := by
  simp only [ppRead]
  repeat' apply forall_mem_ite
  all_goals simp

@[simp] theorem cntSelWrite_memsWf (d en s) : memsWf (cntSelWrite d en s) = memsWf s := by simp [cntSelWrite]

theorem ppWrite_memsWf {off : Nat} {d en : Word} {s t : State} (h : ppWrite off d en s = some t) : memsWf t = memsWf s := by
  simp only [ppWrite] at h
  repeat' split at h
  all_goals cases h <;> simp

/-! ### Caravan -/

@[simp] theorem cvSend_memsWf (n ty seq ack body s) : memsWf (cvSend n ty seq ack body s) = memsWf s := (rfl)

@[simp] theorem cvPageEnds_memsWf (n early at' s) : memsWf (cvPageEnds n early at' s) = memsWf s := by
  simp only [cvPageEnds]
  repeat' split
  all_goals simp

@[simp] theorem cvPageBytes_memsWf (pid b s) : memsWf (cvPageBytes pid b s) = memsWf s := by
  unfold cvPageBytes
  split <;> simp

@[simp] theorem cvPageStart_memsWf (n f s) : memsWf (cvPageStart n f s) = memsWf s := by
  simp only [cvPageStart]
  repeat' split
  all_goals simp

@[simp] theorem cvPageMore_memsWf (n f s) : memsWf (cvPageMore n f s) = memsWf s := by
  simp only [cvPageMore]
  repeat' split
  all_goals simp

@[simp] theorem peerInfo_memsWf (n ack limit s) : memsWf (peerInfo n ack limit s) = memsWf s := by
  refine (memsWf_foldl _ (fun t c => ?_) _ _).trans (by simp)
  split <;> simp

@[simp] theorem endSession_memsWf (n s) : memsWf (endSession n s) = memsWf s := by
  unfold endSession
  split <;> simp

@[simp] theorem helloAck_memsWf (n s) : memsWf (helloAck n s) = memsWf s := by simp [helloAck]

@[simp] theorem doHello_memsWf (n f s) : memsWf (doHello n f s) = memsWf s := by simp [doHello]

@[simp] theorem cvCommand_memsWf (n f s) : memsWf (cvCommand n f s) = memsWf s := by
  unfold cvCommand
  split <;> simp

@[simp] theorem takeEntries_memsWf (n q fuel room ps s) : memsWf (takeEntries n q fuel room ps s).2 = memsWf s := by
  induction fuel generalizing room ps s with
  | zero => rfl
  | succ fuel ih =>
    simp only [takeEntries]
    repeat' split
    all_goals simp [ih]

@[simp] theorem ackFirst_memsWf (n s) : memsWf (ackFirst n s) = memsWf s := by simp [ackFirst]

@[simp] theorem resultSend_memsWf (n s) : memsWf (resultSend n s) = memsWf s := by
  simp only [resultSend]
  repeat' split
  all_goals simp

@[simp] theorem rtoExpiry_memsWf (n s) : memsWf (rtoExpiry n s) = memsWf s := by
  simp only [rtoExpiry]
  repeat' split
  all_goals simp

@[simp] theorem pageIdle_memsWf (n s) : memsWf (pageIdle n s) = memsWf s := by
  simp only [pageIdle]
  repeat' split
  all_goals simp

@[simp] theorem sessionIdle_memsWf (n s) : memsWf (sessionIdle n s) = memsWf s := by simp [sessionIdle]

@[simp] theorem creditKeepalive_memsWf (n s) : memsWf (creditKeepalive n s) = memsWf s := by simp [creditKeepalive]

@[simp] theorem listenAll_memsWf (s) : memsWf (listenAll s) = memsWf s := by simp [listenAll]

theorem cvRead_memsWf (off s) : ∀ r ∈ cvRead off s, memsWf r.2 = memsWf s := by
  simp only [cvRead]
  repeat' apply forall_mem_ite
  all_goals simp

theorem cvWrite_memsWf {off : Nat} {d en : Word} {s t : State} (h : cvWrite off d en s = some t) : memsWf t = memsWf s := by
  simp only [cvWrite] at h
  repeat' split at h
  all_goals cases h <;> simp

/-! ### ScanFront -/

@[simp] theorem sfCount_memsWf (k n s) : memsWf (sfCount k n s) = memsWf s := (rfl)

@[simp] theorem generatorRun_memsWf (s) : memsWf (generatorRun s) = memsWf s := by simp [generatorRun]

@[simp] theorem pgCtlWrite_memsWf (d en s) : memsWf (pgCtlWrite d en s) = memsWf s := by simp [pgCtlWrite]

@[simp] theorem pgAccWrite_memsWf (d en s) : memsWf (pgAccWrite d en s) = memsWf s := by simp [pgAccWrite]

@[simp] theorem goStep_memsWf (k s) : memsWf (goStep k s) = memsWf s := (rfl)

@[simp] theorem patternRun_memsWf (s) : memsWf (patternRun s) = memsWf s := by
  unfold patternRun
  split <;> simp

@[simp] theorem patternSethi_memsWf (s) : memsWf (patternSethi s) = memsWf s := by
  unfold patternSethi
  split <;> simp

@[simp] theorem patternLoop_memsWf (op s) : memsWf (patternLoop op s) = memsWf s := by
  unfold patternLoop
  split <;> simp

@[simp] theorem patternWait_memsWf (s) : memsWf (patternWait s) = memsWf s := by
  unfold patternWait
  split <;> simp

@[simp] theorem patternCapture_memsWf (s) : memsWf (patternCapture s) = memsWf s := by
  unfold patternCapture
  split <;> simp

@[simp] theorem patternColour_memsWf (s) : memsWf (patternColour s) = memsWf s := by
  unfold patternColour
  split <;> simp

@[simp] theorem patternEnd_memsWf (s) : memsWf (patternEnd s) = memsWf s := by
  unfold patternEnd
  split <;> simp

@[simp] theorem lineTrigger_memsWf (s) : memsWf (lineTrigger s) = memsWf s := by
  unfold lineTrigger
  split <;> simp

@[simp] theorem linePeriod_memsWf (s) : memsWf (linePeriod s) = memsWf s := by simp [linePeriod]

@[simp] theorem encoderEdge_memsWf (s) : memsWf (encoderEdge s) = memsWf s := by simp [encoderEdge]

@[simp] theorem laneLock_memsWf (lane s) : memsWf (laneLock lane s) = memsWf s := by simp [laneLock]

@[simp] theorem intakeStripe_memsWf (pid s) : memsWf (intakeStripe pid s) = memsWf s := by
  unfold intakeStripe
  repeat' split
  all_goals simp

@[simp] theorem boundary_memsWf (d s) : memsWf (boundary d s) = memsWf s := (rfl)

@[simp] theorem doScanArm_memsWf (q s) : memsWf (doScanArm q s) = memsWf s := by
  unfold doScanArm
  split <;> simp

@[simp] theorem doScanDisarm_memsWf (q s) : memsWf (doScanDisarm q s) = memsWf s := by
  unfold doScanDisarm
  split <;> simp

@[simp] theorem reservation_memsWf (d s) : memsWf (reservation d s) = memsWf s := by
  simp only [reservation]
  repeat' split
  all_goals simp

@[simp] theorem startPage_memsWf (d s) : memsWf (startPage d s) = memsWf s := by
  simp only [startPage]
  repeat' split
  all_goals simp

@[simp] theorem startLost_memsWf (d s) : memsWf (startLost d s) = memsWf s := (rfl)

@[simp] theorem endScan_memsWf (d cut t s) : memsWf (endScan d cut t s) = memsWf s := by
  simp only [endScan]
  repeat' split
  all_goals simp

@[simp] theorem addRaw_memsWf (d ls s) : memsWf (addRaw d ls s) = memsWf s := by
  simp only [addRaw]
  repeat' split
  all_goals simp

@[simp] theorem leadingEdge_memsWf (h n s) : memsWf (leadingEdge h n s) = memsWf s := by
  simp only [leadingEdge]
  repeat' split
  all_goals simp

@[simp] theorem headLine_memsWf (h l s) : memsWf (headLine h l s) = memsWf s := by
  simp only [headLine]
  repeat' split
  all_goals simp

@[simp] theorem scanLine_memsWf (h planes s) : memsWf (scanLine h planes s) = memsWf s := by
  unfold scanLine
  repeat' split
  all_goals simp

@[simp] theorem camLine_memsWf (c l s) : memsWf (camLine c l s) = memsWf s := by simp [camLine]

@[simp] theorem frameStart_memsWf (c s) : memsWf (frameStart c s) = memsWf s := by simp [frameStart]

@[simp] theorem frameEnd_memsWf (c s) : memsWf (frameEnd c s) = memsWf s := by simp [frameEnd]

@[simp] theorem camPlane_memsWf (c tag good px s) : memsWf (camPlane c tag good px s) = memsWf s := by simp [camPlane]

@[simp] theorem linePacket_memsWf (c vc dt hdrOk crcOk px s) : memsWf (linePacket c vc dt hdrOk crcOk px s) = memsWf s := by
  unfold linePacket
  split <;> simp

@[simp] theorem otherPacket_memsWf (c dt s) : memsWf (otherPacket c dt s) = memsWf s := by simp [otherPacket]

theorem sfRead_memsWf (off s) : ∀ r ∈ sfRead off s, memsWf r.2 = memsWf s := by
  simp only [sfRead]
  repeat' apply forall_mem_ite
  all_goals simp

@[simp] theorem sfStore_memsWf (off d en s) : memsWf (sfStore off d en s) = memsWf s := by simp [sfStore]

@[simp] theorem headWrite_memsWf (h d en s) : memsWf (headWrite h d en s) = memsWf s := by simp [headWrite]

theorem sfWrite_memsWf {off : Nat} {d en : Word} {s t : State} (h : sfWrite off d en s = some t) : memsWf t = memsWf s := by
  simp only [sfWrite] at h
  repeat' split at h
  all_goals cases h <;> simp

/-! ### Clocks -/

@[simp] theorem pllSWrite_memsWf (src d en s) : memsWf (pllSWrite src d en s) = memsWf s := by simp [pllSWrite]

@[simp] theorem pllLock_memsWf (k s) : memsWf (pllLock k s) = memsWf s := by simp [pllLock]

@[simp] theorem lossOfLock_memsWf (k s) : memsWf (lossOfLock k s) = memsWf s := by simp [lossOfLock]

@[simp] theorem refclkLoss_memsWf (s) : memsWf (refclkLoss s) = memsWf s := (rfl)

@[simp] theorem refclkReturn_memsWf (s) : memsWf (refclkReturn s) = memsWf s := (rfl)

@[simp] theorem ssWrite_memsWf (src d en s) : memsWf (ssWrite src d en s) = memsWf s := by simp [ssWrite]

@[simp] theorem gateWrite_memsWf (dom src d en s) : memsWf (gateWrite dom src d en s) = memsWf s := by simp [gateWrite]

@[simp] theorem selWrite_memsWf (src d en s) : memsWf (selWrite src d en s) = memsWf s := by simp [selWrite]

theorem ckRead_memsWf (off s) : ∀ r ∈ ckRead off s, memsWf r.2 = memsWf s := by
  simp only [ckRead]
  repeat' apply forall_mem_ite
  all_goals simp

theorem ckWrite_memsWf {src : Src} {off : Nat} {d en : Word} {s t : State} (h : ckWrite src off d en s = some t) : memsWf t = memsWf s := by
  simp only [ckWrite] at h
  repeat' split at h
  all_goals cases h <;> simp

/-! ### HostPort -/

@[simp] theorem modeRegisterWrite_memsWf (ch mr v s) : memsWf (modeRegisterWrite ch mr v s) = memsWf s := by simp [modeRegisterWrite]

@[simp] theorem trainEnter_memsWf (ch step s) : memsWf (trainEnter ch step s) = memsWf s := (rfl)

@[simp] theorem trainComplete_memsWf (ch step s) : memsWf (trainComplete ch step s) = memsWf s := by simp [trainComplete]

@[simp] theorem rdcStep_memsWf (ch ph s) : memsWf (rdcStep ch ph s) = memsWf s := by
  unfold rdcStep
  split <;> simp

@[simp] theorem trainStep_memsWf (ch step ph s) : memsWf (trainStep ch step ph s) = memsWf s := by
  unfold trainStep
  split <;> simp

@[simp] theorem wffStep_memsWf (ch data ph s) : memsWf (wffStep ch data ph s) = memsWf s := by
  unfold wffStep
  split <;> simp

@[simp] theorem hostPortReset_memsWf (s) : memsWf (hostPortReset s) = memsWf s := (rfl)

@[simp] theorem stagedWrite_memsWf (a bs mask s) : memsWf (stagedWrite a bs mask s) = memsWf s := by simp [stagedWrite]

@[simp] theorem grantEntry_memsWf (e s) : memsWf (grantEntry e s) = memsWf s := (rfl)

@[simp] theorem dropEntry_memsWf (e s) : memsWf (dropEntry e s) = memsWf s := by simp [dropEntry]

@[simp] theorem strike_memsWf (a n errs s) : memsWf (strike a n errs s) = memsWf s := by simp [strike]

theorem hpRead_memsWf (off s) : ∀ r ∈ hpRead off s, memsWf r.2 = memsWf s := by
  simp only [hpRead]
  repeat' apply forall_mem_ite
  all_goals simp

@[simp] theorem hpCfgWrite_memsWf (src d en s) : memsWf (hpCfgWrite src d en s) = memsWf s := by simp [hpCfgWrite]

theorem hpWrite_memsWf {src : Src} {off : Nat} {d en : Word} {s t : State} (h : hpWrite src off d en s = some t) : memsWf t = memsWf s := by
  simp only [hpWrite] at h
  repeat' split at h
  all_goals cases h <;> simp

/-! ### TileMatrix -/

@[simp] theorem doMul_memsWf (l o t s) : memsWf (doMul l o t s) = memsWf s := by simp [doMul]

@[simp] theorem startFill_memsWf (l f s) : memsWf (startFill l f s) = memsWf s := (rfl)

/-! ### TileMemory -/

@[simp] theorem postInc_memsWf (l o t s) : memsWf (postInc l o t s) = memsWf s := by simp [postInc]

@[simp] theorem useBank_memsWf (l a s) : memsWf (useBank l a s) = memsWf s := (rfl)

@[simp] theorem spadSeen_memsWf (l a n s) : memsWf (spadSeen l a n s).2 = memsWf s := by simp [spadSeen]

@[simp] theorem readSpad_memsWf (l a n s) : memsWf (readSpad l a n s).2 = memsWf s := by simp [readSpad]

@[simp] theorem crossPart_memsWf (l part s) : memsWf (crossPart l part s) = memsWf s := (rfl)

@[simp] theorem noteTok_memsWf (l t added taken s) : memsWf (noteTok l t added taken s) = memsWf s := (rfl)

@[simp] theorem xferPost_memsWf (l k s) : memsWf (xferPost l k s) = memsWf s := by
  unfold xferPost
  split <;> simp

@[simp] theorem thaw_memsWf (l s) : memsWf (thaw l s) = memsWf s := by simp [thaw]

@[simp] theorem startXfer_memsWf (l staging x s) : memsWf (startXfer l staging x s) = memsWf s := by
  simp only [startXfer]
  repeat' split
  all_goals simp

@[simp] theorem stgCheck_memsWf (pd depot off n s) : memsWf (stgCheck pd depot off n s).2 = memsWf s := by simp [stgCheck]

@[simp] theorem flushPosts_memsWf (l n s) : memsWf (flushPosts l n s) = memsWf s := by
  induction n generalizing s with
  | zero => rfl
  | succ n ih =>
    simp only [flushPosts]
    split <;> simp [ih]

/-! ### Failing -/

@[simp] theorem restoreToks_memsWf (l c s) : memsWf (restoreToks l c s) = memsWf s := by simp [restoreToks]

@[simp] theorem loseSeqs_memsWf (part dec s) : memsWf (loseSeqs part dec s) = memsWf s := (rfl)

@[simp] theorem markRetried_memsWf (pages s) : memsWf (markRetried pages s) = memsWf s := by simp [markRetried]

@[simp] theorem runAgain_memsWf (c l s) : memsWf (runAgain c l s) = memsWf s := by simp [runAgain]

/-! ### Kv -/

@[simp] theorem setSeq_memsWf (i e s) : memsWf (setSeq i e s) = memsWf s := (rfl)

@[simp] theorem modSeq_memsWf (i f s) : memsWf (modSeq i f s) = memsWf s := (rfl)

@[simp] theorem setTab_memsWf (t x s) : memsWf (setTab t x s) = memsWf s := (rfl)

@[simp] theorem putTab_memsWf (t bs x s) : memsWf (putTab t bs x s) = memsWf s :=
  (memsWf_foldl _ (fun _ _ => heal_memsWf ..) _ _).trans (setTab_memsWf ..)

@[simp] theorem newTab_memsWf (t x s) : memsWf (newTab t x s) = memsWf s := (rfl)

@[simp] theorem kvCount_memsWf (k n s) : memsWf (kvCount k n s) = memsWf s := (rfl)

@[simp] theorem sequenceAlloc_memsWf (p s) : memsWf (sequenceAlloc p s) = memsWf s := by
  unfold sequenceAlloc
  repeat' split
  all_goals simp

@[simp] theorem giveRun_memsWf (p r s) : memsWf (giveRun p r s) = memsWf s := by
  simp only [giveRun]
  repeat' split
  all_goals simp

@[simp] theorem setCarSlot_memsWf (k x s) : memsWf (setCarSlot k x s) = memsWf s := (rfl)

@[simp] theorem askHost_memsWf (k x s) : memsWf (askHost k x s) = memsWf s := (rfl)

@[simp] theorem outDone_memsWf (i s) : memsWf (outDone i s) = memsWf s := by simp [outDone]

@[simp] theorem takeVictim_memsWf (i acc) : memsWf (takeVictim i acc).2.2 = memsWf acc.2.2 := by
  simp only [takeVictim]
  split <;> simp

@[simp] theorem chooseVictims_memsWf (p left given s) : memsWf (chooseVictims p left given s) = memsWf s := by
  have hv : memsWf ((victimOrder s p given).foldl (fun a i => takeVictim i a) (left.length, [], s)).2.2 = memsWf s :=
    List.foldlRecOn (motive := fun a : Nat × List (BitVec 32) × State => memsWf a.2.2 = memsWf s) _ _ rfl (fun a ha i _ => by simpa using ha)
  simp [chooseVictims, hv]

@[simp] theorem carRelease_memsWf (k s) : memsWf (carRelease k s) = memsWf s := by simp [carRelease]

@[simp] theorem carReturn_memsWf (k s) : memsWf (carReturn k s) = memsWf s := by simp [carReturn]

@[simp] theorem inDone_memsWf (i s) : memsWf (inDone i s) = memsWf s := by simp [inDone]

@[simp] theorem reserveRuns_memsWf (p i n s) : memsWf (reserveRuns p i n s) = memsWf s := by
  induction n generalizing s with
  | zero => rfl
  | succ n ih =>
    simp only [reserveRuns]
    split <;> simp [ih]

@[simp] theorem directWrite_memsWf (w s) : memsWf (directWrite w s).2 = memsWf s := by simp [directWrite]

@[simp] theorem ptWrWrite_memsWf (src d en s) : memsWf (ptWrWrite src d en s) = memsWf s := by simp [ptWrWrite]

@[simp] theorem cslotWrite_memsWf (k d en s) : memsWf (cslotWrite k d en s) = memsWf s := by
  unfold cslotWrite
  repeat' split
  all_goals simp

@[simp] theorem cslotHost_memsWf (k v s) : memsWf (cslotHost k v s) = memsWf s := by simp [cslotHost]

@[simp] theorem ccrcWrite_memsWf (k d en s) : memsWf (ccrcWrite k d en s) = memsWf s := by simp [ccrcWrite]

theorem kvRead_memsWf (off s) : ∀ r ∈ kvRead off s, memsWf r.2 = memsWf s := by
  simp only [kvRead]
  repeat' apply forall_mem_ite
  all_goals simp

/-! ### Walker -/

@[simp] theorem setStep_memsWf (x s) : memsWf (setStep x s) = memsWf s := (rfl)

@[simp] theorem allocRun_memsWf (i s) : memsWf (allocRun i s).2.2 = memsWf s := by
  simp only [allocRun]
  repeat' split
  all_goals simp

@[simp] theorem allocAll_memsWf (cands s) : memsWf (allocAll cands s).2.2 = memsWf s :=
  List.foldlRecOn (motive := fun a : List Nat × List Nat × State => memsWf a.2.2 = memsWf s) _ _ rfl (fun a ha i _ => by simpa using ha)

@[simp] theorem listSeq_memsWf (i s) : memsWf (listSeq i s) = memsWf s := by simp [listSeq]

@[simp] theorem attCheck_memsWf (a d pd y s) : memsWf (attCheck a d pd y s).2 = memsWf s := by simp [attCheck]

@[simp] theorem walkerFails_memsWf (p pages runs s) : memsWf (walkerFails p pages runs s) = memsWf s := by simp [walkerFails]

@[simp] theorem putAttend_memsWf (a b s) : memsWf (putAttend a b s) = memsWf s := (rfl)

@[simp] theorem startBlock_memsWf (depot s) : memsWf (startBlock depot s) = memsWf s := by
  simp only [startBlock]
  repeat' split
  all_goals simp

/-! ### Depot -/

@[simp] theorem applyCal_memsWf (cal d s) : memsWf (applyCal cal d s) = memsWf s := by
  unfold applyCal
  exact (memsWf_setHp ..).trans (memsWf_setParts ..)

@[simp] theorem calendarApply_memsWf (s) : memsWf (calendarApply s) = memsWf s := by
  unfold calendarApply
  split <;> simp

@[simp] theorem windowCheck_memsWf (pd kind depot off len s) : memsWf (windowCheck pd kind depot off len s).2 = memsWf s := by simp [windowCheck]

@[simp] theorem addCmd_memsWf (c s) : memsWf (addCmd c s) = memsWf s := (grantCmds_memsWf _).trans (memsWf_setParts ..)

@[simp] theorem haulerTake_memsWf (op p ws s) : memsWf (haulerTake op p ws s) = memsWf s := by simp [haulerTake]

@[simp] theorem zrCount_memsWf (k n s) : memsWf (zrCount k n s) = memsWf s := (rfl)

@[simp] theorem zrAbsent_memsWf (n s) : memsWf (zrAbsent n s) = memsWf s := (rfl)

@[simp] theorem unpackTouch_memsWf (c pd s) : memsWf (unpackTouch c pd s).2 = memsWf s := by simp [unpackTouch]

theorem dmRead_memsWf (off s) : ∀ r ∈ dmRead off s, memsWf r.2 = memsWf s := by
  simp only [dmRead]
  repeat' apply forall_mem_ite
  all_goals simp

theorem dmWrite_memsWf {off : Nat} {d en : Word} {s t : State} (h : dmWrite off d en s = some t) : memsWf t = memsWf s := by
  simp only [dmWrite] at h
  repeat' split at h
  all_goals cases h <;> simp

/-! ### Operator -/

@[simp] theorem operTouch_memsWf (pd o s) : memsWf (operTouch pd o s).2 = memsWf s := by simp [operTouch]

@[simp] theorem zrFailed_memsWf (part depot row cblk b s) : memsWf (zrFailed part depot row cblk b s) = memsWf s := (rfl)

@[simp] theorem zrTake_memsWf (pd part o s) : memsWf (zrTake pd part o s).2 = memsWf s := by
  refine memsWf_foldl_snd _ (fun a x => ?_) _ _
  split
  · rfl
  · split <;> simp

@[simp] theorem operJudge_memsWf (r s) : memsWf (operJudge r s).2 = memsWf s := by
  unfold operJudge
  split <;> simp

/-! ### TileSync -/

@[simp] theorem dropHeld_memsWf (k t s) : memsWf (dropHeld k t s) = memsWf s := by simp [dropHeld]

@[simp] theorem tokCheck_memsWf (l t s) : memsWf (tokCheck l t s).2 = memsWf s := by simp [tokCheck]

@[simp] theorem postOp_memsWf (l t k s) : memsWf (postOp l t k s) = memsWf s := by
  unfold postOp
  split <;> simp

@[simp] theorem takeTok_memsWf (l t k s) : memsWf (takeTok l t k s) = memsWf s := by
  unfold takeTok
  split <;> simp

@[simp] theorem waitSatisfied_memsWf (l s) : memsWf (waitSatisfied l s) = memsWf s := by
  unfold waitSatisfied
  split <;> simp

@[simp] theorem loopOp_memsWf (l t o s) : memsWf (loopOp l t o s) = memsWf s := by simp [loopOp]

/-! ### Ringmaster -/

@[simp] theorem joinGroup_memsWf (g r runs s) : memsWf (joinGroup g r runs s) = memsWf s := by
  unfold joinGroup
  split <;> simp

@[simp] theorem launch_memsWf (r j runs s) : memsWf (launch r j runs s) = memsWf s := by
  simp only [launch]
  repeat' split
  all_goals simp

@[simp] theorem dispatch_memsWf (r s) : memsWf (dispatch r s) = memsWf s := by
  simp only [dispatch]
  repeat' split
  all_goals simp

@[simp] theorem settleTokens_memsWf (s) : memsWf (settleTokens s) = memsWf s := by simp [settleTokens]

@[simp] theorem framesGranted_memsWf (c out s) : memsWf (framesGranted c out s).2 = memsWf s := by
  unfold framesGranted
  repeat' split
  all_goals simp

@[simp] theorem holdTokens_memsWf (k s) : memsWf (holdTokens k s) = memsWf s := by simp [holdTokens]

@[simp] theorem releasePosts_memsWf (ps s) : memsWf (releasePosts ps s) = memsWf s := by simp [releasePosts]

@[simp] theorem pagesHurt_memsWf (c s) : memsWf (pagesHurt c s).2 = memsWf s := by
  unfold pagesHurt
  split
  · rfl
  · refine memsWf_foldl_snd _ (fun a pid => ?_) _ _
    split <;> simp

@[simp] theorem declWrite_memsWf (c d en s) : memsWf (declWrite c d en s) = memsWf s := by simp [declWrite]

@[simp] theorem popSwevt_memsWf (s) : memsWf (popSwevt s).2 = memsWf s := by
  unfold popSwevt
  split <;> simp

theorem rmRead_memsWf (off s) : ∀ r ∈ rmRead off s, memsWf r.2 = memsWf s := by
  simp only [rmRead]
  repeat' apply forall_mem_ite
  all_goals simp

theorem rmWrite_memsWf {off : Nat} {d en : Word} {s t : State} (h : rmWrite off d en s = some t) : memsWf t = memsWf s := by
  simp only [rmWrite] at h
  repeat' split at h
  all_goals cases h <;> simp

theorem tlRead_memsWf (off s) : ∀ r ∈ tlRead off s, memsWf r.2 = memsWf s := by
  simp only [tlRead]
  repeat' apply forall_mem_ite
  all_goals simp

theorem tlWrite_memsWf {off : Nat} {d en : Word} {s t : State} (h : tlWrite off d en s = some t) : memsWf t = memsWf s := by
  simp only [tlWrite] at h
  repeat' split at h
  all_goals cases h <;> simp

/-! ### Safety -/

@[simp] theorem retire_memsWf (u s) : memsWf (retire u s) = memsWf s := (rfl)

@[simp] theorem testFailed_memsWf (t s) : memsWf (testFailed t s) = memsWf s := by simp [testFailed]

@[simp] theorem testPassed_memsWf (t s) : memsWf (testPassed t s) = memsWf s := by simp [testPassed]

@[simp] theorem selfTestDone_memsWf (u pass s) : memsWf (selfTestDone u pass s) = memsWf s := by
  unfold selfTestDone
  split <;> simp

@[simp] theorem logLost_memsWf (part queue unit s) : memsWf (logLost part queue unit s) = memsWf s := (rfl)

@[simp] theorem logFailure_memsWf (c u s) : memsWf (logFailure c u s) = memsWf s := by simp [logFailure]

@[simp] theorem carouselHurt_memsWf (a s) : memsWf (carouselHurt a s) = memsWf s := by simp [carouselHurt]

@[simp] theorem controlStep_memsWf (hits s) : memsWf (controlStep hits s) = memsWf s := by simp [controlStep]

@[simp] theorem repairMapWrite_memsWf (s) : memsWf (repairMapWrite s) = memsWf s := by simp [repairMapWrite]

@[simp] theorem spareDailyTest_memsWf (s) : memsWf (spareDailyTest s) = memsWf s := by simp [spareDailyTest]

@[simp] theorem avsWrite_memsWf (v s) : memsWf (avsWrite v s) = memsWf s := by simp [avsWrite]

@[simp] theorem marginStep_memsWf (v s) : memsWf (marginStep v s) = memsWf s := by simp [marginStep]

@[simp] theorem marginCeiling_memsWf (s) : memsWf (marginCeiling s) = memsWf s := (rfl)

@[simp] theorem slackSample_memsWf (ps others tj s) : memsWf (slackSample ps others tj s) = memsWf s := by simp [slackSample]

theorem snRead_memsWf (off s) : ∀ r ∈ snRead off s, memsWf r.2 = memsWf s := by
  simp only [snRead]
  repeat' apply forall_mem_ite
  all_goals simp

theorem snWrite_memsWf {off : Nat} {d en : Word} {s t : State} (h : snWrite off d en s = some t) : memsWf t = memsWf s := by
  simp only [snWrite] at h
  repeat' split at h
  all_goals cases h <;> simp

/-! ### Power -/

@[simp] theorem released_memsWf (s) : memsWf (released s) = memsWf s := by simp [released]

@[simp] theorem porstRelease_memsWf (s) : memsWf (porstRelease s) = memsWf s := by simp [porstRelease]

@[simp] theorem railRecovery_memsWf (k s) : memsWf (railRecovery k s) = memsWf s := by simp [railRecovery]

@[simp] theorem spiResetRelease_memsWf (s) : memsWf (spiResetRelease s) = memsWf s := by simp [spiResetRelease]

@[simp] theorem enterMode_memsWf (m s) : memsWf (enterMode m s) = memsWf s := (rfl)

@[simp] theorem sleepEntry_memsWf (s) : memsWf (sleepEntry s) = memsWf s := by simp [sleepEntry]

@[simp] theorem sleepExit_memsWf (s) : memsWf (sleepExit s) = memsWf s := by simp [sleepExit]

@[simp] theorem linksDown_memsWf (s) : memsWf (linksDown s) = memsWf s := (rfl)

@[simp] theorem deepEntry_memsWf (s) : memsWf (deepEntry s) = memsWf s := by simp [deepEntry]

@[simp] theorem wakeUp_memsWf (k s) : memsWf (wakeUp k s) = memsWf s := by simp [wakeUp]

@[simp] theorem hostIdleEntry_memsWf (m s) : memsWf (hostIdleEntry m s) = memsWf s := (rfl)

@[simp] theorem hostIdleExit_memsWf (s) : memsWf (hostIdleExit s) = memsWf s := by simp [hostIdleExit]

@[simp] theorem nextPlan_memsWf (s) : memsWf (nextPlan s) = memsWf s := by
  unfold nextPlan
  split <;> simp

@[simp] theorem avsDone_memsWf (s) : memsWf (avsDone s) = memsWf s := by
  unfold avsDone
  split <;> simp

@[simp] theorem avsTimeout_memsWf (s) : memsWf (avsTimeout s) = memsWf s := by
  unfold avsTimeout
  split <;> simp

@[simp] theorem noteTj_memsWf (tj s) : memsWf (noteTj tj s) = memsWf s := (rfl)

@[simp] theorem thermWarn_memsWf (tj s) : memsWf (thermWarn tj s) = memsWf s := by simp [thermWarn]

@[simp] theorem thermtrip_memsWf (tj s) : memsWf (thermtrip tj s) = memsWf s := by simp [thermtrip]

@[simp] theorem pwCtlWrite_memsWf (src d en s) : memsWf (pwCtlWrite src d en s) = memsWf s := by simp [pwCtlWrite]

@[simp] theorem thermWrite_memsWf (src d en s) : memsWf (thermWrite src d en s) = memsWf s := by simp [thermWrite]

@[simp] theorem pwCount_memsWf (k s) : memsWf (pwCount k s).2 = memsWf s := by simp [pwCount]

theorem pwRead_memsWf (off s) : ∀ r ∈ pwRead off s, memsWf r.2 = memsWf s := by
  simp only [pwRead]
  repeat' apply forall_mem_ite
  all_goals simp

theorem pwWrite_memsWf {src : Src} {off : Nat} {d en : Word} {s t : State} (h : pwWrite src off d en s = some t) : memsWf t = memsWf s := by
  simp only [pwWrite] at h
  repeat' split at h
  all_goals cases h <;> simp

/-! ### Measure -/

@[simp] theorem setStage_memsWf (n s) : memsWf (setStage n s) = memsWf s := by simp [setStage]

@[simp] theorem appendMeasure_memsWf (ty part id ver svn digest s) : memsWf (appendMeasure ty part id ver svn digest s) = memsWf s := (rfl)

/-! ### Owner -/

@[simp] theorem srcRead_memsWf (w o n s) : memsWf (srcRead w o n s).2 = memsWf s := by simp [srcRead]

@[simp] theorem showRecord_memsWf (r keyOk tagBad s) : memsWf (showRecord r keyOk tagBad s) = memsWf s := (rfl)

@[simp] theorem storeRecord_memsWf (r s) : memsWf (storeRecord r s) = memsWf s := by simp [storeRecord]

@[simp] theorem serveOwner_memsWf (w s) : memsWf (serveOwner w s) = memsWf s := by simp [serveOwner]

@[simp] theorem ownCtlWrite_memsWf (src d en s) : memsWf (ownCtlWrite src d en s) = memsWf s := by simp [ownCtlWrite]

@[simp] theorem runFw_memsWf (b s) : memsWf (runFw b s) = memsWf s := (rfl)

@[simp] theorem serveSwap_memsWf (w s) : memsWf (serveSwap w s) = memsWf s := by simp [serveSwap]

@[simp] theorem fwSwapWrite_memsWf (src d en s) : memsWf (fwSwapWrite src d en s) = memsWf s := by simp [fwSwapWrite]

@[simp] theorem serveSwaps_memsWf (s) : memsWf (serveSwaps s) = memsWf s := by
  refine memsWf_foldl _ (fun t r => ?_) _ _
  split <;> simp

/-! ### StructImage -/

@[simp] theorem setRegion_memsWf (k r s) : memsWf (setRegion k r s) = memsWf s := (rfl)

theorem siRead_memsWf (off s) : ∀ r ∈ siRead off s, memsWf r.2 = memsWf s := by
  simp only [siRead]
  repeat' apply forall_mem_ite
  all_goals simp

/-! ### Trust -/

@[simp] theorem applyRepair_memsWf (s) : memsWf (applyRepair s) = memsWf s := by
  refine (memsWf_foldl _ (fun t l => ?_) _ _).trans ((memsWf_foldl _ (fun t u => by simp) _ _).trans (by simp))
  repeat' split
  all_goals simp

@[simp] theorem keyed_memsWf (s) : memsWf (keyed s) = memsWf s := by simp [keyed]

@[simp] theorem fwRunning_memsWf (s) : memsWf (fwRunning s) = memsWf s := by
  simp only [fwRunning]
  repeat' split
  all_goals simp

@[simp] theorem dramUp_memsWf (s) : memsWf (dramUp s) = memsWf s := by simp [dramUp]

@[simp] theorem configured_memsWf (s) : memsWf (configured s) = memsWf s := by simp [configured]

@[simp] theorem watchdogExpiry_memsWf (s) : memsWf (watchdogExpiry s) = memsWf s := by
  simp only [watchdogExpiry]
  repeat' split
  all_goals simp

theorem trRead_memsWf (off s) : ∀ r ∈ trRead off s, memsWf r.2 = memsWf s := by
  simp only [trRead]
  repeat' apply forall_mem_ite
  all_goals simp

/-! ### MgmtRegs -/

@[simp] theorem mgErr_memsWf (s) : memsWf (mgErr s) = memsWf s := (rfl)

@[simp] theorem ibiSettle_memsWf (s) : memsWf (ibiSettle s) = memsWf s := by simp [ibiSettle]

@[simp] theorem flashCode_memsWf (c s) : memsWf (flashCode c s) = memsWf s := (rfl)

@[simp] theorem flashGo_memsWf (s) : memsWf (flashGo s) = memsWf s := by simp [flashGo]

@[simp] theorem flashRetry_memsWf (s) : memsWf (flashRetry s) = memsWf s := by simp [flashRetry]

@[simp] theorem flashCtlWrite_memsWf (src d en s) : memsWf (flashCtlWrite src d en s) = memsWf s := by simp [flashCtlWrite]

theorem mgRead_memsWf (off s) : ∀ r ∈ mgRead off s, memsWf r.2 = memsWf s := by
  simp only [mgRead]
  repeat' apply forall_mem_ite
  all_goals simp

theorem mgWrite_memsWf {src : Src} {off : Nat} {d en : Word} {s t : State} (h : mgWrite src off d en s = some t) : memsWf t = memsWf s := by
  simp only [mgWrite] at h
  repeat' split at h
  all_goals cases h <;> simp

/-! ### Regs -/

theorem forall_mem_or {α : Type} {x y : Option α} {P : α → Prop} (hx : ∀ r ∈ x, P r) (hy : ∀ r ∈ y, P r) : ∀ r ∈ x.or y, P r := by
  cases x
  · simpa using hy
  · simpa using hx

theorem regRead_memsWf (off s) : ∀ r ∈ regRead off s, memsWf r.2 = memsWf s := by
  unfold regRead
  repeat' apply forall_mem_or
  exacts [hpRead_memsWf off s, dqRead_memsWf off s, sfRead_memsWf off s, ppRead_memsWf off s, tlRead_memsWf off s, kvRead_memsWf off s,
    dmRead_memsWf off s, siRead_memsWf off s, cvRead_memsWf off s, rmRead_memsWf off s, snRead_memsWf off s, trRead_memsWf off s,
    ckRead_memsWf off s, pwRead_memsWf off s, mgRead_memsWf off s]

@[simp] theorem regWord_memsWf (src off s) : memsWf (regWord src off s).2 = memsWf s := by
  unfold regWord
  split
  · next h => exact regRead_memsWf off s _ h
  · simp

@[simp] theorem rcRead_memsWf (src off s) : memsWf (rcRead src off s) = memsWf s := by simp [rcRead]

/-! ### Window -/

@[simp] theorem zeroBurst_memsWf (n s) : memsWf (zeroBurst n s).2 = memsWf s := (rfl)

@[simp] theorem regBurst_memsWf (a n s) : memsWf (regBurst a n s).2 = memsWf s := by simp [regBurst]

@[simp] theorem discardBurst_memsWf (b s) : memsWf (discardBurst b s) = memsWf s := by simp [discardBurst]

@[simp] theorem doorbellBurst_memsWf (ws s) : memsWf (doorbellBurst ws s) = memsWf s := by simp [doorbellBurst]

/-! ### Mgmt -/

@[simp] theorem drive_memsWf (b s) : memsWf (drive b s) = memsWf s := (rfl)

@[simp] theorem entdaa_memsWf (rivals addrs s) : memsWf (entdaa rivals addrs s) = memsWf s := by simp [entdaa]

@[simp] theorem rstdaa_memsWf (s) : memsWf (rstdaa s) = memsWf s := (rfl)

@[simp] theorem setnewda_memsWf (da s) : memsWf (setnewda da s) = memsWf s := by simp [setnewda]

@[simp] theorem directGet_memsWf (b s) : memsWf (directGet b s) = memsWf s := by simp [directGet]

@[simp] theorem enec_memsWf (b s) : memsWf (enec b s) = memsWf s := (rfl)

@[simp] theorem disec_memsWf (b s) : memsWf (disec b s) = memsWf s := (rfl)

@[simp] theorem readWords_memsWf (n s) : memsWf (readWords n s).2 = memsWf s := by
  induction n generalizing s with
  | zero => rfl
  | succ n ih => simp [readWords, ih]

@[simp] theorem privateRead_memsWf (n s) : memsWf (privateRead n s) = memsWf s := by simp [privateRead]

@[simp] theorem hotJoin_memsWf (s) : memsWf (hotJoin s) = memsWf s := by simp [hotJoin]

@[simp] theorem ibiAnswer_memsWf (acked s) : memsWf (ibiAnswer acked s) = memsWf s := by simp [ibiAnswer]

@[simp] theorem ibiRequest_memsWf (acked s) : memsWf (ibiRequest acked s) = memsWf s := by simp [ibiRequest]

@[simp] theorem ibiRetry_memsWf (acked s) : memsWf (ibiRetry acked s) = memsWf s := by simp [ibiRetry]

@[simp] theorem tapReset_memsWf (s) : memsWf (tapReset s) = memsWf s := (rfl)

@[simp] theorem loadIr_memsWf (code s) : memsWf (loadIr code s) = memsWf s := by simp [loadIr]

@[simp] theorem refuseIr_memsWf (s) : memsWf (refuseIr s) = memsWf s := by simp [refuseIr]

@[simp] theorem drivePins_memsWf (code s) : memsWf (drivePins code s) = memsWf s := by simp [drivePins]

@[simp] theorem loadBsr_memsWf (b s) : memsWf (loadBsr b s) = memsWf s := (rfl)

@[simp] theorem bypass_memsWf (code s) : memsWf (bypass code s) = memsWf s := by simp [bypass]

/-! ### Idle -/

@[simp] theorem addWaits_memsWf (ns s) : memsWf (addWaits ns s) = memsWf s := (rfl)

@[simp] theorem idle_memsWf (s) : memsWf (idle s) = memsWf s := by simp [idle]

end Sys2Proof.Machine
end

section
/-! PROOFS. The functions that do write a memory, a stage slot's copy or a job's saved context keep the canonical form (log 6): each writes by
`Memory.writeBytes` and its kin, whose rules stand with the memory. The setters come first, then one lemma for each function. -/

namespace Sys2Proof.Machine

/-- The conditions of `memsWf` by name. -/
structure MemsWf (s : State) : Prop where
  dram : Memory.wf s.mem.dram = true
  ap : Memory.wf s.mem.ap = true
  stg0 : Memory.wf s.mem.stg0 = true
  stg1 : Memory.wf s.mem.stg1 = true
  spad : Memory.wf s.mem.spad = true
  pm : Memory.wf s.mem.pm = true
  flash : Memory.wf s.mem.flash = true
  slots : s.hp.slots.all (fun e => Memory.wf e.2.snap) = true
  jobs : s.rm.jobs.all (fun j => Memory.wf j.save) = true

theorem memsWf_iff (s : State) : memsWf s = true ↔ MemsWf s := by
  simp only [memsWf, Bool.and_eq_true, and_assoc]
  exact ⟨fun ⟨hd, ha, h0, h1, hs, hp, hf, hslots, hjobs⟩ => ⟨hd, ha, h0, h1, hs, hp, hf, hslots, hjobs⟩,
    fun ⟨hd, ha, h0, h1, hs, hp, hf, hslots, hjobs⟩ => ⟨hd, ha, h0, h1, hs, hp, hf, hslots, hjobs⟩⟩

section
variable {s : State} (h : memsWf s = true)
include h

@[simp] theorem wf_dram : Memory.wf s.mem.dram = true := ((memsWf_iff s).1 h).dram
@[simp] theorem wf_ap : Memory.wf s.mem.ap = true := ((memsWf_iff s).1 h).ap
@[simp] theorem wf_stg0 : Memory.wf s.mem.stg0 = true := ((memsWf_iff s).1 h).stg0
@[simp] theorem wf_stg1 : Memory.wf s.mem.stg1 = true := ((memsWf_iff s).1 h).stg1
@[simp] theorem wf_spad : Memory.wf s.mem.spad = true := ((memsWf_iff s).1 h).spad
@[simp] theorem wf_pm : Memory.wf s.mem.pm = true := ((memsWf_iff s).1 h).pm
@[simp] theorem wf_flash : Memory.wf s.mem.flash = true := ((memsWf_iff s).1 h).flash
theorem wf_slots : s.hp.slots.all (fun e => Memory.wf e.2.snap) = true := ((memsWf_iff s).1 h).slots
theorem wf_jobs : s.rm.jobs.all (fun j => Memory.wf j.save) = true := ((memsWf_iff s).1 h).jobs

@[simp] theorem wf_stg (d : Nat) : Memory.wf (stg s d) = true := by
  unfold stg
  split
  · exact wf_stg0 h
  · exact wf_stg1 h

end

@[simp] theorem foldl_wf {α : Type} {g : State → α → State} (hg : ∀ s x, memsWf s = true → memsWf (g s x) = true) (l : List α) {s : State}
    (h : memsWf s = true) : memsWf (l.foldl g s) = true := by
  induction l generalizing s with
  | nil => exact h
  | cons x l ih => exact ih (hg s x h)

@[simp] theorem setDram_wf {m s} (h : memsWf s = true) (hm : Memory.wf m = true) : memsWf (setDram s m) = true :=
  (memsWf_iff _).2 { (memsWf_iff s).1 h with dram := hm }

@[simp] theorem setAp_wf {m s} (h : memsWf s = true) (hm : Memory.wf m = true) : memsWf (setAp s m) = true :=
  (memsWf_iff _).2 { (memsWf_iff s).1 h with ap := hm }

@[simp] theorem setStg0_wf {m s} (h : memsWf s = true) (hm : Memory.wf m = true) : memsWf (setStg0 s m) = true :=
  (memsWf_iff _).2 { (memsWf_iff s).1 h with stg0 := hm }

@[simp] theorem setStg1_wf {m s} (h : memsWf s = true) (hm : Memory.wf m = true) : memsWf (setStg1 s m) = true :=
  (memsWf_iff _).2 { (memsWf_iff s).1 h with stg1 := hm }

@[simp] theorem setSpad_wf {m s} (h : memsWf s = true) (hm : Memory.wf m = true) : memsWf (setSpad s m) = true :=
  (memsWf_iff _).2 { (memsWf_iff s).1 h with spad := hm }

@[simp] theorem setPm_wf {m s} (h : memsWf s = true) (hm : Memory.wf m = true) : memsWf (setPm s m) = true :=
  (memsWf_iff _).2 { (memsWf_iff s).1 h with pm := hm }

@[simp] theorem setFlash_wf {m s} (h : memsWf s = true) (hm : Memory.wf m = true) : memsWf (setFlash s m) = true :=
  (memsWf_iff _).2 { (memsWf_iff s).1 h with flash := hm }

@[simp] theorem setStg_wf {d m s} (h : memsWf s = true) (hm : Memory.wf m = true) : memsWf (setStg s d m) = true := by
  unfold setStg
  split
  · exact setStg0_wf h hm
  · exact setStg1_wf h hm

theorem tabGet_of_all {α : Type} (p : α → Bool) {t : List (Nat × α)} (ht : t.all (fun e => p e.2) = true) {d : α} (hd : p d = true) (k : Nat) :
    p (tabGet t k d) = true := by
  induction t with
  | nil => exact hd
  | cons c r ih =>
    simp only [List.all_cons, Bool.and_eq_true] at ht
    simp only [tabGet]
    split_ifs
    · exact ht.1
    · exact ih ht.2

@[simp] theorem stageSlot_wf {s} (h : memsWf s = true) (k) : Memory.wf (stageSlot s k).snap = true :=
  tabGet_of_all (fun r : StageSlot => Memory.wf r.snap) (wf_slots h) rfl k

@[simp] theorem setSlot_wf {k r s} (h : memsWf s = true) (hr : Memory.wf r.snap = true) : memsWf (setSlot k r s) = true := by
  have hslots := all_tabSet _ _ k r (wf_slots h) hr
  exact (memsWf_iff _).2 { (memsWf_iff s).1 h with slots := hslots }

/-- The jobs change; every context that they save is canonical. -/
theorem setJobs_wf {s t : State} (h : memsWf s = true) (hm : t.mem = s.mem) (hs : t.hp.slots = s.hp.slots)
    (hj : t.rm.jobs.all (fun j => Memory.wf j.save) = true) : memsWf t = true := by
  simp only [memsWf, Bool.and_eq_true, hm, hs] at h ⊢
  exact ⟨h.1, hj⟩

/-! ### Ops -/

@[simp] theorem dropTabs_wf {gone s} (h : memsWf s = true) : memsWf (dropTabs gone s) = true := by
  simp only [dropTabs, memsWf_setParts]
  refine foldl_wf (fun t x ht => ?_) _ h
  split
  · exact setStg_wf ht (Memory.wf_writeBytes _ _ _ (wf_stg ht _))
  · exact ht

theorem swSlice_wf {s} (h : memsWf s = true) (comb a n) : Memory.wf (swSlice s comb a n) = true := by
  unfold swSlice
  refine List.foldlRecOn (motive := fun m => Memory.wf m = true) _ _ ?_ (fun m hm e _ => ?_)
  · exact Memory.wfFrom_mono (Nat.zero_le _) (Memory.wfFrom_shift_up _ (Memory.wf_slice _ _ _ (wf_dram h)))
  · refine List.foldlRecOn (motive := fun m => Memory.wf m = true) _ _ hm (fun m hm c _ => ?_)
    simp only []
    split
    · exact Memory.wf_write _ _ _ hm
    · exact hm

/-! ### Pages -/

@[simp] theorem freeSeqs_wf {s} (h : memsWf s = true) : memsWf (freeSeqs s) = true := by simp [freeSeqs, h]

@[simp] theorem pageDone_wf {pid recs s} (h : memsWf s = true) : memsWf (pageDone pid recs s) = true := by
  unfold pageDone
  split <;> simp [h]

@[simp] theorem endPage_wf {pid code s} (h : memsWf s = true) : memsWf (endPage pid code s) = true := by
  unfold endPage
  split <;> simp [h]

@[simp] theorem endLost_wf {pid s} (h : memsWf s = true) : memsWf (endLost pid s) = true := by
  unfold endLost
  split <;> simp [h]

/-! ### Operands -/

@[simp] theorem dramWinWrite_wf {pd off bs s} (h : memsWf s = true) : memsWf (dramWinWrite pd off bs s) = true := by
  unfold dramWinWrite
  split
  · exact h
  · rw [heal_memsWf]
    exact setDram_wf h (Memory.wf_writeCells _ _ (wf_dram h))

@[simp] theorem stgWinWrite_wf {pd depot off bs s} (h : memsWf s = true) : memsWf (stgWinWrite pd depot off bs s) = true := by
  unfold stgWinWrite
  split
  · rw [heal_memsWf]
    exact setStg_wf h (Memory.wf_writeCells _ _ (wf_stg h _))
  · exact h

@[simp] theorem tsWrite_wf {a bs s} (h : memsWf s = true) : memsWf (tsWrite a bs s) = true := by
  rw [tsWrite, mixWrites_memsWf, heal_memsWf]
  exact setSpad_wf h (Memory.wf_writeCells _ _ (wf_spad h))

@[simp] theorem landOne_wf {l e s} (h : memsWf s = true) : memsWf (landOne l e s) = true := by
  unfold landOne
  cases e with
  | store a bs m =>
    have hput (cs) : memsWf (setSpad s (Memory.writeCells s.mem.spad cs)) = true := setSpad_wf h (Memory.wf_writeCells _ _ (wf_spad h))
    simp [hput]
  | preg r v => simp [h]
  | _ => simpa using h

@[simp] theorem endCycle_wf {l s} (h : memsWf s = true) : memsWf (endCycle l s) = true := by simp +contextual [endCycle, h]

@[simp] theorem passCycles_wf {l n s} (h : memsWf s = true) : memsWf (passCycles l n s) = true := by
  induction n generalizing s with
  | zero => exact h
  | succ n ih => exact ih (by simpa using endCycle_wf h)

theorem issue_wf {ok o f s} (hf : ∀ l t s, memsWf s = true → memsWf (f l t s) = true) (h : memsWf s = true) : memsWf (issue ok o f s) = true := by
  simp only [issue]
  split
  · exact hf _ _ _ (passCycles_wf h)
  · exact h

/-! ### Sched -/

theorem job?_wf {s} (h : memsWf s = true) {k j} (hj : job? s k = some j) : Memory.wf j.save = true :=
  List.all_eq_true.1 (wf_jobs h) j (List.mem_of_find?_eq_some hj)

@[simp] theorem saveJob_wf {l k s} (h : memsWf s = true) : memsWf (saveJob l k s) = true := by
  refine setJobs_wf h rfl rfl ?_
  have hj := wf_jobs h
  simp only [saveJob, modJob, List.all_eq_true, List.mem_map] at hj ⊢
  rintro _ ⟨j, hm, rfl⟩
  split
  · exact Memory.wf_slice _ _ _ (wf_spad h)
  · exact hj j hm

@[simp] theorem restoreJob_wf {l k s} (h : memsWf s = true) : memsWf (restoreJob l k s) = true := by
  unfold restoreJob
  split
  · exact h
  · next j hj =>
    rw [modTile_memsWf]
    exact setSpad_wf h (Memory.wf_blit _ _ _ _ (wf_spad h) (job?_wf h hj))

@[simp] theorem switchDone_wf {l s} (h : memsWf s = true) : memsWf (switchDone l s) = true := by
  unfold switchDone
  extract_lets x
  split
  · extract_lets o u took w m m1 m2
    have hu : memsWf u = true := by simpa [u] using restoreJob_wf (saveJob_wf h)
    have hm : memsWf { u with rm := m2 } = true := by
      refine setJobs_wf hu rfl rfl ?_
      have : m2.jobs = u.rm.jobs := by simp only [m2, m1]; split <;> rfl
      rw [this]
      exact wf_jobs hu
    simpa using hm
  · exact h

@[simp] theorem endJobs_wf {p s} (h : memsWf s = true) : memsWf (endJobs p s) = true := by
  refine setJobs_wf h rfl rfl ?_
  have hj := wf_jobs h
  simp only [List.all_eq_true] at hj ⊢
  exact fun j hm => hj j (List.mem_of_mem_filter hm)

/-! ### Dechel -/

theorem addJobs_wf {js : List Job} {s} (hj : ∀ j ∈ js, Memory.wf j.save = true) (h : memsWf s = true) : memsWf (addJobs js s) = true := by
  refine List.foldlRecOn (motive := fun t => memsWf t = true) js _ h (fun t ht j hm => ?_)
  unfold slotsUsed
  extract_lets used
  split
  · exact setJobs_wf ht rfl rfl (by rw [List.all_append, wf_jobs ht]; simpa using hj j hm)
  · exact ht

theorem queueJobs_wf (c q part cls) : ∀ j ∈ queueJobs c q part cls, Memory.wf j.save = true := by
  simp only [queueJobs, List.mem_flatMap, List.mem_map]
  rintro _ ⟨r, -, t, -, rfl⟩
  rfl

@[simp] theorem doOpen_wf {s} (h : memsWf s = true) : memsWf (doOpen s) = true := by
  unfold doOpen
  extract_lets q c reply r
  have hreply (code r8 r10 t) : memsWf (reply code r8 r10 t) = memsWf t := postReply_memsWf ..
  split
  · rwa [hreply]
  · have hj := judge_memsWf ⟨q, r.part, r.cls, r.quota⟩ s
    generalize judge ⟨q, r.part, r.cls, r.quota⟩ s = p at hj ⊢
    obtain ⟨ok, b, t⟩ := p
    rw [h] at hj
    simp only []
    split
    · rw [hreply, reserveFlows_memsWf]
      exact addJobs_wf (queueJobs_wf _ _ _ _) (by simpa using hj)
    · rwa [hreply]

@[simp] theorem actMbox_wf {s} (h : memsWf s = true) : memsWf (actMbox s) = true := by
  simp only [actMbox]
  repeat' split
  all_goals simp [h]

@[simp] theorem takeMbox_wf {s} (h : memsWf s = true) : memsWf (takeMbox s) = true := by simp [takeMbox, h]

@[simp] theorem resumeMbox_wf {s} (h : memsWf s = true) : memsWf (resumeMbox s) = true := by simp [resumeMbox, h]

@[simp] theorem mboxWrite_wf {k d en s} (h : memsWf s = true) : memsWf (mboxWrite k d en s) = true := by simp [mboxWrite, h]

@[simp] theorem mboxRow_wf {mop r s} (h : memsWf s = true) : memsWf (mboxRow mop r s) = true := by simp [mboxRow, h]

@[simp] theorem putRecord_wf {q r k i x s} (h : memsWf s = true) : memsWf (putRecord q r k i x s) = true := by
  have hput {t} (ht : memsWf t = true) (a b bs cs) : memsWf (setAp t (Memory.writeBytes (Memory.writeBytes t.mem.ap a bs) b cs)) = true :=
    setAp_wf ht (Memory.wf_writeBytes _ _ _ (Memory.wf_writeBytes _ _ _ (wf_ap ht)))
  simp only [putRecord]
  repeat' split
  all_goals simp [hput, h]

@[simp] theorem recordWrite_wf {q s} (h : memsWf s = true) : memsWf (recordWrite q s) = true := by
  simp only [recordWrite]
  repeat' split
  all_goals simp [h]

@[simp] theorem freeJobs_wf {q s} (h : memsWf s = true) : memsWf (freeJobs q s) = true := by simp [freeJobs, h]

@[simp] theorem queueClosed_wf {q s} (h : memsWf s = true) : memsWf (queueClosed q s) = true := by
  unfold queueClosed
  split <;> simp [h]

/-! ### Preparation -/

@[simp] theorem prepStripeCommit_wf {pid s0} (h : memsWf s0 = true) : memsWf (prepStripeCommit pid s0) = true := by
  simp only [prepStripeCommit]
  repeat' split
  all_goals simp [h]

@[simp] theorem commitLayout_wf {pid lines s} (h : memsWf s = true) : memsWf (commitLayout pid lines s) = true := by
  unfold commitLayout
  split <;> simp [h]

@[simp] theorem commitStructuring_wf {pid outs bad regionsLost s} (h : memsWf s = true) :
    memsWf (commitStructuring pid outs bad regionsLost s) = true := by
  unfold commitStructuring
  split <;> simp [h]

@[simp] theorem prepStep_wf {pid s} (h : memsWf s = true) : memsWf (prepStep pid s) = true := by simp [prepStep, h]

/-! ### ScanFront -/

@[simp] theorem swStore_wf {a bs s} (h : memsWf s = true) : memsWf (swStore a bs s) = true := by
  unfold swStore
  split
  · rw [heal_memsWf]
    exact setDram_wf h (Memory.wf_writeBytes _ _ _ (wf_dram h))
  · exact h

@[simp] theorem calibrationDone_wf {x s} (h : memsWf s = true) : memsWf (calibrationDone x s) = true := by
  simp only [calibrationDone]
  split
  · exact h
  · rw [setDoor_memsWf]
    refine foldl_wf (fun t e ht => ?_) _ h
    rw [sfCount_memsWf]
    exact swStore_wf ht

/-! ### HostPort -/

@[simp] theorem drainEntry_wf {e s} (h : memsWf s = true) : memsWf (drainEntry e s) = true := by
  simp only [drainEntry]
  split
  · simpa using h
  · rw [memsWf_foldl _ (fun _ _ => heal_memsWf ..)]
    have ht {t} (ht : memsWf t = true) (cs) : memsWf (setDram t (Memory.writeCells t.mem.dram cs)) = true :=
      setDram_wf ht (Memory.wf_writeCells _ _ (wf_dram ht))
    apply ht
    simpa using h

@[simp] theorem combiningDrain_wf {blk ue s} (h : memsWf s = true) : memsWf (combiningDrain blk ue s) = true := by
  unfold combiningDrain
  split <;> simp [h]

@[simp] theorem takeStage_wf {k comb s} (h : memsWf s = true) : memsWf (takeStage k comb s) = true := by
  have hr := stageSlot_wf h k
  simp only [takeStage]
  repeat' split
  · simp [h, hr]
  · simp [h, hr]
  all_goals
    rw [memsWf_setHp]
    exact setSlot_wf h (swSlice_wf h ..)

@[simp] theorem stageCtlWrite_wf {k off d en s} (h : memsWf s = true) : memsWf (stageCtlWrite k off d en s) = true := by
  have hput (r : StageSlot) (hr : r.snap = (stageSlot s k).snap) : memsWf (setSlot k r s) = true := setSlot_wf h (hr ▸ stageSlot_wf h k)
  simp only [stageCtlWrite]
  repeat' split
  · exact hput _ rfl
  · simpa using h
  · rw [memsWf_setParts]
    exact hput _ rfl
  · exact takeStage_wf (hput _ rfl)
  · exact hput _ rfl
  · exact h

@[simp] theorem serveBlock_wf {flush blk s} (h : memsWf s = true) : memsWf (serveBlock flush blk s) = true := by
  unfold serveBlock
  split <;> simp [h]

@[simp] theorem stageDone_wf {k errs s} (h : memsWf s = true) : memsWf (stageDone k errs s) = true := by
  simp only [stageDone]
  split
  · exact h
  · generalize hu : List.foldl _ (strike _ _ errs s) _ = u
    have hu : memsWf u = true := hu ▸ foldl_wf (fun _ _ ht => serveBlock_wf ht) _ (by simpa using h)
    have hgood (p) : Memory.wf ((stageSlot u k).snap.filter p) = true := Memory.wfFrom_filter _ (stageSlot_wf hu k)
    rw [alert_memsWf]
    refine setSlot_wf ?_ rfl
    rw [memsWf_setHp, heal_memsWf]
    exact setAp_wf hu (Memory.wf_blit _ _ _ _ (wf_ap hu) (hgood _))

/-! ### TileMemory -/

@[simp] theorem xferDone_wf {l lane s} (h : memsWf s = true) : memsWf (xferDone l lane s) = true := by
  simp only [xferDone]
  repeat' split
  all_goals simp [h]

@[simp] theorem sxferDone_wf {l idx s} (h : memsWf s = true) : memsWf (sxferDone l idx s) = true := by
  simp only [sxferDone]
  repeat' split
  all_goals simp [h]

@[simp] theorem putArrival_wf {l s} (h : memsWf s = true) : memsWf (putArrival l s) = true := by
  simp only [putArrival]
  repeat' split
  all_goals simp [h]

/-! ### Failing -/

@[simp] theorem drainTile_wf {l s} (h : memsWf s = true) : memsWf (drainTile l s) = true := by
  simp only [drainTile]
  split
  · exact h
  · refine foldl_wf (fun t i ht => ?_) _ (foldl_wf (fun t x ht => ?_) _ (foldl_wf (fun t x ht => ?_) _ h))
    · split <;> simp [ht]
    · split <;> simp [ht]
    · repeat' split
      all_goals simp [ht]

@[simp] theorem takeOff_wf {l s} (h : memsWf s = true) : memsWf (takeOff l s) = true := by
  unfold takeOff
  split <;> simp [h]

@[simp] theorem retryLimit_wf {c pages l s} (h : memsWf s = true) : memsWf (retryLimit c pages l s) = true := by
  unfold retryLimit
  split <;> simp +contextual [h]

@[simp] theorem groupRestart_wf {g s} (h : memsWf s = true) : memsWf (groupRestart g s) = true := by
  have hleft {t : State} (ht : memsWf t = true) (f : Job → Job) (hf : ∀ j, (f j).save = j.save) (groups tl) :
      memsWf { t with rm := { t.rm with jobs := t.rm.jobs.map f, groups := groups }, tl := tl } = true :=
    setJobs_wf ht rfl rfl (by simpa [List.all_map, Function.comp_def, hf] using wf_jobs ht)
  have hoff (tiles : List Nat) : memsWf (tiles.foldl (fun s l => snCount 0 1 (takeOff l s)) s) = true :=
    foldl_wf (fun t l ht => by simpa using takeOff_wf ht) _ h
  unfold groupRestart
  split
  · simp only [wakeJobs_memsWf, settleOwing_memsWf, memsWf_foldl, afterCommand_memsWf, implies_true]
    repeat' split
    · refine retryLimit_wf (hleft ?_ _ ?_ _ _)
      exacts [by simpa using hoff _, fun _ => rfl]
    · refine hleft ?_ _ ?_ _ _
      exacts [by simpa using hoff _, fun _ => rfl]
    · rw [memsWf_setRm, barker_memsWf, snCount_memsWf, snCount_memsWf, markRetried_memsWf]
      refine hleft ?_ _ ?_ _ _
      exacts [by simpa using hoff _, fun _ => rfl]
  · exact h

@[simp] theorem failCommand_wf {l s} (h : memsWf s = true) : memsWf (failCommand l s) = true := by
  simp only [failCommand]
  repeat' split
  all_goals simp [h]

@[simp] theorem dropCommands_wf {tiles c s} (h : memsWf s = true) : memsWf (dropCommands tiles c s) = true := by
  simp only [dropCommands]
  repeat' split
  all_goals simp +contextual [h]

@[simp] theorem failDonation_wf {l s} (h : memsWf s = true) : memsWf (failDonation l s) = true := by
  unfold failDonation
  split
  · exact h
  · next c _ =>
    have hended (pages : List (BitVec 32)) (tiles) : memsWf (pages.foldl (fun s p => endPage p cDonation s)
        (endJobs (fun j => j.key == (c.part, c.slot)) (dropCommands tiles c s))) = true :=
      foldl_wf (fun _ _ ht => endPage_wf ht) _ (endJobs_wf (dropCommands_wf h))
    simp only [wakeJobs_memsWf, settleOwing_memsWf, memsWf_foldl, afterCommand_memsWf, barker_memsWf, implies_true]
    exact hended ..

/-! ### Kv -/

@[simp] theorem runWrite_wf {m a bs s} (h : memsWf s = true) : memsWf (runWrite m a bs s) = true := by
  unfold runWrite
  rw [heal_memsWf]
  split
  · exact setDram_wf h (Memory.wf_writeBytes _ _ _ (wf_dram h))
  · exact setStg0_wf h (Memory.wf_writeBytes _ _ _ (wf_stg0 h))
  · exact setStg1_wf h (Memory.wf_writeBytes _ _ _ (wf_stg1 h))

@[simp] theorem seqDone_wf {i code s} (h : memsWf s = true) : memsWf (seqDone i code s) = true := by simp [seqDone, h]

@[simp] theorem carouselPageOut_wf {k s} (h : memsWf s = true) : memsWf (carouselPageOut k s) = true := by
  have hput {t} (ht : memsWf t = true) (at' bs) : memsWf (setAp t (Memory.writeBytes t.mem.ap at' bs)) = true :=
    setAp_wf ht (Memory.wf_writeBytes _ _ _ (wf_ap ht))
  simp only [carouselPageOut]
  repeat' split
  all_goals simp [hput, h]

@[simp] theorem carouselCheck_wf {k s} (h : memsWf s = true) : memsWf (carouselCheck k s) = true := by simp [carouselCheck, h]

@[simp] theorem swapIns_wf {p is s} (h : memsWf s = true) : memsWf (swapIns p is s) = true := by
  induction is generalizing s with
  | nil => exact h
  | cons i is ih =>
    unfold swapIns
    extract_lets e blocks need pages reserved asked
    split
    · exact ih (seqDone_wf h)
    · split
      · exact h
      · have hasked : memsWf asked = true := foldl_wf (fun t g ht => by split <;> simp [ht]) _ (by simpa [reserved] using h)
        exact ih (by simpa using hasked)

@[simp] theorem swapTable_wf {i expect owner img s} (h : memsWf s = true) : memsWf (swapTable i expect owner img s).2 = true := by
  simp only [swapTable]
  repeat' split
  all_goals simp [h]

@[simp] theorem kvTableSwap_wf {q s} (h : memsWf s = true) : memsWf (kvTableSwap q s) = true := by
  simp only [kvTableSwap]
  repeat' split
  all_goals simp [h]

@[simp] theorem ptSwapWrite_wf {src d en s} (h : memsWf s = true) : memsWf (ptSwapWrite src d en s) = true := by simp [ptSwapWrite, h]

theorem kvWrite_wf {src off d en s} (h : memsWf s = true) : ∀ t ∈ kvWrite src off d en s, memsWf t = true := by
  simp only [kvWrite]
  repeat' split
  all_goals simp [h]

/-! ### Walker -/

@[simp] theorem kvOpen_wf {p ws s} (h : memsWf s = true) : memsWf (kvOpen p ws s) = true := by
  unfold kvOpen
  extract_lets c no
  split
  · simpa using h
  · split
    · split
      · exact h
      · extract_lets cands
        have hall : memsWf (allocAll cands s).2.2 = true := by simpa using h
        generalize allocAll cands s = x at hall
        obtain ⟨left, given, t⟩ := x
        simp only [completed_memsWf, enginePost_memsWf, setStep_memsWf, memsWf_foldl, listSeq_memsWf, implies_true]
        exact stgWinWrite_wf (stgWinWrite_wf (swapIns_wf (by simpa using hall)))
    · exact h

@[simp] theorem attHead_wf {a d pd y x s} (h : memsWf s = true) : memsWf (attHead a d pd y x s) = true := by
  obtain ⟨i, q, t⟩ := y
  simp only [attHead]
  split
  · exact stgWinWrite_wf h
  · refine foldl_wf (fun t r ht => stgWinWrite_wf ?_) _ (runWrite_wf h)
    split <;> simpa using ht

@[simp] theorem attFinish_wf {a s} (h : memsWf s = true) : memsWf (attFinish a s) = true := by
  simp only [attFinish]
  split
  · next d pd _ _ =>
    have hchecked (l) : memsWf (List.foldl
        (fun (x : Bool × State) y => ((x.1 || (attCheck a d pd y x.2).1), (attCheck a d pd y x.2).2)) (false, s) l).2 = true := by
      simpa using h
    split
    · split <;> simp [hchecked]
    · simp only [completed_memsWf, enginePost_memsWf, memsWf_setParts]
      exact foldl_wf (fun _ _ ht => foldl_wf (fun _ _ hu => attHead_wf hu) _ ht) _ (hchecked _)
  · simpa using h

@[simp] theorem endBlock_wf {depot s} (h : memsWf s = true) : memsWf (endBlock depot s) = true := by
  unfold endBlock
  split <;> simp [h]

@[simp] theorem grantBlock_wf {depot s} (h : memsWf s = true) : memsWf (grantBlock depot s) = true := by simp [grantBlock, h]

@[simp] theorem startAttends_wf {s} (h : memsWf s = true) : memsWf (startAttends s) = true := by simp +contextual [startAttends, h]

@[simp] theorem kvAttend_wf {p ws s} (h : memsWf s = true) : memsWf (kvAttend p ws s) = true := by
  simp only [kvAttend]
  repeat' split
  all_goals simp [h]

@[simp] theorem leaveTable_wf {t s} (h : memsWf s = true) : memsWf (leaveTable t s) = true := by simp [leaveTable, h]

@[simp] theorem closeSeq_wf {i t stop s} (h : memsWf s = true) : memsWf (closeSeq i t stop s) = true := by simp [closeSeq, h]

@[simp] theorem kvClose_wf {p ws s} (h : memsWf s = true) : memsWf (kvClose p ws s) = true := by
  simp only [kvClose]
  repeat' split
  all_goals simp only [completed_memsWf, enginePost_memsWf, kvCount_memsWf, setStep_memsWf, walkerFails_memsWf, h]
  case h_1.isFalse.isFalse => exact foldl_wf (fun _ _ ht => closeSeq_wf ht) _ (by simpa using h)
  case h_1.isFalse.isTrue => simpa using h

@[simp] theorem sharedEngineGrant_wf {e s} (h : memsWf s = true) : memsWf (sharedEngineGrant e s) = true := by simp [sharedEngineGrant, h]

/-! ### Depot -/

@[simp] theorem slotMoves_wf {l x s} (h : memsWf s = true) : memsWf (slotMoves l x s).2 = true := by
  unfold slotMoves
  split <;> simp [h]

@[simp] theorem serveLane_wf {l n s} (h : memsWf s = true) : memsWf (serveLane l n s) = true := by
  simp only [serveLane]
  repeat' split
  all_goals simp [h]

@[simp] theorem calendarPosition_wf {s} (h : memsWf s = true) : memsWf (calendarPosition s) = true := by simp [calendarPosition, h]

theorem memOf_wf {s} (h : memsWf s = true) (kind depot) : Memory.wf (memOf s kind depot) = true := by
  unfold memOf
  split
  · exact wf_dram h
  · exact wf_stg h _

@[simp] theorem setMemOf_wf {kind depot m s} (h : memsWf s = true) (hm : Memory.wf m = true) : memsWf (setMemOf s kind depot m) = true := by
  unfold setMemOf
  split
  · exact setDram_wf h hm
  · exact setStg_wf h hm

/-- The pieces of a range follow one another, so their slices laid side by side rise. -/
theorem wfFrom_pieces {m : Memory} (hm : Memory.wf m = true) (base n f off o len : Nat) :
    Memory.wfFrom o ((pieces base n f off o len).flatMap (fun p => (Memory.slice m p.2.1 p.2.2).map (fun c => (c.1 + p.1, c.2)))) = true := by
  induction f generalizing off o len with
  | zero => rfl
  | succ f ih =>
    simp only [pieces]
    split
    · rfl
    · rw [List.flatMap_cons]
      refine Memory.wfFrom_append (Nat.le_add_right o _) ?_ ?_ (ih ..)
      · simpa using Memory.wfFrom_shift_up o (Memory.wf_slice _ _ _ hm)
      · intro k hk
        simp only [List.map_map, List.mem_map, Function.comp_apply] at hk
        obtain ⟨c, hc, rfl⟩ := hk
        have := Memory.keys_slice m _ _ c.1 (List.mem_map_of_mem hc)
        omega

theorem windowSlice_wf {s} (h : memsWf s = true) (pd kind depot off len) : Memory.wf (windowSlice s pd kind depot off len) = true :=
  wfFrom_pieces (memOf_wf h kind depot) ..

theorem windowBlit_wf {pd kind depot off len sl s} (hsl : Memory.wf sl = true) (h : memsWf s = true) :
    memsWf (windowBlit pd kind depot off len sl s) = true :=
  foldl_wf (fun t p ht => by
    rw [heal_memsWf]
    exact setMemOf_wf ht (Memory.wf_blit _ _ _ _ (memOf_wf ht ..) (Memory.wf_slice _ _ _ hsl))) _ h

@[simp] theorem engineFree_wf {c s} (h : memsWf s = true) : memsWf (engineFree c s) = true := by simp +contextual [engineFree, h]

@[simp] theorem engineFails_wf {c s} (h : memsWf s = true) : memsWf (engineFails c s) = true := by
  simp only [engineFails]
  split
  · refine engineFree_wf ?_
    rw [barker_memsWf, snCount_memsWf]
    exact foldl_wf (fun _ _ ht => endLost_wf ht) _ (by simpa using h)
  · simpa using h

@[simp] theorem haulerDone_wf {idx s} (h : memsWf s = true) : memsWf (haulerDone idx s) = true := by
  unfold haulerDone
  split
  · exact h
  · next c _ =>
    split
    · exact engineFree_wf h
    · next pd _ =>
      extract_lets w len copy
      have hc : memsWf (if copy then windowCheck pd (hSrcT c) c.depot (fld (w 1) 0 48) len s else (false, s)).2 = true := by simp [h]
      generalize (if copy then windowCheck pd (hSrcT c) c.depot (fld (w 1) 0 48) len s else (false, s)) = p at hc ⊢
      obtain ⟨ue, t⟩ := p
      simp only []
      split
      · exact engineFails_wf hc
      · rw [completed_memsWf]
        refine engineFree_wf ?_
        rw [enginePost_memsWf]
        refine windowBlit_wf ?_ hc
        split
        · exact windowSlice_wf hc ..
        · split
          · rfl
          · exact Memory.wfFrom_mono (Nat.zero_le 0) (Memory.wfFrom_cells 0 _)

@[simp] theorem packRow_wf {c pd k s} (h : memsWf s = true) : memsWf (packRow c pd k s) = true := by simp [packRow, h]

@[simp] theorem operatorFail_wf {pages part code s} (h : memsWf s = true) : memsWf (operatorFail pages part code s) = true := by
  simp +contextual [operatorFail, h]

@[simp] theorem codecTake_wf {dir p pages ws s} (h : memsWf s = true) : memsWf (codecTake dir p pages ws s) = true := by simp [codecTake, h]

@[simp] theorem codecDone_wf {idx s} (h : memsWf s = true) : memsWf (codecDone idx s) = true := by
  have hpack {t} (ht : memsWf t = true) (c pd n) : memsWf ((List.range n).foldl (fun s k => packRow c pd k s) t) = true :=
    foldl_wf (fun _ _ ht => packRow_wf ht) _ ht
  simp only [codecDone]
  repeat' split
  all_goals simp [h, hpack]

/-! ### Operator -/

@[simp] theorem putOutRow_wf {pd o b y lines s} (h : memsWf s = true) : memsWf (putOutRow pd o b y lines s) = true := by
  simp only [putOutRow]
  split
  · rw [zrCount_memsWf, zrAbsent_memsWf]
    exact dramWinWrite_wf h
  · exact dramWinWrite_wf h

@[simp] theorem operRun_wf {r inp s} (h : memsWf s = true) : memsWf (operRun r inp s) = true := by
  simp only [operRun]
  split
  · exact h
  · refine foldl_wf (fun t b ht => foldl_wf (fun u i hu => putOutRow_wf ?_) _ ht) _ h
    simpa using hu

@[simp] theorem operCommit_wf {r s} (h : memsWf s = true) : memsWf (operCommit r s) = true := by
  simp only [operCommit]
  repeat' split
  all_goals simp [h]

@[simp] theorem chainCommit_wf {ch reqs s} (h : memsWf s = true) : memsWf (chainCommit ch reqs s) = true := by
  unfold chainCommit
  extract_lets mine _ dropped prods cons
  have hdropped : memsWf dropped = true := (memsWf_setRm ..).trans h
  split
  · extract_lets a f layerA flags flagged n ringed ran
    have hflagged : memsWf flagged = true := by
      refine foldl_wf (fun t r ht => foldl_wf (fun t b ht => foldl_wf (fun t i ht => foldl_wf (fun t j ht => ?_) _ ht) _ ht) _ ht) _ hdropped
      simpa using ht
    have hringed : memsWf ringed = true := by
      unfold ringed
      split
      · exact foldl_wf (fun t i ht => tsWrite_wf ht) _ hflagged
      · exact hflagged
    have hran : memsWf ran = true := foldl_wf (fun t r ht => by split <;> simp [ht]) _ hringed
    simpa using hran
  · exact hdropped

/-! ### TileScalar -/

@[simp] theorem scalarOp_wf {n f o s} (h : memsWf s = true) : memsWf (scalarOp n f o s) = true :=
  issue_wf (fun l t s hs => by simpa using hs) h

theorem scalarOp'_wf {ok o f s} (hf : ∀ l t s, memsWf s = true → memsWf (f l t s) = true)
    (h : memsWf s = true) : memsWf (scalarOp' ok o f s) = true :=
  issue_wf (fun l t s hs => by simp [hs, hf]) h

/-! ### TileSync -/

@[simp] theorem tryWait_wf {l t k s} (h : memsWf s = true) : memsWf (tryWait l t k s) = true := by
  simp only [tryWait]
  repeat' split
  · simpa using h
  · simpa using h
  · next u hd =>
    refine failDonation_wf ?_
    have := congrArg (fun p => memsWf p.2) hd
    simpa [h] using this.symm
  · next u _ hd =>
    have := congrArg (fun p => memsWf p.2) hd
    simpa [h] using this.symm

@[simp] theorem fabricAnswer_wf {l s} (h : memsWf s = true) : memsWf (fabricAnswer l s) = true := by
  simp only [fabricAnswer]
  repeat' split
  all_goals simp [h]

/-! ### Ringmaster -/

@[simp] theorem operatorCommand_wf {r s} (h : memsWf s = true) : memsWf (operatorCommand r s) = true := by
  unfold operatorCommand
  split <;> simp [h]

@[simp] theorem applyOut_wf {k out s} (h : memsWf s = true) : memsWf (applyOut k out s) = true := by
  unfold applyOut
  split <;> simp [h]

@[simp] theorem settleLand_wf {l s} (h : memsWf s = true) : memsWf (settleLand l s) = true := by simp +contextual [settleLand, h]

@[simp] theorem endGroup_wf {g k s} (h : memsWf s = true) : memsWf (endGroup g k s) = true := by
  unfold endGroup
  split <;> simp +contextual [h]

@[simp] theorem lateDonations_wf {k s} (h : memsWf s = true) : memsWf (lateDonations k s) = true := by
  refine foldl_wf (fun t l ht => foldl_wf (fun u f hu => ?_) _ ht) _ h
  repeat' split
  · next v hd =>
    refine failDonation_wf ?_
    simpa [hu] using (congrArg (fun p => memsWf p.2) hd).symm
  · next v _ hd => simpa [hu] using (congrArg (fun p => memsWf p.2) hd).symm
  · exact hu
  · exact hu

@[simp] theorem commitEffects_wf {l c out s} (h : memsWf s = true) : memsWf (commitEffects l c out s) = true := by
  unfold commitEffects
  extract_lets landed k x live t _ cleared parity _ counted posts kept _
  have hlanded : memsWf landed = true := settleLand_wf h
  have hparity : memsWf parity = true := by simpa [parity, cleared] using hlanded
  have hcounted : memsWf counted = true := by
    unfold counted
    split
    · exact (memsWf_setParts ..).trans hparity
    · exact hparity
  split
  · exact applyOut_wf (operCommit_wf (by simpa using hcounted))
  · extract_lets noted
    have hkept : memsWf kept = true := (holdTokens_memsWf ..).trans hcounted
    have hnoted : memsWf noted = true := (memsWf_setRm ..).trans hkept
    split
    · exact endGroup_wf hnoted
    · exact hnoted

@[simp] theorem operMismatch_wf {l c s} (h : memsWf s = true) : memsWf (operMismatch l c s) = true := by simp [operMismatch, h]

@[simp] theorem afterCommit_wf {s} (h : memsWf s = true) : memsWf (afterCommit s) = true := by simp [afterCommit, h]

@[simp] theorem commandCommit_wf {l out s} (h : memsWf s = true) : memsWf (commandCommit l out s) = true := by
  have hj (r : DispatchReq) {v : OperFound} {t : State} (ht : operJudge r s = (v, t)) : memsWf t = true := by
    simpa [h] using (congrArg (fun p => memsWf p.2) ht).symm
  unfold commandCommit
  split
  · exact h
  · split_ifs
    · exact h
    · simpa using h
    · simp [h]
    · split
      · next ht => exact failCommand_wf (hj _ ht)
      · next ht => exact afterCommit_wf (operMismatch_wf (hj _ ht))
      · next ht =>
        refine afterCommit_wf ?_
        rw [afterCommand_memsWf]
        exact lateDonations_wf (commitEffects_wf (by simpa using hj _ ht))

/-! ### Safety -/

@[simp] theorem clearCopy_wf {l j s} (h : memsWf s = true) : memsWf (clearCopy l j s) = true := by
  simp only [clearCopy, heal_memsWf]
  exact setSpad_wf h (Memory.wf_blit _ _ _ _ (wf_spad h) rfl)

@[simp] theorem failLost_wf {l c s} (h : memsWf s = true) : memsWf (failLost l c s) = true := by simp +contextual [failLost, h]

@[simp] theorem commandFail_wf {f s} (h : memsWf s = true) : memsWf (commandFail f s) = true := by
  simp only [commandFail]
  repeat' split
  all_goals simp [h]

@[simp] theorem midwayParity_wf {l bad s} (h : memsWf s = true) : memsWf (midwayParity l bad s) = true := by
  simp only [midwayParity]
  repeat' split
  all_goals simp [h]

@[simp] theorem freeScratch_wf {l s} (h : memsWf s = true) : memsWf (freeScratch l s) = true :=
  setSpad_wf ((freshBytes_memsWf ..).trans h) (Memory.wf_writeBytes _ _ _ (wf_spad ((freshBytes_memsWf ..).trans h)))

@[simp] theorem remapDone_wf {l s} (h : memsWf s = true) : memsWf (remapDone l s) = true := by
  unfold remapDone
  split <;> simp [h]

@[simp] theorem stageHurt_wf {a s} (h : memsWf s = true) : memsWf (stageHurt a s) = true := by simp [stageHurt, h]

@[simp] theorem scrubUe_wf {d s} (h : memsWf s = true) : memsWf (scrubUe d s) = true := by
  simp only [scrubUe]
  repeat' split
  all_goals simp [h]

@[simp] theorem scrubStep_wf {m hits s0} (h : memsWf s0 = true) : memsWf (scrubStep m hits s0) = true := by
  simp only [scrubStep]
  repeat' split
  all_goals simp +contextual [h]

@[simp] theorem recordRewrite_wf {a s} (h : memsWf s = true) : memsWf (recordRewrite a s) = true := by
  have hput {t} (ht : memsWf t = true) (at' bs) : memsWf (setAp t (Memory.writeBytes t.mem.ap at' bs)) = true :=
    setAp_wf ht (Memory.wf_writeBytes _ _ _ (wf_ap ht))
  simp only [recordRewrite]
  split
  · refine foldl_wf (fun t r ht => foldl_wf (fun u k hu => ?_) _ ht) _ h
    repeat' split
    · simpa using hput hu _ _
    · simpa using hput hu _ _
    · exact hu
  · exact h

@[simp] theorem ageingSample_wf {s} (h : memsWf s = true) : memsWf (ageingSample s) = true := by
  unfold ageingSample
  split
  · exact h
  · exact setPm_wf h (Memory.wf_writeWord _ _ _ (wf_pm h))

/-! ### Power -/

@[simp] theorem resetDevice_wf {s} (h : memsWf s = true) : memsWf (resetDevice s) = true :=
  (memsWf_iff _).2 ⟨rfl, rfl, rfl, rfl, rfl, (wf_pm h :), (wf_flash h :), rfl, rfl⟩

@[simp] theorem powerOnReset_wf {s} (h : memsWf s = true) : memsWf (powerOnReset s) = true := by simp [powerOnReset, h]

@[simp] theorem railUndervoltage_wf {k s} (h : memsWf s = true) : memsWf (railUndervoltage k s) = true := by simp [railUndervoltage, h]

/-! ### Owner -/

@[simp] theorem takeAtt_wf {s} (h : memsWf s = true) : memsWf (takeAtt s) = true := by
  simp only [takeAtt]
  repeat' split
  all_goals simp [h]

@[simp] theorem attCtlWrite_wf {src d en s} (h : memsWf s = true) : memsWf (attCtlWrite src d en s) = true := by simp [attCtlWrite, h]

@[simp] theorem reportDone_wf {s} (h : memsWf s = true) : memsWf (reportDone s) = true := by
  have hput {t} (ht : memsWf t = true) (at' bs) : memsWf (setAp t (Memory.writeBytes t.mem.ap at' bs)) = true :=
    setAp_wf ht (Memory.wf_writeBytes _ _ _ (wf_ap ht))
  unfold reportDone
  split
  · exact h
  · extract_lets b code _ taken
    have htaken : memsWf taken = true := (memsWf_setParts ..).trans h
    split
    · rw [alert_memsWf]
      refine setSlot_wf ?_ rfl
      rw [heal_memsWf]
      exact hput htaken _ _
    · exact htaken

/-! ### StructImage -/

@[simp] theorem loadEnded_wf {s} (h : memsWf s = true) : memsWf (loadEnded s) = true := by simp [loadEnded, h]

@[simp] theorem refuseLoad_wf {e b s} (h : memsWf s = true) : memsWf (refuseLoad e b s) = true := by simp [refuseLoad, h]

@[simp] theorem loadImage_wf {b s} (h : memsWf s = true) : memsWf (loadImage b s) = true := by
  unfold loadImage
  split <;> simp [h]

@[simp] theorem serveLoad_wf {w s} (h : memsWf s = true) : memsWf (serveLoad w s) = true := by simp [serveLoad, h]

@[simp] theorem siLoadWrite_wf {src d en s} (h : memsWf s = true) : memsWf (siLoadWrite src d en s) = true := by simp [siLoadWrite, h]

theorem decoderJobs_wf (c p) : ∀ j ∈ decoderJobs c p, Memory.wf j.save = true := by
  simp only [decoderJobs, List.mem_flatMap, List.mem_map]
  rintro _ ⟨d, -, t, -, rfl⟩
  rfl

@[simp] theorem rebuildJobs_wf {j s} (h : memsWf s = true) : memsWf (rebuildJobs j s) = true :=
  foldl_wf (fun _ _ ht => addJobs_wf (decoderJobs_wf _ _) ht) _ (foldl_wf (fun _ _ ht => addJobs_wf (queueJobs_wf _ _ _ _) ht) _ (endJobs_wf h))

@[simp] theorem siApply_wf {s} (h : memsWf s = true) : memsWf (siApply s) = true := by
  unfold siApply
  split <;> simp [h]

@[simp] theorem siLoadDone_wf {s} (h : memsWf s = true) : memsWf (siLoadDone s) = true := by
  unfold siLoadDone
  split <;> simp [h]

theorem siWrite_wf {src off d en s} (h : memsWf s = true) : ∀ t ∈ siWrite src off d en s, memsWf t = true := by
  simp only [siWrite]
  repeat' split
  all_goals simp [h]

/-! ### Trust -/

@[simp] theorem emptyAgeing_wf {s} (h : memsWf s = true) : memsWf (emptyAgeing s) = true := by
  unfold emptyAgeing
  split
  · exact h
  · rw [memsWf_setParts]
    exact setPm_wf h (Memory.wf_writeBytes _ _ _ (wf_pm h))

@[simp] theorem pmLoaded_wf {s} (h : memsWf s = true) : memsWf (pmLoaded s) = true := by simp [pmLoaded, h]

@[simp] theorem lock_wf {s} (h : memsWf s = true) : memsWf (lock s) = true := by simp [lock, h]

@[simp] theorem serveWaiting_wf {s} (h : memsWf s = true) : memsWf (serveWaiting s) = true := by
  simp only [serveWaiting, serveSwaps_memsWf]
  refine foldl_wf (fun t r ht => ?_) _ (resumeMbox_wf (by simpa using h))
  split <;> simp [ht]

@[simp] theorem handover_wf {s} (h : memsWf s = true) : memsWf (handover s) = true := by
  unfold handover
  split <;> simp [h]

theorem trWrite_wf {src off d en s} (h : memsWf s = true) : ∀ t ∈ trWrite src off d en s, memsWf t = true := by
  simp only [trWrite]
  repeat' split
  all_goals simp [h]

/-! ### MgmtRegs -/

@[simp] theorem flashDone_wf {s} (h : memsWf s = true) : memsWf (flashDone s) = true := by
  have hput {t} (ht : memsWf t = true) (at' bs) : memsWf (setFlash t (Memory.writeBytes t.mem.flash at' bs)) = true :=
    setFlash_wf ht (Memory.wf_writeBytes _ _ _ (wf_flash ht))
  unfold flashDone
  repeat' split
  · exact h
  · simpa using h
  · exact hput (by simpa using h) _ _
  · exact hput (by simpa using h) _ _

/-! ### Regs -/

theorem regPut_wf {src off d en s} (h : memsWf s = true) : ∀ t ∈ regPut src off d en s, memsWf t = true := by
  have frame {o : Option State} (ho : ∀ t, o = some t → memsWf t = memsWf s) : ∀ t ∈ o, memsWf t = true := fun t ht => (ho t ht).trans h
  unfold regPut
  repeat' apply forall_mem_or
  exacts [frame fun _ => hpWrite_memsWf, frame fun _ => dqWrite_memsWf, frame fun _ => sfWrite_memsWf, frame fun _ => ppWrite_memsWf,
    frame fun _ => tlWrite_memsWf, kvWrite_wf h, frame fun _ => dmWrite_memsWf, siWrite_wf h, frame fun _ => cvWrite_memsWf,
    frame fun _ => rmWrite_memsWf, frame fun _ => snWrite_memsWf, trWrite_wf h, frame fun _ => ckWrite_memsWf, frame fun _ => pwWrite_memsWf,
    frame fun _ => mgWrite_memsWf]

@[simp] theorem regApply_wf {src off d en s} (h : memsWf s = true) : memsWf (regApply src off d en s) = true := by
  unfold regApply
  split
  · next t ht => simpa using regPut_wf h t ht
  · split <;> simpa using h

@[simp] theorem regWrite_wf {src off d be s} (h : memsWf s = true) : memsWf (regWrite src off d be s) = true := by simp [regWrite, h]

@[simp] theorem takeHeld_wf {x s} (h : memsWf s = true) : memsWf (takeHeld x s) = true := by
  simp only [takeHeld]
  repeat' split
  all_goals simp [h]

@[simp] theorem leavingDone_wf {s} (h : memsWf s = true) : memsWf (leavingDone s) = true := by
  simp only [leavingDone]
  split
  · exact h
  · exact foldl_wf (fun _ _ ht => takeHeld_wf ht) _ (by simpa using h)

/-! ### Window -/

@[simp] theorem apTouch_wf {a n s} (h : memsWf s = true) : memsWf (apTouch a n s) = true := by simp +contextual [apTouch, h]

@[simp] theorem burstRead_wf {a n s} (h : memsWf s = true) : memsWf (burstRead a n s).2 = true := by
  unfold burstRead
  split <;> simp [h]

@[simp] theorem hostRead_wf {r bin s} (h : memsWf s = true) : memsWf (hostRead r bin s) = true := by
  unfold hostRead
  split <;> simp [h]

@[simp] theorem mboxBurst_wf {ws s} (h : memsWf s = true) : memsWf (mboxBurst ws s) = true :=
  foldl_wf (fun _ _ ht => mboxWrite_wf ht) _ (foldl_wf (fun _ _ ht => mboxWrite_wf ht) _ h)

@[simp] theorem stageBurst_wf {k ws s} (h : memsWf s = true) : memsWf (stageBurst k ws s) = true := by
  simp only [stageBurst]
  split
  · simpa using h
  · exact foldl_wf (fun _ _ ht => stageCtlWrite_wf ht) _ (foldl_wf (fun _ _ ht => stageCtlWrite_wf ht) _ h)

@[simp] theorem carouselBurst_wf {a b s} (h : memsWf s = true) : memsWf (carouselBurst a b s) = true :=
  foldl_wf (fun t w ht => by split <;> simp [ht]) _ (setAp_wf h (Memory.wf_writeMasked _ _ _ _ (wf_ap h)))

@[simp] theorem burstWrite_wf {a b s} (h : memsWf s = true) : memsWf (burstWrite a b s) = true := by
  unfold burstWrite
  split <;> simp +contextual [h]

@[simp] theorem registerWrite_wf {r s} (h : memsWf s = true) : memsWf (registerWrite r s) = true := by
  unfold registerWrite
  split <;> simp [h]

/-! ### Mgmt -/

@[simp] theorem groupWrites_wf {src n off bs s} (h : memsWf s = true) : memsWf (groupWrites src n off bs s) = true := by
  induction n generalizing off bs s with
  | zero => exact h
  | succ n ih =>
    refine ih ?_
    split <;> simp [h]

@[simp] theorem privateWrite_wf {d s} (h : memsWf s = true) : memsWf (privateWrite d s) = true := by simp [privateWrite, h]

@[simp] theorem mgacc_wf {dr s} (h : memsWf s = true) : memsWf (mgacc dr s) = true := by simp [mgacc, h]

/-! ### TileVector -/

@[simp] theorem vectorOp_wf {n f o s} (h : memsWf s = true) : memsWf (vectorOp n f o s) = true :=
  issue_wf (fun l t s hs => by simpa using hs) h

@[simp] theorem vectorOp1_wf {n f o s} (h : memsWf s = true) : memsWf (vectorOp1 n f o s) = true :=
  issue_wf (fun l t s hs => by simpa using hs) h

end Sys2Proof.Machine
end

section
/-! PROOFS. Every command and every step keeps the memories canonical (O60). -/

namespace Sys2Proof.Machine

/-! ### Functions that take the rest of a row as an argument -/

@[simp] theorem whenRun_wf {addr w f s} (hf : ∀ t, memsWf t = true → memsWf (f t) = true) (h : memsWf s = true) :
    memsWf (whenRun addr w f s) = true := by
  unfold whenRun
  split_ifs <;> simp [h, hf]

@[simp] theorem hostAct_wf {f s} (hf : ∀ t, memsWf t = true → memsWf (f t) = true) (h : memsWf s = true) : memsWf (hostAct f s) = true := by
  simp [hostAct, h, hf]

@[simp] theorem popBy_wf {src f s} (hf : ∀ t, memsWf t = true → memsWf (f t).2 = true) (h : memsWf s = true) : memsWf (popBy src f s) = true := by
  simp [popBy, h, hf]

@[simp] theorem rxFrame_wf {ty f k s} (hk : ∀ n t, memsWf t = true → memsWf (k n t) = true) (h : memsWf s = true) :
    memsWf (rxFrame ty f k s) = true := by
  simp [rxFrame, h, hk]

@[simp] theorem inSequence_wf {n f k s} (hk : ∀ t, memsWf t = true → memsWf (k t) = true) (h : memsWf s = true) :
    memsWf (inSequence n f k s) = true := by
  simp only [inSequence]
  repeat' split
  all_goals simp [h, hk]

@[simp] theorem underPorst_wf {f s} (hf : ∀ t, memsWf t = true → memsWf (f t) = true) (h : memsWf s = true) :
    memsWf (underPorst f s) = true := by
  simp [underPorst, h, hf]

/-! ### Outcomes -/

/-- Every state that an outcome leads to has its memories in canonical form. -/
def EndsWf (o : Host.Outcome State Fault Refusal) : Prop := ∀ t, o = .next t → memsWf t = true

theorem run_wf {s : State} {f : State → State} (h : memsWf s = true) (hf : memsWf (f s) = true) : EndsWf (run s f) := fun t ht => by
  obtain ⟨-, ⟨-, rfl⟩ | ⟨-, rfl⟩⟩ := run_cases ht
  · exact h
  · exact hf

theorem runHeld_wf {s : State} {f : State → State} (hf : memsWf (f s) = true) : EndsWf (runHeld s f) := fun t ht => by
  obtain ⟨-, rfl⟩ := runHeld_cases ht
  exact hf

/-! ### Rows that write their effect out -/

theorem execPowerOnReset_wf {s} (h : memsWf s = true) : EndsWf (execPowerOnReset s) := fun t ht => by
  cases ht
  exact powerOnReset_wf h

theorem execSamplePreload_wf {bsr s} (h : memsWf s = true) : EndsWf (execSamplePreload bsr s) := runHeld_wf (by simp [h])

theorem execIdcode_wf {s} (h : memsWf s = true) : EndsWf (execIdcode s) := runHeld_wf (by simp [h])

theorem execCeWriteBack_wf {m s} (h : memsWf s = true) : EndsWf (execCeWriteBack m s) := run_wf h (by simp [h])

theorem execLinkStateChange_wf {port up s} (h : memsWf s = true) : EndsWf (execLinkStateChange port up s) := run_wf h (by simp [h])

theorem execStagedWindowWrite_wf {b s} (h : memsWf s = true) : EndsWf (execStagedWindowWrite b s) := by
  refine run_wf h ?_
  extract_lets b a a
  split_ifs <;> simp [h]

theorem execCustom_wf {o s} (h : memsWf s = true) : EndsWf (execCustom o s) := by
  refine run_wf h (issue_wf (fun l t u hu => ?_) h)
  split <;> simp [hu]

theorem execPut_wf {o s} (h : memsWf s = true) : EndsWf (execPut o s) := by
  refine run_wf h (issue_wf (fun l t u hu => ?_) h)
  split_ifs
  · exact hu
  · extract_lets a
    split
    · exact hu
    · split_ifs <;> simp [hu]

theorem execReadmission_wf {part fewer s} (h : memsWf s = true) : EndsWf (execReadmission part fewer s) := by
  refine run_wf h ?_
  split_ifs <;> simp [h]

theorem execArpRequest_wf {port target mac s} (h : memsWf s = true) : EndsWf (execArpRequest port target mac s) := by
  refine run_wf h ?_
  extract_lets
  split_ifs <;> simp [h]

theorem execPauseFrame_wf {port quanta s} (h : memsWf s = true) : EndsWf (execPauseFrame port quanta s) := by
  refine run_wf h ?_
  extract_lets
  split_ifs <;> simp [h]

/-! ### Every row -/

/-- The reset inputs, the rails and the test port run under reset; every other row runs the model's function of its name, whose lemma stands above. -/
theorem exec_wf {i s} (h : memsWf s = true) : EndsWf (exec i s) := by
  cases i
  case powerOnReset => exact execPowerOnReset_wf h
  case samplePreload => exact execSamplePreload_wf h
  case idcode => exact execIdcode_wf h
  case porstRelease | railUndervoltage | railRecovery | spiResetRelease | tapReset | extest | highz | clamp | extestPulse | extestTrain | bypass
    | mgaccRead | mgaccWrite => exact runHeld_wf (by simp +contextual [h])
  case ceWriteBack => exact execCeWriteBack_wf h
  case linkStateChange => exact execLinkStateChange_wf h
  case stagedWindowWrite => exact execStagedWindowWrite_wf h
  case custom => exact execCustom_wf h
  case put => exact execPut_wf h
  case readmission => exact execReadmission_wf h
  case arpRequest => exact execArpRequest_wf h
  case pauseFrame => exact execPauseFrame_wf h
  all_goals exact run_wf h (by simp +contextual [h, issue_wf, scalarOp'_wf])

/-- Settles O60: no command, and no idle step, takes a memory out of its canonical form. -/
theorem everyStepKeepsMemories : Obligations.EveryStepKeepsMemories := by
  intro s t h ht
  unfold step at ht
  split at ht
  · exact exec_wf (by simpa using h) t ht
  · cases ht
    simpa using h

end Sys2Proof.Machine
end

section
/-! PROOFS. Mode registers, training, idle modes and the background of the host port (R23 to R25, R29, R31, R32, R54, R55). -/

namespace Sys2Proof.Machine

/-! ### Mode registers -/

theorem modeRegisterWrite_rw {ch : BitVec 2} {mr : BitVec 7} {v : Byte} {s : State} (h : mrRw mr.toNat = true) :
    modeRegisterWrite ch mr v s = { s with hp := { s.hp with
      mrs := tabSet s.hp.mrs (mrKey ch.toNat (fspWr s ch.toNat) mr.toNat) (mrStored mr.toNat v),
      mrwIgn := if mrStored mr.toNat v = v then s.hp.mrwIgn else satAdd s.hp.mrwIgn 1 } } := by
  simp only [modeRegisterWrite, h, ↓reduceIte]
  split <;> rfl

theorem modeRegisterWrite_ro {ch : BitVec 2} {mr : BitVec 7} {v : Byte} {s : State} (h : mrRw mr.toNat = false) :
    modeRegisterWrite ch mr v s = { s with hp := { s.hp with mrwIgn := satAdd s.hp.mrwIgn 1 } } := by
  simp [modeRegisterWrite, h]

/-- A state that differs in the host port alone. -/
theorem setHp_only (p : HostPort) (s : State) : Only [.hp] s { s with hp := p } := fun q => by cases q <;> simp [Part.same]

/-- Settles O5, by the one table entry that a write to a register that takes writes sets. -/
theorem modeRegisterWrites : Obligations.ModeRegisterWrites := by
  intro s ch mr v hl
  have hexec : exec (.modeRegisterWrite ch mr v) s = .next (modeRegisterWrite ch mr v s) := run_live hl _
  refine ⟨fun hrw => ?_, fun hro => ?_⟩
  · refine ⟨_, hexec.trans (congrArg _ (modeRegisterWrite_rw hrw)), tabGet_tabSet_self .., rfl, fun c f m hne => ?_, rfl, setHp_only _ _⟩
    exact tabGet_tabSet_ne _ _ _ _ _ hne
  · rw [hexec, modeRegisterWrite_ro hro]

/-! ### Background -/

/-- Settles O7: with the stored values gone every mode register reads its reset value. -/
theorem hostPortBackground : Obligations.HostPortBackground := fun _ hl =>
  ⟨fun _ _ => run_live hl _, _, run_live hl _, fun _ _ _ => rfl, rfl, rfl, rfl, setHp_only _ _⟩

/-! ### Training -/

/-- A step of a rank above command bus training begins with no step of its rank or later done: HP_TRAIN_STAT stays. -/
theorem trainEnter_first {ch : BitVec 2} {step : Nat} {s : State} (h0 : step ≠ 0) (h : fld s.hp.train (8 * ch.toNat + step) (4 - step) = 0) :
    trainEnter ch step s = { s with hp := { s.hp with
      training := s.hp.training ||| (1#4 <<< ch.toNat), trainOf := tabSet s.hp.trainOf ch.toNat step } } := by
  simp [trainEnter, h0, h]

theorem trainComplete_other {ch : BitVec 2} {step : Nat} {s : State} (h : inStep s ch.toNat step = false) : trainComplete ch step s = s := by
  simp [trainComplete, h]

theorem trainComplete_inStep {ch : BitVec 2} {step : Nat} {s : State} (h : inStep s ch.toNat step = true) :
    trainComplete ch step s = { s with hp := { s.hp with
      train := s.hp.train ||| maskOf (8 * ch.toNat + step) 1, training := s.hp.training &&& ~~~ (1#4 <<< ch.toNat) } } := by
  simp only [trainComplete, h, ↓reduceIte, trainBit]

theorem rdcStep_complete {ch : BitVec 2} {s : State} (h : inStep s ch.toNat 2 = true) :
    rdcStep ch .complete s = { s with hp := { s.hp with
      train := s.hp.train ||| maskOf (8 * ch.toNat + 2) 1, training := s.hp.training &&& ~~~ (1#4 <<< ch.toNat),
      dq := some ⟨calibrationBytes s ch.toNat, (calibrationBytes s ch.toNat).map (fun _ => false), readLatency s ch.toNat⟩ } } := by
  simp only [rdcStep, h, ↓reduceIte, trainComplete_inStep h]
  rfl

theorem wffStep_complete {ch : BitVec 2} {data : Bytes} {s : State} (h : inStep s ch.toNat 3 = true) :
    wffStep ch data .complete s = { s with hp := { s.hp with
      train := s.hp.train ||| maskOf (8 * ch.toNat + 3) 1, training := s.hp.training &&& ~~~ (1#4 <<< ch.toNat),
      dq := some ⟨tabGet s.hp.fifo ch.toNat [], (tabGet s.hp.fifo ch.toNat []).map (fun _ => false), readLatency s ch.toNat⟩ } } := by
  simp only [wffStep, h, ↓reduceIte, trainComplete_inStep h]
  rfl

section
variable {s : State} (hl : Live s) (ch : BitVec 2) (data : Bytes)
include hl

theorem training_complete_other : ∀ step c, (step, c) ∈ [(0, Instr.commandBusTraining ch .complete), (1, .wck2ckLevelling ch .complete),
    (2, .readDqCalibration ch .complete), (3, .writeDqFifoTraining ch data .complete)] → inStep s ch.toNat step = false → exec c s = .next s := by
  intro step c hc hs
  simp only [List.mem_cons, Prod.mk.injEq, List.not_mem_nil, or_false] at hc
  obtain ⟨rfl, rfl⟩ | ⟨rfl, rfl⟩ | ⟨rfl, rfl⟩ | ⟨rfl, rfl⟩ := hc
  · exact (run_live hl _).trans (congrArg _ (trainComplete_other hs))
  · exact (run_live hl _).trans (congrArg _ (trainComplete_other hs))
  · exact (run_live hl _).trans (congrArg _ (by simp [rdcStep, hs]))
  · exact (run_live hl _).trans (congrArg _ (by simp [wffStep, hs]))

theorem training_complete_silent : ∀ step c, (step, c) ∈ [(0, Instr.commandBusTraining ch .complete), (1, .wck2ckLevelling ch .complete)] →
    inStep s ch.toNat step = true → exec c s = .next { s with hp := { s.hp with
      train := s.hp.train ||| maskOf (8 * ch.toNat + step) 1, training := s.hp.training &&& ~~~ (1#4 <<< ch.toNat) } } := by
  intro step c hc hs
  simp only [List.mem_cons, Prod.mk.injEq, List.not_mem_nil, or_false] at hc
  obtain ⟨rfl, rfl⟩ | ⟨rfl, rfl⟩ := hc
  · exact (run_live hl _).trans (congrArg _ (trainComplete_inStep hs))
  · exact (run_live hl _).trans (congrArg _ (trainComplete_inStep hs))

theorem training_complete_driven : ∀ step c bs, (step, c, bs) ∈ [(2, Instr.readDqCalibration ch .complete, calibrationBytes s ch.toNat),
    (3, .writeDqFifoTraining ch data .complete, tabGet s.hp.fifo ch.toNat [])] → inStep s ch.toNat step = true →
    exec c s = .next { s with hp := { s.hp with
      train := s.hp.train ||| maskOf (8 * ch.toNat + step) 1, training := s.hp.training &&& ~~~ (1#4 <<< ch.toNat),
      dq := some ⟨bs, bs.map (fun _ => false), readLatency s ch.toNat⟩ } } := by
  intro step c bs hc hs
  simp only [List.mem_cons, Prod.mk.injEq, List.not_mem_nil, or_false] at hc
  obtain ⟨rfl, rfl, rfl⟩ | ⟨rfl, rfl, rfl⟩ := hc
  · exact (run_live hl _).trans (congrArg _ (rdcStep_complete hs))
  · exact (run_live hl _).trans (congrArg _ (wffStep_complete hs))

theorem exec_hostIdleExit_notIdle (h : s.hp.idle = none) : exec .hostIdleExit s = .next s :=
  (run_live hl _).trans (congrArg _ (by simp [hostIdleExit, h]))

theorem exec_hostIdleExit_run (h : s.hp.idle.isSome = true) (hm : s.pw.mode = modeRun) :
    exec .hostIdleExit s = .next { s with hp := { s.hp with idle := none } } :=
  (run_live hl _).trans (congrArg _ (by simp [hostIdleExit, h, wakeUp, hm, modeRun, modeDeep]))

end

/-- Settles O6: entries, completions, idle modes and ZQ each by the equation of its row. -/
theorem trainingIdleAndZq : Obligations.TrainingIdleAndZq := by
  refine ⟨fun s ch data hl => ⟨?_, fun h => ?_, fun h => ?_, fun h => ?_, training_complete_other hl ch data, training_complete_silent hl ch,
    training_complete_driven hl ch data⟩, fun s hl => ⟨fun _ => run_live hl _, exec_hostIdleExit_notIdle hl, exec_hostIdleExit_run hl,
      fun _ => ⟨run_live hl _, run_live hl _⟩⟩⟩
  · exact run_live hl _
  · exact (run_live hl _).trans (congrArg _ (trainEnter_first (by decide) h))
  · exact (run_live hl _).trans (congrArg _ (trainEnter_first (by decide) h))
  · refine (run_live hl _).trans (congrArg _ ?_)
    simp only [wffStep, trainEnter_first (by decide : 3 ≠ 0) h]

end Sys2Proof.Machine
end

section
/-! PROOFS. The staged window (R41 to R46): what a dropped burst leaves behind, and a burst's three outcomes. -/

namespace Sys2Proof.Machine

/-! ### Alerts -/

theorem bitOf_or_maskOf {i : Nat} (hi : i < 64) (w : Word) : bitOf (w ||| maskOf i 1) i = true := by
  simp [bitOf, maskOf, BitVec.getElem_eq_testBit_toNat, hi, Nat.mod_eq_of_lt (Nat.pow_lt_pow_right Nat.one_lt_two hi), Nat.one_shiftLeft]

theorem bitOf_alert {i : Nat} (hi : i < 64) (s : State) : bitOf (alert i s).hp.alertStat i = true := bitOf_or_maskOf hi s.hp.alertStat

/-- The host port apart from its alerts. -/
def SameButAlerts (s t : State) : Prop := t.hp = { s.hp with alertStat := t.hp.alertStat }

theorem SameButAlerts.refl (s : State) : SameButAlerts s s := rfl

theorem SameButAlerts.trans {s t u : State} (h : SameButAlerts s t) (k : SameButAlerts t u) : SameButAlerts s u :=
  Eq.trans k (congrArg (fun p : HostPort => { p with alertStat := u.hp.alertStat }) h)

theorem alert_sameButAlerts (i : Nat) (s : State) : SameButAlerts s (alert i s) := rfl

/-! ### The fault of a queue -/

theorem pushQevt_hp (w : Word) (s : State) : (pushQevt w s).hp = s.hp := (pushQevt_only w s).same .hp (by simp)

theorem setQueue_setQueue_queue? (q p : Nat) (r r' : Queue) (s : State) :
    queue? (setQueue q r (setQueue q r' s)) p = if p = q then some r else queue? s p := by
  simp only [queue?_setQueue]
  split <;> rfl

/-- The record of a queue that a dropped burst faulted (R45, R74). -/
def Queue.faulted (r : Queue) : Queue := { r with stopped := true, st := .creditViol }

theorem creditFault_eq (q : Nat) (s : State) : creditFault q s =
    if (qstate s q).rings then moveQueue q .creditViol (modQueue q (fun r => { r with stopped := true }) s) else s := by
  unfold creditFault
  cases qstate s q <;> rfl

theorem creditFault_ringing {s : State} {q : Nat} {r : Queue} (hq : queue? s q = some r) (hr : r.st.rings = true) :
    creditFault q s = alert 1 (pushQevt (qevtWord q .creditViol) (setQueue q r.faulted (setQueue q { r with stopped := true } s))) := by
  have hne : r.st ≠ .creditViol := fun h => by rw [h] at hr; cases hr
  simp [creditFault_eq, qstate_of_queue hq, hr, modQueue, hq, moveQueue, queue?_setQueue, hne, Queue.faulted]

theorem creditFault_silent {s : State} {q : Nat} (hr : (qstate s q).rings = false) : creditFault q s = s := by
  simp [creditFault_eq, hr]

theorem qstate_rings {s : State} {q : Nat} (h : (qstate s q).rings = true) : ∃ r, queue? s q = some r ∧ r.st.rings = true := by
  unfold qstate at h
  split at h
  next r hq => exact ⟨r, hq, h⟩
  next => cases h

/-- The fault of queue `q` reaches `q`'s record, the event FIFO and the alerts. -/
structure FaultOf (q : Nat) (s t : State) : Prop where
  state : (qstate s q).rings = true → qstate t q = .creditViol
  silent : (qstate s q).rings = false → queue? t q = queue? s q
  others : ∀ p, p ≠ q → queue? t p = queue? s p
  hp : SameButAlerts s t
  only : Only [.hp, .dq] s t

theorem creditFault_faultOf (q : Nat) (s : State) : FaultOf q s (creditFault q s) := by
  cases hr : (qstate s q).rings
  · rw [creditFault_silent hr]
    exact ⟨fun h => (by rw [hr] at h; cases h), fun _ => rfl, fun _ _ => rfl, .refl s, .refl _ s⟩
  · obtain ⟨r, hq, hrings⟩ := qstate_rings hr
    have hqueue (p : Nat) : queue? (creditFault q s) p = if p = q then some r.faulted else queue? s p := by
      rw [creditFault_ringing hq hrings, queue?_congr (t := alert 1 _) (pushQevt_queues _ _), setQueue_setQueue_queue?]
    refine ⟨fun _ => ?_, fun h => (by rw [hr] at h; cases h), fun p hp => ?_, ?_, ?_⟩
    · rw [qstate_of_queue ((hqueue q).trans (if_pos rfl))]
      rfl
    · rw [hqueue, if_neg hp]
    · rw [creditFault_ringing hq hrings]
      simp [SameButAlerts, alert, pushQevt_hp]
    · rw [creditFault_ringing hq hrings]
      have hrec := (setQueue_only q { r with stopped := true } s).trans (setQueue_only q r.faulted _)
      exact ((hrec.trans (pushQevt_only _ _)).mono (by simp)).trans ((alert_only _ _).mono (by simp))

/-! ### Drops -/

/-- A burst lost at window address `a`: the fault of the owner (R45, R46) and the drop's own registers. -/
structure DroppedAt (a : Nat) (s t : State) : Prop where
  owner : ∀ q, ownerOf s a = some q → (qstate s q).rings = true → qstate t q = .creditViol
  others : ∀ q, ownerOf s a ≠ some q ∨ (qstate s q).rings = false → queue? t q = queue? s q
  viol : bitOf t.hp.alertStat 2 = true
  hp : t.hp = { s.hp with dropLast := place (a / 64) 6 26, alertStat := t.hp.alertStat }
  only : Only [.hp, .dq] s t

/-- HP_DROP_LAST holds the address of a lost burst (R45). -/
def dropNoted (a : Nat) (s : State) : State := { s with hp := { s.hp with dropLast := place (a / 64) 6 26 } }

theorem dropAt_eq (a : Nat) (s : State) : dropAt a s =
    alert 2 ((ownerOf s a).elim (dropNoted a s) (fun q => creditFault q (dropNoted a s))) := by
  rw [dropAt]
  split
  next q h => rw [show ownerOf s a = some q from h]; rfl
  next h => rw [show ownerOf s a = none from h]; rfl

theorem dropAt_unowned {a : Nat} {s : State} (h : ownerOf s a = none) : dropAt a s = alert 2 (dropNoted a s) := by rw [dropAt_eq, h, Option.elim_none]

theorem dropAt_owned {a q : Nat} {s : State} (h : ownerOf s a = some q) : dropAt a s = alert 2 (creditFault q (dropNoted a s)) := by
  rw [dropAt_eq, h, Option.elim_some]

theorem dropNoted_only (a : Nat) (s : State) : Only [.hp, .dq] s (dropNoted a s) := (setHp_only _ s).mono (by simp)

theorem dropAt_droppedAt (a : Nat) (s : State) : DroppedAt a s (dropAt a s) := by
  cases ho : ownerOf s a with
  | none =>
    rw [dropAt_unowned ho]
    exact ⟨fun _ hq => (by rw [ho] at hq; cases hq), fun _ _ => rfl, bitOf_alert (by decide) _, rfl,
      (dropNoted_only a s).trans ((alert_only _ _).mono (by simp))⟩
  | some q =>
    obtain ⟨hstate, hsilent, hothers, hhp, honly⟩ := creditFault_faultOf q (dropNoted a s)
    rw [dropAt_owned ho]
    refine ⟨fun p hp hr => ?_, fun p hp => ?_, bitOf_alert (by decide) _, ?_,
      ((dropNoted_only a s).trans honly).trans ((alert_only _ _).mono (by simp))⟩
    · cases ho.symm.trans hp
      exact hstate hr
    · by_cases hpq : p = q
      · subst hpq
        exact hsilent (hp.resolve_left (absurd ho))
      · exact hothers p hpq
    · exact hhp.trans (alert_sameButAlerts 2 _)

/-! ### Bursts to the window -/

theorem exec_stagedWindowWrite {s : State} {b₀ b : Burst} {a : Nat} (hl : Live s) (hk : locked s = true) (hb : b = received s b₀)
    (ht : s.hp.training.getLsbD b.addr.ch.toNat = false)
    (ha : a = busWindow s b.addr - busWindow s b.addr % (if b.data.length = 32 then 32 else 64)) (hlo : 0x02000000 ≤ a) (hhi : a < 0x100000000) :
    exec (.stagedWindowWrite b₀) s = .next (stagedWrite a b.data b.mask s) := by
  subst hb ha
  change execStagedWindowWrite b₀ s = _
  rw [execStagedWindowWrite, run_live hl]
  simp only [ht, hk, hlo, hhi, Bool.false_eq_true, not_true_eq_false, or_self, ↓reduceIte, and_self]

section
variable {a : Nat} {bs : Bytes} {mask : List Bool} {s : State} (hlo : 0x02000000 ≤ a)
include hlo

theorem stagedWrite_above (h : swLimit s ≤ a) : stagedWrite a bs mask s = wdisc s := by
  simp [stagedWrite, backed, hlo, h]

theorem stagedWrite_uncredited (h : a < swLimit s) (hc : creditLeft s = 0) :
    stagedWrite a bs mask s = dropAt a { s with hp := { s.hp with wdrop := satAdd s.hp.wdrop 1 } } := by
  simp [stagedWrite, backed, hlo, h, hc]

theorem stagedWrite_credited (h : a < swLimit s) (hc : creditLeft s ≠ 0) :
    stagedWrite a bs mask s = { s with hp := { s.hp with used := s.hp.used + 1, comb := combine s.hp.comb a bs mask } } := by
  simp [stagedWrite, backed, hlo, h, hc]

end

/-- Settles O8, by the three outcomes of `stagedWrite`; the uncredited one is a drop at the burst's address. -/
theorem stagedWindowWrites : Obligations.StagedWindowWrites := by
  intro s b₀ b a hl hk hb ht ha hlo hhi
  have hexec := exec_stagedWindowWrite hl hk hb ht ha hlo hhi
  refine ⟨fun h => ?_, fun h hc => ?_, fun h hc => ?_⟩
  · rw [hexec, stagedWrite_above hlo h]
  · have hdrop := dropAt_droppedAt a { s with hp := { s.hp with wdrop := satAdd s.hp.wdrop 1 } }
    refine ⟨_, hexec.trans (congrArg _ (stagedWrite_uncredited hlo h hc)), ?_, ?_, hdrop.viol, ?_, ?_, ?_, ?_, hdrop.owner, hdrop.others, ?_⟩
    · rw [hdrop.hp]
    · rw [hdrop.hp]
    · rw [hdrop.hp]
    · rw [hdrop.hp]
    · rw [hdrop.hp]
    · exact hdrop.only.same .mem (by simp)
    · exact ((setHp_only _ s).mono (by simp)).trans hdrop.only
  · rw [hexec, stagedWrite_credited hlo h hc]

end Sys2Proof.Machine
end

section
/-! PROOFS. The combining buffer's drains (R42, R341, R424): what the damage of a memory leaves alone, and an entry that drains or is dropped. -/

namespace Sys2Proof.Machine

/-! ### Cells written to a memory -/

theorem Memory.writeCells_cons (m : Memory) (c : Host.Cell) (cs : List Host.Cell) :
    Memory.writeCells m (c :: cs) = Memory.writeCells (Memory.write m c.1 c.2) cs := rfl

theorem Memory.read_writeCells_of_not {cs : List Host.Cell} {k : Nat} (h : ∀ c ∈ cs, c.1 ≠ k) (m : Memory) :
    Memory.read (Memory.writeCells m cs) k = Memory.read m k := by
  induction cs generalizing m with
  | nil => rfl
  | cons c cs ih =>
    rw [Memory.writeCells_cons, ih (fun x hx => h x (List.mem_cons_of_mem _ hx)), Memory.read_write, if_neg (h c List.mem_cons_self).symm]

/-- Of cells at different addresses each is read back. -/
theorem Memory.read_writeCells_of_mem {cs : List Host.Cell} (hd : cs.Pairwise (fun a b => a.1 ≠ b.1)) {c : Host.Cell} (hc : c ∈ cs) (m : Memory) :
    Memory.read (Memory.writeCells m cs) c.1 = c.2 := by
  induction cs generalizing m with
  | nil => cases hc
  | cons x cs ih =>
    obtain ⟨hx, hcs⟩ := List.pairwise_cons.1 hd
    rw [Memory.writeCells_cons]
    rcases List.mem_cons.1 hc with rfl | hc
    · rw [Memory.read_writeCells_of_not (fun y hy => (hx y hy).symm), Memory.read_write, if_pos rfl]
    · exact ih hcs hc _

/-! ### Damage -/

theorem readCheck_undamaged {m : MemKind} {unit lo n : Nat} {s : State} (h : s.dm.damage = []) : readCheck m unit lo n s = (false, s) := by
  simp [readCheck, damageIn, h]

theorem foundDamage_combining_only {d : Damage} (h : d.mem = .combining) (s : State) : Only [.dm, .sn] s (foundDamage d s) := by
  obtain ⟨m, unit, word, ue⟩ := d
  cases h
  have hdm (p : Depot) : Only [.dm, .sn] s { s with dm := p } := fun q => by cases q <;> simp [Part.same]
  cases ue
  · simp only [foundDamage, eccIndex, bne_self_eq_false, Bool.and_false, Bool.false_eq_true, ↓reduceIte]
    split
    · exact hdm _
    · exact hdm _
  · simp only [foundDamage, eccIndex]
    exact (hdm _).trans ((barker_noted_only (sev := 1) (by decide) _ _ _).mono (ps := [.sn]) (by simp))

/-- A read of the combining buffer counts and logs what it finds, no more. -/
theorem readCheck_combining_only (unit lo n : Nat) (s : State) : Only [.dm, .sn] s (readCheck .combining unit lo n s).2 := by
  have hfold (ds : List Damage) : ∀ (s : State), (∀ d ∈ ds, d.mem = .combining) → Only [.dm, .sn] s (ds.foldl (fun s d => foundDamage d s) s) := by
    induction ds with
    | nil => exact fun s _ => .refl _ s
    | cons d ds ih =>
      exact fun s h => (foundDamage_combining_only (h d List.mem_cons_self) s).trans (ih _ fun x hx => h x (List.mem_cons_of_mem _ hx))
  refine hfold _ s fun d hd => ?_
  simp only [damageIn, List.mem_filter, Bool.and_eq_true, beq_iff_eq] at hd
  obtain ⟨-, ⟨hmem, -⟩, -⟩ := hd
  exact hmem

/-- An uncorrectable word that arrives in a range is found by a read of it. -/
theorem readCheck_addDamage_ue {m : MemKind} {unit word lo n : Nat} (hlo : lo < (word + 1) * wordSize m) (hhi : word * wordSize m < lo + n)
    (s : State) :
    (readCheck m unit lo n (addDamage m [⟨unit, word, true⟩] s)).1 = true := by
  simp only [readCheck, List.any_eq_true]
  refine ⟨⟨m, unit, word, true⟩, ?_, rfl⟩
  simp [damageIn, addDamage, hlo, hhi]

theorem addDamage_only (m : MemKind) (hits : List ScrubHit) (s : State) : Only [.dm] s (addDamage m hits s) := by
  unfold addDamage
  induction hits generalizing s with
  | nil => exact .refl _ s
  | cons h hits ih =>
    rw [List.foldl_cons]
    exact Only.trans (fun q => by cases q <;> simp [Part.same]) (ih _)

theorem healFold_only {α : Type} (m : MemKind) (unit : Nat) (lo n : α → Nat) (l : List α) (s : State) :
    Only [.dm] s (l.foldl (fun s x => heal m unit (lo x) (n x) s) s) := by
  induction l generalizing s with
  | nil => exact .refl _ s
  | cons x l ih => exact (heal_only m unit (lo x) (n x) s).trans (ih _)

/-! ### Entries -/

/-- An entry's units are granted and its bytes stand in DRAM (R42). -/
def entryDrained (e : CombEntry) (s : State) : State :=
  setDram (grantEntry e s) (Memory.writeCells s.mem.dram (e.bytes.map (fun c => (swDev s (e.block * 1024) + c.1, c.2))))

theorem entryDrained_only (e : CombEntry) (s : State) : Only [.hp, .mem] s (entryDrained e s) := fun q => by
  cases q <;> simp [Part.same, entryDrained, grantEntry]

/-- In a memory without damage an entry drains whole; only the words to write back change besides. -/
theorem drainEntry_undamaged (e : CombEntry) {s : State} (h : s.dm.damage = []) : Only [.dm] (entryDrained e s) (drainEntry e s) := by
  simp only [drainEntry, readCheck_undamaged h, Bool.false_eq_true, ↓reduceIte, ite_self]
  refine Only.trans ?_ (healFold_only .dram 0 (fun w => swDev s (e.block * 1024) + 64 * w) (fun w => if e.whole.contains w then 64 else 1) _ _)
  intro q
  cases q
  case mem => exact .inr rfl
  all_goals simp [Part.same, entryDrained]

/-- An entry lost to an error writes nothing (R424). -/
theorem dropEntry_parts (e : CombEntry) (s : State) :
    (dropEntry e s).hp.wcred = s.hp.wcred + BitVec.ofNat 32 e.units ∧
      (dropEntry e s).hp.comb = s.hp.comb.filter (fun x => x.block != e.block) ∧ (dropEntry e s).hp.wdrop = satAdd s.hp.wdrop 16 ∧
      (dropEntry e s).hp.dropLast = place (e.block * 1024 / 64) 6 26 ∧ (dropEntry e s).mem = s.mem := by
  unfold dropEntry
  generalize hu : heal .combining 0 (e.slot * 1024) 1024 (grantEntry e s) = u
  have hhp : u.hp = (grantEntry e s).hp := by rw [← hu, heal_hp]
  have hmem : u.mem = s.mem := by rw [← hu, heal_mem, grantEntry]
  have hdrop := dropAt_droppedAt (e.block * 1024) { u with hp := { u.hp with wdrop := satAdd u.hp.wdrop 16 } }
  refine ⟨?_, ?_, ?_, ?_, (hdrop.only.same .mem (by simp)).trans hmem⟩ <;> rw [hdrop.hp, hhp] <;> rfl

theorem find_block {comb : List CombEntry} {blk : Nat} {e : CombEntry} (h : comb.find? (fun x => x.block == blk) = some e) : e.block = blk := by
  simpa using List.find?_some h

/-! ### COMBINING_DRAIN -/

theorem combiningDrain_kept {blk : Nat} {ue : Bool} {s : State} (h : s.pw.mode = modeDeep ∨ s.pw.mode = modeLeaving ∨ oldestOn s blk = false) :
    combiningDrain blk ue s = s := by
  unfold combiningDrain
  split
  · rfl
  · rw [if_pos (h.imp_right (Or.imp_right (by simp)))]

theorem combiningDrain_oldest {blk : Nat} {ue : Bool} {s : State} {e : CombEntry} (hm : s.pw.mode = modeRun ∨ s.pw.mode = modeSleep)
    (he : s.hp.comb.find? (fun x => x.block == blk) = some e) (ho : oldestOn s blk = true) :
    combiningDrain blk ue s = drainEntry e (if ue then addDamage .combining [⟨0, e.slot * 128, true⟩] s else s) := by
  have hmode : ¬ (s.pw.mode = modeDeep ∨ s.pw.mode = modeLeaving) := by
    rcases hm with h | h <;> rw [h] <;> decide
  simp only [not_or] at hmode
  simp [combiningDrain, he, hmode, ho]

/-- The error that COMBINING_DRAIN brings drops the entry, whatever damage the buffer holds besides. -/
theorem drainEntry_struck (e : CombEntry) (s : State) : ∃ u, Only [.dm, .sn] s u ∧
    drainEntry e (addDamage .combining [⟨0, e.slot * 128, true⟩] s) = dropEntry e u := by
  refine ⟨(readCheck .combining 0 (e.slot * 1024) 1024 (addDamage .combining [⟨0, e.slot * 128, true⟩] s)).2,
    ((addDamage_only _ _ s).mono (by simp)).trans (readCheck_combining_only _ _ _ _), ?_⟩
  have hue : (readCheck .combining 0 (e.slot * 1024) 1024 (addDamage .combining [⟨0, e.slot * 128, true⟩] s)).1 = true :=
    readCheck_addDamage_ue (by simp only [wordSize]; omega) (by simp only [wordSize]; omega) s
  simp only [drainEntry, hue, ↓reduceIte]

/-- Settles O9: an undamaged drain by `entryDrained`, a struck one by `dropEntry`. -/
theorem combiningDrains : Obligations.CombiningDrains := by
  intro s blk e hl
  have hexec (ue : Bool) : exec (.combiningDrain blk ue) s = .next (combiningDrain blk ue s) := run_live hl _
  refine ⟨fun hm he ho => ⟨fun hd _ hpair => ?_, ?_⟩, fun h ue => by rw [hexec, combiningDrain_kept h]⟩
  · obtain rfl := find_block he
    have hdm := drainEntry_undamaged e hd
    have hmem := hdm.same .mem (by simp)
    refine ⟨drainEntry e s, by rw [hexec, combiningDrain_oldest hm he ho]; rfl, hdm.same .hp (by simp), ?_, ?_, ?_, ?_⟩
    · intro c hc
      rw [hmem]
      refine Memory.read_writeCells_of_mem (c := (swDev s (e.block * 1024) + c.1, c.2)) ?_ (List.mem_map.2 ⟨c, hc, rfl⟩) _
      exact List.pairwise_map.2 (hpair.imp fun h => by omega)
    · intro k hk
      rw [hmem]
      exact Memory.read_writeCells_of_not (fun c hc => by obtain ⟨x, hx, rfl⟩ := List.mem_map.1 hc; exact hk x hx) _
    · rw [hmem]
      rfl
    · exact ((entryDrained_only e s).mono (by simp)).trans (hdm.mono (by simp))
  · obtain rfl := find_block he
    obtain ⟨u, hu, hdrop⟩ := drainEntry_struck e s
    obtain ⟨hwcred, hcomb, hwdrop, hlast, hmem⟩ := dropEntry_parts e u
    have hhp := hu.same .hp (by simp)
    rw [hhp] at hwcred hcomb hwdrop
    exact ⟨dropEntry e u, by rw [hexec, combiningDrain_oldest hm he ho, if_pos rfl, hdrop], hwcred, hcomb, hwdrop, hlast,
      hmem.trans (hu.same .mem (by simp))⟩

end Sys2Proof.Machine
end

section
/-! PROOFS. What finding a damaged word leaves alone, in whatever memory it stands (R351, R352, R427, R428). -/

namespace Sys2Proof.Machine

/-! ### Damage found -/

/-- What the handling of a damaged word may touch: counters, write-backs and logs, tests and tiles, alerts, and the mode, which a remap raises out of
SLEEP. The damage itself stays. -/
structure DamageMet (s t : State) : Prop where
  hp : SameButAlerts s t
  dm : t.dm = { s.dm with ce := t.dm.ce, ue := t.dm.ue, back := t.dm.back }
  only : Only [.hp, .dm, .sn, .tl, .pw] s t

theorem DamageMet.refl (s : State) : DamageMet s s := ⟨rfl, rfl, .refl _ s⟩

theorem DamageMet.trans {s t u : State} (h : DamageMet s t) (k : DamageMet t u) : DamageMet s u where
  hp := h.hp.trans k.hp
  dm := Eq.trans k.dm (congrArg (fun p : Depot => { p with ce := u.dm.ce, ue := u.dm.ue, back := u.dm.back }) h.dm)
  only := h.only.trans k.only

theorem DamageMet.foldl {α : Type} {g : State → α → State} (hg : ∀ s x, DamageMet s (g s x)) (l : List α) (s : State) :
    DamageMet s (l.foldl g s) := by
  induction l generalizing s with
  | nil => exact .refl s
  | cons x l ih => exact (hg s x).trans (ih _)

/-- The parts that a found word's handling may rewrite outright. -/
theorem DamageMet.parts (sn : Safety) (tl : Tiles) (pw : Power) (s : State) : DamageMet s { s with sn := sn, tl := tl, pw := pw } :=
  ⟨rfl, rfl, fun q => by cases q <;> simp [Part.same]⟩

theorem DamageMet.counts (ce ue : List (Nat × BitVec 32)) (back : List Damage) (s : State) :
    DamageMet s { s with dm := { s.dm with ce := ce, ue := ue, back := back } } :=
  ⟨rfl, rfl, fun q => by cases q <;> simp [Part.same]⟩

theorem DamageMet.alert (i : Nat) (s : State) : DamageMet s (alert i s) := ⟨rfl, rfl, (alert_only i s).mono (by simp)⟩

theorem DamageMet.ite {c : Prop} [Decidable c] {s t u : State} (ht : DamageMet s t) (hu : DamageMet s u) : DamageMet s (if c then t else u) := by
  split
  · exact ht
  · exact hu

theorem barker_met (event sev : Nat) (r : EventRef) (s : State) : DamageMet s (barker event sev r s) := by
  unfold barker
  split
  · exact (DamageMet.parts _ _ _ s).trans (.alert 5 _)
  · exact .parts _ _ _ s

theorem beginTest_met (u : Nat × Nat) (cover : Option Nat) (s : State) : DamageMet s (beginTest u cover s) := by
  unfold beginTest
  exact .ite (.parts _ _ _ s) ((DamageMet.parts _ _ _ s).trans (barker_met ..))

theorem leaveSleep_met (s : State) : DamageMet s (leaveSleep s) := by
  unfold leaveSleep
  split
  · exact .parts _ _ _ s
  · exact .refl s

theorem startRemap_met (l : Nat) (old : Option Nat) (q : Nat) (s : State) : DamageMet s (startRemap l old q s) :=
  (leaveSleep_met s).trans (.parts _ _ _ _)

theorem vacate_met (l : Nat) (s : State) : DamageMet s (vacate l s) := by
  unfold vacate
  exact (DamageMet.parts _ _ _ s).trans (barker_met ..)

theorem tileOut_met (l : Nat) (u : Nat × Nat) (choice : Option Nat) (s : State) : DamageMet s (tileOut l u choice s) := by
  simp only [tileOut]
  have hout (cover : Option Nat) : DamageMet s (beginTest u cover (setPhys (physOf s l) 2 s)) := (DamageMet.parts _ _ _ s).trans (beginTest_met ..)
  refine .ite (.refl s) (.ite (.parts _ _ _ s) ?_)
  split
  · exact (hout _).trans (startRemap_met ..)
  · exact .ite (.ite (.refl s) (.parts _ _ _ s)) ((hout _).trans (vacate_met ..))

theorem coverError_met (u : Nat × Nat) (choice : Option Nat) (s : State) : DamageMet s (coverError u choice s) := by
  unfold coverError
  refine .ite (.refl s) (.ite (tileOut_met ..) (.ite ?_ (.refl s)))
  split
  · exact beginTest_met ..
  · exact .ite (.refl s) (.parts _ _ _ s)

theorem unitError_met (u : Nat × Nat) (choice : Option Nat) (s : State) : DamageMet s (unitError u choice s) := by
  unfold unitError
  refine .ite (coverError_met ..) ?_
  split
  · exact .ite (.refl s) (tileOut_met ..)
  · refine .ite (.refl s) ?_
    split
    · exact (DamageMet.parts _ _ _ s).trans (beginTest_met ..)
    · exact .ite (.refl s) (tileOut_met ..)
  · exact beginTest_met ..
  · exact beginTest_met ..
  · exact beginTest_met ..
  · exact beginTest_met ..
  · exact beginTest_met ..
  · exact .refl s

theorem startDue_met (s : State) : DamageMet s (startDue s) :=
  (DamageMet.parts _ _ _ s).trans (.foldl (fun _ _ => unitError_met ..) _ _)

theorem noteCe_met (u : Nat × Nat) (s : State) : DamageMet s (noteCe u s) := by
  unfold noteCe
  split
  · exact .parts _ _ _ s
  · exact .refl s

theorem foundDamage_met (d : Damage) (s : State) : DamageMet s (foundDamage d s) := by
  unfold foundDamage
  extract_lets byte _ _ u unit tested
  have hu : DamageMet s u := by
    simp only [u]
    split
    · exact .counts _ _ _ s
    · exact .counts _ _ _ s
    · exact .refl s
    · exact .ite (.parts _ _ _ s) (.refl s)
  refine hu.trans (.ite ?_ ?_)
  · exact (barker_met ..).trans (.ite (unitError_met ..) (.refl _))
  · exact (DamageMet.ite ((noteCe_met ..).trans (startDue_met _)) (.refl u)).trans (.ite (.refl _) (.counts _ _ _ _))

theorem readCheck_met (m : MemKind) (unit lo n : Nat) (s : State) : DamageMet s (readCheck m unit lo n s).2 :=
  .foldl (fun _ d => foundDamage_met d _) _ s

end Sys2Proof.Machine
end

section
/-! PROOFS. Read bursts of the host (R26, R27, R30, R31, R36 to R41, R70): the bytes of each area, how DQ carries them, and that no read writes
HP_TRAIN_STAT. -/

namespace Sys2Proof.Machine

/-! ### No register read writes HP_TRAIN_STAT -/

theorem popQevt_hp (s : State) : (popQevt s).2.hp = s.hp := by unfold popQevt; split <;> rfl

theorem popSwevt_hp (s : State) : (popSwevt s).2.hp = s.hp := by unfold popSwevt; split <;> rfl

theorem pwCount_hp (k : Nat) (s : State) : (pwCount k s).2.hp = s.hp := by unfold pwCount; split_ifs <;> rfl

theorem hpRead_train (off : Nat) (s : State) : ∀ r ∈ hpRead off s, r.2.hp.train = s.hp.train := by
  simp only [hpRead]
  repeat' apply forall_mem_ite
  all_goals simp

theorem dqRead_train (off : Nat) (s : State) : ∀ r ∈ dqRead off s, r.2.hp.train = s.hp.train := by
  simp only [dqRead]
  repeat' apply forall_mem_ite
  all_goals simp [popQevt_hp]

theorem sfRead_train (off : Nat) (s : State) : ∀ r ∈ sfRead off s, r.2.hp.train = s.hp.train := by
  simp only [sfRead]
  repeat' apply forall_mem_ite
  all_goals simp

theorem ppRead_train (off : Nat) (s : State) : ∀ r ∈ ppRead off s, r.2.hp.train = s.hp.train := by
  simp only [ppRead]
  repeat' apply forall_mem_ite
  all_goals simp

theorem tlRead_train (off : Nat) (s : State) : ∀ r ∈ tlRead off s, r.2.hp.train = s.hp.train := by
  simp only [tlRead]
  repeat' apply forall_mem_ite
  all_goals simp

theorem kvRead_train (off : Nat) (s : State) : ∀ r ∈ kvRead off s, r.2.hp.train = s.hp.train := by
  simp only [kvRead]
  repeat' apply forall_mem_ite
  all_goals simp

theorem dmRead_train (off : Nat) (s : State) : ∀ r ∈ dmRead off s, r.2.hp.train = s.hp.train := by
  simp only [dmRead]
  repeat' apply forall_mem_ite
  all_goals simp

theorem siRead_train (off : Nat) (s : State) : ∀ r ∈ siRead off s, r.2.hp.train = s.hp.train := by
  simp only [siRead]
  repeat' apply forall_mem_ite
  all_goals simp

theorem cvRead_train (off : Nat) (s : State) : ∀ r ∈ cvRead off s, r.2.hp.train = s.hp.train := by
  simp only [cvRead]
  repeat' apply forall_mem_ite
  all_goals simp

theorem rmRead_train (off : Nat) (s : State) : ∀ r ∈ rmRead off s, r.2.hp.train = s.hp.train := by
  simp only [rmRead]
  repeat' apply forall_mem_ite
  all_goals simp [popSwevt_hp]

theorem snRead_train (off : Nat) (s : State) : ∀ r ∈ snRead off s, r.2.hp.train = s.hp.train := by
  simp only [snRead]
  repeat' apply forall_mem_ite
  all_goals simp

theorem trRead_train (off : Nat) (s : State) : ∀ r ∈ trRead off s, r.2.hp.train = s.hp.train := by
  simp only [trRead]
  repeat' apply forall_mem_ite
  all_goals simp

theorem ckRead_train (off : Nat) (s : State) : ∀ r ∈ ckRead off s, r.2.hp.train = s.hp.train := by
  simp only [ckRead]
  repeat' apply forall_mem_ite
  all_goals simp

theorem pwRead_train (off : Nat) (s : State) : ∀ r ∈ pwRead off s, r.2.hp.train = s.hp.train := by
  simp only [pwRead]
  repeat' apply forall_mem_ite
  all_goals simp [pwCount_hp]

theorem mgRead_train (off : Nat) (s : State) : ∀ r ∈ mgRead off s, r.2.hp.train = s.hp.train := by
  simp only [mgRead]
  repeat' apply forall_mem_ite
  all_goals simp

theorem regRead_train (off : Nat) (s : State) : ∀ r ∈ regRead off s, r.2.hp.train = s.hp.train := by
  unfold regRead
  repeat' apply forall_mem_or
  exacts [hpRead_train off s, dqRead_train off s, sfRead_train off s, ppRead_train off s, tlRead_train off s, kvRead_train off s,
    dmRead_train off s, siRead_train off s, cvRead_train off s, rmRead_train off s, snRead_train off s, trRead_train off s,
    ckRead_train off s, pwRead_train off s, mgRead_train off s]

theorem regWord_train (src : Src) (off : Nat) (s : State) : (regWord src off s).2.hp.train = s.hp.train := by
  unfold regWord
  split
  next r h => exact regRead_train off s r h
  next => split_ifs <;> rfl

theorem foldl_train {α : Type} {g : Bytes × State → α → Bytes × State} (hg : ∀ r x, (g r x).2.hp.train = r.2.hp.train) (l : List α)
    (r : Bytes × State) : (l.foldl g r).2.hp.train = r.2.hp.train := by
  induction l generalizing r with
  | nil => rfl
  | cons x l ih => exact (ih _).trans (hg r x)

theorem regBurst_train (a n : Nat) (s : State) : (regBurst a n s).2.hp.train = s.hp.train := foldl_train (fun _ _ => regWord_train ..) _ _

end Sys2Proof.Machine
end

section
/-! PROOFS. The bytes of a read burst (R4, R23, R39, R70). -/

namespace Sys2Proof.Machine

/-! ### Bytes of words -/

@[simp] theorem length_leBytes (n v : Nat) : (leBytes n v).length = n := by
  induction n generalizing v with
  | zero => rfl
  | succ n ih => simp [leBytes, ih]

theorem leNat_leBytes (n v : Nat) : leNat (leBytes n v) = v % 256 ^ n := by
  induction n generalizing v with
  | zero => simp [leBytes, leNat, Nat.mod_one]
  | succ n ih =>
    have hsplit : v % 256 ^ (n + 1) = v % 256 + 256 * (v / 256 % 256 ^ n) := by rw [Nat.pow_succ', Nat.mod_mul]
    rw [leBytes, leNat, ih, BitVec.toNat_ofNat, hsplit]

/-- In a concatenation of pieces of one length, piece `i` stands at `i` lengths. -/
theorem piece_of_flatMap {α : Type} {g : α → Bytes} {c : Nat} (hg : ∀ x, (g x).length = c) (l : List α) {i : Nat} (hi : i < l.length) :
    ((l.flatMap g).drop (c * i)).take c = g l[i] := by
  induction l generalizing i with
  | nil => cases hi
  | cons x l ih =>
    cases i with
    | zero => simp [← hg x]
    | succ i =>
      have hdrop : c * (i + 1) = (g x).length + c * i := by rw [hg, Nat.mul_succ, Nat.add_comm]
      rw [List.flatMap_cons, hdrop, List.drop_length_add_append]
      simpa using ih (Nat.lt_of_succ_lt_succ hi)

theorem length_burstWords (a n : Nat) : (burstWords a n).length = n / 8 := by simp [burstWords]

theorem getElem_burstWords {a n i : Nat} (hi : i < (burstWords a n).length) : (burstWords a n)[i] = a + 8 * i := by simp [burstWords]

theorem length_wordBurst (f : Nat → Word) (a n : Nat) : (wordBurst f a n).length = 8 * (n / 8) := by
  simp [wordBurst, List.length_flatMap, length_burstWords, Nat.mul_comm]

/-- Word `i` of a burst of computed words. -/
theorem leAt_wordBurst (f : Nat → Word) (a : Nat) {n i : Nat} (hi : i < n / 8) : leAt (wordBurst f a n) (8 * i) 8 = (f (a + 8 * i)).toNat := by
  unfold leAt wordBurst
  have hlen : i < (burstWords a n).length := by rwa [length_burstWords]
  have hlt : (f (a + 8 * i)).toNat < 256 ^ 8 := (f (a + 8 * i)).isLt
  rw [piece_of_flatMap (fun w => length_leBytes 8 _) _ hlen, leNat_leBytes, getElem_burstWords, Nat.mod_eq_of_lt hlt]

theorem Memory.readBytes_add (m : Memory) (a x y : Nat) : Memory.readBytes m a (x + y) = Memory.readBytes m a x ++ Memory.readBytes m (a + x) y := by
  simp [Memory.readBytes, List.range_add, Nat.add_assoc]

/-- The words of a burst, one after another, are its bytes. -/
theorem flatMap_readBytes (m : Memory) (a k : Nat) :
    (burstWords a (8 * k)).flatMap (fun w => Memory.readBytes m w 8) = Memory.readBytes m a (8 * k) := by
  rw [burstWords, Nat.mul_div_cancel_left k (by decide)]
  induction k with
  | zero => rfl
  | succ k ih => rw [List.range_succ, List.map_append, List.flatMap_append, ih, Nat.mul_succ, Memory.readBytes_add]; simp

/-! ### Bytes on DQ -/

/-- Each byte goes out as it is with DMI low, or, with read DBI on, inverted with DMI high (R23). -/
theorem driveDq_byte (s : State) (ch : Nat) {bs : Bytes} {i : Nat} (hi : i < bs.length) :
    ((driveDq s ch bs).data[i]? = bs[i]? ∧ (driveDq s ch bs).dmi[i]? = some false) ∨ ((mrGet s ch (fspOp s ch) 3).getLsbD 6 = true ∧
      (driveDq s ch bs).data[i]? = bs[i]?.map (~~~ ·) ∧ (driveDq s ch bs).dmi[i]? = some true) := by
  let inverts (b : Byte) : Bool :=
    (mrGet s ch (fspOp s ch) 3).getLsbD 6 && decide (4 < ((List.range 8).filter (b.getLsbD ·)).length)
  have hdmi : (driveDq s ch bs).dmi[i]? = some (inverts bs[i]) := by simp [driveDq, hi, inverts]
  have hdata : (driveDq s ch bs).data[i]? = some (if inverts bs[i] then ~~~ bs[i] else bs[i]) := by
    simp [driveDq, hi, inverts]
  cases h : inverts bs[i]
  · left
    simp [hdata, hdmi, h, hi]
  · right
    have hdbi : (mrGet s ch (fspOp s ch) 3).getLsbD 6 = true := (Bool.and_eq_true_iff.1 h).1
    simp [hdata, hdmi, h, hi, hdbi]

end Sys2Proof.Machine
end

section
/-! PROOFS. What a host read burst answers (O11): its bytes by area, and RL_LOW when the programmed latency is below the bin's minimum. -/

namespace Sys2Proof.Machine

/-! ### Areas -/

theorem burstRead_probe {a n : Nat} {s : State} (h : areaOf a = .probe) : burstRead a n s = (wordBurst (BitVec.ofNat 64) a n, s) := by
  simp only [burstRead, h]

theorem burstRead_doorbell {a n : Nat} {s : State} (h : areaOf a = .doorbell) :
    burstRead a n s = (wordBurst (fun _ => s.dq.dbCount.setWidth 64) a n, s) := by
  simp only [burstRead, h]

theorem burstRead_zeros {a n : Nat} {s : State} (h : areaOf a ∈ [.reserved, .staged, .remainder]) : burstRead a n s = zeroBurst n s := by
  simp only [List.mem_cons, List.not_mem_nil, or_false] at h
  unfold burstRead
  rcases h with h | h | h <;> rw [h]

theorem probe_lt {a : Nat} (h : areaOf a = .probe) : a < 0x4000 := by
  by_contra hge
  unfold areaOf at h
  simp only [show ¬ a < 0x1000 by omega, show ¬ a < 0x2000 by omega, show ¬ a < 0x3000 by omega, hge, if_false] at h
  split_ifs at h

/-- Where a range of the aperture holds no damaged word, none of its parts does. -/
theorem damageIn_part {s : State} {m : MemKind} {unit lo n lo' n' : Nat} (h : damageIn s m unit lo n = []) (hlo : lo ≤ lo')
    (hhi : lo' + n' ≤ lo + n) : damageIn s m unit lo' n' = [] := by
  simp only [damageIn, List.filter_eq_nil_iff, Bool.and_eq_true, decide_eq_true_eq, not_and, and_imp] at h ⊢
  intro d hd hm hu hbelow habove
  exact absurd (by omega : lo < (d.word + 1) * wordSize m) (h d hd hm hu (by omega))

theorem apTouch_undamaged {a n : Nat} {s : State} (h : damageIn s .aperture 0 a n = []) : apTouch a n s = s := by
  simp [apTouch, badWords, readCheck, h]

theorem burstRead_text {a n : Nat} {s : State} (hn : 8 ∣ n) (h : areaOf a = .text) (hd : damageIn s .aperture 0 a n = []) :
    burstRead a n s = (Memory.readBytes s.mem.ap a n, s) := by
  obtain ⟨k, rfl⟩ := hn
  have hwords : (burstWords a (8 * k)).flatMap (apWord s) = Memory.readBytes s.mem.ap a (8 * k) := by
    rw [← flatMap_readBytes]
    refine List.flatMap_congr fun w hw => ?_
    obtain ⟨i, hi, rfl⟩ := List.mem_map.1 hw
    have hik := List.mem_range.1 hi
    rw [Nat.mul_div_cancel_left k (by decide)] at hik
    simp [apWord, badWords, damageIn_part hd (Nat.le_add_right a (8 * i)) (by omega : a + 8 * i + 8 ≤ a + 8 * k)]
  simp only [burstRead, h, hwords, apTouch_undamaged hd]

/-! ### Bursts -/

/-- The answer of a read burst goes out on DQ (R23). -/
def answered (ch : Nat) (r : Bytes × State) : State := { r.2 with hp := { r.2.hp with dq := some (driveDq r.2 ch r.1) } }

/-- What a burst of `n` bytes at window address `a` reads: zeros before the lock (R30). -/
def bytesRead (a n : Nat) (s : State) : Bytes × State := if locked s then burstRead a n s else (List.replicate n 0, s)

/-- The programmed latency is below the bin's minimum: RL_LOW is set (R27). -/
def rlLow (ch : Nat) (s : State) : State := { s with hp := { s.hp with train := s.hp.train ||| trainBit ch 4 } }

section
variable {s : State} {b : BusAddr} {bl32 : Bool} {bin : SpeedBin} {a n : Nat} (hl : Live s) (hn : n = if bl32 then 64 else 32)
  (ha : a = busWindow s b - busWindow s b % n)
include hl

theorem exec_hostRead_training (ht : s.hp.training.getLsbD b.ch.toNat = true) : exec (.hostRead (.burst b bl32) bin) s = .next s := by
  refine (run_live hl _).trans (congrArg _ ?_)
  simp [hostRead, ht]

include hn ha

theorem exec_hostRead_inTime (ht : s.hp.training.getLsbD b.ch.toNat = false) (hr : minRl bin ≤ readLatency s b.ch.toNat) :
    exec (.hostRead (.burst b bl32) bin) s = .next (answered b.ch.toNat (bytesRead a n s)) := by
  subst hn ha
  refine (run_live hl _).trans (congrArg _ ?_)
  simp only [hostRead, ht, Nat.not_lt.2 hr, decide_false, Bool.false_eq_true, ↓reduceIte, answered, bytesRead]

theorem exec_hostRead_late (ht : s.hp.training.getLsbD b.ch.toNat = false) (hr : readLatency s b.ch.toNat < minRl bin) :
    exec (.hostRead (.burst b bl32) bin) s =
      .next (answered b.ch.toNat (freshBytes n (bytesRead a n (rlLow b.ch.toNat s)).2)) := by
  subst hn ha
  refine (run_live hl _).trans (congrArg _ ?_)
  simp only [hostRead, ht, hr, decide_true, Bool.false_eq_true, ↓reduceIte, answered, bytesRead]
  rfl

end

/-! ### RL_LOW stays -/

theorem rlLow_bit (ch : BitVec 2) (s : State) : bitOf (rlLow ch.toNat s).hp.train (8 * ch.toNat + 4) = true := by
  have hlt : 8 * ch.toNat + 4 < 64 := by omega
  exact bitOf_or_maskOf hlt s.hp.train

theorem stageHurt_train (a : Nat) (s : State) : (stageHurt a s).hp.train = s.hp.train := by
  simp only [stageHurt]
  split_ifs <;> rfl

theorem carouselHurt_train (a : Nat) (s : State) : (carouselHurt a s).hp.train = s.hp.train := by
  simp only [carouselHurt]
  split_ifs <;> rfl

theorem scrubUe_aperture_train {d : Damage} (hd : d.mem = .aperture) (s : State) : (scrubUe d s).hp.train = s.hp.train := by
  simp [scrubUe, hd, carouselHurt_train, stageHurt_train]

theorem apTouch_train (a n : Nat) (s : State) : (apTouch a n s).hp.train = s.hp.train := by
  have hfold (ds : List Damage) : ∀ s : State, (∀ d ∈ ds, d.mem = .aperture) → (ds.foldl (fun s d => scrubUe d s) s).hp.train = s.hp.train := by
    induction ds with
    | nil => exact fun _ _ => rfl
    | cons d ds ih =>
      exact fun s h => (ih _ fun x hx => h x (List.mem_cons_of_mem _ hx)).trans (scrubUe_aperture_train (h d List.mem_cons_self) s)
  refine (hfold _ _ fun d hd => ?_).trans (by rw [(readCheck_met .aperture 0 a n s).hp])
  simp only [badWords, damageIn, List.mem_filter, Bool.and_eq_true, beq_iff_eq] at hd
  obtain ⟨⟨-, ⟨hmem, -⟩, -⟩, -⟩ := hd
  exact hmem

theorem burstRead_train (a n : Nat) (s : State) : (burstRead a n s).2.hp.train = s.hp.train := by
  unfold burstRead
  cases areaOf a
  case regs => exact regBurst_train ..
  case rings | text | carousel => exact apTouch_train ..
  case mailbox => simp only; split_ifs <;> rfl
  case stageBuf =>
    simp only
    split_ifs
    · rfl
    · exact apTouch_train ..
  all_goals rfl

theorem bytesRead_train (a n : Nat) (s : State) : (bytesRead a n s).2.hp.train = s.hp.train := by
  unfold bytesRead
  split
  · exact burstRead_train ..
  · rfl

/-! ### The statement -/

/-- Settles O11: `bytesRead` gives the bytes of each area and `driveDq` puts them on DQ; a late burst sets RL_LOW, which no read clears. -/
theorem hostReadsByArea : Obligations.HostReadsByArea := by
  refine ⟨fun s ch bs i hi => ⟨rfl, driveDq_byte s ch hi⟩, fun s b bl32 bin a n hl hn ha => ?_⟩
  have hwords : n = 8 * (n / 8) := by rw [hn]; split_ifs <;> rfl
  refine ⟨exec_hostRead_training hl, fun ht hr => ?_, fun ht hr => ?_, fun ch mr => run_live hl _⟩
  · have hexec := exec_hostRead_inTime hl hn ha ht hr
    refine ⟨fun hk => ?_, fun hk harea => ?_, fun hk harea => ?_, fun hk harea => ?_, fun hk harea hd => ?_⟩
    · rw [hexec, bytesRead, if_neg (by simp [hk])]
      rfl
    · have hlt := probe_lt harea
      refine ⟨_, hexec, wordBurst (BitVec.ofNat 64) a n, by rw [bytesRead, if_pos hk, burstRead_probe harea]; rfl, ?_, fun i hi => ?_⟩
      · rw [length_wordBurst, ← hwords]
      · have hn64 : n ≤ 64 := by rw [hn]; split_ifs <;> decide
        rw [leAt_wordBurst _ _ hi, BitVec.toNat_ofNat, Nat.mod_eq_of_lt (by omega)]
    · refine ⟨_, hexec, wordBurst (fun _ => s.dq.dbCount.setWidth 64) a n, by rw [bytesRead, if_pos hk, burstRead_doorbell harea]; rfl, ?_,
        fun i hi => ?_⟩
      · rw [length_wordBurst, ← hwords]
      · rw [leAt_wordBurst _ _ hi, BitVec.toNat_setWidth_of_le (by decide)]
    · rw [hexec, bytesRead, if_pos hk, burstRead_zeros harea]
      rfl
    · rw [hexec, bytesRead, if_pos hk, burstRead_text ⟨_, hwords⟩ harea hd]
      rfl
  · refine ⟨_, exec_hostRead_late hl hn ha ht hr, ?_⟩
    have htrain := bytesRead_train a n (rlLow b.ch.toNat s)
    exact (congrArg (bitOf · (8 * b.ch.toNat + 4)) htrain).trans (rlLow_bit b.ch s)

end Sys2Proof.Machine
end

section
/-! PROOFS. Stage requests and their copies (R49, R50, R52, R53): what a write with GO does to its slot, which bytes of a copy an error strikes,
and what a completed copy leaves in its buffer. -/

namespace Sys2Proof.Machine

/-! ### Slices laid into a memory -/

theorem Memory.read_shift (m : Memory) (d k : Nat) :
    Memory.read (m.map (fun c => (c.1 + d, c.2))) k = if d ≤ k then Memory.read m (k - d) else 0 := by
  induction m with
  | nil => simp [Memory.read]
  | cons c m ih =>
    obtain ⟨a, b⟩ := c
    simp only [List.map_cons, Memory.read, ih]
    by_cases hk : d ≤ k
    · simp only [hk, if_true, show a + d = k ↔ a = k - d by omega]
    · simp only [hk, if_false, show a + d ≠ k by omega]

theorem Memory.read_slice_zero (m : Memory) (n k : Nat) : Memory.read (Memory.slice m 0 n) k = if k < n then Memory.read m k else 0 := by
  simpa [Memory.slice] using Memory.read_filter (fun x => decide (x < n)) m k

theorem Memory.shifted_slice_keys (m : Memory) (a n k : Nat) (h : k ∈ ((Memory.slice m 0 n).map (fun c => (c.1 + a, c.2))).map Prod.fst) :
    a ≤ k ∧ k < a + n := by
  simp only [List.map_map, List.mem_map, Function.comp_apply] at h
  obtain ⟨c, hc, rfl⟩ := h
  have hlt := Memory.keys_slice m 0 n c.1 (List.mem_map_of_mem hc)
  omega

/-- A read after a slice is laid over a range: the slice inside it, the old byte outside. -/
theorem Memory.read_blit (m : Memory) (a n : Nat) (sl : Memory) (k : Nat) :
    Memory.read (Memory.blit m a n sl) k = if a ≤ k ∧ k < a + n then Memory.read sl (k - a) else Memory.read m k := by
  unfold Memory.blit
  have hslice (j : Nat) (h : ¬ (a ≤ j ∧ j < a + n)) : j ∉ ((Memory.slice sl 0 n).map (fun c => (c.1 + a, c.2))).map Prod.fst :=
    fun hj => h (Memory.shifted_slice_keys sl a n j hj)
  rw [List.append_assoc]
  by_cases h1 : k < a
  · rw [Memory.read_append_left _ _ _ (by rw [Memory.read_append _ _ _ (hslice k (by omega)), Memory.read_from, if_neg (by omega)]),
      Memory.read_below, if_pos h1, if_neg (by omega)]
  · rw [Memory.read_append _ _ _ (fun h => h1 (Memory.keys_below _ _ _ h))]
    by_cases h2 : k < a + n
    · rw [Memory.read_append_left _ _ _ (by rw [Memory.read_from, if_neg (by omega)]), Memory.read_shift, if_pos (by omega), Memory.read_slice_zero,
        if_pos (by omega), if_pos (by omega)]
    · rw [Memory.read_append _ _ _ (hslice k (by omega)), Memory.read_from, if_pos (by omega), if_neg (by omega)]

/-! ### Requests -/

theorem stageSlot_setSlot (k j : Nat) (r : StageSlot) (s : State) : stageSlot (setSlot k r s) j = if j = k then r else stageSlot s j :=
  tabGet_tabSet _ _ _ _ _

theorem setSlot_only (k : Nat) (r : StageSlot) (s : State) : Only [.hp] s (setSlot k r s) := setHp_only _ s

theorem exec_stageRequest {s : State} {k : Nat} {w : RegWr} (hl : Live s) (hk : locked s = true) (h56 : k < 56) (hsrc : w.src = .host) :
    exec (.stageRequest k w) s = .next (stageCtlWrite k 8 w.data (enMask w.be) s) := by
  refine (run_live hl _).trans (congrArg _ ?_)
  rw [if_pos ⟨h56, hsrc, hk⟩]

section
variable {s : State} {k : Nat} {d en : Word} (hgo : bitOf (d &&& en) 12 = true)
include hgo

theorem stageCtlWrite_busy (hb : slotBusy (stageSlot s k) = true) : stageCtlWrite k 8 d en s = wdisc s := by
  simp [stageCtlWrite, hgo, hb]

/-- A GO to a slot that is not busy, in RUN, takes the request at once. -/
theorem stageCtlWrite_taken (hm : s.pw.mode = modeRun) (hb : slotBusy (stageSlot s k) = false) : stageCtlWrite k 8 d en s =
    takeStage k s.hp.comb (setSlot k { stageSlot s k with ctl := putBits (stageSlot s k).ctl d (~~~ maskOf 12 1) en } s) := by
  have hh : ∀ r, holds (setSlot k r s) = false := fun r => by simp [holds, setSlot, hm, modeRun, modeLeaving, modeDeep]
  simp only [stageCtlWrite, hgo, hb, hh, ↓reduceIte, Bool.false_eq_true, OfNat.ofNat_ne_zero]
  rfl

end

/-- The slot of a request as its write left it (R48, R49). -/
def requested (k : Nat) (c : Word) (s : State) : State := setSlot k { stageSlot s k with ctl := c } s

theorem stageSlot_requested (k j : Nat) (c : Word) (s : State) :
    stageSlot (requested k c s) j = if j = k then { stageSlot s k with ctl := c } else stageSlot s j := stageSlot_setSlot ..

/-- A refused request: the slot is done at once (R50). -/
def refusedStage (k : Nat) (c : Word) (code : Nat) (s : State) : State :=
  alert 3 (setSlot k { stageSlot s k with ctl := c, stat := stageStat (fld c 16 32) code 2, done := s.now } (requested k c s))

/-- The reserved fields of SRC and CTL that a request must leave 0 (R50). -/
abbrev StageReserved (src c : Word) : Prop := fld src 32 32 ≠ 0 ∨ fld src 0 6 ≠ 0 ∨ fld c 48 16 ≠ 0 ∨ fld c 13 3 ≠ 0

theorem takeStage_tooLong {k : Nat} {c : Word} {comb : List CombEntry} {s : State} (h : 2048 < fld c 0 12) :
    takeStage k comb (requested k c s) = refusedStage k c cDimLimit s := by
  simp only [takeStage, stageSlot_requested, h, ↓reduceIte]
  rfl

theorem takeStage_reserved {k : Nat} {c : Word} {comb : List CombEntry} {s : State} (h : ¬ 2048 < fld c 0 12)
    (hr : StageReserved (stageSlot s k).src c) : takeStage k comb (requested k c s) = refusedStage k c cReserved s := by
  simp only [takeStage, stageSlot_requested, h, hr, ↓reduceIte]
  rfl

/-- The units that LEN asks for, in bytes (R49). -/
def stageLen (c : Word) : Nat := (if fld c 0 12 = 0 then 2048 else fld c 0 12) * 64

/-- A started copy: its slot, and its place in the order taken (R50). -/
def startedStage (k : Nat) (r : StageSlot) (s : State) : State :=
  { setSlot k r s with hp := { (setSlot k r s).hp with stageQ := s.hp.stageQ ++ [k] } }

theorem takeStage_started {k : Nat} {c : Word} {comb : List CombEntry} {s : State} (h : ¬ 2048 < fld c 0 12)
    (hr : ¬ StageReserved (stageSlot s k).src c) : ∃ r : StageSlot, takeStage k comb (requested k c s) = startedStage k r (requested k c s) ∧
      r.ctl = c ∧ r.stat = stageStat (fld c 16 32) 0 1 ∧ r.snap = swSlice s comb (fld (stageSlot s k).src 0 32) (stageLen c) ∧
      r.len = stageLen c := by
  refine ⟨_, by simp only [takeStage, stageSlot_requested, h, hr, ↓reduceIte]; rfl, rfl, rfl, rfl, rfl⟩

theorem startedStage_slot (k j : Nat) (r : StageSlot) (c : Word) (s : State) :
    stageSlot (startedStage k r (requested k c s)) j = if j = k then r else stageSlot s j := by
  refine (stageSlot_setSlot k j r (requested k c s)).trans ?_
  split_ifs with h
  · rfl
  · rw [stageSlot_requested, if_neg h]

theorem refusedStage_slot (k j : Nat) (c : Word) (code : Nat) (s : State) : stageSlot (refusedStage k c code s) j =
    if j = k then { stageSlot s k with ctl := c, stat := stageStat (fld c 16 32) code 2, done := s.now } else stageSlot s j := by
  refine (stageSlot_setSlot ..).trans ?_
  split_ifs with h
  · rfl
  · rw [stageSlot_requested, if_neg h]

theorem refusedStage_parts (k : Nat) (c : Word) (code : Nat) (s : State) :
    (stageSlot (refusedStage k c code s) k).ctl = c ∧ (refusedStage k c code s).mem = s.mem ∧ Only [.hp] s (refusedStage k c code s) ∧
      (∀ j, j ≠ k → stageSlot (refusedStage k c code s) j = stageSlot s j) := by
  refine ⟨by rw [refusedStage_slot, if_pos rfl], rfl, ?_, fun j hj => by rw [refusedStage_slot, if_neg hj]⟩
  exact ((setSlot_only _ _ s).trans (setSlot_only _ _ _)).trans (alert_only 3 _)

/-! ### Struck bytes -/

/-- A word of DRAM is uncorrectable. -/
def dramUe (s : State) (word : Nat) : Bool := s.dm.damage.any (fun d => d.mem == .dram && d.ue && d.word == word)

theorem dramUe_addDamage_one (w word : Nat) (s : State) : dramUe (addDamage .dram [⟨0, w, true⟩] s) word = (dramUe s word || w == word) := by
  rw [Bool.eq_iff_iff]
  simp only [dramUe, addDamage, List.foldl_cons, List.foldl_nil, List.any_append, List.any_filter, List.any_cons, List.any_nil, Bool.or_false,
    Bool.or_eq_true, List.any_eq_true, Bool.and_eq_true, beq_iff_eq, Bool.not_eq_true', Bool.and_eq_false_imp]
  constructor
  · rintro (⟨d, hd, -, hdram⟩ | ⟨-, hw⟩)
    · exact .inl ⟨d, hd, hdram⟩
    · exact .inr hw
  · rintro (⟨d, hd, hdram⟩ | hw)
    · by_cases hw : w = word
      · exact .inr ⟨⟨trivial, trivial⟩, hw⟩
      · refine .inl ⟨d, hd, fun _ => ?_, hdram⟩
        simp [hdram.2, Ne.symm hw]
    · exact .inr ⟨⟨trivial, trivial⟩, hw⟩

theorem dramUe_addDamage (ws : List Nat) (word : Nat) (s : State) :
    dramUe (addDamage .dram (ws.map (⟨0, ·, true⟩)) s) word = (dramUe s word || ws.contains word) := by
  induction ws generalizing s with
  | nil => simp [addDamage]
  | cons w ws ih =>
    have hstep : addDamage .dram ((w :: ws).map (⟨0, ·, true⟩)) s = addDamage .dram (ws.map (⟨0, ·, true⟩)) (addDamage .dram [⟨0, w, true⟩] s) := rfl
    rw [hstep, ih, dramUe_addDamage_one, List.contains_cons, Bool.or_assoc, Bool.beq_comm]

/-- The words that errors strike in a copy of `n` bytes from window address `a` (R53). -/
def errStrikes (s : State) (a n : Nat) (errs : List Span) (word : Nat) : Bool :=
  errs.any (fun e => (List.range (min e.len (n - e.first))).any (fun i => backed s (a + (e.first + i)) && swDev s (a + (e.first + i)) / 64 == word))

theorem dramUe_strike (a n : Nat) (errs : List Span) (s : State) (word : Nat) :
    dramUe (strike a n errs s) word = (dramUe s word || errStrikes s a n errs word) := by
  unfold strike
  extract_lets bytes words
  rw [dramUe_addDamage]
  congr 1
  rw [Bool.eq_iff_iff]
  simp only [words, bytes, errStrikes, List.contains_iff_mem, List.mem_dedup, List.mem_map, List.mem_filter, List.mem_flatMap, List.any_eq_true,
    Bool.and_eq_true, beq_iff_eq]
  constructor
  · rintro ⟨o, ⟨⟨e, he, i, hi, rfl⟩, hb⟩, hw⟩
    exact ⟨e, he, i, hi, hb, hw⟩
  · rintro ⟨e, he, i, hi, hb, hw⟩
    exact ⟨_, ⟨⟨e, he, i, hi, rfl⟩, hb⟩, hw⟩

theorem mem_lostBytes {s : State} {a n o : Nat} : o ∈ lostBytes s a n ↔ o < n ∧ (backed s (a + o) && dramUe s (swDev s (a + o) / 64)) = true := by
  have hbad (word : Nat) : ((s.dm.damage.filter (fun d => d.mem == .dram && d.ue)).map (·.word)).contains word = dramUe s word := by
    rw [Bool.eq_iff_iff]
    simp [dramUe, and_assoc]
  simp only [lostBytes]
  split_ifs with hnone
  · have hfree (word : Nat) : dramUe s word = false := by rw [← hbad, List.isEmpty_iff.1 hnone]; rfl
    simp [hfree]
  · simp only [List.mem_filter, List.mem_range, hbad]

/-! ### Completions -/

theorem strike_only (a n : Nat) (errs : List Span) (s : State) : Only [.dm] s (strike a n errs s) := addDamage_only _ _ s

theorem addDamage_regions (m : MemKind) (hits : List ScrubHit) (s : State) : (addDamage m hits s).dm.regions = s.dm.regions := by
  unfold addDamage
  induction hits generalizing s with
  | nil => rfl
  | cons h hits ih => exact (ih _).trans rfl

theorem serveBlock_met (flush : List Nat) (blk : Nat) {s : State} (h : s.hp.comb = []) : DamageMet s (serveBlock flush blk s) := by
  simp only [serveBlock, h, List.find?_nil]
  exact .ite (readCheck_met ..) (.refl s)

theorem serveBlocks_met {α : Type} (flush : List Nat) (blk : α → Nat) (l : List α) {s : State} (h : s.hp.comb = []) :
    DamageMet s (l.foldl (fun s x => serveBlock flush (blk x) s) s) := by
  induction l generalizing s with
  | nil => exact .refl s
  | cons x l ih =>
    have hx := serveBlock_met flush (blk x) h
    exact hx.trans (ih (by rw [hx.hp]; exact h))

theorem serveBlocks_undamaged {α : Type} (flush : List Nat) (blk : α → Nat) (l : List α) {s : State} (h : s.hp.comb = []) (hd : s.dm.damage = []) :
    l.foldl (fun s x => serveBlock flush (blk x) s) s = s := by
  have hone (x : α) : serveBlock flush (blk x) s = s := by simp [serveBlock, h, readCheck_undamaged hd]
  induction l with
  | nil => rfl
  | cons x l ih => rw [List.foldl_cons, hone, ih]

/-- A copy's blocks have been read, the errors that strike it found (R53, R342). -/
def copyServed (k : Nat) (errs : List Span) (s : State) : State :=
  let r := stageSlot s k
  let a := fld r.src 0 32
  (List.range ((a + r.len + 1023) / 1024 - a / 1024)).foldl (fun s i => serveBlock r.flush (a / 1024 + i) s) (strike a r.len errs s)

/-- A copy that is served and whose lost bytes are known completes (R52). -/
def copyEnded (k : Nat) (lost : List Nat) (s : State) : State :=
  let r := stageSlot s k
  let s := heal .aperture 0 (stageBuf k) r.len
    (setAp s (Memory.blit s.mem.ap (stageBuf k) r.len (r.snap.filter (fun c => ¬ lost.contains c.1))))
  let s := { s with hp := { s.hp with stageQ := s.hp.stageQ.tail } }
  alert 3 (setSlot k { r with stat := stageStat (fld r.stat 32 32) (if ¬ lost.isEmpty ∨ r.hurt then cInputLost else 0) 2, done := s.now,
                              snap := [], flush := [] } s)

theorem stageDone_other {k : Nat} {errs : List Span} {s : State} (h : s.hp.stageQ.head? ≠ some k) : stageDone k errs s = s := by
  simp [stageDone, h]

/-- The offsets of the bytes that a completion finds lost (R53). -/
def copyLost (k : Nat) (errs : List Span) (s : State) : List Nat :=
  lostBytes (copyServed k errs s) (fld (stageSlot s k).src 0 32) (stageSlot s k).len

/-- What a served copy keeps, no entry of the combining buffer waiting. -/
structure Served (s t : State) : Prop where
  hp : SameButAlerts s t
  mem : t.mem = s.mem
  now : t.now = s.now
  regions : t.dm.regions = s.dm.regions

theorem copyServed_served (k : Nat) (errs : List Span) {s : State} (h : s.hp.comb = []) : Served s (copyServed k errs s) := by
  have hstrike := strike_only (fld (stageSlot s k).src 0 32) (stageSlot s k).len errs s
  have hhp := hstrike.same .hp (by simp)
  have hmet : DamageMet (strike (fld (stageSlot s k).src 0 32) (stageSlot s k).len errs s) (copyServed k errs s) :=
    serveBlocks_met _ _ _ (by rw [hhp]; exact h)
  refine ⟨?_, (hmet.only.same .mem (by simp)).trans (hstrike.same .mem (by simp)),
    (hmet.only.same .now (by simp)).trans (hstrike.same .now (by simp)), ?_⟩
  · have halerts := hmet.hp
    rwa [SameButAlerts, hhp] at halerts
  · rw [hmet.dm]
    exact addDamage_regions ..

theorem copyServed_undamaged (k : Nat) {s : State} (h : s.hp.comb = []) (hd : s.dm.damage = []) : copyServed k [] s = s :=
  serveBlocks_undamaged _ _ _ h hd

theorem dramUe_copyServed (k : Nat) (errs : List Span) {s : State} (h : s.hp.comb = []) (word : Nat) : dramUe (copyServed k errs s) word =
    (dramUe s word || errStrikes s (fld (stageSlot s k).src 0 32) (stageSlot s k).len errs word) := by
  rw [← dramUe_strike]
  have hhp := (strike_only (fld (stageSlot s k).src 0 32) (stageSlot s k).len errs s).same .hp (by simp)
  have hmet : DamageMet (strike (fld (stageSlot s k).src 0 32) (stageSlot s k).len errs s) (copyServed k errs s) :=
    serveBlocks_met _ _ _ (by rw [hhp]; exact h)
  rw [dramUe, dramUe, hmet.dm]

theorem Served.stageSlot_eq {s t : State} (h : Served s t) (k : Nat) : stageSlot t k = stageSlot s k := by
  rw [stageSlot, h.hp]
  rfl

theorem Served.backed_eq {s t : State} (h : Served s t) (a : Nat) : backed t a = backed s a := by
  rw [backed, swLimit, h.hp]
  rfl

theorem Served.swDev_eq {s t : State} (h : Served s t) (a : Nat) : swDev t a = swDev s a := by
  have hbase : regionBase t 1 = regionBase s 1 := by unfold regionBase; rw [h.regions]
  unfold swDev
  rw [hbase]

theorem stageDone_oldest {k : Nat} {errs : List Span} {s : State} (h : s.hp.stageQ.head? = some k) (hcomb : s.hp.comb = []) :
    stageDone k errs s = copyEnded k (copyLost k errs s) (copyServed k errs s) := by
  have hlost : copyLost k errs s =
      lostBytes (copyServed k errs s) (fld (stageSlot s k).src 0 32) (stageSlot (copyServed k errs s) k).len := by
    rw [(copyServed_served k errs hcomb).stageSlot_eq k]
    rfl
  rw [hlost]
  simp only [stageDone, h, ne_eq, not_true_eq_false, ↓reduceIte]
  rfl

theorem copyEnded_slot (k : Nat) (lost : List Nat) (s : State) : stageSlot (copyEnded k lost s) k =
    { stageSlot s k with stat := stageStat (fld (stageSlot s k).stat 32 32) (if ¬ lost.isEmpty ∨ (stageSlot s k).hurt then cInputLost else 0) 2,
                         done := s.now, snap := [], flush := [] } := (stageSlot_setSlot ..).trans (if_pos rfl)

theorem copyEnded_mem (k : Nat) (lost : List Nat) (s : State) : (copyEnded k lost s).mem = { s.mem with
    ap := Memory.blit s.mem.ap (stageBuf k) (stageSlot s k).len ((stageSlot s k).snap.filter (fun c => ¬ lost.contains c.1)) } := rfl

theorem copyEnded_only (k : Nat) (lost : List Nat) (s : State) : Only [.hp, .mem, .dm] s (copyEnded k lost s) := fun p => by
  cases p <;> simp [Part.same, copyEnded, setSlot]

section
variable {s : State} {k : Nat} {w : RegWr} {c : Word} (hl : Live s) (hk : locked s = true) (hm : s.pw.mode = modeRun)
  (h56 : k < 56) (hsrc : w.src = .host)
  (hgo : bitOf (w.data &&& enMask w.be) 12 = true) (hb : slotBusy (stageSlot s k) = false)
  (hc : c = putBits (stageSlot s k).ctl w.data (~~~ maskOf 12 1) (enMask w.be))
include hl hk hm h56 hsrc hgo hb hc

theorem exec_stageRequest_taken : exec (.stageRequest k w) s = .next (takeStage k s.hp.comb (requested k c s)) := by
  rw [exec_stageRequest hl hk h56 hsrc, stageCtlWrite_taken hgo hm hb, hc]
  rfl

/-- A request is refused with its code, or its copy starts (R49, R50). -/
theorem stageRequest_answer : Does (.stageRequest k w) s (fun t => (stageSlot t k).ctl = c ∧ t.mem = s.mem ∧ Only [.hp] s t ∧
    (∀ j, j ≠ k → stageSlot t j = stageSlot s j) ∧
    (if 2048 < fld c 0 12 then (stageSlot t k).stat = stageStat (fld c 16 32) cDimLimit 2 ∧ bitOf t.hp.alertStat 3 = true
    else if StageReserved (stageSlot s k).src c then (stageSlot t k).stat = stageStat (fld c 16 32) cReserved 2 ∧ bitOf t.hp.alertStat 3 = true
    else (stageSlot t k).stat = stageStat (fld c 16 32) 0 1 ∧
      (stageSlot t k).snap = swSlice s s.hp.comb (fld (stageSlot s k).src 0 32) (stageSlot t k).len ∧ t.hp.stageQ = s.hp.stageQ ++ [k] ∧
      (stageSlot t k).len = stageLen c)) := by
  have hexec := exec_stageRequest_taken hl hk hm h56 hsrc hgo hb hc
  have hrefused (code : Nat) : (stageSlot (refusedStage k c code s) k).stat = stageStat (fld c 16 32) code 2 ∧
      bitOf (refusedStage k c code s).hp.alertStat 3 = true :=
    ⟨by rw [refusedStage_slot, if_pos rfl], bitOf_alert (by decide) _⟩
  by_cases hlen : 2048 < fld c 0 12
  · obtain ⟨hctl, hmem, honly, hother⟩ := refusedStage_parts k c cDimLimit s
    exact ⟨_, hexec.trans (congrArg _ (takeStage_tooLong hlen)), hctl, hmem, honly, hother, by rw [if_pos hlen]; exact hrefused _⟩
  · by_cases hres : StageReserved (stageSlot s k).src c
    · obtain ⟨hctl, hmem, honly, hother⟩ := refusedStage_parts k c cReserved s
      exact ⟨_, hexec.trans (congrArg _ (takeStage_reserved hlen hres)), hctl, hmem, honly, hother,
        by rw [if_neg hlen, if_pos hres]; exact hrefused _⟩
    · obtain ⟨r, htake, hctl, hstat, hsnap, hrlen⟩ := takeStage_started (comb := s.hp.comb) hlen hres
      have hself := startedStage_slot k k r c s
      rw [if_pos rfl] at hself
      refine ⟨_, hexec.trans (congrArg _ htake), by rw [hself, hctl], rfl, setHp_only _ s, fun j hj => by rw [startedStage_slot, if_neg hj], ?_⟩
      rw [if_neg hlen, if_neg hres, hself]
      exact ⟨hstat, by rw [hsnap, hrlen], rfl, hrlen⟩

end

section
variable {s : State} {k : Nat} {errs : List Span} {lost : Nat → Bool} (hhead : s.hp.stageQ.head? = some k) (hcomb : s.hp.comb = [])
  (hlost : ∀ o, lost o = (backed s (fld (stageSlot s k).src 0 32 + o) && (dramUe s (swDev s (fld (stageSlot s k).src 0 32 + o) / 64) ||
    errStrikes s (fld (stageSlot s k).src 0 32) (stageSlot s k).len errs (swDev s (fld (stageSlot s k).src 0 32 + o) / 64))))
include hcomb hlost

theorem mem_copyLost (o : Nat) : o ∈ copyLost k errs s ↔ o < (stageSlot s k).len ∧ lost o = true := by
  have hs := copyServed_served k errs hcomb
  rw [copyLost, mem_lostBytes, hs.backed_eq, hs.swDev_eq, dramUe_copyServed k errs hcomb, hlost]

theorem copyLost_ne_nil : ¬ (copyLost k errs s).isEmpty ↔ (List.range (stageSlot s k).len).any lost = true := by
  rw [List.isEmpty_iff, List.any_eq_true]
  constructor
  · intro h
    obtain ⟨o, ho⟩ := List.exists_mem_of_ne_nil _ h
    obtain ⟨hlt, hl⟩ := (mem_copyLost hcomb hlost o).1 ho
    exact ⟨o, List.mem_range.2 hlt, hl⟩
  · rintro ⟨o, ho, hl⟩
    exact List.ne_nil_of_mem ((mem_copyLost hcomb hlost o).2 ⟨List.mem_range.1 ho, hl⟩)

/-- What a copy lays into its buffer: zero for a lost byte. -/
theorem read_copyKept {o : Nat} (ho : o < (stageSlot s k).len) (m : Memory) :
    Memory.read (m.filter (fun c => ¬ (copyLost k errs s).contains c.1)) o = if lost o then 0 else Memory.read m o := by
  have hin : (copyLost k errs s).contains o = lost o := by
    rw [Bool.eq_iff_iff, List.contains_iff_mem, mem_copyLost hcomb hlost]
    exact and_iff_right ho
  rw [Memory.read_filter (fun x => decide (¬ (copyLost k errs s).contains x = true)), hin]
  cases lost o <;> rfl

include hhead

/-- The oldest copy completes: its slot, its buffer and what else it changes (R52, R53). -/
theorem stageDone_parts : let r := stageSlot s k
    let t := stageDone k errs s
    (stageSlot t k).stat = stageStat (fld r.stat 32 32) (if (List.range r.len).any lost || r.hurt then cInputLost else 0) 2 ∧
      (stageSlot t k).done = s.now ∧ bitOf t.hp.alertStat 3 = true ∧ t.hp.stageQ = s.hp.stageQ.tail ∧
      (∀ o, o < r.len → Memory.read t.mem.ap (stageBuf k + o) = (if lost o then 0 else Memory.read r.snap o)) ∧
      SameBut s.mem.ap t.mem.ap (stageBuf k) r.len ∧ t.mem = { s.mem with ap := t.mem.ap } ∧
      (s.dm.damage = [] → errs = [] → Only [.hp, .mem, .dm] s t) := by
  intro r t
  have hs := copyServed_served k errs hcomb
  have hslot : stageSlot (copyServed k errs s) k = r := hs.stageSlot_eq k
  have ht : t = copyEnded k (copyLost k errs s) (copyServed k errs s) := stageDone_oldest hhead hcomb
  have hmem : t.mem = { s.mem with
      ap := Memory.blit s.mem.ap (stageBuf k) r.len (r.snap.filter (fun c => ¬ (copyLost k errs s).contains c.1)) } := by
    rw [ht, copyEnded_mem, hslot, hs.mem]
  refine ⟨?_, ?_, ?_, ?_, fun o ho => ?_, fun o ho => ?_, ?_, fun hd he => ?_⟩
  · rw [ht, copyEnded_slot, hslot]
    simp only [copyLost_ne_nil hcomb hlost, Bool.or_eq_true, r]
  · rw [ht, copyEnded_slot]
    exact hs.now
  · rw [ht]
    exact bitOf_alert (by decide) _
  · rw [ht]
    exact congrArg (·.stageQ.tail) hs.hp
  · rw [hmem, Memory.read_blit, if_pos (by omega), Nat.add_sub_cancel_left]
    exact read_copyKept hcomb hlost ho r.snap
  · rw [hmem, Memory.read_blit, if_neg ho]
  · rw [hmem]
  · subst he
    rw [ht, copyServed_undamaged k hcomb hd]
    exact copyEnded_only k _ s

end

/-- Settles O10: a request by the three outcomes of `takeStage`, a completion by what a served copy keeps and the bytes it finds lost. -/
theorem stageRequests : Obligations.StageRequests := by
  intro s k w errs c hl hk hm h56 hsrc
  refine ⟨fun hgo hb => ?_, fun hgo hb hc => stageRequest_answer hl hk hm h56 hsrc hgo hb hc, fun h => ?_, fun r lost hhead hcomb hr hlost => ?_⟩
  · rw [exec_stageRequest hl hk h56 hsrc, stageCtlWrite_busy hgo hb]
  · exact (run_live hl _).trans (congrArg _ (stageDone_other h))
  · subst hr
    exact ⟨_, run_live hl _, stageDone_parts hhead hcomb hlost⟩

end Sys2Proof.Machine
end

section
/-! PROOFS. Records of the queues (R61, R62, R64, R87): what a change of one record, a move of a queue and the checks of HOLD set and leave alone. -/

namespace Sys2Proof.Machine

/-! ### One record -/

theorem tabSet_tabSet {α : Type} (t : List (Nat × α)) (k : Nat) (v w : α) : tabSet (tabSet t k v) k w = tabSet t k w := by
  induction t with
  | nil => simp [tabSet]
  | cons e r ih =>
    obtain ⟨i, x⟩ := e
    by_cases hi : i = k
    · simp [tabSet, hi]
    · by_cases hlt : k < i
      · simp [tabSet, hi, hlt]
      · simp [tabSet, hi, hlt, ih]

theorem setQueue_setQueue (q : Nat) (r r' : Queue) (s : State) : setQueue q r (setQueue q r' s) = setQueue q r s := by
  simp only [setQueue, tabSet_tabSet]

theorem queue?_setQueue_self (q : Nat) (r : Queue) (s : State) : queue? (setQueue q r s) q = some r := by simp [queue?_setQueue]

theorem queue?_setQueue_ne {q p : Nat} (h : p ≠ q) (r : Queue) (s : State) : queue? (setQueue q r s) p = queue? s p := by simp [queue?_setQueue, h]

theorem modQueue_of_some {q : Nat} {r : Queue} {s : State} (h : queue? s q = some r) (f : Queue → Queue) :
    modQueue q f s = setQueue q (f r) s := by simp [modQueue, h]

theorem modQueue_of_none {q : Nat} {s : State} (h : queue? s q = none) (f : Queue → Queue) : modQueue q f s = s := by simp [modQueue, h]

theorem modQueue_setQueue (q : Nat) (r : Queue) (f : Queue → Queue) (s : State) : modQueue q f (setQueue q r s) = setQueue q (f r) s := by
  rw [modQueue_of_some (queue?_setQueue_self q r s), setQueue_setQueue]

theorem queue?_modQueue (q p : Nat) (f : Queue → Queue) (s : State) :
    queue? (modQueue q f s) p = if p = q then (queue? s q).map f else queue? s p := by
  cases h : queue? s q with
  | some r => rw [modQueue_of_some h, queue?_setQueue]; rfl
  | none =>
    rw [modQueue_of_none h]
    split
    next e => rw [e, h]; rfl
    next => rfl

/-- With its record replaced a queue has that record, and nothing else differs. -/
theorem setQueue_parts (q : Nat) (r : Queue) (s : State) : queue? (setQueue q r s) q = some r ∧
    (∀ p, p ≠ q → queue? (setQueue q r s) p = queue? s p) ∧ (setQueue q r s).dq = { s.dq with queues := (setQueue q r s).dq.queues } ∧
      Only [.dq] s (setQueue q r s) :=
  ⟨queue?_setQueue_self q r s, fun _ hp => queue?_setQueue_ne hp r s, rfl, setQueue_only q r s⟩

/-! ### Dechel apart from its queues -/

/-- Dechel apart from the records of the queues and the FIFO of their events. -/
def SameButQueues (s t : State) : Prop :=
  t.dq = { s.dq with queues := t.dq.queues, qevt := t.dq.qevt, qevtLost := t.dq.qevtLost }

theorem SameButQueues.of_dq {s t : State} (h : t.dq = s.dq) : SameButQueues s t := by rw [SameButQueues, h]

theorem SameButQueues.trans {s t u : State} (h : SameButQueues s t) (k : SameButQueues t u) : SameButQueues s u :=
  Eq.trans k (congrArg (fun d : Dechel => { d with queues := u.dq.queues, qevt := u.dq.qevt, qevtLost := u.dq.qevtLost }) h)

theorem ring_congr {s t : State} (h : t.dq.rings = s.dq.rings) (n : Nat) : ring t n = ring s n := by rw [ring, ring, h]

theorem SameButQueues.ring_eq {s t : State} (h : SameButQueues s t) (n : Nat) : ring t n = ring s n :=
  ring_congr (congrArg (·.rings) h) n

theorem SameButQueues.reqTag_eq {s t : State} (h : SameButQueues s t) : reqTag t = reqTag s :=
  reqTag_congr (congrArg (·.taken) h)

theorem setQueue_sameButQueues (q : Nat) (r : Queue) (s : State) : SameButQueues s (setQueue q r s) := rfl

theorem modQueue_sameButQueues (q : Nat) (f : Queue → Queue) (s : State) : SameButQueues s (modQueue q f s) := by
  unfold modQueue
  split <;> rfl

theorem modQueue_only (q : Nat) (f : Queue → Queue) (s : State) : Only [.dq] s (modQueue q f s) := by
  unfold modQueue
  split
  · exact setQueue_only _ _ _
  · exact Only.refl _ _

theorem pushQevt_sameButQueues (w : Word) (s : State) : SameButQueues s (pushQevt w s) := by
  unfold pushQevt
  split <;> rfl

@[simp] theorem barker_dq (event sev : Nat) (r : EventRef) (s : State) : (barker event sev r s).dq = s.dq := by
  unfold barker
  split <;> rfl

/-! ### Moves -/

/-- The record of a queue that has moved to a state (R62, R88). -/
def Queue.movedTo (st : QState) (now : BitVec 64) (r : Queue) : Queue :=
  { r with st := st, holdSince := if st = .hold then now else r.holdSince }

theorem moveQueue_unmoved {q : Nat} {st : QState} {s : State} {r : Queue} (hq : queue? s q = some r) (h : r.st = st) : moveQueue q st s = s := by
  simp [moveQueue, hq, h]

theorem moveQueue_none {q : Nat} {s : State} (h : queue? s q = none) (st : QState) : moveQueue q st s = s := by simp [moveQueue, h]

theorem moveQueue_moved {q : Nat} {st : QState} {s : State} {r : Queue} (hq : queue? s q = some r) (h : r.st ≠ st) (hst : st ≠ .stalled) :
    moveQueue q st s = alert 1 (pushQevt (qevtWord q st) (setQueue q (r.movedTo st s.now) s)) := by
  simp [moveQueue, hq, h, hst, Queue.movedTo]

/-- A queue that enters STALLED logs a Barker entry (R88). -/
theorem moveQueue_stalled {q : Nat} {s : State} {r : Queue} (hq : queue? s q = some r) (h : r.st ≠ .stalled) :
    moveQueue q .stalled s = barker 0x0101 2 { status := cStalled, part := r.part, queue := q }
      (alert 1 (pushQevt (qevtWord q .stalled) (setQueue q (r.movedTo .stalled s.now) s))) := by
  simp [moveQueue, hq, h, Queue.movedTo]

theorem queue?_moveQueue_moved {q : Nat} {st : QState} {s : State} {r : Queue} (hq : queue? s q = some r) (h : r.st ≠ st) (hst : st ≠ .stalled)
    (p : Nat) : queue? (moveQueue q st s) p = if p = q then some (r.movedTo st s.now) else queue? s p := by
  rw [moveQueue_moved hq h hst, queue?_congr (t := alert 1 _) (pushQevt_queues _ _), queue?_setQueue]

/-- What a move leaves of a queue's record: all but its state and the time of entry into HOLD. -/
theorem moveQueue_cases {q : Nat} {st : QState} (hst : st ≠ .stalled) (s : State) : moveQueue q st s = s ∨
    ∃ r, queue? s q = some r ∧ r.st ≠ st ∧
      moveQueue q st s = alert 1 (pushQevt (qevtWord q st) (setQueue q (r.movedTo st s.now) s)) := by
  cases hq : queue? s q with
  | none => exact .inl (moveQueue_none hq st)
  | some r =>
    by_cases h : r.st = st
    · exact .inl (moveQueue_unmoved hq h)
    · exact .inr ⟨r, rfl, h, moveQueue_moved hq h hst⟩

theorem qstate_moveQueue {q : Nat} {st : QState} {s : State} {r : Queue} (hq : queue? s q = some r) (hst : st ≠ .stalled) :
    qstate (moveQueue q st s) q = st := by
  by_cases h : r.st = st
  · rw [moveQueue_unmoved hq h, qstate_of_queue hq, h]
  · rw [qstate_of_queue ((queue?_moveQueue_moved hq h hst q).trans (if_pos rfl))]
    rfl

/-! ### Steps of one queue -/

/-- A step of queue `q`: no other queue's record differs, nothing of Dechel but queues and events, and outside it the named parts alone. -/
structure StepOf (q : Nat) (ps : List Part) (s t : State) : Prop where
  others : ∀ p, p ≠ q → queue? t p = queue? s p
  dq : SameButQueues s t
  only : Only ps s t

theorem StepOf.mono {q : Nat} {ps qs : List Part} {s t : State} (h : StepOf q ps s t) (hs : ∀ p ∈ ps, p ∈ qs) : StepOf q qs s t :=
  ⟨h.others, h.dq, h.only.mono hs⟩

theorem StepOf.trans {q : Nat} {ps : List Part} {s t u : State} (h : StepOf q ps s t) (k : StepOf q ps t u) : StepOf q ps s u :=
  ⟨fun p hp => (k.others p hp).trans (h.others p hp), h.dq.trans k.dq, h.only.trans k.only⟩

/-- What leaves Dechel alone is a step of any queue. -/
theorem StepOf.of_only {q : Nat} {ps : List Part} {s t : State} (h : Only ps s t) (hdq : Part.dq ∉ ps) : StepOf q ps s t :=
  have e : t.dq = s.dq := h.same .dq hdq
  ⟨fun p _ => queue?_congr (congrArg _ e) p, .of_dq e, h⟩

theorem StepOf.refl (q : Nat) (s : State) : StepOf q [] s s := .of_only (.refl _ s) (by simp)

theorem modQueue_stepOf (q : Nat) (f : Queue → Queue) (s : State) : StepOf q [.dq] s (modQueue q f s) :=
  ⟨fun p hp => by rw [queue?_modQueue, if_neg hp], modQueue_sameButQueues q f s, modQueue_only q f s⟩

theorem moveQueue_stepOf {q : Nat} {st : QState} (hst : st ≠ .stalled) (s : State) : StepOf q [.hp, .dq] s (moveQueue q st s) := by
  rcases moveQueue_cases (q := q) hst s with h | ⟨r, hq, hne, h⟩
  · rw [h]
    exact (StepOf.refl q s).mono (by simp)
  · refine ⟨fun p hp => by rw [queue?_moveQueue_moved hq hne hst, if_neg hp], ?_, ?_⟩ <;> rw [h]
    · exact ((setQueue_sameButQueues _ _ s).trans (pushQevt_sameButQueues _ _)).trans (.of_dq rfl)
    · exact (((setQueue_only _ _ s).trans (pushQevt_only _ _)).mono (by simp)).trans ((alert_only 1 _).mono (by simp))

/-! ### Progress of the queues -/

/-- What a queue has taken, been told and sent: its record apart from its state and the output that waits. -/
def Queue.progress (r : Queue) : Queue := { r with st := .closed, holdSince := 0, items := [] }

/-- Queues change their states and waiting output alone, nothing of Dechel but queues and events differs, and outside it the named parts alone. -/
structure KeepsProgress (ps : List Part) (s t : State) : Prop where
  queues : ∀ p, (queue? t p).map Queue.progress = (queue? s p).map Queue.progress
  dq : SameButQueues s t
  only : Only ps s t

theorem KeepsProgress.mono {ps qs : List Part} {s t : State} (h : KeepsProgress ps s t) (hs : ∀ p ∈ ps, p ∈ qs) : KeepsProgress qs s t :=
  ⟨h.queues, h.dq, h.only.mono hs⟩

theorem KeepsProgress.trans {ps : List Part} {s t u : State} (h : KeepsProgress ps s t) (k : KeepsProgress ps t u) : KeepsProgress ps s u :=
  ⟨fun p => (k.queues p).trans (h.queues p), h.dq.trans k.dq, h.only.trans k.only⟩

theorem KeepsProgress.of_only {ps : List Part} {s t : State} (h : Only ps s t) (hdq : Part.dq ∉ ps) : KeepsProgress ps s t :=
  have e : t.dq = s.dq := h.same .dq hdq
  ⟨fun p => by rw [queue?_congr (congrArg _ e) p], .of_dq e, h⟩

theorem KeepsProgress.refl (s : State) : KeepsProgress [] s s := .of_only (.refl _ s) (by simp)

/-- A field of the record that is part of a queue's progress is kept. -/
theorem KeepsProgress.field {ps : List Part} {s t : State} (h : KeepsProgress ps s t) {α : Type} {f : Queue → α} (hf : ∀ r, f r.progress = f r) (p : Nat) :
    (queue? t p).map f = (queue? s p).map f := by
  have e := congrArg (Option.map f) (h.queues p)
  simpa only [Option.map_map, Function.comp_def, hf] using e

theorem KeepsProgress.foldl {α : Type} {ps : List Part} {g : State → α → State} (hg : ∀ s x, KeepsProgress ps s (g s x)) (l : List α) (s : State) :
    KeepsProgress ps s (l.foldl g s) :=
  List.foldlRecOn (motive := KeepsProgress ps s) _ _ ((KeepsProgress.refl s).mono (by simp)) (fun _ h x _ => h.trans (hg _ x))

theorem modQueue_keepsProgress (q : Nat) {f : Queue → Queue} (hf : ∀ r, (f r).progress = r.progress) (s : State) :
    KeepsProgress [.dq] s (modQueue q f s) := by
  refine ⟨fun p => ?_, modQueue_sameButQueues q f s, modQueue_only q f s⟩
  rw [queue?_modQueue]
  split
  next e => rw [e, Option.map_map]; exact Option.map_congr (fun r _ => hf r)
  next => rfl

theorem moveQueue_keepsProgress {q : Nat} {st : QState} (hst : st ≠ .stalled) (s : State) : KeepsProgress [.hp, .dq] s (moveQueue q st s) := by
  obtain ⟨_, hdq, honly⟩ := moveQueue_stepOf (q := q) hst s
  refine ⟨fun p => ?_, hdq, honly⟩
  rcases moveQueue_cases (q := q) hst s with h | ⟨r, hq, hne, _⟩
  · rw [h]
  · rw [queue?_moveQueue_moved hq hne hst]
    split
    next e => rw [e, hq]; rfl
    next => rfl

/-- A queue that returns to OPEN, or does not (R62), keeps its progress. -/
theorem unholdCheck_keepsProgress (q : Nat) (s : State) : KeepsProgress [.hp, .dq] s (unholdCheck q s) := by
  unfold unholdCheck
  split
  · exact (KeepsProgress.refl s).mono (by simp)
  · split
    · exact moveQueue_keepsProgress (by decide) s
    · exact (KeepsProgress.refl s).mono (by simp)

/-! ### Armings -/

theorem settleArms_cases (q : Nat) (s : State) : settleArms q s = s ∨
    ∃ d x f, (∀ r : Queue, ∃ items, f r = { r with items := items }) ∧ settleArms q s = setDoor d x (modQueue q f s) := by
  unfold settleArms
  split
  · exact .inl rfl
  · dsimp only
    split
    · exact .inl rfl
    · exact .inr ⟨_, _, _, fun r => ⟨_, rfl⟩, rfl⟩

theorem settleArms_stepOf (q : Nat) (s : State) : StepOf q [.dq, .sf] s (settleArms q s) := by
  rcases settleArms_cases q s with h | ⟨d, x, f, -, h⟩ <;> rw [h]
  · exact (StepOf.refl q s).mono (by simp)
  · exact ((modQueue_stepOf q f s).mono (by simp)).trans ((StepOf.of_only (setDoor_only d x _) (by simp)).mono (by simp))

theorem settleArms_keepsProgress (q : Nat) (s : State) : KeepsProgress [.dq, .sf] s (settleArms q s) := by
  rcases settleArms_cases q s with h | ⟨d, x, f, hf, h⟩ <;> rw [h]
  · exact (KeepsProgress.refl s).mono (by simp)
  · have hkeep (r : Queue) : (f r).progress = r.progress := by
      obtain ⟨items, e⟩ := hf r
      rw [e]
      rfl
    exact ((modQueue_keepsProgress q hkeep s).mono (by simp)).trans ((KeepsProgress.of_only (setDoor_only d x _) (by simp)).mono (by simp))

theorem qstate_eq_map (s : State) (q : Nat) : qstate s q = ((queue? s q).map (·.st)).getD .closed := by
  unfold qstate
  cases queue? s q <;> rfl

theorem qstate_settleArms (q p : Nat) (s : State) : qstate (settleArms q s) p = qstate s p := by
  rcases settleArms_cases q s with h | ⟨d, x, f, hf, h⟩ <;> rw [h]
  have hst (r : Queue) : (f r).st = r.st := by
    obtain ⟨items, e⟩ := hf r
    rw [e]
  have hdoor : queue? (setDoor d x (modQueue q f s)) p = queue? (modQueue q f s) p := rfl
  rw [qstate_eq_map, qstate_eq_map, hdoor, queue?_modQueue]
  split
  next e => simp [e, Function.comp_def, hst]
  next => rfl

end Sys2Proof.Machine
end

section
/-! PROOFS. Commands of a queue: NOP, FENCE and its completion (R75, R76, R78), and the fetch of the command at C (R73 to R76, R86). -/

namespace Sys2Proof.Machine

theorem pushItem_setQueue (q : Nat) (r : Queue) (i : OutItem) (s : State) :
    pushItem q i (setQueue q r s) = setQueue q { r with items := r.items ++ [i] } s := modQueue_setQueue q r _ s

/-! ### NOP and FENCE -/

theorem queue?_of_current {s : State} {q op : Nat} {r : Queue} {c : Cmd} (h : current s q op = some (r, c)) : queue? s q = some r := by
  unfold current at h
  split at h
  next => cases h
  next r' hq =>
    split at h
    next c' hc =>
      split at h
      · cases h; exact hq
      · cases h
    next => cases h

theorem doNop_current {s : State} {q : Nat} {r : Queue} {c : Cmd} (h : current s q 0 = some (r, c)) :
    doNop q s = setQueue q { r with cur := none } s := by
  rw [doNop, h]
  exact modQueue_of_some (queue?_of_current h) _

theorem doNop_idle {s : State} {q : Nat} (h : current s q 0 = none) : doNop q s = s := by simp [doNop, h]

theorem doFence_current {s : State} {q : Nat} {r : Queue} {c : Cmd} (h : current s q 2 = some (r, c)) :
    doFence q s = setQueue q { r with cur := none, items := r.items ++ [{ cmdItem c.seq cOk false with fence := true }] } s := by
  simp only [doFence, h, clearCur, modQueue_of_some (queue?_of_current h), pushItem_setQueue, cmdItem]

theorem doFence_idle {s : State} {q : Nat} (h : current s q 2 = none) : doFence q s = s := by simp [doFence, h]

/-- The first command's item of a queue, when it is a fence, becomes ready; any other stays as it is (R78). -/
theorem fenceComplete_first {s : State} {q : Nat} {r : Queue} {before after : List OutItem} {f : OutItem} (hq : queue? s q = some r)
    (hi : r.items = before ++ f :: after) (hb : before.all (fun i => !i.isCmd) = true) (hf : f.isCmd = true) :
    fenceComplete q s = setQueue q { r with items := before ++ { f with ready := f.fence || f.ready } :: after } s := by
  have hfind : r.items.findIdx? (fun i => i.isCmd) = some before.length := by
    have hnone : before.findIdx? (fun i => i.isCmd) = none := by simpa using hb
    simp [hi, List.findIdx?_append, hnone, List.findIdx?_cons, hf]
  have hready : (if f.fence then { f with ready := true } else f) = { f with ready := f.fence || f.ready } := by
    rcases f with ⟨_, _, _, _, _, _, _, fence⟩
    cases fence <;> rfl
  have hmodify (g : OutItem → OutItem) : (before ++ f :: after).modify before.length g = before ++ g f :: after :=
    List.modifyTailIdx_add _ 0 before (f :: after)
  rw [fenceComplete, modQueue_of_some hq, hfind]
  simp only [hi, hmodify, hready]

/-- Settles O20: each row replaces its queue's record, or changes nothing. -/
theorem simpleQueueCommands : Obligations.SimpleQueueCommands := by
  intro s q hl
  refine ⟨fun r c h => ⟨_, run_live hl _, ?nop⟩, fun r c h => ⟨_, run_live hl _, ?fence⟩, fun h => (run_live hl _).trans (congrArg _ (doNop_idle h)),
    fun h => (run_live hl _).trans (congrArg _ (doFence_idle h)), fun r before f after hq hi hb hf => ⟨_, run_live hl _, ?complete⟩⟩
  case nop => rw [doNop_current h]; exact setQueue_parts _ _ s
  case fence => rw [doFence_current h]; exact setQueue_parts _ _ s
  case complete => rw [fenceComplete_first hq hi hb hf]; exact setQueue_parts _ _ s

/-! ### Taking a command -/

/-- The record of a queue that has taken the command at C (R73). -/
def Queue.taken (r : Queue) : Queue := { r with c := r.c + 1, marks := r.marks.filter (fun m => !(seqLater (r.c + 1) m.1)), stopped := false }

/-- The one output item of a refused command, which of a PAGE is its page record (R78, R135). -/
def refusal (cseq : BitVec 32) (isPage : Bool) (code : Nat) : OutItem := if isPage then refusedItem cseq code else cmdItem cseq code true

theorem refuseCmd_setQueue (q : Nat) (seq : BitVec 32) (isPage : Bool) (code : Nat) (r : Queue) (s : State) :
    refuseCmd q seq isPage code (setQueue q r s) = setQueue q { r with items := r.items ++ [refusal seq isPage code] } s := by
  cases isPage <;> exact pushItem_setQueue _ _ _ _

section
variable {q : Nat} {r : Queue} {d : Bytes} {image : Option Bytes} {seq : BitVec 32} {start : BitVec 64} {attach : Option Bytes} {resv : Resv} {s : State}

theorem takeCmd_invalid (h : opValid r (descOp d) = false) : takeCmd q r ⟨d, image, seq, start, attach, resv⟩ s =
    setQueue q { r.taken with items := r.items ++ [refusal seq (descOp d == 1) cVersion] } s := by
  simp only [takeCmd, h, Bool.false_eq_true, not_false_eq_true, if_true, refuseCmd_setQueue, Queue.taken]

theorem takeCmd_reserved (h : opValid r (descOp d) = true) (hr : descReserved r d = true) : takeCmd q r ⟨d, image, seq, start, attach, resv⟩ s =
    setQueue q { r.taken with items := r.items ++ [refusal seq (descOp d == 1) cReserved] } s := by
  simp only [takeCmd, h, hr, not_true_eq_false, if_false, if_true, refuseCmd_setQueue, Queue.taken]

theorem takeCmd_current (h : opValid r (descOp d) = true) (hr : descReserved r d = false) : takeCmd q r ⟨d, image, seq, start, attach, resv⟩ s =
    setQueue q { r.taken with cur := some ⟨d, image, seq, start, attach, resv⟩ } s := by
  simp only [takeCmd, h, hr, not_true_eq_false, Bool.false_eq_true, if_false, modQueue_setQueue, Queue.taken]

end

/-! ### The fetch -/

theorem r2take_only (n : Nat) (s : State) : Only [.pp] s (r2take n s) := fun p => by cases p <;> simp [Part.same, r2take]

/-- A ring queue that takes commands, and whose doorbells say that the one at C is written (R71, R74, R86). -/
structure Fetches (s : State) (q : Nat) (r : Queue) : Prop where
  queue : queue? s q = some r
  rings : r.st.rings = true
  noRecord : nextRec r = none
  running : r.stopped = false
  free : r.cur = none
  door : r.door ≠ 3
  written : seqLater r.c r.t = false

/-- The table image that a command names (R314). -/
def imageAt (s : State) (d : Bytes) : Option Bytes :=
  if descOp d = 5 ∧ backedRange s (leAt d 0x10 8) 512 then some (swBytes s (leAt d 0x10 8) 512) else none

/-- A valid PAGE at a host door (R76). -/
def isHostPage (r : Queue) (d : Bytes) : Bool := descOp d == 1 && opValid r 1

/-- The reservation that a descriptor needs: that of a PAGE which no reserved bit refuses (R534). -/
def needOf (s : State) (r : Queue) (d : Bytes) : Resv := if isHostPage r d && !(descReserved r d) then resvOf s r 0 else Resv.none

/-- A PAGE is not taken in HOLD or STALLED, while its partition drains, or without room for its reservation (R86, R367, R534). -/
def pageWaits (s : State) (r : Queue) (d : Bytes) : Prop :=
  isHostPage r d = true ∧ (r.st ≠ .opened ∨ draining s r.part = true ∨ r2free s < (needOf s r d).total)

section
variable {s : State} {q : Nat} {r : Queue} (hf : Fetches s q r)
include hf

theorem Fetches.asks : ¬ (¬ r.st.rings = true ∨ r.stopped = true ∨ r.cur.isSome = true ∨ seqLater r.c r.t = true) := by
  simp [hf.rings, hf.running, hf.free, hf.written]

theorem commandFetch_missed (h : leAt (fetchDesc s r) 8 4 ≠ r.c.toNat ∨ leAt (fetchDesc s r) 2 2 ≠ q) : commandFetch q s =
    { setQueue q { r with stopped := true } s with
      dq := { (setQueue q { r with stopped := true } s).dq with seqMiss := satAdd s.dq.seqMiss 1 } } := by
  simp only [commandFetch, holdCheck_of_nextRec hf.queue hf.noRecord, hf.queue, if_neg hf.door, if_neg hf.asks]
  exact if_pos h

variable (hseq : leAt (fetchDesc s r) 8 4 = r.c.toNat) (hqueue : leAt (fetchDesc s r) 2 2 = q)
include hseq hqueue

theorem commandFetch_waits (hw : pageWaits s r (fetchDesc s r)) : commandFetch q s = s := by
  have hmatch : ¬ (leAt (fetchDesc s r) 8 4 ≠ r.c.toNat ∨ leAt (fetchDesc s r) 2 2 ≠ q) := by simp [hseq, hqueue]
  simp only [commandFetch, holdCheck_of_nextRec hf.queue hf.noRecord, hf.queue, if_neg hf.door, if_neg hf.asks, if_neg hmatch]
  exact if_pos hw

theorem commandFetch_takes (hw : ¬ pageWaits s r (fetchDesc s r)) : commandFetch q s =
    takeCmd q r ⟨fetchDesc s r, imageAt s (fetchDesc s r), r.c, startMark s r, none, needOf s r (fetchDesc s r)⟩
      (r2take (needOf s r (fetchDesc s r)).total s) := by
  have hmatch : ¬ (leAt (fetchDesc s r) 8 4 ≠ r.c.toNat ∨ leAt (fetchDesc s r) 2 2 ≠ q) := by simp [hseq, hqueue]
  simp only [commandFetch, holdCheck_of_nextRec hf.queue hf.noRecord, hf.queue, if_neg hf.door, if_neg hf.asks, if_neg hmatch]
  exact if_neg hw

end

/-- What needs no reservation is taken at once: a command that is no PAGE, and a PAGE that a reserved bit refuses once it may be taken. -/
theorem commandFetch_unreserved {s : State} {q : Nat} {r : Queue} (hf : Fetches s q r) (hseq : leAt (fetchDesc s r) 8 4 = r.c.toNat)
    (hqueue : leAt (fetchDesc s r) 2 2 = q) (h : isHostPage r (fetchDesc s r) = false ∨
      (descReserved r (fetchDesc s r) = true ∧ r.st = .opened ∧ draining s r.part = false)) :
    commandFetch q s = takeCmd q r ⟨fetchDesc s r, imageAt s (fetchDesc s r), r.c, startMark s r, none, Resv.none⟩ s := by
  have hneed : needOf s r (fetchDesc s r) = Resv.none := by
    rcases h with h | ⟨h, -⟩ <;> simp [needOf, h]
  have hw : ¬ pageWaits s r (fetchDesc s r) := by
    rcases h with h | ⟨-, hst, hd⟩
    · simp [pageWaits, h]
    · simp [pageWaits, hneed, hst, hd, Resv.none, Resv.total]
  rw [commandFetch_takes hf hseq hqueue hw, hneed]
  rfl

/-- A PAGE without a reserved bit takes its reservation (R86, R534). -/
theorem commandFetch_page {s : State} {q : Nat} {r : Queue} (hf : Fetches s q r) (hseq : leAt (fetchDesc s r) 8 4 = r.c.toNat)
    (hqueue : leAt (fetchDesc s r) 2 2 = q) (hop : descOp (fetchDesc s r) = 1) (hv : opValid r 1 = true)
    (hr : descReserved r (fetchDesc s r) = false) (hst : r.st = .opened) (hd : draining s r.part = false)
    (hn : (resvOf s r 0).total ≤ r2free s) : commandFetch q s =
      setQueue q { r.taken with cur := some ⟨fetchDesc s r, none, r.c, startMark s r, none, resvOf s r 0⟩ } (r2take (resvOf s r 0).total s) := by
  have hneed : needOf s r (fetchDesc s r) = resvOf s r 0 := by simp [needOf, isHostPage, hop, hv, hr]
  have himage : imageAt s (fetchDesc s r) = none := by simp [imageAt, hop]
  have hw : ¬ pageWaits s r (fetchDesc s r) := by simp [pageWaits, hneed, hst, hd, hn]
  have hvalid : opValid r (descOp (fetchDesc s r)) = true := by rw [hop, hv]
  rw [commandFetch_takes hf hseq hqueue hw, hneed, himage, takeCmd_current hvalid hr]

/-- A fetch that replaces the queue's record changes nothing else. -/
theorem fetched_parts {s : State} {q : BitVec 16} {r : Queue} (hl : Live s) (h : commandFetch q.toNat s = setQueue q.toNat r s) :
    Does (.commandFetch q) s (fun t => queue? t q.toNat = some r ∧ (∀ p, p ≠ q.toNat → queue? t p = queue? s p) ∧ Only [.dq] s t) := by
  obtain ⟨hqueue, hothers, -, honly⟩ := setQueue_parts q.toNat r s
  exact ⟨_, (run_live hl _).trans (congrArg _ h), hqueue, hothers, honly⟩

/-- Settles O19: a fetch stops the queue, waits, or hands the descriptor to `takeCmd`, which leaves a refusal or the current command. -/
theorem commandFetched : Obligations.CommandFetched := by
  intro s q r r' d hl hq hrings hn hstop hcur hdoor hlater hd hr'
  have hf : Fetches s q.toNat r := ⟨hq, hrings, hn, hstop, hcur, hdoor, hlater⟩
  have htaken : r' = r.taken := by rw [hr', Queue.taken, hstop]
  subst hd htaken
  refine ⟨fun h => ?missed, fun hseq hqueue => ⟨fun hv hop => ?invalid, fun hv hop => ?invalidPage, fun hv hr hop => ?reserved, fun hv hop h => ?held,
    fun hv hr hop hst hdr => ?reservedPage, fun hv hr hop => ?current, fun hv hr hop => ⟨fun h => ?noRoom, fun hst hdr h => ?page⟩⟩⟩
  case missed =>
    exact ⟨_, (run_live hl _).trans (congrArg _ (commandFetch_missed hf h)), queue?_setQueue_self _ _ s, fun p hp => queue?_setQueue_ne hp _ s, rfl,
      fun p => by cases p <;> simp [Part.same]⟩
  case invalid =>
    refine fetched_parts hl ?_
    rw [commandFetch_unreserved hf hseq hqueue (.inl (by simp [isHostPage, hop])), takeCmd_invalid hv]
    simp [refusal, hop]
  case invalidPage =>
    refine fetched_parts hl ?_
    have hpage : isHostPage r (fetchDesc s r) = false := by rw [hop] at hv; simp [isHostPage, hv]
    rw [commandFetch_unreserved hf hseq hqueue (.inl hpage), takeCmd_invalid hv]
    simp [refusal, hop]
  case reserved =>
    refine fetched_parts hl ?_
    rw [commandFetch_unreserved hf hseq hqueue (.inl (by simp [isHostPage, hop])), takeCmd_reserved hv hr]
    simp [refusal, hop]
  case held =>
    exact (run_live hl _).trans (congrArg _ (commandFetch_waits hf hseq hqueue ⟨by simp [isHostPage, hop, hv], h.imp_right .inl⟩))
  case reservedPage =>
    refine fetched_parts hl ?_
    rw [commandFetch_unreserved hf hseq hqueue (.inr ⟨hr, hst, hdr⟩), takeCmd_reserved (by rw [hop, hv]) hr]
    simp [refusal, hop]
  case current =>
    refine fetched_parts hl ?_
    rw [commandFetch_unreserved hf hseq hqueue (.inl (by simp [isHostPage, hop])), takeCmd_current hv hr]
    rfl
  case noRoom =>
    have hneed : needOf s r (fetchDesc s r) = resvOf s r 0 := by simp [needOf, isHostPage, hop, hv, hr]
    exact (run_live hl _).trans (congrArg _ (commandFetch_waits hf hseq hqueue ⟨by simp [isHostPage, hop, hv], .inr (.inr (hneed ▸ h))⟩))
  case page =>
    obtain ⟨hrec, hothers, -, honly⟩ := setQueue_parts q.toNat
      { r.taken with cur := some ⟨fetchDesc s r, none, r.c, startMark s r, none, resvOf s r 0⟩ } (r2take (resvOf s r 0).total s)
    exact ⟨_, (run_live hl _).trans (congrArg _ (commandFetch_page hf hseq hqueue hop hv hr hst hdr h)), hrec, hothers, rfl,
      ((r2take_only _ s).mono (by simp)).trans (honly.mono (by simp))⟩

end Sys2Proof.Machine
end

section
/-! PROOFS. Doorbells (R70 to R72, R80): the fields of a doorbell word, command doorbells, and consumed counts of the result rings. -/

namespace Sys2Proof.Machine

/-! ### Doorbell words -/

/-- A number that a bit vector names, placed in a word. -/
theorem place_toNat {n : Nat} (x : BitVec n) (lo : Nat) : place x.toNat lo n = x.setWidth 64 <<< lo := by
  rw [place, Nat.mod_eq_of_lt x.isLt]
  apply BitVec.eq_of_toNat_eq
  simp [Nat.shiftLeft_eq]

/-- The fields of a doorbell word (R71). -/
theorem fld_dbWord (k : BitVec 2) (v : BitVec 32) (resv : BitVec 10) (g3 : BitVec 4) (id : BitVec 16) :
    fld (dbWord k.toNat v resv g3 id) 32 32 = v.toNat ∧ fld (dbWord k.toNat v resv g3 id) 30 2 = k.toNat ∧
      fld (dbWord k.toNat v resv g3 id) 20 10 = resv.toNat ∧ fld (dbWord k.toNat v resv g3 id) 16 4 = g3.toNat ∧
        fld (dbWord k.toNat v resv g3 id) 0 16 = id.toNat := by
  simp only [fld_eq_extract, dbWord, place_toNat]
  refine ⟨?_, ?_, ?_, ?_, ?_⟩ <;> congr 1 <;> ext i hi <;>
    simp (disch := omega) [hi, BitVec.getLsbD_of_ge, BitVec.getLsbD_eq_getElem] <;> omega

/-- A doorbell word has been counted (R71). -/
def dbCounted (s : State) : State := { s with dq := { s.dq with dbCount := s.dq.dbCount + 1 } }

theorem dbCounted_only (s : State) : Only [.dq] s (dbCounted s) := fun p => by cases p <;> simp [Part.same, dbCounted]

section
variable {s : State} {v : BitVec 32} {resv : BitVec 10} {g3 : BitVec 4} {id : BitVec 16}

theorem takeDoorbell_malformed (k : BitVec 2) (h : resv ≠ 0 ∨ g3 ≠ 0) : takeDoorbell (dbWord k.toNat v resv g3 id) s = dbBad (dbCounted s) := by
  obtain ⟨-, -, hresv, hg3, -⟩ := fld_dbWord k v resv g3 id
  have hbad : fld (dbWord k.toNat v resv g3 id) 20 10 ≠ 0 ∨ fld (dbWord k.toNat v resv g3 id) 16 4 ≠ 0 ∨
      2 ≤ fld (dbWord k.toNat v resv g3 id) 30 2 := by
    rw [hresv, hg3]
    exact h.imp (fun h e => h (BitVec.eq_of_toNat_eq e)) (fun h => .inl (fun e => h (BitVec.eq_of_toNat_eq e)))
  exact if_pos hbad

theorem takeDoorbell_wellFormed {k : BitVec 2} (hk : k.toNat < 2) : takeDoorbell (dbWord k.toNat v 0 0 id) s =
    if k.toNat = 0 then cmdDoorbell id.toNat v (dbCounted s) else ringDoorbell id.toNat v (dbCounted s) := by
  obtain ⟨hv, hkind, hresv, hg3, hid⟩ := fld_dbWord k v 0 0 id
  have hgood : ¬ (fld (dbWord k.toNat v 0 0 id) 20 10 ≠ 0 ∨ fld (dbWord k.toNat v 0 0 id) 16 4 ≠ 0 ∨
      2 ≤ fld (dbWord k.toNat v 0 0 id) 30 2) := by
    rw [hresv, hg3, hkind]
    simp [hk]
  refine (if_neg hgood).trans ?_
  rw [hkind, hid, hv, BitVec.ofNat_toNat, BitVec.setWidth_eq]
  rfl

theorem takeDoorbell_command : takeDoorbell (dbWord 0 v 0 0 id) s = cmdDoorbell id.toNat v (dbCounted s) :=
  takeDoorbell_wellFormed (k := 0#2) (by decide)

theorem takeDoorbell_ring : takeDoorbell (dbWord 1 v 0 0 id) s = ringDoorbell id.toNat v (dbCounted s) :=
  takeDoorbell_wellFormed (k := 1#2) (by decide)

theorem takeDoorbell_reservedKind {w : Word} (h : 2 ≤ fld w 30 2) : takeDoorbell w s = dbBad (dbCounted s) :=
  if_pos (.inr (.inr h))

theorem doorbell_taken (hlv : s.pw.mode ≠ modeLeaving) (hdp : s.pw.mode ≠ modeDeep) (w : Word) : doorbell w s = takeDoorbell w s :=
  if_neg (by simp [hlv, hdp])

section
variable (hl : Live s) (hk : locked s = true) (hlv : s.pw.mode ≠ modeLeaving) (hdp : s.pw.mode ≠ modeDeep)
include hl hk hlv hdp

theorem exec_commandDoorbell : exec (.commandDoorbell v resv g3 id) s = .next (takeDoorbell (dbWord 0 v resv g3 id) s) := by
  have h : exec (.commandDoorbell v resv g3 id) s = .next (hostAct (doorbell (dbWord 0 v resv g3 id)) s) := run_live hl _
  rw [h, hostAct, if_pos hk, doorbell_taken hlv hdp]

theorem exec_ringConsume : exec (.ringConsume v resv g3 id) s = .next (takeDoorbell (dbWord 1 v resv g3 id) s) := by
  have h : exec (.ringConsume v resv g3 id) s = .next (hostAct (doorbell (dbWord 1 v resv g3 id)) s) := run_live hl _
  rw [h, hostAct, if_pos hk, doorbell_taken hlv hdp]

end

end

/-! ### Command doorbells -/

/-- A queue that discards doorbells (R61). -/
theorem cmdDoorbell_discarded {s : State} {q : Nat} (h : (qstate s q).rings = false) (v : BitVec 32) : cmdDoorbell q v s = dbBad s := by
  unfold qstate at h
  unfold cmdDoorbell
  cases hq : queue? s q with
  | none => rfl
  | some r => simp [hq] at h; simp [h]

/-- The record of a queue whose doorbell says nothing new: it takes commands again (R74). -/
def Queue.restarted (now : BitVec 64) (r : Queue) : Queue := if r.stopped then { r with stopped := false, retryAt := now } else r

theorem Queue.restarted_eq (now : BitVec 64) (r : Queue) : r.restarted now = { r with stopped := false, retryAt := (r.restarted now).retryAt } := by
  unfold restarted
  split
  next => rfl
  next h =>
    have hs : false = r.stopped := by simpa using h
    rw [hs]

section
variable {s : State} {q : Nat} {r : Queue} {v : BitVec 32} (hq : queue? s q = some r) (hr : r.st.rings = true)
include hq hr

theorem cmdDoorbell_notLater (h : seqLater v r.t = false) :
    cmdDoorbell q v s = setQueue q (r.restarted s.now) s := by
  simp [cmdDoorbell, hq, hr, h, Queue.restarted]

theorem cmdDoorbell_far (h : seqLater v r.t = true) (hd : ringSize r ≤ seqDist v r.c) : cmdDoorbell q v s = dbBad s := by
  simp [cmdDoorbell, hq, hr, h, hd]

theorem cmdDoorbell_later (h : seqLater v r.t = true) (hd : seqDist v r.c < ringSize r) : cmdDoorbell q v s =
    setQueue q { r with t := v, marks := r.marks ++ [(v, s.now)], retryAt := if r.stopped then s.now else r.retryAt, stopped := false } s := by
  simp [cmdDoorbell, hq, hr, h, Nat.not_le.2 hd]

end

/-- A doorbell that is counted and replaces its queue's record changes nothing else. -/
theorem rung_parts (q : Nat) (x : Queue) (s : State) : queue? (setQueue q x (dbCounted s)) q = some x ∧
    (∀ p, p ≠ q → queue? (setQueue q x (dbCounted s)) p = queue? s p) ∧ Only [.dq] s (setQueue q x (dbCounted s)) := by
  obtain ⟨hqueue, hothers, -, honly⟩ := setQueue_parts q x (dbCounted s)
  exact ⟨hqueue, hothers, (dbCounted_only s).trans honly⟩

/-- Settles O17: a malformed word is bad (`takeDoorbell_malformed`), and a well-formed one meets the four outcomes of `cmdDoorbell`. -/
theorem doorbells : Obligations.Doorbells := by
  intro s bad v resv g3 id hl hk hlv hdp hbad
  have command {resv : BitVec 10} {g3 : BitVec 4} := exec_commandDoorbell (v := v) (resv := resv) (g3 := g3) (id := id) hl hk hlv hdp
  subst hbad
  refine ⟨fun h => ?discarded, fun h => ?consume, fun w hw => ?kind, fun r hresv hg3 hq hr => ?_⟩
  case discarded =>
    rw [command]
    by_cases hform : resv ≠ 0 ∨ g3 ≠ 0
    · exact congrArg _ (takeDoorbell_malformed 0#2 hform)
    · obtain ⟨rfl, rfl⟩ : resv = 0 ∧ g3 = 0 := by tauto
      rw [takeDoorbell_command, cmdDoorbell_discarded (show (qstate (dbCounted s) id.toNat).rings = false by tauto)]
      rfl
  case consume =>
    rw [exec_ringConsume hl hk hlv hdp]
    by_cases hform : resv ≠ 0 ∨ g3 ≠ 0
    · exact congrArg _ (takeDoorbell_malformed 1#2 hform)
    · obtain ⟨rfl, rfl⟩ : resv = 0 ∧ g3 = 0 := by tauto
      rw [takeDoorbell_ring, ringDoorbell, if_pos (show 256 ≤ id.toNat by tauto)]
      rfl
  case kind => exact (doorbell_taken hlv hdp w).trans (takeDoorbell_reservedKind hw)
  subst hresv hg3
  have hq' : queue? (dbCounted s) id.toNat = some r := hq
  refine ⟨fun h => ?notLater, fun h hd => ?far, fun h hd => ?later⟩
  case notLater =>
    obtain ⟨hqueue, hothers, honly⟩ := rung_parts id.toNat (r.restarted s.now) s
    exact ⟨_, command.trans (congrArg _ (takeDoorbell_command.trans (cmdDoorbell_notLater hq' hr h))), rfl, rfl,
      ⟨_, hqueue, r.restarted_eq s.now⟩, hothers, honly⟩
  case far => rw [command, takeDoorbell_command, cmdDoorbell_far hq' hr h hd]; rfl
  case later =>
    obtain ⟨hqueue, hothers, honly⟩ := rung_parts id.toNat
      { r with t := v, marks := r.marks ++ [(v, s.now)], retryAt := if r.stopped then s.now else r.retryAt, stopped := false } s
    exact ⟨_, command.trans (congrArg _ (takeDoorbell_command.trans (cmdDoorbell_later hq' hr h hd))), rfl, rfl, ⟨_, hqueue, rfl, rfl⟩, hothers, honly⟩

/-! ### Consumed counts -/

theorem ring_setRing (n m : Nat) (g : Ring) (s : State) : ring (setRing n g s) m = if m = n then g else ring s m := tabGet_tabSet _ _ _ _ _

theorem setRing_only (n : Nat) (g : Ring) (s : State) : Only [.dq] s (setRing n g s) := fun p => by cases p <;> simp [Part.same]

theorem retirePage_only (pid : BitVec 32) (s : State) : Only [.pp] s (retirePage pid s) := by
  unfold retirePage
  split
  · exact Only.refl _ s
  · exact fun p => by cases p <;> simp [Part.same, r2give]

/-- A ring whose records before a count have been consumed (R80). -/
def Ring.consumed (g : Ring) (v : BitVec 32) : Ring :=
  { g with c := v, kept := g.kept.filter (fun k => ¬ decide (seqDist k.idx g.c < seqDist v g.c)) }

/-- Beside its ring a consumed count retires pages alone (R422, R534). -/
theorem consume_only (n : Nat) (v : BitVec 32) (s : State) : Only [.pp] (setRing n ((ring s n).consumed v) s) (consume n v s) := by
  refine List.foldlRecOn (motive := Only [.pp] _) _ _ (Only.refl _ _) (fun t ht pid _ => ?_)
  dsimp only
  split
  · split
    · exact ht.trans (retirePage_only _ t)
    · exact ht
  · exact ht

section
variable {n : Nat} {v : BitVec 32} {s : State} (hn : n < 256)
include hn

theorem ringDoorbell_bad (h : seqLater v (ring s n).c = false ∨ seqLater v (ring s n).p = true) : ringDoorbell n v s = dbBad s := by
  have h' : ¬ seqLater v (ring s n).c = true ∨ seqLater v (ring s n).p = true := by simpa using h
  simp only [ringDoorbell, Nat.mod_eq_of_lt hn, if_neg (Nat.not_le.2 hn), if_pos h']

/-- After a consumed count queues that need hold no longer return to OPEN, and flows reserve what they can (R62, R401). -/
theorem ringDoorbell_keepsProgress (hc : seqLater v (ring s n).c = true) (hp : seqLater v (ring s n).p = false) :
    KeepsProgress [.hp, .dq, .pp, .cv] (consume n v s) (ringDoorbell n v s) := by
  have h : ¬ (¬ seqLater v (ring s n).c = true ∨ seqLater v (ring s n).p = true) := by simp [hc, hp]
  simp only [ringDoorbell, Nat.mod_eq_of_lt hn, if_neg (Nat.not_le.2 hn), if_neg h]
  refine (KeepsProgress.foldl (fun t q => ?_) _ _).trans ((KeepsProgress.of_only (reserveFlows_only _) (by simp)).mono (by simp))
  split
  · split
    · exact (unholdCheck_keepsProgress q t).mono (by simp)
    · exact (KeepsProgress.refl t).mono (by simp)
  · exact (KeepsProgress.refl t).mono (by simp)

end

/-- Settles O18: a bad count is counted alone; any other sets its ring (`consume_only`), and what follows keeps every queue's progress. -/
theorem ringConsumed : Obligations.RingConsumed := by
  intro s v id hl hk hlv hdp hid
  have consume' := exec_ringConsume (v := v) (resv := 0) (g3 := 0) (id := id) hl hk hlv hdp
  refine ⟨fun h => ?bad, fun hc hp => ⟨_, consume'.trans (congrArg _ takeDoorbell_ring), ?_⟩⟩
  case bad =>
    have h' : seqLater v (ring (dbCounted s) id.toNat).c = false ∨ seqLater v (ring (dbCounted s) id.toNat).p = true := h
    rw [consume', takeDoorbell_ring, ringDoorbell_bad hid h']
    rfl
  have hset := consume_only id.toNat v (dbCounted s)
  have hkeep := ringDoorbell_keepsProgress (s := dbCounted s) hid hc hp
  have hdq : (consume id.toNat v (dbCounted s)).dq = (setRing id.toNat ((ring s id.toNat).consumed v) (dbCounted s)).dq := hset.same .dq (by simp)
  obtain ⟨hcount, hbad⟩ : (consume id.toNat v (dbCounted s)).dq.dbCount = s.dq.dbCount + 1 ∧ (consume id.toNat v (dbCounted s)).dq.dbBad = s.dq.dbBad := by
    rw [hdq]
    exact ⟨rfl, rfl⟩
  have hring (n : Nat) : ring (ringDoorbell id.toNat v (dbCounted s)) n = if n = id.toNat then (ring s id.toNat).consumed v else ring s n :=
    (hkeep.dq.ring_eq n).trans ((ring_congr (congrArg _ hdq) n).trans (ring_setRing _ _ _ _))
  refine ⟨(hring _).trans (if_pos rfl), fun n hn => (hring n).trans (if_neg hn), ?_, ?_, fun q => ?_, ?_⟩
  · exact (congrArg Dechel.dbCount hkeep.dq).trans hcount
  · exact (congrArg Dechel.dbBad hkeep.dq).trans hbad
  · exact (hkeep.field (fun _ => rfl) q).trans (congrArg _ (queue?_congr (congrArg _ hdq) q))
  · exact ((((dbCounted_only s).trans (setRing_only _ _ _)).mono (by simp)).trans (hset.mono (by simp))).trans hkeep.only

end Sys2Proof.Machine
end

section
/-! PROOFS. QUEUE_QUERY, QUEUE_CLOSE and QUEUE_RESUME through the mailbox (R61, R62, R66, R68, R89, R90). -/

namespace Sys2Proof.Machine

/-! ### The request that was taken -/

theorem hostAct_mboxRow {s : State} (mop : Nat) (r : MboxRec) (hk : locked s = true) (hlv : s.pw.mode ≠ modeLeaving) (hdp : s.pw.mode ≠ modeDeep)
    (hb : s.dq.busy = none) : hostAct (mboxRow mop r) s = actMbox (mboxTaken mop r s) := by
  rw [hostAct, if_pos hk, mboxRow, if_neg (by simp [hb]), if_neg (by simp [hlv, hdp])]
  rfl

theorem reqMop_mboxTaken {mop : Nat} (hm : mop < 256) (r : MboxRec) (s : State) : fld (reqWord (mboxTaken mop r s) 0) 0 8 = mop := by
  have h : reqWord (mboxTaken mop r s) 0 = r.rsv0.setWidth 64 <<< 8 ||| BitVec.ofNat 64 mop := rfl
  have low : (r.rsv0.setWidth 64 <<< 8).toNat % 2 ^ 8 = 0 := by simp [Nat.shiftLeft_eq]
  rw [h, fld, Nat.shiftRight_zero, BitVec.toNat_or, Nat.or_mod_two_pow, low, Nat.zero_or, BitVec.toNat_ofNat]
  omega

/-- A request that names a queue alone has no reserved bit (R66, R68). -/
theorem reqReserved_mboxTaken {mop q : Nat} (hm : mop = 2 ∨ mop = 3) {r : MboxRec} (s : State) (hq : q < 65536) (h0 : r.rsv0 = 0) (hhi : r.rsvHi = 0)
    (hlo : r.rsvLo = 0) (hargs : ∀ k < 14, nth r.args k 0 = if k = 0 then BitVec.ofNat 64 q else 0) : reqReserved (mboxTaken mop r s) mop = false := by
  have hw0 : fld (reqWord (mboxTaken mop r s) 0) 8 56 = 0 := by
    have h : reqWord (mboxTaken mop r s) 0 = r.rsv0.setWidth 64 <<< 8 ||| BitVec.ofNat 64 mop := rfl
    rw [h, h0]
    rcases hm with rfl | rfl <;> decide
  have hw1 : fld (reqWord (mboxTaken mop r s) 1) 48 16 = 0 ∧ fld (reqWord (mboxTaken mop r s) 1) 1 15 = 0 := by
    have h : reqWord (mboxTaken mop r s) 1 = r.tag.setWidth 64 <<< 16 := by
      have h' : reqWord (mboxTaken mop r s) 1 = r.rsvHi.setWidth 64 <<< 48 ||| r.tag.setWidth 64 <<< 16 ||| r.rsvLo.setWidth 64 <<< 1 := rfl
      rw [h', hhi, hlo]
      simp
    have htag : (r.tag.setWidth 64 <<< 16).toNat = r.tag.toNat * 2 ^ 16 := by
      have := r.tag.isLt
      simp [Nat.shiftLeft_eq]
      omega
    have := r.tag.isLt
    rw [h, fld, fld, htag, Nat.shiftRight_eq_div_pow, Nat.shiftRight_eq_div_pow]
    omega
  have hw2 : fld (reqWord (mboxTaken mop r s) 2) 16 48 = 0 := by
    rw [reqWord_mboxTaken mop r s (k := 0) (by decide), hargs 0 (by decide), if_pos rfl, fld, BitVec.toNat_ofNat, Nat.shiftRight_eq_div_pow]
    omega
  have hrest : (List.range 13).any (fun i => reqWord (mboxTaken mop r s) (3 + i) != 0) = false := by
    simp only [List.any_eq_false, List.mem_range, bne_iff_ne, ne_eq, not_not]
    intro i hi
    rw [show 3 + i = (i + 1) + 2 by omega, reqWord_mboxTaken mop r s (by omega), hargs (i + 1) (by omega), if_neg (by omega)]
  obtain ⟨hhigh, hlow⟩ := hw1
  have hne : mop ≠ 1 := by omega
  simp only [reqReserved, if_neg hne, hw0, hhigh, hlow, hw2, hrest]
  rfl

/-! A request that need not wait reaches its operation (R66, R68). -/

theorem actMbox_close {s : State} (hs : swapping s = false) (hm : fld (reqWord s 0) 0 8 = 2) (hr : reqReserved s 2 = false) :
    actMbox s = doClose s := by simp [actMbox, hs, hm, hr]

theorem actMbox_query {s : State} (hs : swapping s = false) (hm : fld (reqWord s 0) 0 8 = 3) (hr : reqReserved s 3 = false) :
    actMbox s = doQuery s := by simp [actMbox, hs, hm, hr]

theorem actMbox_resume {s : State} (hs : swapping s = false) (hm : fld (reqWord s 0) 0 8 = 4) (hr : reqReserved s 4 = false) {x : Queue}
    (hx : queue? s (fld (reqWord s 2) 0 16) = some x) (hld : loading s x.part = false) : actMbox s = doResume s := by
  simp [actMbox, hs, hm, hr, hx, hld]

/-! ### QUEUE_QUERY -/

@[simp] theorem place_zero (lo n : Nat) : place 0 lo n = 0 := by simp [place]

/-- The reply about a queue in CLOSED is its tag (R66, R68). -/
theorem postReply_closed (tag : Nat) (s : State) : (postReply tag cOk 0 0 0 s).dq.reply = [(0, place tag 0 32), (1, 0), (2, 0)] := by
  simp [postReply_reply, cOk]

theorem postReply_parts (tag code st : Nat) (r8 r10 : Word) (s : State) : (postReply tag code st r8 r10 s).dq.queues = s.dq.queues ∧
    (postReply tag code st r8 r10 s).dq.busy = none ∧ (postReply tag code st r8 r10 s).hp = { s.hp with alertStat := s.hp.alertStat ||| maskOf 6 1 } :=
  ⟨rfl, rfl, rfl⟩

section
variable {s : State} {q : Nat} (hq : q = fld (reqWord s 2) 0 16)
include hq

theorem doQuery_closed (h : qstate s q = .closed) : doQuery s = postReply (reqTag s) cOk 0 0 0 s := by
  unfold doQuery
  rw [← hq]
  dsimp only
  split
  next r hr => exact if_pos (by rwa [qstate_of_queue hr] at h)
  next => rfl

theorem doQuery_open {x : Queue} (hx : queue? s q = some x) (h : x.st ≠ .closed) : doQuery s =
    postReply (reqTag s) x.st.code x.st.value (place (x.c - 1).toNat 32 32) (x.rseq.setWidth 64) s := by
  simp [doQuery, ← hq, hx, h]

theorem doQuery_posts : ∃ code st r8 r10, doQuery s = postReply (reqTag s) code st r8 r10 s := by
  by_cases h : qstate s q = .closed
  · exact ⟨_, _, _, _, doQuery_closed hq h⟩
  · cases hx : queue? s q with
    | none => exact absurd (by rw [qstate, hx]) h
    | some x => exact ⟨_, _, _, _, doQuery_open hq hx (by rwa [qstate_of_queue hx] at h)⟩

/-! ### QUEUE_CLOSE -/

theorem doClose_closed (h : qstate s q = .closed) : doClose s = postReply (reqTag s) cOk 0 0 0 s := by
  simp [doClose, ← hq, h]

end

theorem disarm_only (d : Nat) (s : State) : Only [.sf, .pp] s (disarm d s) := by
  have hgive (c : Prop) [Decidable c] (n : Nat) : Only [.pp] s (if c then r2give n s else s) := by
    split
    · exact fun p => by cases p <;> simp [Part.same, r2give]
    · exact Only.refl _ s
  exact ((hgive _ _).mono (by simp)).trans ((setDoor_only d _ _).mono (by simp))

/-- A close of a queue that is not CLOSED moves it to CLOSING and ends its arming (R62, R68, R99). -/
def closeBegun (q : Nat) (s : State) : State :=
  match queue? (moveQueue q .closing s) q with
  | some r => if r.door = 1 ∨ r.door = 2 then settleArms q (disarm (scanDoor r) (moveQueue q .closing s)) else moveQueue q .closing s
  | none => moveQueue q .closing s

theorem doClose_open {s : State} {q : Nat} (hq : q = fld (reqWord s 2) 0 16) (h : qstate s q ≠ .closed) :
    doClose s = { closeBegun q s with dq := { (closeBegun q s).dq with busy := some (.close q) } } := by
  subst hq
  exact if_neg h

theorem closeBegun_parts {s : State} {q : Nat} (h : qstate s q ≠ .closed) :
    qstate (closeBegun q s) q = .closing ∧ StepOf q [.hp, .dq, .sf, .pp] s (closeBegun q s) := by
  have hmove : StepOf q [.hp, .dq, .sf, .pp] s (moveQueue q .closing s) := (moveQueue_stepOf (by decide) s).mono (by simp)
  obtain ⟨r, hr⟩ : ∃ r, queue? s q = some r := by
    cases hr : queue? s q with
    | none => exact absurd (by rw [qstate, hr]) h
    | some r => exact ⟨r, rfl⟩
  have hst : qstate (moveQueue q .closing s) q = .closing := qstate_moveQueue hr (by decide)
  unfold closeBegun
  split
  next x hx =>
    split
    · have hdisarm := disarm_only (scanDoor x) (moveQueue q .closing s)
      have hdq : (disarm (scanDoor x) (moveQueue q .closing s)).dq = (moveQueue q .closing s).dq := hdisarm.same .dq (by simp)
      refine ⟨?_, (hmove.trans ((StepOf.of_only hdisarm (by simp)).mono (by simp))).trans ((settleArms_stepOf q _).mono (by simp))⟩
      rw [qstate_settleArms, qstate_congr (queue?_congr (congrArg _ hdq) q), hst]
    · exact ⟨hst, hmove⟩
  next => exact ⟨hst, hmove⟩

/-- Settles O13: a query posts one reply, a close posts one or leaves its queue CLOSING (`closeBegun_parts`). -/
theorem mailboxQueryAndClose : Obligations.MailboxQueryAndClose := by
  intro s r q hl hk hlv hdp hs hb hq h0 hhi hlo hargs
  have hquery : exec (.queueQuery r) s = .next (doQuery (mboxTaken 3 r s)) := by
    have hact := actMbox_query (s := mboxTaken 3 r s) hs (reqMop_mboxTaken (by decide) r s)
      (reqReserved_mboxTaken (.inr rfl) s hq h0 hhi hlo hargs)
    exact (run_live hl _).trans (congrArg _ ((hostAct_mboxRow 3 r hk hlv hdp hb).trans hact))
  have hclose : exec (.queueClose r) s = .next (doClose (mboxTaken 2 r s)) := by
    have hact := actMbox_close (s := mboxTaken 2 r s) hs (reqMop_mboxTaken (by decide) r s)
      (reqReserved_mboxTaken (.inl rfl) s hq h0 hhi hlo hargs)
    exact (run_live hl _).trans (congrArg _ ((hostAct_mboxRow 2 r hk hlv hdp hb).trans hact))
  have hname (mop : Nat) : q = fld (reqWord (mboxTaken mop r s) 2) 0 16 := by
    rw [reqWord_mboxTaken mop r s (k := 0) (by decide), hargs 0 (by decide), if_pos rfl, fld, BitVec.toNat_ofNat, Nat.shiftRight_zero]
    omega
  have hstate (mop : Nat) : qstate (mboxTaken mop r s) q = qstate s q := rfl
  have hframe (mop : Nat) {t : State} (ht : Only [.hp, .dq] (mboxTaken mop r s) t) : Only [.hp, .dq] s t :=
    ((mboxTaken_only mop r s).mono (by simp)).trans ht
  refine ⟨⟨_, hquery, ?query⟩, fun h => ⟨_, hclose, ?closed⟩, fun h => ⟨_, hclose, ?closing⟩⟩
  case query =>
    obtain ⟨code, st, r8, r10, hpost⟩ := doQuery_posts (hname 3)
    obtain ⟨hqueues, hbusy, hhp⟩ := postReply_parts (reqTag (mboxTaken 3 r s)) code st r8 r10 (mboxTaken 3 r s)
    refine ⟨?_, ?_, ?_, ?_, fun h => ?_, fun x hx hx' => ?_⟩
    · rw [hpost, hqueues]; rfl
    · rw [hpost, hbusy]
    · rw [hpost, hhp]; rfl
    · rw [hpost]; exact hframe 3 (postReply_only _ _ _ _ _ _)
    · rw [doQuery_closed (hname 3) h, postReply_closed, reqTag_mboxTaken]
    · rw [doQuery_open (hname 3) hx hx', postReply_reply, reqTag_mboxTaken]
  case closed =>
    rw [doClose_closed (hname 2) h]
    obtain ⟨hqueues, hbusy, hhp⟩ := postReply_parts (reqTag (mboxTaken 2 r s)) cOk 0 0 0 (mboxTaken 2 r s)
    refine ⟨hqueues, hbusy, ?_, hhp, hframe 2 (postReply_only _ _ _ _ _ _)⟩
    rw [postReply_closed, reqTag_mboxTaken]
  case closing =>
    obtain ⟨hclosing, hothers, hdq, honly⟩ := closeBegun_parts (s := mboxTaken 2 r s) (q := q) h
    have hreply : (closeBegun q (mboxTaken 2 r s)).dq.reply = (mboxTaken 2 r s).dq.reply := (congrArg Dechel.reply hdq).trans rfl
    rw [doClose_open (hname 2) h]
    refine ⟨hclosing, hothers, rfl, hreply, ?_⟩
    exact (((mboxTaken_only 2 r s).mono (by simp)).trans honly).trans fun p => by cases p <;> simp [Part.same]

/-! ### QUEUE_RESUME -/

/-- Queue `q`, whose record was `x`, has taken the LINES that RM_DECL declares now (R388). -/
structure LinesTaken (q : Nat) (x : Queue) (s t : State) : Prop where
  decl : t.rm.decl = s.rm.decl
  queue : queue? t q = some { x with lines := declLines s x.cls }

theorem noteBound_decl (q : Nat) (b : Bound) (s : State) : (noteBound q b s).rm.decl = s.rm.decl := by
  unfold noteBound modQueue
  dsimp only
  split <;> rfl

theorem declLines_of_decl {s t : State} (h : t.rm.decl = s.rm.decl) (cls : Nat) : declLines t cls = declLines s cls := by
  rw [declLines, declLines, declOf, declOf, h]

theorem queue?_noteBound (q p : Nat) (b : Bound) (s : State) : queue? (noteBound q b s) p =
    if p = q then (queue? s q).map (fun x => { x with lines := declLines s x.cls }) else queue? s p := queue?_modQueue q p _ _

theorem noteBound_linesTaken {q : Nat} {x : Queue} {s : State} (hx : queue? s q = some x) (b : Bound) : LinesTaken q x s (noteBound q b s) :=
  ⟨noteBound_decl q b s, by rw [queue?_noteBound, if_pos rfl, hx]; rfl⟩

/-- A later judgement in the same pass does not take that back. -/
theorem LinesTaken.noted {q : Nat} {x : Queue} {s t : State} (h : LinesTaken q x s t) (p : Nat) (b : Bound) :
    LinesTaken q x s (noteBound p b t) := by
  refine ⟨(noteBound_decl p b t).trans h.decl, ?_⟩
  rw [queue?_noteBound]
  split
  next e =>
    rw [← e, h.queue, ← declLines_of_decl h.decl]
    rfl
  next => exact h.queue

theorem LinesTaken.foldNotes {q : Nat} {x : Queue} {s t : State} (h : LinesTaken q x s t) (f : State → TQ → Bound) (l : List TQ) :
    LinesTaken q x s (l.foldl (fun t y => noteBound y.q (f t y) t) t) :=
  List.foldlRecOn (motive := LinesTaken q x s) _ _ h (fun _ ht _ _ => ht.noted _ _)

/-- The judged queue takes its LINES, whatever the answer. -/
theorem judge_linesTaken {cand : TQ} {x : Queue} {s u : State} {ok : Bool} {b : Nat} (h : judge cand s = (ok, b, u))
    (hx : queue? s cand.q = some x) : LinesTaken cand.q x s u := by
  have h1 := noteBound_linesTaken hx (boundOf s s.si.conf (cand :: openTqs s cand.q) cand)
  have hs := h1.foldNotes (fun s' y => boundOf s' s.si.conf (cand :: openTqs s cand.q) y)
  unfold judge at h
  dsimp only at h
  split at h
  · cases h; exact h1
  · split at h
    · cases h; exact hs _
    · cases h; exact hs _

/-- A queue that goes to OPEN or NOT_ADMITTED has that state in its record and nothing else new. -/
theorem queue?_moveQueue_self {q : Nat} {st : QState} {s : State} {r : Queue} (hq : queue? s q = some r) (hst : st ≠ .stalled) (hh : st ≠ .hold) :
    queue? (moveQueue q st s) q = some { r with st := st } := by
  by_cases h : r.st = st
  · rw [moveQueue_unmoved hq h, hq, ← h]
  · rw [queue?_moveQueue_moved hq h hst, if_pos rfl, Queue.movedTo, if_neg hh]

theorem doResume_other {s : State} {q : Nat} {x : Queue} (hq : q = fld (reqWord s 2) 0 16) (hx : queue? s q = some x) (hc : x.st ≠ .creditViol)
    (hn : x.st ≠ .notAdmitted) : doResume s = postReply (reqTag s) cOk x.st.value 0 0 s := by
  have hst : qstate s q = x.st := qstate_of_queue hx
  simp [doResume, ← hq, hx, hc, hn, hst]

/-- The queue after its resume has been judged: it is OPEN, and the flows reserve what they can, or it is NOT_ADMITTED (R89, R90, R401). -/
def resumed (q : Nat) (ok : Bool) (u : State) : State := if ok then reserveFlows (moveQueue q .opened u) else moveQueue q .notAdmitted u

theorem doResume_judged {s u : State} {q : Nat} {x : Queue} {ok : Bool} {b : Nat} (hq : q = fld (reqWord s 2) 0 16) (hx : queue? s q = some x)
    (hst : x.st = .creditViol ∨ x.st = .notAdmitted) (hj : judge ⟨q, x.part, x.cls, x.quota⟩ s = (ok, b, u)) : doResume s =
      postReply (reqTag (resumed q ok u)) (if ok then cOk else cNotAdmissible) (qstate (resumed q ok u) q).value 0 (BitVec.ofNat 64 b)
        (resumed q ok u) := by
  subst hq
  delta doResume
  extract_lets q reply
  rw [show queue? s q = some x from hx]
  refine (if_pos hst).trans ?_
  rw [show judge ⟨q, x.part, x.cls, x.quota⟩ s = _ from hj]
  cases ok
  · exact if_neg Bool.false_ne_true
  · exact if_pos rfl

theorem resumed_parts {q : Nat} {ok : Bool} {u : State} {r : Queue} (hr : queue? u q = some r) :
    queue? (resumed q ok u) q = some { r with st := if ok then .opened else .notAdmitted } ∧ StepOf q [.hp, .dq, .cv, .pp] u (resumed q ok u) := by
  cases ok
  · exact ⟨queue?_moveQueue_self hr (by decide) (by decide), (moveQueue_stepOf (by decide) u).mono (by simp)⟩
  · have hflows := reserveFlows_only (moveQueue q .opened u)
    refine ⟨?_, ((moveQueue_stepOf (by decide) u).mono (by simp)).trans ((StepOf.of_only hflows (by simp)).mono (by simp))⟩
    exact (queue?_congr (congrArg _ (hflows.same .dq (by simp))) q).trans (queue?_moveQueue_self hr (by decide) (by decide))

/-- Settles O15: outside CREDIT_VIOL and NOT_ADMITTED a resume replies alone; else the judgement takes LINES (`judge_judged`, `judge_linesTaken`), and the
queue moves by its answer (`resumed_parts`). -/
theorem mailboxResume : Obligations.MailboxResume := by
  intro s s' r q x hl hk hlv hdp hs hb hs' hres hq hx hld
  have hname : q = fld (reqWord s' 2) 0 16 := by rw [hs', reqWord_mboxTaken 4 r s (k := 0) (by decide), hq]
  have hx' : queue? s' q = some x := hs' ▸ hx
  have hld' : loading s' x.part = false := hs' ▸ hld
  have hmop : fld (reqWord s' 0) 0 8 = 4 := hs' ▸ reqMop_mboxTaken (by decide) r s
  have htag : reqTag s' = r.tag.toNat := hs' ▸ reqTag_mboxTaken 4 r s
  have hframe : Only [.dq] s s' := hs' ▸ mboxTaken_only 4 r s
  have hqueues : s'.dq.queues = s.dq.queues := hs' ▸ rfl
  have hlines : declLines s' x.cls = declLines s x.cls := declLines_congr (hframe.same .rm (by simp)) _
  have hexec : exec (.queueResume r) s = .next (doResume s') := by
    have hact := actMbox_resume (s := s') (hs' ▸ hs) hmop hres (hname ▸ hx') hld'
    exact (run_live hl _).trans (congrArg _ ((hostAct_mboxRow 4 r hk hlv hdp hb).trans (hs' ▸ hact)))
  clear hs' hq
  refine ⟨fun hc hn => ⟨_, hexec.trans (congrArg _ (doResume_other hname hx' hc hn)), ?other⟩,
    fun hst ok b u hj => ⟨_, hexec.trans (congrArg _ (doResume_judged hname hx' hst hj)), ?judged⟩⟩
  case other =>
    refine ⟨hqueues, ?_, (hframe.mono (by simp)).trans (postReply_only _ _ _ _ _ _)⟩
    rw [postReply_reply, htag]
  case judged =>
    have hu := judge_judged hj
    have hrec : queue? u q = some { x with lines := declLines s x.cls } := hlines ▸ (judge_linesTaken hj hx').queue
    obtain ⟨hqueue, hothers, hdq, honly⟩ := resumed_parts (ok := ok) hrec
    refine ⟨hqueue, fun p hp => ?_, ?_, ?_⟩
    · exact (judgedAs_congr (hothers p hp)).trans ((hu.queues p).trans (judgedAs_congr (queue?_congr hqueues p)))
    · rw [postReply_reply, hdq.reqTag_eq, hu.reqTag_eq, htag, qstate_of_queue hqueue]
    · exact (((hframe.mono (by simp)).trans (hu.only.mono (by simp))).trans (honly.mono (by simp))).trans ((postReply_only _ _ _ _ _ _).mono (by simp))

end Sys2Proof.Machine
end

section
/-! PROOFS. The ends of a queue's life (R62, R68, R88, R92): QUEUE_CLOSED, DRAIN_TIMEOUT, and the FIFO of queue events. -/

namespace Sys2Proof.Machine

/-! ### QUEUE_CLOSED -/

theorem setTlRm_only (tl : Tiles) (rm : Ringmaster) (s : State) : Only [.tl, .rm] s { s with tl := tl, rm := rm } := fun p => by
  cases p <;> simp [Part.same]

theorem endJobs_only (p : Job → Bool) (s : State) : Only [.tl, .rm] s (endJobs p s) := setTlRm_only _ _ s

theorem r2give_only (n : Nat) (s : State) : Only [.pp] s (r2give n s) := fun p => by cases p <;> simp [Part.same, r2give]

theorem setFlow_only (f : Nat) (x : Flow) (s : State) : Only [.cv] s (setFlow f x s) := fun p => by cases p <;> simp [Part.same]

/-- The end of the work of a queue: it is CLOSED and its jobs are gone (R62, R372). -/
def workEnded (q : Nat) (s : State) : State := freeJobs q (moveQueue q .closed s)

theorem workEnded_parts {q : Nat} {r : Queue} {s : State} (hq : queue? s q = some r) : qstate (workEnded q s) q = .closed ∧
    (workEnded q s).rm.jobs = s.rm.jobs.filter (fun j => !(j.queue == some q)) ∧ StepOf q [.hp, .dq, .tl, .rm] s (workEnded q s) := by
  have hmove : StepOf q [.hp, .dq] s (moveQueue q .closed s) := moveQueue_stepOf (by decide) s
  have hjobs := endJobs_only (fun j => j.queue == some q) (moveQueue q .closed s)
  refine ⟨qstate_moveQueue hq (by decide), ?_, (hmove.mono (by simp)).trans ((StepOf.of_only hjobs (by simp)).mono (by simp))⟩
  rw [← hmove.only.same .rm (by simp)]
  rfl

/-- A fabric queue's flow without its waiting command and its unused reservations (log 73). -/
def flowFreed (r : Queue) (s : State) : State :=
  if r.door = 3 then
    setFlow r.sel { flow s r.sel with wait := none, resv := [] } (r2give (((flow s r.sel).resv.map Resv.total).sum) s)
  else s

/-- A scan-front queue's door as at reset, but for its lines and its calibration. -/
def doorFreed (r : Queue) (s : State) : State :=
  if r.door = 1 ∨ r.door = 2 then
    setDoor (scanDoor r) { Door.init with past := (door s (scanDoor r)).past, pre := (door s (scanDoor r)).pre, cal := (door s (scanDoor r)).cal,
                                          calOn := (door s (scanDoor r)).calOn, calLines := (door s (scanDoor r)).calLines } s
  else s

theorem flowFreed_only (r : Queue) (s : State) : Only [.cv, .pp] s (flowFreed r s) := by
  unfold flowFreed
  split
  · exact ((r2give_only _ s).mono (by simp)).trans ((setFlow_only _ _ _).mono (by simp))
  · exact Only.refl _ s

theorem doorFreed_only (r : Queue) (s : State) : Only [.sf] s (doorFreed r s) := by
  unfold doorFreed
  split
  · exact setDoor_only _ _ s
  · exact Only.refl _ s

/-- A close that waits for queue `q` is answered (R68). -/
def closeAnswered (q : Nat) (s : State) : State := if s.dq.busy = some (.close q) then postReply (reqTag s) cOk 0 0 0 s else s

theorem closeAnswered_queue? (q p : Nat) (s : State) : queue? (closeAnswered q s) p = queue? s p := by
  unfold closeAnswered
  split <;> rfl

theorem closeAnswered_only (q : Nat) (s : State) : Only [.hp, .dq] s (closeAnswered q s) := by
  unfold closeAnswered
  split
  · exact postReply_only _ _ _ _ _ s
  · exact Only.refl _ s

theorem closeAnswered_reply {q : Nat} {s : State} (h : s.dq.busy = some (.close q)) : (closeAnswered q s).dq.busy = none ∧
    (closeAnswered q s).dq.reply = [(0, place (reqTag s) 0 32), (1, 0), (2, 0)] := by
  rw [closeAnswered, if_pos h]
  exact ⟨rfl, postReply_closed _ s⟩

theorem queueClosed_drained {q : Nat} {r : Queue} {s : State} (hq : queue? s q = some r) (hst : r.st = .closing) (hd : drained s q r = true) :
    queueClosed q s = closeAnswered q (doorFreed r (flowFreed r (workEnded q s))) := by
  unfold queueClosed
  rw [hq]
  exact if_pos ⟨hst, hd⟩

/-- What QUEUE_CLOSED leaves of a queue with all its work out (R62, R68, R372). -/
theorem queueClosed_parts {q : Nat} {r : Queue} {s : State} (hq : queue? s q = some r) (hst : r.st = .closing) (hd : drained s q r = true) :
    qstate (queueClosed q s) q = .closed ∧ (∀ p, p ≠ q → queue? (queueClosed q s) p = queue? s p) ∧
      (queueClosed q s).rm.jobs = s.rm.jobs.filter (fun j => !(j.queue == some q)) ∧
      (s.dq.busy = some (.close q) → (queueClosed q s).dq.busy = none ∧
        (queueClosed q s).dq.reply = [(0, place (reqTag s) 0 32), (1, 0), (2, 0)]) ∧
      Only [.hp, .dq, .sf, .rm, .tl, .cv, .pp] s (queueClosed q s) := by
  obtain ⟨hclosed, hjobs, hothers, hdq, honly⟩ := workEnded_parts hq
  obtain ⟨u, hu⟩ : ∃ u, u = doorFreed r (flowFreed r (workEnded q s)) := ⟨_, rfl⟩
  have hfreed : Only [.cv, .pp, .sf] (workEnded q s) u :=
    hu ▸ ((flowFreed_only r _).mono (by simp)).trans ((doorFreed_only r _).mono (by simp))
  have hudq : u.dq = (workEnded q s).dq := hfreed.same .dq (by simp)
  have hurm : u.rm = (workEnded q s).rm := hfreed.same .rm (by simp)
  have hqueue (p : Nat) : queue? (closeAnswered q u) p = queue? (workEnded q s) p :=
    (closeAnswered_queue? q p u).trans (queue?_congr (congrArg _ hudq) p)
  have hbusy : u.dq.busy = s.dq.busy := (congrArg Dechel.busy hudq).trans ((congrArg Dechel.busy hdq).trans rfl)
  have htag : reqTag u = reqTag s := (reqTag_congr (congrArg _ hudq)).trans hdq.reqTag_eq
  rw [queueClosed_drained hq hst hd, ← hu]
  refine ⟨?_, fun p hp => ?_, ?_, fun hwait => ?_, ?_⟩
  · rw [qstate_congr (hqueue _), hclosed]
  · rw [hqueue, hothers p hp]
  · rw [(closeAnswered_only q u).same .rm (by simp), hurm, hjobs]
  · rw [← htag]
    exact closeAnswered_reply (hbusy.trans hwait)
  · exact ((honly.mono (by simp)).trans (hfreed.mono (by simp))).trans ((closeAnswered_only _ u).mono (by simp))

theorem queueClosed_idle {q : Nat} {r : Queue} {s : State} (hq : queue? s q = some r) (h : r.st ≠ .closing ∨ drained s q r = false) :
    queueClosed q s = s := by
  have h' : ¬ (r.st = .closing ∧ drained s q r = true) := by
    rintro ⟨hst, hd⟩
    simp [hst, hd] at h
  simp [queueClosed, hq, h']

/-! ### DRAIN_TIMEOUT -/

theorem barker_head (event sev : Nat) (r : EventRef) (s : State) : (barker event sev r s).sn.head = s.sn.head + 1 := by
  unfold barker
  split <;> rfl

theorem barker_eseq (event sev : Nat) (r : EventRef) (s : State) : (barker event sev r s).sn.eseq = s.sn.eseq + 1 := by
  unfold barker
  split <;> rfl

theorem bitOf_or_left {w : Word} {i : Nat} (h : bitOf w i = true) (v : Word) : bitOf (w ||| v) i = true := by
  unfold bitOf at h ⊢
  rw [BitVec.getLsbD_or, h, Bool.true_or]

/-- An alert or fatal event raises BARKER (R438, R439). -/
theorem barker_alerts {sev : Nat} (h : 2 ≤ sev) (event : Nat) (r : EventRef) (s : State) :
    barker event sev r s = alert 5 { s with sn := (barker event sev r s).sn } := by
  simp [barker, h]

theorem setSn_only (n : Safety) (s : State) : Only [.sn] s { s with sn := n } := fun p => by cases p <;> simp [Part.same]

theorem pushQevt_room {w : Word} {s : State} (h : s.dq.qevt.length < 64) : (pushQevt w s).dq.qevt = s.dq.qevt ++ [w] := by simp [pushQevt, h]

theorem pushQevt_full {w : Word} {s : State} (h : 64 ≤ s.dq.qevt.length) :
    (pushQevt w s).dq.qevt = s.dq.qevt ∧ (pushQevt w s).dq.qevtLost = satAdd s.dq.qevtLost 1 := by
  simp [pushQevt, Nat.not_lt.2 h]

/-- A queue in HOLD for its drain timeout is STALLED (R62, R88). -/
theorem drainTimeout_due {q : Nat} {r : Queue} {s : State} (hq : queue? s q = some r) (hst : r.st = .hold)
    (hd : r.holdSince.toNat + r.drainMs * 1000000 ≤ s.now.toNat) : drainTimeout q s = moveQueue q .stalled s := by
  simp [drainTimeout, hq, hst, hd]

theorem drainTimeout_idle {q : Nat} {r : Queue} {s : State} (hq : queue? s q = some r)
    (h : r.st ≠ .hold ∨ s.now.toNat < r.holdSince.toNat + r.drainMs * 1000000) : drainTimeout q s = s := by
  have h' : ¬ (r.st = .hold ∧ r.holdSince.toNat + r.drainMs * 1000000 ≤ s.now.toNat) := fun ⟨hst, hd⟩ => h.elim (· hst) (by omega)
  simp [drainTimeout, hq, h']

/-- What a queue's entry into STALLED leaves (R62, R64, R88, R92). -/
theorem moveQueue_stalled_parts {q : Nat} {r : Queue} {s : State} (hq : queue? s q = some r) (hst : r.st ≠ .stalled) :
    (∀ p, queue? (moveQueue q .stalled s) p = if p = q then some (r.movedTo .stalled s.now) else queue? s p) ∧
      (s.dq.qevt.length < 64 → (moveQueue q .stalled s).dq.qevt = s.dq.qevt ++ [qevtWord q .stalled]) ∧
      (64 ≤ s.dq.qevt.length → (moveQueue q .stalled s).dq.qevt = s.dq.qevt ∧ (moveQueue q .stalled s).dq.qevtLost = satAdd s.dq.qevtLost 1) ∧
      bitOf (moveQueue q .stalled s).hp.alertStat 1 = true ∧ bitOf (moveQueue q .stalled s).hp.alertStat 5 = true ∧
      (moveQueue q .stalled s).sn.head = s.sn.head + 1 ∧ (moveQueue q .stalled s).sn.eseq = s.sn.eseq + 1 ∧
      Only [.hp, .dq, .sn] s (moveQueue q .stalled s) := by
  have hrec := setQueue_only q (r.movedTo .stalled s.now) s
  have hpush := pushQevt_only (qevtWord q .stalled) (setQueue q (r.movedTo .stalled s.now) s)
  have hsn : (pushQevt (qevtWord q .stalled) (setQueue q (r.movedTo .stalled s.now) s)).sn = s.sn := (hrec.trans hpush).same .sn (by simp)
  rw [moveQueue_stalled hq hst]
  refine ⟨fun p => ?_, fun h => ?_, fun h => ?_, ?_, ?_, ?_, ?_, ?_⟩
  · rw [queue?_congr (s := pushQevt _ _) (by rw [barker_dq, alert_dq]), queue?_congr (pushQevt_queues _ _), queue?_setQueue]
  · rw [barker_dq]
    exact pushQevt_room h
  · rw [barker_dq]
    exact pushQevt_full h
  · rw [barker_alerts (by decide)]
    exact bitOf_or_left (bitOf_alert (i := 1) (by decide) _) _
  · rw [barker_alerts (by decide)]
    exact bitOf_alert (by decide) _
  · rw [barker_head, alert_sn, hsn]
  · rw [barker_eseq, alert_sn, hsn]
  · rw [barker_alerts (by decide)]
    exact (((hrec.trans hpush).mono (by simp)).trans ((alert_only 1 _).mono (by simp))).trans
      (((setSn_only _ _).mono (by simp)).trans ((alert_only 5 _).mono (by simp)))

/-! ### DQ_QEVT -/

theorem popQevt_front {w : Word} {rest : List Word} {s : State} (h : s.dq.qevt = w :: rest) :
    popQevt s = (w, { s with dq := { s.dq with qevt := rest } }) := by simp [popQevt, h]

theorem popQevt_empty {s : State} (h : s.dq.qevt = []) : popQevt s = (0, s) := by simp [popQevt, h]

theorem popBy_visible {src : Src} {s : State} (hv : src ≠ .host ∨ locked s = true) (f : State → Word × State) :
    popBy src f s = { (f s).2 with rd := (f s).1 } := by
  have h : ¬ (src = .host ∧ ¬ locked s = true) := by tauto
  simp only [popBy, if_neg h]

theorem popBy_unlocked {s : State} (h : locked s = false) (f : State → Word × State) : popBy .host f s = { s with rd := 0 } := by simp [popBy, h]

/-! ### The statement -/

/-- Settles O16: a drained queue's work ends (`queueClosed_parts`), a timed-out one moves to STALLED, and a read takes the FIFO's front. -/
theorem queueLifeEvents : Obligations.QueueLifeEvents := by
  intro s hl
  refine ⟨fun q r hq => ⟨fun hst hd => ?closed, fun h => (run_live hl _).trans (congrArg _ (queueClosed_idle hq h)), fun hst hd => ?stalled,
    fun h => (run_live hl _).trans (congrArg _ (drainTimeout_idle hq h))⟩,
    fun src hv => ⟨fun w rest hw => (run_live hl _).trans (congrArg _ ?pop), fun hw => (run_live hl _).trans (congrArg _ ?empty)⟩,
    fun hk => (run_live hl _).trans (congrArg _ (popBy_unlocked hk _))⟩
  case closed =>
    obtain ⟨hclosed, hothers, hjobs, hreply, honly⟩ := queueClosed_parts hq hst hd
    refine ⟨_, run_live hl _, hclosed, hothers, fun j hj => ?_, fun j hj hne => ?_, hreply, honly⟩
    · rw [hjobs] at hj
      simpa using (List.mem_filter.1 hj).2
    · rw [hjobs]
      exact List.mem_filter.2 ⟨hj, by simpa using hne⟩
  case stalled =>
    obtain ⟨hqueue, hparts⟩ := moveQueue_stalled_parts hq (show r.st ≠ .stalled by rw [hst]; decide)
    exact ⟨_, (run_live hl _).trans (congrArg _ (drainTimeout_due hq hst hd)), (hqueue _).trans (if_pos rfl), fun p hp => (hqueue p).trans (if_neg hp),
      hparts⟩
  case pop => rw [popBy_visible hv, popQevt_front hw]
  case empty => rw [popBy_visible hv, popQevt_empty hw]

end Sys2Proof.Machine
end

section
/-! PROOFS. Records of the queues on their way out (R62, R79 to R83, R87): the bytes of a record, the slot and the text that it takes in its ring's
area of the aperture, and HOLD. -/

namespace Sys2Proof.Machine

/-! ### Reads of stored bytes -/

/-- Bytes read from inside a stored byte string. -/
theorem Memory.readBytes_writeBytes (m : Memory) (a : Nat) (bs : Bytes) {o n : Nat} (h : o + n ≤ bs.length) :
    Memory.readBytes (Memory.writeBytes m a bs) (a + o) n = (bs.drop o).take n := by
  refine List.ext_getElem (by simp [Memory.readBytes]; omega) (fun i hi _ => ?_)
  have hin : i < n := by simpa [Memory.readBytes] using hi
  have hread : Memory.read (Memory.writeBytes m a bs) (a + o + i) = bs[o + i] := by
    rw [Memory.read_writeBytes, if_pos (by omega), show a + o + i - a = o + i by omega]
    exact List.getD_eq_getElem bs 0 (by omega)
  simpa [Memory.readBytes] using hread

theorem Memory.readNat_writeBytes (m : Memory) (a : Nat) (bs : Bytes) {o n : Nat} (h : o + n ≤ bs.length) :
    Memory.readNat (Memory.writeBytes m a bs) (a + o) n = leAt bs o n := by
  rw [Memory.readNat, Memory.readBytes_writeBytes m a bs h, leAt]

theorem Memory.read_toNat (m : Memory) (a : Nat) : (Memory.read m a).toNat = Memory.readNat m a 1 := by
  simp [Memory.readNat, Memory.readBytes, leNat]

theorem Memory.readBytes_congr {m m' : Memory} {a n : Nat} (h : ∀ k, a ≤ k → k < a + n → Memory.read m' k = Memory.read m k) :
    Memory.readBytes m' a n = Memory.readBytes m a n := by
  refine List.map_congr_left (fun i hi => h _ (by omega) ?_)
  have := List.mem_range.1 hi
  omega

/-! ### The bytes of a record -/

/-- Bytes laid out as R82 lays out a record: LAP at 0 and 32, and QUEUE, RSEQ and CSEQ from 4 on. -/
structure LaidOut (lap q : Nat) (rseq cseq : BitVec 32) (b : Bytes) : Prop where
  size : b.length = 64
  lap0 : b.take 1 = leBytes 1 lap
  names : (b.drop 4).take 12 = leBytes 4 q ++ (leBytes 4 rseq.toNat ++ leBytes 4 cseq.toNat)
  lap32 : (b.drop 32).take 1 = leBytes 1 lap

theorem recBytes_laidOut (x : Rec) (lap q : Nat) (rseq : BitVec 32) (status textOff : Nat) (done : BitVec 64) :
    LaidOut lap q rseq x.cseq (recBytes x lap q rseq status textOff done) := by
  unfold recBytes
  extract_lets flags
  generalize flags = n
  refine ⟨?_, ?_, ?_, ?_⟩
  · simp
  · simp
  · simp [List.take_append, List.drop_append, List.drop_of_length_le, List.take_of_length_le]
  · simp [List.drop_append, List.drop_of_length_le]

/-- A command record keeps what it keeps of a page record's bytes in place (R82, log 7). -/
theorem cmdBytes_kept (g1 : Bool) {f b : Bytes} (hf : f.length = cmdFree) (hb : b.length = 64) :
    (cmdBytes g1 f b).length = 64 ∧ (cmdBytes g1 f b).take 1 = b.take 1 ∧ ((cmdBytes g1 f b).drop 4).take 12 = (b.drop 4).take 12 ∧
      ((cmdBytes g1 f b).drop 32).take 1 = (b.drop 32).take 1 := by
  have hf' : f.length = 25 := hf
  cases g1 <;> refine ⟨?_, ?_, ?_, ?_⟩ <;>
    simp [cmdBytes, List.take_append, List.drop_append, List.drop_of_length_le, List.take_of_length_le, List.take_take, List.drop_take, hf', hb]

/-- The bytes of every record, a command's too, carry these fields (R82). -/
theorem sendBytes_laidOut (x : Rec) (lap q : Nat) (r : Queue) (status textOff : Nat) (s : State) :
    LaidOut lap q r.rseq x.cseq (sendBytes x lap q r status textOff s).1 := by
  have hrec := recBytes_laidOut x lap q r.rseq status textOff s.now
  unfold sendBytes
  dsimp only
  split
  · obtain ⟨ksize, klap0, knames, klap32⟩ := cmdBytes_kept (r.gen == 1) (f := (freshBytes cmdFree s).1) (by simp [freshBytes]) hrec.size
    exact ⟨ksize, klap0.trans hrec.lap0, knames.trans hrec.names, klap32.trans hrec.lap32⟩
  · exact hrec

section
variable {lap q : Nat} {rseq cseq : BitVec 32} {b : Bytes} (h : LaidOut lap q rseq cseq b)
include h

/-- The fields of a record as numbers. -/
theorem LaidOut.fields (hlap : lap < 256) (hq : q < 65536) : leAt b 0 1 = lap ∧ leAt b 32 1 = lap ∧ leAt b 4 4 = q ∧ leAt b 8 4 = rseq.toNat ∧
    leAt b 12 4 = cseq.toNat := by
  have h4 : (b.drop 4).take 4 = leBytes 4 q := by
    have e := congrArg (List.take 4) h.names
    simpa [List.take_take] using e
  have h8 : (b.drop 8).take 4 = leBytes 4 rseq.toNat := by
    have e := congrArg (fun l => (List.drop 4 l).take 4) h.names
    simpa [List.take_take, List.drop_take, List.drop_append, List.drop_of_length_le] using e
  have h12 : (b.drop 12).take 4 = leBytes 4 cseq.toNat := by
    have e := congrArg (List.drop 8) h.names
    simpa [List.drop_take, List.drop_append, List.drop_of_length_le] using e
  have hr := rseq.isLt
  have hc := cseq.isLt
  refine ⟨?_, ?_, ?_, ?_, ?_⟩
  · rw [leAt, List.drop_zero, h.lap0, leNat_leBytes]; omega
  · rw [leAt, h.lap32, leNat_leBytes]; omega
  · rw [leAt, h4, leNat_leBytes]; omega
  · rw [leAt, h8, leNat_leBytes]; omega
  · rw [leAt, h12, leNat_leBytes]; omega

end

theorem sendBytes_only (x : Rec) (lap q : Nat) (r : Queue) (status textOff : Nat) (s : State) :
    Only [.freeTick] s (sendBytes x lap q r status textOff s).2 := by
  unfold sendBytes
  dsimp only
  split
  · exact fun p => by cases p <;> simp [Part.same, freshBytes]
  · exact Only.refl _ s

/-! ### The record stored -/

/-- TEXT_OFF of a queue's next record (R83). -/
def textOff (r : Queue) (x : Rec) (s : State) : Nat := if x.text = [] then 0 else r.ring * 0x8000 + textStart (ring s r.ring) x.text.length

/-- LAP of a queue's next record (R81). -/
def lapOf (r : Queue) (s : State) : Nat := (ring s r.ring).p.toNat / 512 % 256

/-- Window address of the slot of a queue's next record (R79). -/
def slotAddr (r : Queue) (s : State) : Nat := 0x00100000 + r.ring * 0x8000 + ((ring s r.ring).p.toNat % 512) * 64

/-- The bytes of a queue's next record, and the state after its free values are drawn. -/
def sentRecord (q : Nat) (r : Queue) (i : OutItem) (x : Rec) (s : State) : Bytes × State :=
  sendBytes x (lapOf r s) q r (writtenStatus s i x) (textOff r x s) s

/-- A memory with a record's text and then its slot stored. -/
def recordAp (r : Queue) (x : Rec) (bytes : Bytes) (s : State) (m : Memory) : Memory :=
  Memory.writeBytes (Memory.writeBytes m (0x00900000 + textOff r x s) x.text) (slotAddr r s) bytes

/-- The record and its text stand in the aperture of `u`, with fresh check bits (R351). -/
def recordStored (r : Queue) (x : Rec) (bytes : Bytes) (s u : State) : State :=
  heal .aperture 0 (slotAddr r s) 64 (heal .aperture 0 (0x00900000 + textOff r x s) x.text.length (setAp u (recordAp r x bytes s u.mem.ap)))

theorem recordStored_only (r : Queue) (x : Rec) (bytes : Bytes) (s u : State) : Only [.mem, .dm] u (recordStored r x bytes s u) :=
  (((setAp_only _ u).mono (by simp)).trans ((heal_only _ _ _ _ _).mono (by simp))).trans ((heal_only _ _ _ _ _).mono (by simp))

section
variable {q : Nat} {r : Queue} {x : Rec} {s : State} {m : Memory}

/-- Slots stand below the text areas (R39, R79). -/
theorem slotAddr_lt (hring : r.ring < 256) : slotAddr r s + 64 ≤ 0x00900000 := by
  have := Nat.mod_lt (ring s r.ring).p.toNat (show 0 < 512 by decide)
  unfold slotAddr
  omega

theorem recordAp_slot {bytes : Bytes} (hq : q < 65536) (h : LaidOut (lapOf r s) q r.rseq x.cseq bytes) :
    (Memory.read (recordAp r x bytes s m) (slotAddr r s)).toNat = lapOf r s ∧
      (Memory.read (recordAp r x bytes s m) (slotAddr r s + 32)).toNat = lapOf r s ∧
      Memory.readNat (recordAp r x bytes s m) (slotAddr r s + 4) 4 = q ∧
      Memory.readNat (recordAp r x bytes s m) (slotAddr r s + 8) 4 = r.rseq.toNat ∧
      Memory.readNat (recordAp r x bytes s m) (slotAddr r s + 12) 4 = x.cseq.toNat := by
  have hfield {o n : Nat} (hon : o + n ≤ 64) : Memory.readNat (recordAp r x bytes s m) (slotAddr r s + o) n = leAt bytes o n :=
    Memory.readNat_writeBytes _ _ bytes (by rwa [h.size])
  obtain ⟨h0, h32, h4, h8, h12⟩ := h.fields (Nat.mod_lt _ (by decide)) hq
  refine ⟨?_, ?_, ?_, ?_, ?_⟩
  · rw [Memory.read_toNat, ← Nat.add_zero (slotAddr r s), hfield (by decide), h0]
  · rw [Memory.read_toNat, hfield (by decide), h32]
  · rw [hfield (by decide), h4]
  · rw [hfield (by decide), h8]
  · rw [hfield (by decide), h12]

/-- Window address of the text of a queue's next record (R83). -/
def textAddr (r : Queue) (x : Rec) (s : State) : Nat := 0x00900000 + r.ring * 0x8000 + textStart (ring s r.ring) x.text.length

theorem textAddr_of_text (h : x.text ≠ []) : 0x00900000 + textOff r x s = textAddr r x s := by
  rw [textOff, if_neg h, textAddr, Nat.add_assoc]

theorem recordAp_text (hring : r.ring < 256) {bytes : Bytes} (h64 : bytes.length = 64) :
    Memory.readBytes (recordAp r x bytes s m) (textAddr r x s) x.text.length = x.text := by
  by_cases htext : x.text = []
  · rw [htext]; rfl
  · have hslot := slotAddr_lt (s := s) hring
    have hle : 0x00900000 ≤ textAddr r x s := by unfold textAddr; omega
    rw [recordAp, textAddr_of_text htext, Memory.readBytes_congr fun k hk _ => Memory.read_writeBytes_of_not _ _ _ k (by omega)]
    have := Memory.readBytes_writeBytes m (textAddr r x s) x.text (o := 0) (n := x.text.length) (by omega)
    simpa using this

theorem recordAp_rest {bytes : Bytes} (h64 : bytes.length = 64) {a : Nat} (hslot : ¬ (slotAddr r s ≤ a ∧ a < slotAddr r s + 64))
    (htext : ¬ (textAddr r x s ≤ a ∧ a < textAddr r x s + x.text.length)) : Memory.read (recordAp r x bytes s m) a = Memory.read m a := by
  rw [recordAp, Memory.read_writeBytes_of_not _ _ _ _ (by rwa [h64])]
  by_cases h : x.text = []
  · exact Memory.read_writeBytes_of_not _ _ _ _ (by simp [h])
  · rw [textAddr_of_text h, Memory.read_writeBytes_of_not _ _ _ _ htext]

end

/-! ### The queue and the ring after a record -/

/-- The excess space that a record draws (R534). -/
def excessDrawn (i : OutItem) (need : Nat) (s : State) : State :=
  match i.page with
  | some pid => modPage pid (fun p => { p with drawn := p.drawn + need }) (r2take need s)
  | none => s

theorem excessDrawn_only (i : OutItem) (need : Nat) (s : State) : Only [.pp] s (excessDrawn i need s) := by
  unfold excessDrawn
  split
  · exact (r2take_only need s).trans (modPage_only _ _ _)
  · exact Only.refl _ s

theorem itemDone_keepsProgress (q k : Nat) (i : OutItem) (s : State) : KeepsProgress [.dq, .pp] s (itemDone q k i s) := by
  have hitems := modQueue_keepsProgress q (f := fun r => { r with items := r.items.eraseIdx k }) (fun _ => rfl) s
  unfold itemDone
  split
  next pid _ =>
    have hpage := modPage_only pid (fun p => { p with stage := .released }) (modQueue q (fun r => { r with items := r.items.eraseIdx k }) s)
    have hsweep (u : State) : Only [.pp] u (sweepProfiles u) := fun p => by cases p <;> simp [Part.same, sweepProfiles]
    exact (hitems.mono (by simp)).trans ((KeepsProgress.of_only (hpage.trans (hsweep _)) (by simp)).mono (by simp))
  next => exact hitems.mono (by simp)

/-- The ring after a queue's next record (R79, R83, R84, R422). -/
def ringAfter (q : Nat) (r : Queue) (i : OutItem) (x : Rec) (bytes : Bytes) (s : State) : Ring :=
  { ring s r.ring with
    p := (ring s r.ring).p + 1
    pos := if x.text = [] then (ring s r.ring).pos else textStart (ring s r.ring) x.text.length + x.text.length
    run := if x.pageEnd then none else some q
    kept := (ring s r.ring).kept ++ [⟨(ring s r.ring).p, bytes, x.text, textOff r x s, textNeed (ring s r.ring) x.text.length, i.page⟩] }

/-- The queue's record after its next record (R18, R82). -/
def queueAfter (r : Queue) (k : Nat) (i : OutItem) (x : Rec) (u : State) : Queue :=
  { r with rseq := r.rseq + 1, items := r.items.set k { i with written := i.written + 1 },
           missed := if overdue u i.page && x.pageEnd then r.missed + 1 else r.missed }

/-- A record has been stored and counted: `u` is the state after its free values are drawn. -/
def recordOut (q : Nat) (r : Queue) (k : Nat) (i : OutItem) (x : Rec) (bytes : Bytes) (s u : State) : State :=
  setQueue q (queueAfter r k i x u) (setRing r.ring (ringAfter q r i x bytes s) (excessDrawn i (excessNeed s i) (recordStored r x bytes s u)))

/-- RING is raised when the count of records reaches the threshold (R58). -/
def ringAlert (g : Ring) (s : State) : State :=
  if 0 < min 512 (fld g.thresh 0 10) ∧ seqDist g.p g.c < min 512 (fld g.thresh 0 10) ∧ min 512 (fld g.thresh 0 10) ≤ seqDist g.p g.c + 1 then alert 0 s
  else s

/-- The item whose last record is out goes (R15). -/
def itemEnded (q k : Nat) (i : OutItem) (s : State) : State :=
  if i.written + 1 = i.recs.length then itemDone q k { i with written := i.written + 1 } s else s

theorem putRecord_eq {q : Nat} {r : Queue} {i : OutItem} {x : Rec} {bytes : Bytes} {s u : State} (k : Nat) (h : sentRecord q r i x s = (bytes, u)) :
    putRecord q r k i x s = itemEnded q k i (ringAlert (ring s r.ring) (recordOut q r k i x bytes s u)) := by
  delta putRecord
  extract_lets g need start used off lap
  rw [show sendBytes x lap q r (writtenStatus s i x) off s = (bytes, u) from h]
  rfl

/-- What follows a record that is out keeps every queue's progress. -/
theorem putRecord_keepsProgress {q : Nat} {r : Queue} {i : OutItem} {x : Rec} {bytes : Bytes} {s u : State} (k : Nat)
    (h : sentRecord q r i x s = (bytes, u)) : KeepsProgress [.hp, .dq, .pp] (recordOut q r k i x bytes s u) (putRecord q r k i x s) := by
  have halert (g : Ring) (v : State) : KeepsProgress [.hp, .dq, .pp] v (ringAlert g v) := by
    unfold ringAlert
    split
    · exact (KeepsProgress.of_only (alert_only 0 v) (by simp)).mono (by simp)
    · exact (KeepsProgress.refl v).mono (by simp)
  have hended (v : State) : KeepsProgress [.hp, .dq, .pp] v (itemEnded q k i v) := by
    unfold itemEnded
    split
    · exact (itemDone_keepsProgress q k _ v).mono (by simp)
    · exact (KeepsProgress.refl v).mono (by simp)
  rw [putRecord_eq k h]
  exact (halert _ _).trans (hended _)

theorem recordOut_only (q : Nat) (r : Queue) (k : Nat) (i : OutItem) (x : Rec) (bytes : Bytes) (s u : State) :
    Only [.dq, .pp, .dm, .mem] u (recordOut q r k i x bytes s u) := by
  have hstored := (recordStored_only r x bytes s u).mono (qs := [.dq, .pp, .dm, .mem]) (by simp)
  have hdrawn := (excessDrawn_only i (excessNeed s i) (recordStored r x bytes s u)).mono (qs := [.dq, .pp, .dm, .mem]) (by simp)
  exact ((hstored.trans hdrawn).trans ((setRing_only _ _ _).mono (by simp))).trans ((setQueue_only _ _ _).mono (by simp))

theorem recordOut_mem (q : Nat) (r : Queue) (k : Nat) (i : OutItem) (x : Rec) (bytes : Bytes) (s u : State) :
    (recordOut q r k i x bytes s u).mem = { u.mem with ap := recordAp r x bytes s u.mem.ap } :=
  (excessDrawn_only i (excessNeed s i) (recordStored r x bytes s u)).same .mem (by simp)

theorem ring_recordOut {q : Nat} {r : Queue} {k : Nat} {i : OutItem} {x : Rec} {bytes : Bytes} {s u : State} (hu : u.dq = s.dq) (n : Nat) :
    ring (recordOut q r k i x bytes s u) n = if n = r.ring then ringAfter q r i x bytes s else ring s n := by
  have hdrawn : (excessDrawn i (excessNeed s i) (recordStored r x bytes s u)).dq = s.dq :=
    ((excessDrawn_only i (excessNeed s i) (recordStored r x bytes s u)).same .dq (by simp)).trans
      (((recordStored_only r x bytes s u).same .dq (by simp)).trans hu)
  exact (ring_setRing r.ring n _ _).trans (by rw [ring_congr (congrArg _ hdrawn)])

/-! ### RECORD_WRITE -/

section
variable {q k : Nat} {r : Queue} {i : OutItem} {x : Rec} {s : State} (hq : queue? s q = some r) (hdoor : r.door ≠ 3) (hn : nextRec r = some (k, i, x))
include hq hdoor hn

theorem recordWrite_room (hw : canWrite s q r i x = true) : recordWrite q s = unholdCheck q (settleArms q (putRecord q r k i x s)) := by
  simp [recordWrite, hq, hdoor, hn, hw]

/-- Without room an OPEN queue holds (R62, R87). -/
theorem recordWrite_noRoom (hw : canWrite s q r i x = false) (hst : r.st = .opened) : recordWrite q s = moveQueue q .hold s := by
  simp [recordWrite, holdCheck, hq, hdoor, hn, hw, hst]

end

/-- A record that goes out leaves its queue's ring, RSEQ and slot as `recordOut` says, and nothing else but what a queue's end of output touches. -/
theorem recordWrite_keepsProgress {q k : Nat} {r : Queue} {i : OutItem} {x : Rec} {bytes : Bytes} {s u : State}
    (h : sentRecord q r i x s = (bytes, u)) : KeepsProgress [.hp, .dq, .pp, .sf] (recordOut q r k i x bytes s u)
      (unholdCheck q (settleArms q (putRecord q r k i x s))) :=
  (((putRecord_keepsProgress k h).mono (by simp)).trans ((settleArms_keepsProgress q _).mono (by simp))).trans
    ((unholdCheck_keepsProgress q _).mono (by simp))

/-- Settles O21: with room the record is stored (`recordAp_slot`, `recordAp_text`, `recordAp_rest`) and counted (`ring_recordOut`), and the rest keeps
the queues' progress; without room the queue moves to HOLD. -/
theorem recordsGoOut : Obligations.RecordsGoOut := by
  intro s q r k i x hl hq hdoor hring hn
  refine ⟨fun hw => ⟨_, (run_live hl _).trans (congrArg _ (recordWrite_room hq hdoor hn hw)), ?_⟩,
    fun hw hst => ⟨_, (run_live hl _).trans (congrArg _ (recordWrite_noRoom hq hdoor hn hw hst)), ?_⟩⟩
  · obtain ⟨bytes, u, hsent⟩ : ∃ bytes u, sentRecord q.toNat r i x s = (bytes, u) := ⟨_, _, rfl⟩
    have hlaid : LaidOut (lapOf r s) q.toNat r.rseq x.cseq bytes := by
      have h := sendBytes_laidOut x (lapOf r s) q.toNat r (writtenStatus s i x) (textOff r x s) s
      rwa [show sendBytes _ _ _ _ _ _ _ = (bytes, u) from hsent] at h
    have hu : Only [.freeTick] s u := by
      have h := sendBytes_only x (lapOf r s) q.toNat r (writtenStatus s i x) (textOff r x s) s
      rwa [show sendBytes _ _ _ _ _ _ _ = (bytes, u) from hsent] at h
    have hudq : u.dq = s.dq := hu.same .dq (by simp)
    have humem : u.mem = s.mem := hu.same .mem (by simp)
    have hkeep := recordWrite_keepsProgress (k := k) hsent
    have hrings (n : Nat) := (hkeep.dq.ring_eq n).trans (ring_recordOut (k := k) (i := i) (x := x) hudq n)
    have hmem := (hkeep.only.same .mem (by simp)).trans (recordOut_mem q.toNat r k i x bytes s u)
    rw [humem] at hmem
    refine ⟨?_, ?_, fun n hne => (hrings n).trans (if_neg hne), ?_, ?_, ?_, ?_⟩
    · rw [hrings, if_pos rfl]; rfl
    · rw [hrings, if_pos rfl]; rfl
    · exact (hkeep.field (f := (·.rseq)) (fun _ => rfl) _).trans (by rw [recordOut, queue?_setQueue_self]; rfl)
    · rintro slot lap tx rfl rfl rfl
      rw [hmem]
      obtain ⟨h0, h32, h4, h8, h12⟩ := recordAp_slot (m := s.mem.ap) q.isLt hlaid
      exact ⟨h0, h32, h4, h8, h12, recordAp_text hring hlaid.size, fun a hslot htext => recordAp_rest hlaid.size hslot htext⟩
    · rw [hmem]
    · exact ((hu.mono (by simp)).trans ((recordOut_only _ _ _ _ _ _ _ _).mono (by simp))).trans (hkeep.only.mono (by simp))
  · have hne : r.st ≠ .hold := by rw [hst]; decide
    obtain ⟨hothers, hdq, honly⟩ := moveQueue_stepOf (q := q.toNat) (st := .hold) (by decide) s
    refine ⟨(queue?_moveQueue_moved hq hne (by decide) _).trans (if_pos rfl), hothers, (congrArg Dechel.rings hdq).trans rfl, ?_, honly⟩
    rw [moveQueue_moved hq hne (by decide)]
    exact bitOf_alert (by decide) _

end Sys2Proof.Machine
end

section
/-! PROOFS. The timing pattern (R101 to R103, R105, R107, R110): which step executes, and what each of its operations sets. -/

namespace Sys2Proof.Machine

/-! ### The step executing -/

section
variable {s : State} {op : Nat}

/-- The generator runs and stands at a step of this operation (R101, R102). -/
theorem atOp_here (hrun : s.sf.running = true) (hop : pgOp (pgStep s s.sf.step) = op) : atOp s op = some (pgStep s s.sf.step) := by
  simp [atOp, hrun, hop]

/-- Elsewhere, or while the generator stands, no step of this operation executes. -/
theorem atOp_elsewhere (h : s.sf.running = false ∨ pgOp (pgStep s s.sf.step) ≠ op) : atOp s op = none := by
  rcases h with h | h <;> simp [atOp, h]

end

/-! ### The statement -/

/-- The rows of the pattern with the operation of each (R101). -/
def patternRows : List (Nat × Instr) :=
  [(0, .patternRun), (1, .sethi), (2, .loop0), (3, .loop1), (4, .waitLine), (5, .capture), (6, .colour), (7, .patternEnd)]

/-- A row of the pattern changes nothing where its operation does not execute. -/
theorem patternRow_elsewhere {s : State} (hl : Live s) {op : Nat} {c : Instr} (hc : (op, c) ∈ patternRows) (h : atOp s op = none) :
    exec c s = .next s := by
  simp only [patternRows, List.mem_cons, Prod.mk.injEq, List.not_mem_nil, or_false] at hc
  rcases hc with ⟨rfl, rfl⟩ | ⟨rfl, rfl⟩ | ⟨rfl, rfl⟩ | ⟨rfl, rfl⟩ | ⟨rfl, rfl⟩ | ⟨rfl, rfl⟩ | ⟨rfl, rfl⟩ | ⟨rfl, rfl⟩ <;>
    exact (run_live hl _).trans
      (by simp only [patternRun, patternSethi, patternLoop, patternWait, patternCapture, patternColour, patternEnd, h])

/-- A loop step runs out, its counter reloading, or goes back with one pass less (R102). -/
theorem patternLoop_here {s : State} {op : Nat} (h : atOp s op = some (pgStep s s.sf.step)) :
    patternLoop op s = if tabGet s.sf.loops s.sf.step (pgHi (pgStep s s.sf.step)) = 0 then
        goStep (s.sf.step + 1) { s with sf := { s.sf with loops := tabDel s.sf.loops s.sf.step } }
      else goStep (pgTarget (pgStep s s.sf.step)) { s with sf := { s.sf with
        loops := tabSet s.sf.loops s.sf.step (tabGet s.sf.loops s.sf.step (pgHi (pgStep s s.sf.step)) - 1) } } := by
  simp only [patternLoop, h]

/-- The rows of LOOP0 and LOOP1 are one function. -/
theorem exec_loopRow {s : State} (hl : Live s) {op : Nat} {c : Instr} (hc : (op, c) ∈ [(2, Instr.loop0), (3, Instr.loop1)]) :
    exec c s = .next (patternLoop op s) := by
  simp only [List.mem_cons, Prod.mk.injEq, List.not_mem_nil, or_false] at hc
  rcases hc with ⟨rfl, rfl⟩ | ⟨rfl, rfl⟩ <;> exact run_live hl _

/-- Settles O24: each row by the one equation of its function at a step of its operation (`atOp_here`), and none elsewhere. -/
theorem patternSteps : Obligations.PatternSteps := by
  intro s w k hl hk hw
  subst hk hw
  refine ⟨fun hrun => ⟨fun h => ?run, fun h hp => ?sethi, fun h hp => ?sethiHeld, fun op c hc h => ⟨fun h0 => ?loopOut, fun n hn => ?loopBack⟩,
    fun h ht => ?release, fun h ht => ?wait, fun h cs hcs => ?capture, fun h => ?colour, fun h hs => ?again, fun h hs => ?stop⟩,
    fun op c hc h => patternRow_elsewhere hl hc (atOp_elsewhere h)⟩
  case run => exact (run_live hl _).trans (by simp only [patternRun, atOp_here hrun h, goStep])
  case sethi => exact (run_live hl _).trans (by simp only [patternSethi, atOp_here hrun h, goStep, hp]; rfl)
  case sethiHeld => exact (run_live hl _).trans (by simp only [patternSethi, atOp_here hrun h, goStep, hp]; rfl)
  case loopOut => rw [exec_loopRow hl hc, patternLoop_here (atOp_here hrun h), if_pos h0]; rfl
  case loopBack => rw [exec_loopRow hl hc, patternLoop_here (atOp_here hrun h), if_neg (by simp [hn]), hn]; rfl
  case release => exact (run_live hl _).trans (by simp only [patternWait, atOp_here hrun h, ht, goStep, if_true])
  case wait => exact (run_live hl _).trans (by simp [patternWait, atOp_here hrun h, ht])
  case capture => exact (run_live hl _).trans (by simp only [patternCapture, atOp_here hrun h, goStep, hcs])
  case colour => exact (run_live hl _).trans (by simp only [patternColour, atOp_here hrun h, goStep])
  case again => exact (run_live hl _).trans (by simp [patternEnd, atOp_here hrun h, goStep, pgStart, hs])
  case stop => exact (run_live hl _).trans (by simp [patternEnd, atOp_here hrun h, goStep, pgStart, hs])

end Sys2Proof.Machine
end

section
/-! PROOFS. Control of the pattern generator (R103 to R106, R109, R130): writes to SF_PG_CTL and SF_PG_ACC, lane training, line triggers. -/

namespace Sys2Proof.Machine

/-! ### Bits of a register -/

theorem bitOf_maskOf {lo n i : Nat} (hi : i < 64) : bitOf (maskOf lo n) i = decide (lo ≤ i ∧ i < lo + n) := by
  rw [bitOf, maskOf, BitVec.getLsbD_ofNat, Nat.testBit_shiftLeft, Nat.testBit_two_pow_sub_one, Bool.eq_iff_iff]
  simp [hi]
  omega

theorem bitOf_enMask_all {i : Nat} (hi : i < 64) : bitOf (enMask 255#8) i = true := by
  rw [show enMask 255#8 = BitVec.allOnes 64 by decide, bitOf, BitVec.getLsbD_allOnes]
  simp [hi]

theorem bitOf_putBits (old d rw en : Word) (i : Nat) :
    bitOf (putBits old d rw en) i = if bitOf rw i && bitOf en i then bitOf d i else bitOf old i := by
  by_cases hi : i < 64
  · cases hr : bitOf rw i <;> cases he : bitOf en i <;> simp_all [bitOf, putBits]
  · simp [bitOf, BitVec.getLsbD_of_ge _ _ (Nat.le_of_not_lt hi)]

/-- A field whose bits are all writable and enabled takes the data's (R6, R532). -/
theorem extract_putBits_written {old d rw en : Word} {lo n : Nat}
    (h : ∀ i, lo ≤ i → i < lo + n → i < 64 → (bitOf rw i && bitOf en i) = true) :
    (putBits old d rw en).extractLsb' lo n = d.extractLsb' lo n := by
  ext i hi
  have hbit := bitOf_putBits old d rw en (lo + i)
  by_cases hin : lo + i < 64
  · rw [if_pos (h _ (by omega) (by omega) hin)] at hbit
    simpa [bitOf] using hbit
  · simp [BitVec.getLsbD_of_ge _ _ (Nat.le_of_not_lt hin)]

/-! ### Writes that take effect at once -/

/-- A write that neither the lock nor the device mode holds back is made (R30, R515). -/
theorem whenRun_made {s : State} {w : RegWr} (h : Made s w) (addr : Nat) (f : State → State) : whenRun addr w f s = f s := by
  obtain ⟨hsrc, hmode⟩ := h
  rw [whenRun, if_neg (by tauto), if_neg (by simp [hmode])]

/-! ### What the pattern's figures depend on -/

section
variable {s t : State} (hram : t.sf.ram = s.sf.ram)
include hram

theorem pgStep_congr (k : Nat) : pgStep t k = pgStep s k := by rw [pgStep, pgStep, hram]

theorem pgPrefix_congr : pgPrefix t = pgPrefix s := by simp only [pgPrefix, pgStep_congr hram]

section
variable (hstart : pgStart t = pgStart s)
include hstart

theorem pgSpan_congr : pgSpan t = pgSpan s := by simp only [pgSpan, hstart, pgStep_congr hram]

theorem pgPass_congr (pre : List Nat) (n k x : Nat) : pgPass t pre n k x = pgPass s pre n k x := by
  induction n generalizing k x with
  | zero => rfl
  | succ n ih => simp only [pgPass, pgStep_congr hram, hstart, ih]

/-- The pattern's length is a figure of its steps and START (R104). -/
theorem pgLen_congr : pgLen t = pgLen s := by
  simp only [pgLen, pgSpan_congr hram hstart, pgPrefix_congr hram, pgStep_congr hram, pgPass_congr hram hstart]

end

end

/-! ### SF_PG_CTL -/

/-- SF_PG_CTL after a write (R130). -/
def ctlAfter (s : State) (d en : Word) : Word := putBits s.sf.pgCtl d (maskOf 0 12 ||| maskOf 16 6 ||| maskOf 29 1 ||| maskOf 31 3) en

/-- The scan front once the register is written: a write of TRAIN begins lane training anew (R109). -/
def ctlStored (d en : Word) (s : State) : State :=
  { s with sf := { s.sf with pgCtl := ctlAfter s d en, lanes := if bitOf (d &&& en) 33 then 0 else s.sf.lanes } }

section
variable {s : State} {d en : Word}

theorem pgCtlWrite_sets (hrun : bitOf (ctlAfter s d en) 32 = true) (hold : bitOf s.sf.pgCtl 32 = false) (hgate : gateOn s 8 = true) :
    pgCtlWrite d en s = generatorRun (ctlStored d en s) := by
  simp only [ctlAfter] at hrun
  simp [pgCtlWrite, hrun, hold, hgate, ctlStored, ctlAfter]

theorem pgCtlWrite_clears (hrun : bitOf (ctlAfter s d en) 32 = false) (hold : bitOf s.sf.pgCtl 32 = true) :
    pgCtlWrite d en s = { ctlStored d en s with sf := { (ctlStored d en s).sf with stopAsked := s.sf.running } } := by
  simp only [ctlAfter] at hrun
  simp [pgCtlWrite, hrun, hold, ctlStored, ctlAfter]

theorem pgCtlWrite_keeps (h : bitOf (ctlAfter s d en) 32 = bitOf s.sf.pgCtl 32) : pgCtlWrite d en s = ctlStored d en s := by
  simp only [ctlAfter] at h
  cases hold : bitOf s.sf.pgCtl 32 <;> simp [pgCtlWrite, h, hold, ctlStored, ctlAfter]

end

/-! ### The start of the generator -/

/-- A pattern that R104 refuses: without END, with a bad step, or without WAIT_LINE. -/
def patternBad (s : State) : Prop :=
  (pgSpan s).2 = false ∨ (pgSpan s).1.any (fun k => pgBad k (pgStep s k)) = true ∨ (pgSpan s).1.any (fun k => pgOp (pgStep s k) == 4) = false

/-- A refused pattern leaves its code and RUN 0. -/
theorem generatorRun_refused {s : State} (h : patternBad s) :
    generatorRun s = { s with sf := { s.sf with code := BitVec.ofNat 8 cReserved, pgCtl := s.sf.pgCtl &&& ~~~ maskOf 32 1 } } := by
  simp only [patternBad] at h
  simp only [generatorRun]
  rw [if_pos (by simpa using h)]

/-- The generator as R104 and R106 start it: at START with its loops reloaded, or on where it runs already. -/
def started (len : BitVec 32) (f : ScanFront) (start : Nat) : ScanFront :=
  { f with len := len, code := 0, running := true, stopAsked := false,
           step := if f.running then f.step else start, loops := if f.running then f.loops else [] }

/-- A sound pattern starts; its length is reported where 32 bits hold it. -/
theorem generatorRun_started {s : State} (h : ¬ patternBad s) (htime : bitOf s.sf.pgCtl 31 = true ∨ spreadOn s = false) :
    ∃ len tick, generatorRun s = { s with sf := started len s.sf (pgStart s), freeTick := tick } ∧
      (pgLen s < 2 ^ 32 → len.toNat = pgLen s) := by
  simp only [patternBad] at h
  have hclaim : ¬ (¬ bitOf s.sf.pgCtl 31 = true ∧ spreadOn s = true) := by
    rcases htime with e | e <;> simp [e]
  simp only [generatorRun]
  rw [if_neg (by simpa using h), if_neg hclaim]
  by_cases hn : pgLen s < 2 ^ 32
  · rw [if_pos hn]
    exact ⟨_, _, rfl, fun _ => Nat.mod_eq_of_lt hn⟩
  · rw [if_neg hn]
    exact ⟨_, _, rfl, fun e => absurd e hn⟩

/-! ### SF_PG_ACC -/

theorem pgAccWrite_running {s : State} (h : s.sf.running = true) (d en : Word) : pgAccWrite d en s = wdisc s := by simp [pgAccWrite, h]

/-- A write of the whole word stores its step at the address that it names (R105, R130). -/
theorem pgAccWrite_whole {s : State} (h : s.sf.running = false) (d : Word) : pgAccWrite d (enMask 255#8) s =
    { s with sf := { s.sf with acc := fld d 32 12, ram := tabSet s.sf.ram (fld d 32 12) (d.setWidth 32) } } := by
  have hw (lo n : Nat) (hn : lo + n ≤ 44) : (putBits (pgAcc s) d (maskOf 0 44) (enMask 255#8)).extractLsb' lo n = d.extractLsb' lo n :=
    extract_putBits_written fun i _ hi h64 => by
      rw [bitOf_maskOf h64, bitOf_enMask_all h64]
      simp
      omega
  have hstep : (putBits (pgAcc s) d (maskOf 0 44) (enMask 255#8)).setWidth 32 = d.setWidth 32 := by
    simpa [BitVec.setWidth_eq_extractLsb'] using hw 0 32 (by omega)
  simp only [pgAccWrite, h, Bool.false_eq_true, if_false, fld_eq_extract, hw 32 12 (by omega), hstep]

/-! ### Line triggers -/

/-- Without a write to SF_LINE that waits, a trigger stands pending, or is lost to the one that does (R103). -/
theorem lineTrigger_idle {s : State} (h : s.sf.defer = []) : lineTrigger s =
    if s.sf.trig then { s with sf := { s.sf with cnt := cntAdd s.sf.cnt 0 1 } } else { s with sf := { s.sf with trig := true } } := by
  simp only [lineTrigger, h, List.find?_nil, sfCount]

/-- Edges of SF_ENC for one line trigger (R103). -/
def encoderDivisor (s : State) : Nat := if fld (sfReg s 0x7C08) 32 8 = 0 then 256 else fld (sfReg s 0x7C08) 32 8

theorem encoderEdge_counted {s : State} (hrun : s.sf.running = true) (hm : bitOf s.sf.pgCtl 31 = true) : encoderEdge s =
    if encoderDivisor s ≤ s.sf.edges + 1 then lineTrigger { s with sf := { s.sf with edges := 0 } }
    else { s with sf := { s.sf with edges := s.sf.edges + 1 } } := by
  simp [encoderEdge, hrun, hm, encoderDivisor]

/-! ### Lane training -/

section
variable {s : State} {lane : Nat}

theorem laneLock_locks (ht : bitOf s.sf.pgCtl 33 = true) (hcl : claimed s (0x05000000 + lane / 2) = true)
    (hh : ∃ h < 4, (fld (sfHead s h) 56 8).testBit (lane / 2) = true) :
    laneLock lane s = { s with sf := { s.sf with lanes := s.sf.lanes ||| (1#16 <<< lane) } } := by
  have hen : (List.range 4).any (fun h => (fld (sfHead s h) 56 8).testBit (lane / 2)) = true := by
    obtain ⟨h, h4, hbit⟩ := hh
    exact List.any_eq_true.2 ⟨h, List.mem_range.2 h4, hbit⟩
  simp only [laneLock, ht, hcl, hen]
  simp

theorem laneLock_none (h : bitOf s.sf.pgCtl 33 = false ∨ claimed s (0x05000000 + lane / 2) = false) : laneLock lane s = s := by
  rcases h with h | h <;> simp [laneLock, h]

end

/-! ### The statement -/

/-- Settles O25: a write to SF_PG_CTL sets, clears or keeps RUN (`pgCtlWrite_sets`, `pgCtlWrite_clears`, `pgCtlWrite_keeps`), and a set RUN is refused
or starts the generator (`generatorRun_refused`, `generatorRun_started`). -/
theorem generatorControl : Obligations.GeneratorControl := by
  intro s w c hl hm hc
  change c = ctlAfter s w.data (enMask w.be) at hc
  subst hc
  have hwrite (f : State → State) (addr : Nat) : run s (whenRun addr w f) = .next (f s) :=
    (run_live hl _).trans (congrArg _ (whenRun_made hm _ _))
  have hstep (k : Nat) : pgStep (ctlStored w.data (enMask w.be) s) k = pgStep s k := rfl
  refine ⟨fun hrun hold hgate sp e hsp => ?run, fun hrun hold htrain => ?stop, fun hrun => ?accRunning, fun hrun hbe => ?accStored,
    fun hkeep htrain => ?train, fun lane => ⟨fun ht hcl hh => ?lock, fun h => ?noLock⟩,
    fun hd => ⟨fun hrun hm ht => ?period, fun hrun hm ht => ?periodLost, fun hrun hm n hn => ⟨fun hlt => ?edge, fun hle ht => ?edgeTrigger,
      fun hle ht => ?edgeLost⟩⟩, fun h => ?noPeriod, fun h => ?noEdge⟩
  case run =>
    have hexec : exec (.generatorRun w) s = .next (generatorRun (ctlStored w.data (enMask w.be) s)) :=
      (hwrite _ _).trans (congrArg _ (pgCtlWrite_sets hrun hold hgate))
    have hspan : pgSpan (ctlStored w.data (enMask w.be) s) = (sp, e) := hsp ▸ pgSpan_congr rfl rfl
    have hlen : pgLen (ctlStored w.data (enMask w.be) s) = pgLen { s with sf := { s.sf with pgCtl := ctlAfter s w.data (enMask w.be) } } :=
      pgLen_congr rfl rfl
    refine ⟨fun hbad => ⟨_, hexec, ?refused⟩, fun hend hbad hwait htime => ⟨_, hexec, ?started⟩⟩
    case refused =>
      rw [generatorRun_refused (by simpa only [patternBad, hspan, hstep] using hbad)]
      exact ⟨rfl, rfl, rfl, rfl, rfl, fun p => by cases p <;> simp [Part.same, ctlStored]⟩
    case started =>
      obtain ⟨len, tick, hgen, hlen'⟩ := generatorRun_started (s := ctlStored w.data (enMask w.be) s)
        (by simp [patternBad, hspan, hstep, hend, hbad, hwait]) htime
      rw [hgen]
      refine ⟨rfl, rfl, rfl, rfl, rfl, rfl, fun h => ⟨if_neg (by simp [ctlStored, h]), if_neg (by simp [ctlStored, h])⟩,
        fun h => (hlen' (by rw [hlen]; exact h)).trans hlen, fun p => by cases p <;> simp [Part.same, ctlStored]⟩
  case stop =>
    refine (hwrite _ _).trans (congrArg _ ((pgCtlWrite_clears hrun hold).trans ?_))
    simp [ctlStored, htrain]
  case accRunning => exact (hwrite _ _).trans (congrArg _ (pgAccWrite_running hrun _ _))
  case accStored =>
    refine (hwrite _ _).trans (congrArg _ ?_)
    rw [show w.be = 255#8 from hbe]
    exact pgAccWrite_whole hrun _
  case train =>
    refine (hwrite _ _).trans (congrArg _ ((pgCtlWrite_keeps hkeep).trans ?_))
    simp [ctlStored, htrain]
  case lock => exact (run_live hl _).trans (congrArg _ (laneLock_locks ht hcl hh))
  case noLock => exact (run_live hl _).trans (congrArg _ (laneLock_none h))
  case period => exact (run_live hl _).trans (by simp [linePeriod, hrun, hm, lineTrigger_idle hd, ht])
  case periodLost => exact (run_live hl _).trans (by simp [linePeriod, hrun, hm, lineTrigger_idle hd, ht])
  case edge =>
    refine (run_live hl _).trans (congrArg _ ((encoderEdge_counted hrun hm).trans (if_neg ?_)))
    rw [encoderDivisor, ← hn]
    omega
  case edgeTrigger =>
    exact (run_live hl _).trans (congrArg _ ((encoderEdge_counted hrun hm).trans ((if_pos (by rwa [encoderDivisor, ← hn])).trans
      ((lineTrigger_idle (by exact hd)).trans (if_neg (by simp [ht]))))))
  case edgeLost =>
    exact (run_live hl _).trans (congrArg _ ((encoderEdge_counted hrun hm).trans ((if_pos (by rwa [encoderDivisor, ← hn])).trans
      ((lineTrigger_idle (by exact hd)).trans (if_pos ht)))))
  case noPeriod => exact (run_live hl _).trans (by rcases h with h | h <;> simp [linePeriod, h])
  case noEdge => exact (run_live hl _).trans (by rcases h with h | h <;> simp [encoderEdge, h])

end Sys2Proof.Machine
end

section
/-! PROOFS. Scan-front commands and table swaps of a queue: SCAN_ARM and SCAN_DISARM (R98, R99), KV_TABLE_SWAP (R314 to R316). -/

namespace Sys2Proof.Machine

/-! ### A command's one record -/

/-- The record of a queue whose current command has ended with one command record (R78). -/
def Queue.answered (r : Queue) (seq : BitVec 32) (code : Nat) (ready : Bool) : Queue :=
  { r with cur := none, items := r.items ++ [cmdItem seq code ready] }

theorem clearCur_of_queue {q : Nat} {r : Queue} {s : State} (h : queue? s q = some r) : clearCur q s = setQueue q { r with cur := none } s :=
  modQueue_of_some h _

theorem queue?_clearCur {q : Nat} {r : Queue} {s : State} (h : queue? s q = some r) : queue? (clearCur q s) q = some { r with cur := none } := by
  rw [clearCur_of_queue h, queue?_setQueue_self]

theorem pushCmdRec_clearCur {q : Nat} {r : Queue} {s : State} (h : queue? s q = some r) (seq : BitVec 32) (code : Nat) (ready : Bool) :
    pushCmdRec q seq code ready (clearCur q s) = setQueue q (r.answered seq code ready) s := by
  rw [clearCur_of_queue h]
  exact pushItem_setQueue _ _ _ _

/-! ### What the tags of a door depend on -/

section
variable {s t : State} (h : t.sf = s.sf)
include h

theorem sfReg_congr (off : Nat) : sfReg t off = sfReg s off := by rw [sfReg, sfReg, h]

theorem sfCam_congr (c : Nat) : sfCam t c = sfCam s c := sfReg_congr h _

theorem pgStart_congr : pgStart t = pgStart s := by rw [pgStart, pgStart, h]

theorem pgNext_congr (k : Nat) : pgNext t k = pgNext s k := by
  simp only [pgNext, pgStep_congr (congrArg ScanFront.ram h), pgStart_congr h]

theorem pgReach_congr (cut : Bool) (n : Nat) (todo seen : List Nat) : pgReach t cut n todo seen = pgReach s cut n todo seen := by
  induction n generalizing todo seen with
  | zero => rfl
  | succ n ih =>
    cases todo with
    | nil => rfl
    | cons k todo => simp only [pgReach, pgStep_congr (congrArg ScanFront.ram h), pgNext_congr h, ih]

/-- The tags of a door are a figure of the scan front (R98). -/
theorem doorTags_congr (d : Nat) : doorTags t d = doorTags s d := by
  simp only [doorTags, pgReach_congr h, pgStep_congr (congrArg ScanFront.ram h), pgStart_congr h,
    sfCam_congr h, h]

end

/-! ### Armings that have ended -/

/-- An item of a queue once the armings `done` have given up their pages (R99): a command record of one of them is ready. -/
def OutItem.settled (done : List (BitVec 32)) (i : OutItem) : OutItem :=
  if i.isCmd && !i.isPage && done.contains i.cseq then { i with ready := true } else i

/-- A door without the armings `done` (R99). -/
def Door.settled (done : List (BitVec 32)) (x : Door) : Door :=
  { x with armDone := x.armDone.filter (fun c => !(done.contains c)), arms := x.arms.filter (fun a => !(done.contains a.cseq)) }

/-- Some of the ended armings have no page left: their records are ready, and the door forgets them (R99). -/
theorem settleArms_settled {s : State} {q : Nat} {r : Queue} (hq : queue? s q = some r) (hdoor : r.door = 1 ∨ r.door = 2) :
    ∃ done : List (BitVec 32), (∀ c ∈ done, c ∈ (door s (scanDoor r)).armDone) ∧
      settleArms q s = setDoor (scanDoor r) ((door s (scanDoor r)).settled done) (setQueue q { r with items := r.items.map (·.settled done) } s) := by
  obtain ⟨busy, h⟩ : ∃ busy : BitVec 32 → Bool, settleArms q s =
      setDoor (scanDoor r) ((door s (scanDoor r)).settled ((door s (scanDoor r)).armDone.filter (fun c => !(busy c))))
        (setQueue q { r with items := r.items.map (·.settled ((door s (scanDoor r)).armDone.filter (fun c => !(busy c)))) } s) := by
    simp only [settleArms, hq, modQueue_of_some hq]
    rw [if_neg (by omega)]
    exact ⟨_, rfl⟩
  exact ⟨_, fun c hc => (List.mem_filter.1 hc).1, h⟩

/-- With its armings settled a queue differs in which of its items are ready, and the door in its ended armings, alone (R99). -/
theorem settleArms_parts {s : State} {q : Nat} {r : Queue} (hq : queue? s q = some r) (hdoor : r.door = 1 ∨ r.door = 2) :
    ∃ done : List (BitVec 32), (∀ c ∈ done, c ∈ (door s (scanDoor r)).armDone) ∧
      queue? (settleArms q s) q = some { r with items := r.items.map (·.settled done) } ∧
      (door (settleArms q s) (scanDoor r)).arms = (door s (scanDoor r)).arms.filter (fun a => !(done.contains a.cseq)) ∧
      ∀ e, e ≠ scanDoor r → door (settleArms q s) e = door s e := by
  obtain ⟨done, hdone, h⟩ := settleArms_settled hq hdoor
  refine ⟨done, hdone, ?_, ?_, fun e he => ?_⟩ <;> rw [h]
  · exact queue?_setQueue_self q _ s
  · rw [door_setDoor_self, Door.settled]
  · rw [door_setDoor_ne he]
    rfl

/-- The command record that was added last stays as it is unless its arming is among those settled. -/
theorem getLast?_settled {done : List (BitVec 32)} {i : OutItem} (h : i.ready = true ∨ i.cseq ∉ done) (its : List OutItem) :
    ((its ++ [i]).map (·.settled done)).getLast? = some i := by
  have hi : i.settled done = i := by
    unfold OutItem.settled
    rcases h with h | h
    · split
      · rw [← h]
      · rfl
    · rw [if_neg (by simp [h])]
  simp [hi]

/-! ### SCAN_ARM -/

/-- A door's armings once a new one governs (R98). -/
def Door.armed (x : Door) (a : Arming) : Door :=
  { x with arms := x.arms.map (fun b => { b with ended := true }) ++ [a], armDone := x.armDone ++ (x.arms.filter (fun b => !b.ended)).map (·.cseq) }

/-- At an idle door the moment of a SCAN_ARM is a page boundary (R123, R131). -/
def idleBoundary (d : Nat) (s : State) : State :=
  if (door s d).page.isNone ∧ ¬ (door s d).lost ∧ ¬ (door s d).free then boundary d s else s

theorem idleBoundary_parts (d : Nat) (s : State) :
    (door (idleBoundary d s) d).arms = (door s d).arms ∧ (door (idleBoundary d s) d).armDone = (door s d).armDone ∧
      (∀ e, e ≠ d → door (idleBoundary d s) e = door s e) ∧ Only [.sf] s (idleBoundary d s) := by
  unfold idleBoundary
  split
  · exact ⟨by rw [door_boundary, if_pos rfl], by rw [door_boundary, if_pos rfl], fun e he => by rw [door_boundary, if_neg he], boundary_only d s⟩
  · exact ⟨rfl, rfl, fun _ _ => rfl, Only.refl _ s⟩

/-- A new arming governs its door (R98). -/
def armInstalled (d : Nat) (a : Arming) (s : State) : State := setDoor d ((door (idleBoundary d s) d).armed a) (idleBoundary d s)

theorem armInstalled_parts (d : Nat) (a : Arming) (s : State) :
    (door (armInstalled d a s) d).arms = ((door s d).armed a).arms ∧ (door (armInstalled d a s) d).armDone = ((door s d).armed a).armDone ∧
      (∀ e, e ≠ d → door (armInstalled d a s) e = door s e) ∧ Only [.sf] s (armInstalled d a s) := by
  obtain ⟨harms, hdone, hothers, honly⟩ := idleBoundary_parts d s
  refine ⟨?_, ?_, fun e he => (door_setDoor_ne he _ _).trans (hothers e he), honly.trans (setDoor_only _ _ _)⟩ <;>
    simp [armInstalled, Door.armed, harms, hdone]

/-- A sequence number that no arming of the door carries is not among the ended ones that its door still lists. -/
theorem Door.armed_done {x : Door} {a : Arming} {c : BitVec 32} (harms : ∀ b ∈ x.arms, b.cseq ≠ c) (hdone : c ∉ x.armDone) :
    c ∉ (x.armed a).armDone := by
  simp only [Door.armed, List.mem_append, List.mem_map, List.mem_filter, not_or, not_exists, not_and]
  exact ⟨hdone, fun b hb => harms b hb.1⟩

/-- The new arming is the last, and each other one has ended; taking some of those away keeps that (R98, R99). -/
theorem Door.armed_arms {x : Door} {a : Arming} {done : List (BitVec 32)} (h : a.cseq ∉ done) :
    ((x.armed a).arms.filter (fun b => !(done.contains b.cseq))).getLast? = some a ∧
      ∀ b ∈ (x.armed a).arms.filter (fun b => !(done.contains b.cseq)), b = a ∨ b.ended = true := by
  refine ⟨by simp [Door.armed, h], fun b hb => ?_⟩
  simp only [Door.armed, List.mem_filter, List.mem_append, List.mem_map, List.mem_singleton] at hb
  obtain ⟨⟨b', -, rfl⟩ | rfl, -⟩ := hb
  · exact .inr rfl
  · exact .inl rfl

section
variable {s : State} {q : Nat} {r : Queue} {cmd : Cmd} (hcur : current s q 4 = some (r, cmd))
include hcur

theorem doScanArm_refused (ha : (armFrom cmd.seq cmd.desc).left ≠ 0) (hc : armCode (clearCur q s) r (armFrom cmd.seq cmd.desc) ≠ 0) :
    doScanArm q s = setQueue q (r.answered cmd.seq (armCode (clearCur q s) r (armFrom cmd.seq cmd.desc)) true) s := by
  simp only [doScanArm, hcur, if_neg ha, if_pos hc]
  exact pushCmdRec_clearCur (queue?_of_current hcur) _ _ _

theorem doScanArm_installed (ha : (armFrom cmd.seq cmd.desc).left ≠ 0) (hc : armCode (clearCur q s) r (armFrom cmd.seq cmd.desc) = 0) :
    doScanArm q s = settleArms q (pushCmdRec q cmd.seq cOk false (armInstalled (scanDoor r) (armFrom cmd.seq cmd.desc) (clearCur q s))) := by
  simp only [doScanArm, hcur, if_neg ha, if_neg (not_not.2 hc)]
  rfl

end

/-- A command's record goes out behind the queue's others, and the armings that have ended are settled (R78, R99). -/
theorem pushCmdRec_settled {u : State} {q : Nat} {r : Queue} (hq : queue? u q = some r) (hdoor : r.door = 1 ∨ r.door = 2) (seq : BitVec 32)
    (code : Nat) (ready : Bool) : ∃ done : List (BitVec 32), (∀ c ∈ done, c ∈ (door u (scanDoor r)).armDone) ∧
      queue? (settleArms q (pushCmdRec q seq code ready u)) q =
        some { r with items := (r.items ++ [cmdItem seq code ready]).map (·.settled done) } ∧
      (door (settleArms q (pushCmdRec q seq code ready u)) (scanDoor r)).arms =
        (door u (scanDoor r)).arms.filter (fun a => !(done.contains a.cseq)) ∧
      (∀ e, e ≠ scanDoor r → door (settleArms q (pushCmdRec q seq code ready u)) e = door u e) ∧
      StepOf q [.dq, .sf] u (settleArms q (pushCmdRec q seq code ready u)) := by
  have hpush : pushCmdRec q seq code ready u = setQueue q { r with items := r.items ++ [cmdItem seq code ready] } u := modQueue_of_some hq _
  have hqueue : queue? (pushCmdRec q seq code ready u) q = some { r with items := r.items ++ [cmdItem seq code ready] } := by
    rw [hpush, queue?_setQueue_self]
  have hdoors (e : Nat) : door (pushCmdRec q seq code ready u) e = door u e := by
    rw [hpush]
    rfl
  obtain ⟨done, hdone, hitems, harms, hothers⟩ := settleArms_parts hqueue hdoor
  have hstep : StepOf q [.dq, .sf] u (pushCmdRec q seq code ready u) := (modQueue_stepOf q _ u).mono (by simp)
  refine ⟨done, fun c hc => ?_, hitems, ?_, fun e he => ?_, hstep.trans (settleArms_stepOf q _)⟩
  · exact hdoors _ ▸ hdone c hc
  · exact harms.trans (by rw [← hdoors]; rfl)
  · exact (hothers e he).trans (hdoors e)

/-! ### SCAN_DISARM -/

theorem disarm_arms (d : Nat) (s : State) : (door (disarm d s) d).arms = (door s d).arms.map (fun a => { a with ended := true }) := by
  simp [disarm]

theorem door_disarm_ne {d e : Nat} (h : e ≠ d) (s : State) : door (disarm d s) e = door s e := by
  unfold disarm
  rw [door_setDoor_ne h]
  split <;> rfl

/-- The code of a SCAN_ARM with COUNT 0 (R98, R99). -/
def disarmCode (s : State) (d : Nat) (a : Arming) : Nat :=
  pickCode [if 4 < a.xavg ∨ 4 < a.yavg then cDimLimit else 0,
    if a.planes = true ∧ ¬ (0 ∈ doorTags s d ∧ 2 ∈ doorTags s d) then cVersion else 0]

section
variable {s : State} {d : Nat} {a : Arming}

theorem disarmCode_averaging (h : 4 < a.xavg ∨ 4 < a.yavg) : disarmCode s d a = cDimLimit := by
  rw [disarmCode, if_pos h]
  split <;> decide

theorem disarmCode_planes (hx : a.xavg ≤ 4) (hy : a.yavg ≤ 4) (h : a.planes = true ∧ ¬ (0 ∈ doorTags s d ∧ 2 ∈ doorTags s d)) :
    disarmCode s d a = cVersion := by
  rw [disarmCode, if_neg (by omega), if_pos h]
  decide

theorem disarmCode_ok (hx : a.xavg ≤ 4) (hy : a.yavg ≤ 4) (h : a.planes = true → 0 ∈ doorTags s d ∧ 2 ∈ doorTags s d) :
    disarmCode s d a = 0 := by
  rw [disarmCode, if_neg (by omega), if_neg (by tauto)]
  decide

end

section
variable {s : State} {q : Nat} {r : Queue} {cmd : Cmd} (hcur : current s q 4 = some (r, cmd)) (ha : (armFrom cmd.seq cmd.desc).left = 0)
include hcur ha

theorem doScanDisarm_eq : doScanDisarm q s =
    if disarmCode s (scanDoor r) (armFrom cmd.seq cmd.desc) ≠ 0 then
      setQueue q (r.answered cmd.seq (disarmCode s (scanDoor r) (armFrom cmd.seq cmd.desc)) true) s
    else settleArms q (pushCmdRec q cmd.seq cOk true (disarm (scanDoor r) (clearCur q s))) := by
  have hq := queue?_of_current hcur
  have hsf : (clearCur q s).sf = s.sf := (modQueue_only q _ s).same .sf (by decide)
  rw [← pushCmdRec_clearCur hq]
  simp only [doScanDisarm, hcur, if_neg (not_not.2 ha), doorTags_congr hsf]
  rfl

end

/-! ### KV_TABLE_SWAP -/

theorem Only.foldl {α : Type} {ps : List Part} {g : State → α → State} (hg : ∀ s x, Only ps s (g s x)) (l : List α) (s : State) :
    Only ps s (l.foldl g s) :=
  List.foldlRecOn (motive := Only ps s) _ _ (Only.refl _ s) (fun _ h x _ => h.trans (hg _ x))

theorem setKv_only (k : KvCache) (s : State) : Only [.kv] s { s with kv := k } := fun p => by cases p <;> simp [Part.same]

theorem setStg_only (depot : Nat) (m : Memory) (s : State) : Only [.mem] s (setStg s depot m) := by
  unfold setStg
  split <;> exact fun p => by cases p <;> simp [Part.same]

theorem dropTabs_only (gone : List Nat) (s : State) : Only [.kv, .mem] s (dropTabs gone s) := by
  refine Only.trans (Only.mono (Only.foldl (ps := [.mem]) (fun u t => ?_) gone s) (by simp)) ((setKv_only _ _).mono (qs := [.kv, .mem]) (by simp))
  split
  · exact setStg_only _ _ u
  · exact Only.refl _ u

/-- A table swap that a check refuses changes nothing; one that passes gives the sequence its next version (R315, R316). -/
theorem swapTable_cases (i : Nat) (v : BitVec 16) (q : Nat) (img : Bytes) (s : State) :
    (∃ code, code ≠ cOk ∧ swapTable i v (some q) img s = (code, s)) ∨
    ∃ e u, e.ver = (seqEnt s i).ver + 1 ∧ Only [.kv, .dm, .mem] s u ∧ swapTable i v (some q) img s = (cOk, setSeq i e u) := by
  unfold swapTable
  dsimp only
  split
  · exact .inl ⟨cClaim, by decide, rfl⟩
  split
  · exact .inl ⟨cTableBusy, by decide, rfl⟩
  split
  · exact .inl ⟨cReserved, by decide, rfl⟩
  split
  · exact .inl ⟨cDimLimit, by decide, rfl⟩
  split
  · exact .inl ⟨cClaim, by decide, rfl⟩
  split
  · exact .inl ⟨cTableBusy, by decide, rfl⟩
  split
  · exact .inl ⟨cQuota, by decide, rfl⟩
  · refine .inr ⟨_, _, rfl, ?_, rfl⟩
    refine Only.trans ?_ (((setKv_only _ _).mono (qs := [.kv, .dm, .mem]) (by simp)).trans ((heal_only _ _ _ _ _).mono (by simp)))
    split
    · exact (dropTabs_only _ s).mono (by simp)
    · exact (setKv_only _ s).mono (by simp)

/-- The code of a KV_TABLE_SWAP without an attachment, and the state its checks leave (R314, R315). -/
def tableSwapped (q : Nat) (cmd : Cmd) (s : State) : Nat × State :=
  if leAt cmd.desc 0x10 8 % 64 ≠ 0 then (cReserved, s)
  else match cmd.image with
    | none => (cDimLimit, s)
    | some b => swapTable (leAt cmd.desc 0x18 2 % 8192) (BitVec.ofNat 16 (leAt cmd.desc 0x1A 2)) (some q) b s

theorem tableSwapped_image {q : Nat} {cmd : Cmd} {b : Bytes} (ha : leAt cmd.desc 0x10 8 % 64 = 0) (hb : cmd.image = some b) (s : State) :
    tableSwapped q cmd s = swapTable (leAt cmd.desc 0x18 2 % 8192) (BitVec.ofNat 16 (leAt cmd.desc 0x1A 2)) (some q) b s := by
  rw [tableSwapped, if_neg (not_not.2 ha), hb]

/-- Whole or not at all (R315): the one code other than OK leaves the KV cache as it is. -/
theorem tableSwapped_parts (q : Nat) (cmd : Cmd) (s : State) :
    ((tableSwapped q cmd s).1 = cOk → (seqEnt (tableSwapped q cmd s).2 (leAt cmd.desc 0x18 2 % 8192)).ver =
      (seqEnt s (leAt cmd.desc 0x18 2 % 8192)).ver + 1) ∧
    ((tableSwapped q cmd s).1 ≠ cOk → (tableSwapped q cmd s).2.kv = s.kv) ∧ Only [.kv, .dm, .mem] s (tableSwapped q cmd s).2 := by
  by_cases ha : leAt cmd.desc 0x10 8 % 64 = 0
  · cases hb : cmd.image with
    | none =>
      rw [tableSwapped, if_neg (not_not.2 ha), hb]
      exact ⟨fun h => absurd h (by simp [cOk, cDimLimit]), fun _ => rfl, Only.refl _ s⟩
    | some b =>
      rw [tableSwapped_image ha hb]
      rcases swapTable_cases _ _ q b s with ⟨code, hcode, h⟩ | ⟨e, u, hver, hu, h⟩ <;> rw [h]
      · exact ⟨fun h => absurd h hcode, fun _ => rfl, Only.refl _ s⟩
      · refine ⟨fun _ => ?_, fun h => absurd rfl h, hu.trans ((setKv_only _ u).mono (qs := [.kv, .dm, .mem]) (by simp))⟩
        rw [seqEnt, setSeq, tabGet_tabSet_self, hver]
  · rw [tableSwapped, if_pos ha]
    exact ⟨fun h => absurd h (by simp [cOk, cReserved]), fun _ => rfl, Only.refl _ s⟩

theorem kvTableSwap_eq {s : State} {q : Nat} {r : Queue} {cmd : Cmd} (hcur : current s q 5 = some (r, cmd)) (ha : cmd.attach = none) :
    kvTableSwap q s = pushCmdRec q cmd.seq (tableSwapped q cmd s).1 true (clearCur q (tableSwapped q cmd s).2) := by
  rw [kvTableSwap, hcur]
  dsimp only
  rw [ha]
  rfl

/-! ### What a queue's scan-front command leaves -/

section
variable {s : State} {q : Nat} {r : Queue} {cmd : Cmd} (hq : queue? s q = some r) (hdoor : r.door = 1 ∨ r.door = 2)
include hq hdoor

/-- The new arming is the door's last, every other has ended, and its record waits (R98). -/
theorem scanArm_governs (a : Arming) (harms : ∀ b ∈ (door s (scanDoor r)).arms, b.cseq ≠ a.cseq) (hdone : a.cseq ∉ (door s (scanDoor r)).armDone)
    {t : State} (ht : t = settleArms q (pushCmdRec q a.cseq cOk false (armInstalled (scanDoor r) a (clearCur q s)))) :
    (door t (scanDoor r)).arms.getLast? = some a ∧ (∀ b ∈ (door t (scanDoor r)).arms, b = a ∨ b.ended = true) ∧
      (∀ e, e ≠ scanDoor r → door t e = door s e) ∧
      (∃ its, queue? t q = some { r with cur := none, items := its } ∧ its.getLast? = some (cmdItem a.cseq cOk false)) ∧
      StepOf q [.dq, .sf] s t := by
  subst ht
  have hclear : StepOf q [.dq] s (clearCur q s) := modQueue_stepOf _ _ s
  have hdoorC (e : Nat) : door (clearCur q s) e = door s e := door_congr (hclear.only.same .sf (by decide)) e
  obtain ⟨harmsI, hdoneI, hothersI, honlyI⟩ := armInstalled_parts (scanDoor r) a (clearCur q s)
  rw [hdoorC] at harmsI hdoneI
  obtain ⟨done, hsub, hitems, harmsT, hothersT, hstepT⟩ := pushCmdRec_settled
    ((queue?_congr (congrArg _ (honlyI.same .dq (by decide))) _).trans (queue?_clearCur hq)) hdoor a.cseq cOk false
  have hnew : a.cseq ∉ done := fun h => Door.armed_done (a := a) harms hdone (hdoneI ▸ hsub _ h)
  obtain ⟨hlast, hended⟩ := Door.armed_arms (x := door s (scanDoor r)) hnew
  replace harmsT := harmsT.trans (congrArg _ harmsI)
  exact ⟨(congrArg _ harmsT).trans hlast, fun b hb => hended b (harmsT ▸ hb),
    fun e he => (hothersT e he).trans ((hothersI e he).trans (hdoorC e)), ⟨_, hitems, getLast?_settled (.inr hnew) _⟩,
    ((hclear.mono (by simp)).trans ((StepOf.of_only honlyI (by simp)).mono (by simp))).trans hstepT⟩

/-- Every arming of the door has ended, and the command's own record is ready (R99). -/
theorem scanDisarm_ends (seq : BitVec 32) {t : State}
    (ht : t = settleArms q (pushCmdRec q seq cOk true (disarm (scanDoor r) (clearCur q s)))) :
    (∀ b ∈ (door t (scanDoor r)).arms, b.ended = true) ∧ (∀ e, e ≠ scanDoor r → door t e = door s e) ∧
      (∃ its, queue? t q = some { r with cur := none, items := its } ∧ its.getLast? = some (cmdItem seq cOk true)) ∧
      StepOf q [.dq, .sf, .pp] s t := by
  subst ht
  have hclear : StepOf q [.dq] s (clearCur q s) := modQueue_stepOf _ _ s
  have hdoorC (e : Nat) : door (clearCur q s) e = door s e := door_congr (hclear.only.same .sf (by decide)) e
  have honlyD := disarm_only (scanDoor r) (clearCur q s)
  have hstepD : StepOf q [.dq, .sf, .pp] s (disarm (scanDoor r) (clearCur q s)) :=
    (hclear.mono (by simp)).trans ((StepOf.of_only honlyD (by simp)).mono (by simp))
  obtain ⟨done, -, hitems, harmsT, hothersT, hstepT⟩ := pushCmdRec_settled
    ((queue?_congr (congrArg _ (honlyD.same .dq (by decide))) _).trans (queue?_clearCur hq)) hdoor seq cOk true
  replace harmsT := harmsT.trans (congrArg _ (disarm_arms _ _))
  refine ⟨fun b hb => ?_, fun e he => (hothersT e he).trans ((door_disarm_ne he _).trans (hdoorC e)),
    ⟨_, hitems, getLast?_settled (.inl rfl) _⟩, hstepD.trans (hstepT.mono (by simp))⟩
  obtain ⟨b', -, rfl⟩ := List.mem_map.1 (List.mem_filter.1 (harmsT ▸ hb)).1
  rfl

end

/-! ### The statement -/

/-- Settles O23: SCAN_ARM and SCAN_DISARM leave a refusal (`doScanArm_refused`, `doScanDisarm_eq`) or the armings as `scanArm_governs` and
`scanDisarm_ends` say; a table swap is `tableSwapped` with its record. -/
theorem scanAndSwapCommands : Obligations.ScanAndSwapCommands := by
  intro s q hl
  refine ⟨fun r cmd a d hcur hdoor ha hd => ?scan, fun r cmd src i v hcur hatt hsrc hi hv => ⟨_, run_live hl _, ?swap⟩⟩
  case scan =>
    subst ha hd
    have hq := queue?_of_current hcur
    have hanswer (code : Nat) := setQueue_parts q.toNat (r.answered cmd.seq code true) s
    refine ⟨fun hleft hcode => ⟨_, run_live hl _, ?refused⟩, fun hleft hcode harms hdone => ⟨_, run_live hl _, ?installed⟩,
      fun hleft havg => ⟨_, run_live hl _, ?averaging⟩, fun hleft hx hy hpl => ⟨_, run_live hl _, ?planes⟩,
      fun hleft hx hy hpl => ⟨_, run_live hl _, ?ended⟩⟩
    case refused =>
      rw [doScanArm_refused hcur hleft hcode]
      obtain ⟨hself, hothers, -, honly⟩ := hanswer (armCode (clearCur q.toNat s) r (armFrom cmd.seq cmd.desc))
      exact ⟨rfl, hself, hothers, honly⟩
    case installed =>
      obtain ⟨hlast, hended, hdoors, hrecord, hstep⟩ :=
        scanArm_governs hq hdoor (armFrom cmd.seq cmd.desc) harms hdone (doScanArm_installed hcur hleft hcode)
      exact ⟨hlast, hended, hdoors, hstep.others, hrecord, hstep.only⟩
    case averaging =>
      rw [doScanDisarm_eq hcur hleft, disarmCode_averaging havg, if_pos (by decide)]
      obtain ⟨hself, -, -, honly⟩ := hanswer cDimLimit
      exact ⟨rfl, hself, honly⟩
    case planes =>
      rw [doScanDisarm_eq hcur hleft, disarmCode_planes hx hy hpl, if_pos (by decide)]
      obtain ⟨hself, -, -, honly⟩ := hanswer cVersion
      exact ⟨rfl, hself, honly⟩
    case ended =>
      have heq := doScanDisarm_eq hcur hleft
      rw [disarmCode_ok hx hy hpl, if_neg (not_not.2 rfl)] at heq
      obtain ⟨hended, hdoors, hrecord, hstep⟩ := scanDisarm_ends hq hdoor cmd.seq heq
      exact ⟨hended, hdoors, hstep.others, hrecord, hstep.only⟩
  case swap =>
    subst hsrc hi hv
    have hq := queue?_of_current hcur
    obtain ⟨hok, hkv, honly⟩ := tableSwapped_parts q.toNat cmd s
    have hq' : queue? (tableSwapped q.toNat cmd s).2 q.toNat = some r := (queue?_congr (congrArg _ (honly.same .dq (by decide))) _).trans hq
    rw [kvTableSwap_eq hcur hatt, pushCmdRec_clearCur hq']
    refine ⟨_, queue?_setQueue_self _ _ _, fun hun => ?_, fun hal hnone => ?_, fun b hal hb => ?_, hok, hkv, fun p hp => ?_,
      (honly.mono (by simp)).trans ((setQueue_only _ _ _).mono (by simp))⟩
    · rw [tableSwapped, if_pos hun]
    · rw [tableSwapped, if_neg (not_not.2 hal), hnone]
    · rw [tableSwapped_image hal hb]
    · rw [queue?_setQueue_ne hp, queue?_congr (congrArg _ (honly.same .dq (by decide)))]

end Sys2Proof.Machine
end

section
/-! PROOFS. Fields of register words and entries of tables, what a switch of jobs and a grant of commands leave alone: what the loads of structure
images rest on. -/

namespace Sys2Proof.Machine

/-! ### Fields of a word -/

theorem testBit_fld (w : Word) (lo n i : Nat) : (fld w lo n).testBit i = (decide (i < n) && bitOf w (lo + i)) := by
  rw [fld, Nat.testBit_mod_two_pow, Nat.testBit_shiftRight, bitOf, BitVec.getLsbD]

theorem bitOf_setFld (w : Word) (lo n v : Nat) {i : Nat} (hi : i < 64) :
    bitOf (setFld w lo n v) i = if lo ≤ i ∧ i < lo + n then v.testBit (i - lo) else bitOf w i := by
  have hmask : (maskOf lo n).getLsbD i = decide (lo ≤ i ∧ i < lo + n) := bitOf_maskOf hi
  have hval : (BitVec.ofNat 64 ((v % 2 ^ n) <<< lo)).getLsbD i = (decide (lo ≤ i) && (decide (i - lo < n) && v.testBit (i - lo))) := by
    rw [BitVec.getLsbD_ofNat, Nat.testBit_shiftLeft, Nat.testBit_mod_two_pow]
    simp [hi]
  rw [bitOf, setFld, BitVec.getLsbD_or, BitVec.getLsbD_and, BitVec.getLsbD_not, hmask, hval]
  split
  next h => simp [h, show i - lo < n by omega]
  next h =>
    have hout : (decide (lo ≤ i) && (decide (i - lo < n) && v.testBit (i - lo))) = false := by
      simp only [Bool.and_eq_false_iff, decide_eq_false_iff_not]
      omega
    rw [hout, decide_eq_false h]
    simp [bitOf, hi]

/-- A field reads as it was set (R3). -/
theorem fld_setFld_self {lo n : Nat} (h : lo + n ≤ 64) (w : Word) (v : Nat) : fld (setFld w lo n v) lo n = v % 2 ^ n := by
  refine Nat.eq_of_testBit_eq fun i => ?_
  rw [testBit_fld, Nat.testBit_mod_two_pow]
  by_cases hi : i < n
  · rw [bitOf_setFld w lo n v (by omega), if_pos (by omega), Nat.add_sub_cancel_left]
  · simp [hi]

/-- A field apart from the one that is set keeps its value. -/
theorem fld_setFld_apart {lo n lo' n' : Nat} (h : lo' + n' ≤ 64) (hap : lo' + n' ≤ lo ∨ lo + n ≤ lo') (w : Word) (v : Nat) :
    fld (setFld w lo n v) lo' n' = fld w lo' n' := by
  refine Nat.eq_of_testBit_eq fun i => ?_
  rw [testBit_fld, testBit_fld]
  by_cases hi : i < n'
  · rw [bitOf_setFld w lo n v (by omega), if_neg (by omega)]
  · simp [hi]

/-! ### Tables -/

/-- Entries that are changed one after the other, each once. -/
theorem tabGet_foldl_tabSet {α : Type} (f : α → α) (d : α) (k : Nat) (ks : List Nat) (hks : ks.Nodup) (t : List (Nat × α)) :
    tabGet (ks.foldl (fun t p => tabSet t p (f (tabGet t p d))) t) k d = if k ∈ ks then f (tabGet t k d) else tabGet t k d := by
  induction ks generalizing t with
  | nil => simp
  | cons p ks ih =>
    obtain ⟨hp, hks⟩ := List.nodup_cons.1 hks
    rw [List.foldl_cons, ih hks, tabGet_tabSet]
    by_cases hk : k = p
    · simp [hk, hp]
    · simp [hk]

/-! ### Turns and grants -/

theorem setRm_only (m : Ringmaster) (s : State) : Only [.rm] s { s with rm := m } := fun p => by cases p <;> simp [Part.same]

theorem setSched_only (l : Nat) (x : TileSched) (s : State) : Only [.rm] s (setSched l x s) := setRm_only _ s

theorem modJob_only (k : Nat × Nat) (f : Job → Job) (s : State) : Only [.rm] s (modJob k f s) := setRm_only _ s

theorem Only.ite {ps : List Part} {s t u : State} {c : Prop} [Decidable c] (h : Only ps s t) (k : Only ps s u) : Only ps s (if c then t else u) := by
  split
  · exact h
  · exact k

theorem countPreempt_only (k : Nat × Nat) (s : State) : Only [.rm] s (countPreempt k s) := by
  unfold countPreempt
  split
  · exact setRm_only _ s
  · exact Only.refl _ s

theorem takeTurn_only (l : Nat) (k : Nat × Nat) (s : State) : Only [.rm] s (takeTurn l k s) := by
  have hdebit (c : Bool) : Only [.rm] s (if c then s else modJob k (fun j => { j with debit := 0 }) s) := (Only.refl _ s).ite (modJob_only _ _ s)
  unfold takeTurn
  dsimp only
  split
  · exact (hdebit _).trans (setSched_only _ _ _)
  · split
    · exact (hdebit _).trans (setSched_only _ _ _)
    · exact ((((hdebit _).trans ((countPreempt_only _ _).ite (Only.refl _ _))).trans (setSched_only _ _ _)).trans (modJob_only _ _ _)).trans
        (modJob_only _ _ _)

theorem nextTurn_only (l n : Nat) (s : State) : Only [.rm] s (nextTurn l n s) := by
  induction n generalizing s with
  | zero => exact Only.refl _ s
  | succ n ih =>
    rw [nextTurn]
    split
    · exact setSched_only _ _ s
    · split
      · exact (setSched_only _ _ s).trans (ih _)
      · exact (((setSched_only _ _ s).trans (modJob_only _ _ _)).trans (ih _)).ite ((setSched_only _ _ s).trans (takeTurn_only _ _ _))

theorem startDonation_only (l : Nat) (s : State) : Only [.rm] s (startDonation l s) := by
  unfold startDonation
  dsimp only
  split
  · exact Only.refl _ s
  · split
    · exact Only.refl _ s
    · exact (setRm_only _ s).ite (((setRm_only _ s).trans (setSched_only _ _ _)).trans (takeTurn_only _ _ _))

theorem joinRing_only (k : Nat × Nat) (l : Nat) (s : State) : Only [.rm] s (joinRing k l s) := by
  have hjoin := (Only.refl [.rm] s).ite (c := (sched s l).run = some k ∨ (sched s l).ring.contains k = true)
    (setSched_only l { sched s l with ring := if (donationOf s k).isSome then k :: (sched s l).ring else (sched s l).ring ++ [k] } s)
  exact (hjoin.trans (startDonation_only _ _)).trans ((nextTurn_only _ _ _).ite (Only.refl _ _))

/-- Jobs that wake change the Ringmaster alone (R374, R375). -/
theorem wakeJobs_only (s : State) : Only [.rm] s (wakeJobs s) := by
  refine Only.foldl (fun t e => ?_) _ s
  split
  · exact (joinRing_only _ _ t).ite (Only.refl _ t)
  · exact Only.refl _ t

theorem wakeJobs_of_none {s : State} (h : s.rm.ready = []) : wakeJobs s = s := by rw [wakeJobs, h]; rfl

theorem grantCmd_only (e : Nat) (s : State) : Only [.rm, .dm] s (grantCmd e s) := by
  unfold grantCmd
  refine (Only.refl _ s).ite ?_
  dsimp only
  split
  · exact Only.refl _ s
  · exact fun p => by cases p <;> simp [Part.same, setEngine]

/-- A grant of codecs and haulers changes the Ringmaster and the depots' commands alone (R385). -/
theorem grantCmds_only (s : State) : Only [.rm, .dm] s (grantCmds s) := Only.foldl (fun t e => grantCmd_only e t) _ s

/-- No engine serves where nothing waits (R384). -/
theorem grantPick_nil (s : State) (e : Nat) : grantPick s e [] = none := by
  have hrr : ((List.range 16).map (fun i => ((engine s e).lastRr + 1 + i) % 16)).find? (fun _ => false) = none := by simp
  have hown (o : Option Nat) : (o.bind fun _ => (none : Option Nat)) = none := by cases o <;> rfl
  simp only [grantPick, List.contains_nil, Bool.false_and, Bool.false_eq_true, if_false, hown, hrr]

theorem grantCmd_of_none {s : State} (h : s.dm.cmds = []) (e : Nat) : grantCmd e s = s := by
  simp only [grantCmd, h, List.any_nil, Bool.false_eq_true, if_false, List.filter_nil, List.map_nil, grantPick_nil]

theorem grantCmds_of_none {s : State} (h : s.dm.cmds = []) : grantCmds s = s :=
  List.foldlRecOn (motive := (· = s)) _ _ rfl (fun _ ht e _ => ht ▸ grantCmd_of_none h e)

end Sys2Proof.Machine
end

section
/-! PROOFS. Structure images (12): SI_LOAD takes or refuses an image (R357, R358), SI_APPLY puts it in force (R367), SI_LOAD_DONE counts it
(R367, R370, R372). -/

namespace Sys2Proof.Machine

/-! ### The end of a load -/

theorem setSi_only (x : StructImg) (s : State) : Only [.si] s { s with si := x } := fun p => by cases p <;> simp [Part.same]

/-- A counter of SI_LOADS counts one more, and the other stays (R371). -/
theorem fld_counted {lo lo' : Nat} (h : lo + 32 ≤ 64) (h' : lo' + 32 ≤ 64) (hap : lo' + 32 ≤ lo ∨ lo + 32 ≤ lo') (w : Word) (c : BitVec 32) :
    fld (setFld w lo 32 c.toNat) lo 32 = c.toNat ∧ fld (setFld w lo 32 c.toNat) lo' 32 = fld w lo' 32 :=
  ⟨(fld_setFld_self h w _).trans (Nat.mod_eq_of_lt c.isLt), fld_setFld_apart h' hap w _⟩

/-- With no request, re-admission or swap waiting, the end of a load lets the flows reserve and no more (R368, R401, R469). -/
theorem loadEnded_idle {s : State} (hb : s.dq.busy ≠ some .load) (hr : s.si.retryJudge = []) (hw : s.tr.waiting = []) :
    loadEnded s = reserveFlows s := by
  have hstate : { s with si := { s.si with retryJudge := [] } } = s := by rw [← hr]
  have hflows : (reserveFlows s).tr.waiting = [] := by rw [(reserveFlows_only s).same .tr (by decide), hw]
  simp only [loadEnded, hr, List.foldl_nil, hstate, resumeMbox, if_neg hb, serveSwaps, hflows]

/-! ### The boot stage -/

theorem setStage_only (n : Nat) (s : State) : Only [.tr, .mg] s (setStage n s) := by
  unfold setStage
  split
  · exact Only.refl _ s
  · exact fun p => by cases p <;> simp [Part.same]

theorem bootStage_setStage {n : Nat} (h : n < 256) (s : State) : bootStage (setStage n s) = n := by
  unfold setStage
  split
  next e => exact e
  next => exact (fld_setFld_self (by omega) _ _).trans (Nat.mod_eq_of_lt h)

theorem bootStage_congr {s t : State} (h : t.tr = s.tr) : bootStage t = bootStage s := by rw [bootStage, bootStage, h]

theorem setStage_waiting (n : Nat) (s : State) : (setStage n s).tr.waiting = s.tr.waiting := by
  unfold setStage
  split <;> rfl

/-! ### Reading the image -/

theorem srcRead_state {s : State} (h : s.dm.damage = []) (w : Word) (o n : Nat) : (srcRead w o n s).2 = s := by
  simp only [srcRead, readCheck_undamaged h, Bool.false_eq_true, if_false]

/-- SI_LOAD has been written (R371). -/
def loadNamed (r : Word) (s : State) : State := { s with si := { s.si with load := r } }

/-- What SRC names does not depend on what SI_LOAD held. -/
theorem srcRead_loadNamed {s : State} (h : s.dm.damage = []) (r w : Word) (o n : Nat) : (srcRead w o n (loadNamed r s)).1 = (srcRead w o n s).1 := by
  have h' : (loadNamed r s).dm.damage = [] := h
  simp only [srcRead, readCheck_undamaged h, readCheck_undamaged h', Bool.false_eq_true, if_false]
  rfl

/-- The whole image that a register word names (R357). -/
def imageBytes (r : Word) (s : State) : Bytes := (srcRead r 0 (max 64 (min (siLength (srcRead r 0 64 s).1) 0x04000000)) s).1

theorem serveLoad_undamaged {s : State} (h : s.dm.damage = []) (r : Word) :
    serveLoad r (loadNamed r s) = loadImage (imageBytes r s) (loadNamed r s) := by
  have hread (o n : Nat) : srcRead r o n (loadNamed r s) = ((srcRead r o n s).1, loadNamed r s) :=
    Prod.ext (srcRead_loadNamed h r r o n) (srcRead_state (s := loadNamed r s) h r o n)
  simp only [serveLoad, hread]
  rfl

/-! ### SI_LOAD -/

section
variable {src : Src} {d en : Word} {s : State}

theorem siLoadWrite_host : siLoadWrite .host d en s = wdisc s := by simp [siLoadWrite]

theorem siLoadWrite_stored (hs : src ≠ .host) (h : bitOf (d &&& en) 63 = false) : siLoadWrite src d en s = loadNamed (srcPut s.si.load d en) s := by
  simp [siLoadWrite, hs, h, loadNamed]

theorem siLoadWrite_busy (hs : src ≠ .host) (h : bitOf (d &&& en) 63 = true) (hj : s.si.job.isSome = true) : siLoadWrite src d en s = wdisc s := by
  simp [siLoadWrite, hs, h, hj]

/-- With GO and no load in progress or waiting the image is loaded, or waits for the swap in progress (R357, R469). -/
theorem siLoadWrite_go (hs : src ≠ .host) (h : bitOf (d &&& en) 63 = true) (hj : s.si.job = none) (hw : s.tr.waiting = []) :
    siLoadWrite src d en s = if swapping s then
        { loadNamed (srcPut s.si.load d en) s with tr := { s.tr with waiting := [.load (srcPut s.si.load d en)] } }
      else serveLoad (srcPut s.si.load d en) (loadNamed (srcPut s.si.load d en) s) := by
  simp only [siLoadWrite, hw, List.nil_append]
  rw [if_neg hs, if_neg (by simp [hj]), if_neg (not_not.2 h)]
  rfl

end

theorem loadImage_sound {b : Bytes} {s : State} (h : imageErr s b = none) : loadImage b s = { s with si := { s.si with
    stat := place 2 0 3
    job := some ⟨siWhole b, siPart b, BitVec.ofNat 32 (siId b), BitVec.ofNat 32 (siVer b), b, certifiedConf (imageConf s.si.conf b)⟩ } } := by
  rw [loadImage, h]

theorem loadImage_refused {b : Bytes} {s : State} {e : SiErr} (h : imageErr s b = some e) : loadImage b s = refuseLoad e b s := by
  rw [loadImage, h]

/-! ### A refused image -/

/-- SI_STAT of a refused image (R371). -/
def refusedStat (e : SiErr) : Word := place e.2.2.2 48 16 ||| place e.2.2.1 32 16 ||| place e.1 16 8 ||| place e.2.1 8 8 ||| place 5 0 3

/-- The refusals counted in SI_LOADS (R371). -/
def refusalCounted (w : Word) : Word := setFld w 32 32 (satAdd (BitVec.ofNat 32 (fld w 32 32)) 1).toNat

/-- A refusal is noted in SI_STAT, the Barker log and, at boot, the stage (R371, R439, R451). -/
def noteRefusal (e : SiErr) (c : BitVec 32) (n : Word) (ref : EventRef) (s : State) : State :=
  let u := barker 0x0306 1 ref { s with si := { s.si with stat := refusedStat e, conflict := c, bound := n, loads := refusalCounted s.si.loads } }
  if bootStage u = 8 then setStage 0xE4 u else u

theorem noteRefusal_parts (e : SiErr) (c : BitVec 32) (n : Word) (ref : EventRef) (s : State) :
    (noteRefusal e c n ref s).si = { s.si with stat := refusedStat e, conflict := c, bound := n, loads := refusalCounted s.si.loads } ∧
      (bootStage s = 8 → bootStage (noteRefusal e c n ref s) = 0xE4) ∧ (noteRefusal e c n ref s).tr.waiting = s.tr.waiting ∧
      Only [.si, .sn, .tr, .mg] s (noteRefusal e c n ref s) := by
  have hlog := barker_noted_only (by decide : 1 < 2) 0x0306 ref { s with si := { s.si with
    stat := refusedStat e, conflict := c, bound := n, loads := refusalCounted s.si.loads } }
  unfold noteRefusal
  generalize barker 0x0306 1 ref _ = u at hlog
  have honly : Only [.si, .sn] s u := ((setSi_only _ s).mono (by simp)).trans (hlog.mono (by simp))
  have htr : u.tr = s.tr := honly.same .tr (by decide)
  dsimp only
  rw [bootStage_congr htr]
  split
  next h8 =>
    have hstage := setStage_only 0xE4 u
    exact ⟨(hstage.same .si (by decide)).trans (hlog.same .si (by decide)), fun _ => bootStage_setStage (by decide) u,
      (setStage_waiting _ u).trans (congrArg _ htr), (honly.mono (by simp)).trans (hstage.mono (by simp))⟩
  next h8 => exact ⟨hlog.same .si (by decide), fun h => absurd h h8, congrArg _ htr, honly.mono (by simp)⟩

/-- A refused image leaves its check in SI_STAT and counts; the flows reserve, and at boot the unit is then READY_BARE (R358, R371, R451). -/
theorem refuseLoad_parts {e : SiErr} {b : Bytes} {s t : State} (ht : t = refuseLoad e b s) (hb : s.dq.busy ≠ some .load)
    (hr : s.si.retryJudge = []) (hw : s.tr.waiting = []) :
    (∃ c n, t.si = { s.si with stat := refusedStat e, conflict := c, bound := n, loads := refusalCounted s.si.loads } ∧
      (e.1 ≠ 10 → c = s.si.conflict) ∧ (e.1 ≠ 16 → n = s.si.bound)) ∧
    (bootStage s = 8 → bootStage t = 0xE4) ∧ Only [.si, .sn, .tr, .mg, .cv, .pp] s t := by
  subst ht
  obtain ⟨c, n, ref, h, hc, hn⟩ : ∃ c n ref, refuseLoad e b s = loadEnded (noteRefusal e c n ref s) ∧
      (e.1 ≠ 10 → c = s.si.conflict) ∧ (e.1 ≠ 16 → n = s.si.bound) :=
    ⟨_, _, _, rfl, fun h => if_neg h, fun h => if_neg h⟩
  obtain ⟨hsi, hboot, hwait, honly⟩ := noteRefusal_parts e c n ref s
  have hflows := reserveFlows_only (noteRefusal e c n ref s)
  rw [h, loadEnded_idle ((congrArg Dechel.busy (honly.same .dq (by decide))) ▸ hb) (by rw [hsi, ← hr]) (hwait.trans hw)]
  exact ⟨⟨c, n, (hflows.same .si (by decide)).trans hsi, hc, hn⟩, fun h8 => (bootStage_congr (hflows.same .tr (by decide))).trans (hboot h8),
    (honly.mono (by simp)).trans (hflows.mono (by simp))⟩

/-! ### SI_APPLY -/

/-- Jobs have been added: none is lost, and nothing but the table of jobs differs (R372). -/
structure JobsAdded (s t : State) : Prop where
  kept : ∀ x ∈ s.rm.jobs, x ∈ t.rm.jobs
  engines : t.rm.engines = s.rm.engines
  only : Only [.rm] s t

theorem JobsAdded.refl (s : State) : JobsAdded s s := ⟨fun _ h => h, rfl, Only.refl _ s⟩

theorem JobsAdded.trans {s t u : State} (h : JobsAdded s t) (k : JobsAdded t u) : JobsAdded s u :=
  ⟨fun x hx => k.kept x (h.kept x hx), k.engines.trans h.engines, h.only.trans k.only⟩

theorem JobsAdded.foldl {α : Type} {g : State → α → State} (hg : ∀ s x, JobsAdded s (g s x)) (l : List α) (s : State) :
    JobsAdded s (l.foldl g s) :=
  List.foldlRecOn (motive := JobsAdded s) _ _ (JobsAdded.refl s) (fun _ h x _ => h.trans (hg _ x))

theorem addJobs_added (js : List Job) (s : State) : JobsAdded s (addJobs js s) := by
  refine JobsAdded.foldl (fun t j => ?_) js s
  dsimp only
  split
  · exact ⟨fun x hx => List.mem_append_left _ hx, rfl, setRm_only _ t⟩
  · exact JobsAdded.refl t

/-- With the jobs of the changed partitions rebuilt every other job stands as it did; tokens lose owners alone (R193, R372). -/
theorem rebuildJobs_parts (j : LoadJob) (s : State) :
    (∀ x ∈ s.rm.jobs, j.changes x.part = false → x ∈ (rebuildJobs j s).rm.jobs) ∧ (rebuildJobs j s).rm.engines = s.rm.engines ∧
      (rebuildJobs j s).tl.tiles = s.tl.tiles ∧ (s.tl.toks = [] → (rebuildJobs j s).tl.toks = []) ∧ Only [.tl, .rm] s (rebuildJobs j s) := by
  have hadd : JobsAdded (endJobs (fun x => j.changes x.part) s) (rebuildJobs j s) :=
    (JobsAdded.foldl (fun t e => addJobs_added _ t) _ _).trans (JobsAdded.foldl (fun t p => addJobs_added _ t) _ _)
  have htl : (rebuildJobs j s).tl = (endJobs (fun x => j.changes x.part) s).tl := hadd.only.same .tl (by decide)
  refine ⟨fun x hx hch => hadd.kept x (List.mem_filter.2 ⟨hx, by simp [hch]⟩), hadd.engines, ?_, fun h => ?_,
    (endJobs_only _ s).trans (hadd.only.mono (by simp))⟩
  · rw [htl]; rfl
  · rw [htl]; simp [endJobs, freeTokens, h]

theorem siApply_early {s : State} (h : s.si.job = none ∨ fld s.si.stat 0 3 ≠ 2 ∨ ∃ j, s.si.job = some j ∧ loadDrained s j = false) :
    siApply s = s := by
  cases hj : s.si.job with
  | none => simp only [siApply, hj]
  | some j =>
    simp only [siApply, hj]
    rw [if_pos]
    rcases h with h | h | ⟨j', hj', h⟩
    · simp [hj] at h
    · exact .inl h
    · rw [hj, Option.some.injEq] at hj'
      exact .inr (by simp [hj', h])

/-- The drained partitions have their configuration (R367): the tokens that stay, and the damage that the new routines leave in place. -/
def confApplied (j : LoadJob) (s : State) : State :=
  let mine := fun (c : Nat × Nat) => c.1 / 2 ^ 24 == 2 && c.2 == j.part
  let toks := ((s.si.conf.claims ++ j.conf.claims).filter mine).map (fun c => c.1 % 2 ^ 24)
  let held := j.conf.parts.foldl (fun (m : BitVec 64) e => if j.changes e.1 then m ||| e.2.tiles else m) 0
  let left := fun (d : Damage) => !((d.mem == .instr || d.mem == .midway) && held.getLsbD d.unit)
  { s with
    si := { s.si with conf := j.conf, stat := place 3 0 3 }
    tl := { s.tl with toks := if j.whole then [] else s.tl.toks.filter (fun t => !(toks.contains t.1)) }
    dm := { s.dm with next := some j.conf.cal, damage := s.dm.damage.filter left, back := s.dm.back.filter left } }

theorem confApplied_parts (j : LoadJob) (s : State) :
    (confApplied j s).si = { s.si with conf := j.conf, stat := place 3 0 3 } ∧ (confApplied j s).dm.next = some j.conf.cal ∧
      (confApplied j s).dm.cal = s.dm.cal ∧ (confApplied j s).dm.regions = s.dm.regions ∧ (confApplied j s).tl.tiles = s.tl.tiles ∧
      (j.whole = true → (confApplied j s).tl.toks = []) ∧ Only [.si, .tl, .dm] s (confApplied j s) :=
  ⟨rfl, rfl, rfl, rfl, rfl, fun h => if_pos h, fun p => by cases p <;> simp [Part.same, confApplied]⟩

/-- What a whole image sets besides (R107, R333, R384, R476): the SF_TO31 ball, regions 3 and 4, engines anew, spread spectrum. -/
def wholeApplied (j : LoadJob) (s : State) : State :=
  let u := setRegion 4 j.conf.region4 (setRegion 3 j.conf.region3
    { s with sf := { s.sf with holdPin := j.conf.claims.any (fun c => c.1 == 0x04000000) } })
  let u := { u with rm := { u.rm with engines := [] } }
  if j.conf.claims.any (fun c => c.1 == 0x08000000) then u else { u with ck := { u.ck with ss := u.ck.ss &&& ~~~ maskOf 63 1 } }

theorem wholeApplied_parts (j : LoadJob) (s : State) :
    (wholeApplied j s).sf = { s.sf with holdPin := j.conf.claims.any (fun c => c.1 == 0x04000000) } ∧
      (wholeApplied j s).rm = { s.rm with engines := [] } ∧
      (∃ regions, (wholeApplied j s).dm = { s.dm with regions := regions } ∧
        tabGet regions 4 0 = (place j.conf.region4.1 40 16 ||| place j.conf.region4.2 24 16)) ∧
      Only [.sf, .dm, .rm, .ck] s (wholeApplied j s) := by
  unfold wholeApplied
  dsimp only
  split <;> exact ⟨rfl, rfl, ⟨_, rfl, tabGet_tabSet_self _ _ _ _⟩, fun p => by cases p <;> simp [Part.same, setRegion]⟩

theorem siApply_drained {s : State} {j : LoadJob} (hj : s.si.job = some j) (hst : fld s.si.stat 0 3 = 2) (hd : loadDrained s j = true) :
    siApply s = rebuildJobs j (if j.whole then wholeApplied j (confApplied j s) else confApplied j s) := by
  rw [siApply, hj]
  exact (if_neg (by simp [hst, hd])).trans rfl

/-- The load's effects (R338, R361, R367, R384) once its partitions are drained. -/
theorem siApply_parts {s t : State} {j : LoadJob} (hj : s.si.job = some j) (hst : fld s.si.stat 0 3 = 2) (hd : loadDrained s j = true)
    (ht : t = siApply s) :
    t.si = { s.si with conf := j.conf, stat := place 3 0 3 } ∧ t.dm.next = some j.conf.cal ∧ t.dm.cal = s.dm.cal ∧
      (j.whole = true → t.tl.toks = [] ∧ t.rm.engines = [] ∧
        tabGet t.dm.regions 4 0 = (place j.conf.region4.1 40 16 ||| place j.conf.region4.2 24 16)) ∧
      (j.whole = false → t.dm.regions = s.dm.regions ∧ t.rm.engines = s.rm.engines) ∧
      (j.whole = true → t.sf = { s.sf with holdPin := j.conf.claims.any (fun c => c.1 == 0x04000000) }) ∧ (j.whole = false → t.sf = s.sf) ∧
      (∀ x ∈ s.rm.jobs, j.changes x.part = false → x ∈ t.rm.jobs) ∧ t.tl.tiles = s.tl.tiles ∧ Only [.si, .tl, .dm, .rm, .ck, .sf] s t := by
  have heq := ht.trans (siApply_drained hj hst hd)
  obtain ⟨hsi, hnext, hcal, hregs, htilesC, htoksC, hconf⟩ := confApplied_parts j s
  generalize confApplied j s = u at *
  have hrmC : u.rm = s.rm := hconf.same .rm (by decide)
  have hsfC : u.sf = s.sf := hconf.same .sf (by decide)
  cases hw : j.whole with
  | false =>
    rw [hw, if_neg (by simp)] at heq
    obtain ⟨hjobs, heng, htiles, -, honly⟩ := rebuildJobs_parts j u
    rw [← heq] at hjobs heng htiles honly
    have hdm : t.dm = u.dm := honly.same .dm (by decide)
    rw [hdm, ← hrmC, ← hsfC, ← htilesC]
    exact ⟨(honly.same .si (by decide)).trans hsi, hnext, hcal, by simp, fun _ => ⟨hregs, heng⟩, by simp, fun _ => honly.same .sf (by decide), hjobs,
      htiles, (hconf.mono (by simp)).trans (honly.mono (by simp))⟩
  | true =>
    rw [hw, if_pos rfl] at heq
    obtain ⟨hsf, hrm, ⟨regions, hdm, hreg⟩, honlyW⟩ := wholeApplied_parts j u
    obtain ⟨hjobs, heng, htiles, htoks, honly⟩ := rebuildJobs_parts j (wholeApplied j u)
    rw [← heq] at hjobs heng htiles htoks honly
    have hdmT : t.dm = { u.dm with regions := regions } := (honly.same .dm (by decide)).trans hdm
    have htlW : (wholeApplied j u).tl = u.tl := honlyW.same .tl (by decide)
    rw [htlW] at htiles htoks
    rw [hrm] at hjobs heng
    rw [hdmT, ← hrmC, ← hsfC, ← htilesC]
    exact ⟨(honly.same .si (by decide)).trans ((honlyW.same .si (by decide)).trans hsi), hnext, hcal,
      fun _ => ⟨htoks (htoksC hw), heng, hreg⟩, by simp, fun _ => (honly.same .sf (by decide)).trans hsf, by simp, hjobs, htiles,
      ((hconf.mono (by simp)).trans (honlyW.mono (by simp))).trans (honly.mono (by simp))⟩

/-! ### SI_LOAD_DONE -/

theorem siLoadDone_early {s : State} (h : s.si.job = none ∨ fld s.si.stat 0 3 ≠ 3 ∨ s.dm.next.isSome = true) : siLoadDone s = s := by
  cases hj : s.si.job with
  | none => simp only [siLoadDone, hj]
  | some j =>
    simp only [siLoadDone, hj]
    rw [if_pos (h.resolve_left (by simp [hj]))]

/-- SI_STAT, SI_LOADS, SI_IMAGE and SI_PART once a load is done (R370, R371). -/
def loadCounted (j : LoadJob) (copy : List (Nat × Bytes)) (s : State) : State :=
  { s with si := { s.si with
    stat := place 4 0 3, job := none, copy := copy
    loads := setFld s.si.loads 0 32 (satAdd (BitVec.ofNat 32 (fld s.si.loads 0 32)) 1).toNat
    image := if j.whole then place j.imageId.toNat 32 32 ||| place j.imageVer.toNat 0 32 else s.si.image
    part := ((List.range 16).filter j.changes).foldl (fun t p => tabSet t p
      (place j.imageVer.toNat 32 32 ||| place (fld (tabGet t p 0) 0 16 + 1) 0 16)) s.si.part } }

theorem loadCounted_part {p : Nat} (hp : p < 16) (j : LoadJob) (copy : List (Nat × Bytes)) (s : State) :
    tabGet (loadCounted j copy s).si.part p 0 = if j.changes p then
      place j.imageVer.toNat 32 32 ||| place (fld (tabGet s.si.part p 0) 0 16 + 1) 0 16 else tabGet s.si.part p 0 := by
  refine (tabGet_foldl_tabSet (fun w => place j.imageVer.toNat 32 32 ||| place (fld w 0 16 + 1) 0 16) 0 p _ (List.nodup_range.filter _)
    s.si.part).trans ?_
  simp [hp]

theorem appendMeasure_parts (ty part id ver svn : Nat) (digest : Bytes) (s : State) :
    (appendMeasure ty part id ver svn digest s).tr.mnext = s.tr.mnext + 1 ∧ (appendMeasure ty part id ver svn digest s).tr.boot = s.tr.boot ∧
      (appendMeasure ty part id ver svn digest s).tr.waiting = s.tr.waiting ∧ Only [.tr] s (appendMeasure ty part id ver svn digest s) := by
  unfold appendMeasure
  dsimp only
  split <;> exact ⟨rfl, rfl, rfl, fun p => by cases p <;> simp [Part.same]⟩

/-- After the done load the unit is CONFIGURED where it was waiting for its image (R451). -/
def bootLoaded (s : State) : State := if bootStage s = 8 ∨ bootStage s = 0xE4 then setStage 9 s else s

theorem bootLoaded_parts (s : State) :
    (bootStage s = 8 ∨ bootStage s = 0xE4 → bootStage (bootLoaded s) = 9) ∧ (bootLoaded s).tr.mnext = s.tr.mnext ∧
      (bootLoaded s).tr.waiting = s.tr.waiting ∧ Only [.tr, .mg] s (bootLoaded s) := by
  unfold bootLoaded
  split
  next h => exact ⟨fun _ => bootStage_setStage (by decide) s, by unfold setStage; split <;> rfl, setStage_waiting 9 s, setStage_only 9 s⟩
  next h => exact ⟨fun h' => absurd h' h, rfl, rfl, Only.refl _ s⟩

theorem siLoadDone_applied {s : State} {j : LoadJob} (hj : s.si.job = some j) (hst : fld s.si.stat 0 3 = 3) (hn : s.dm.next = none) :
    ∃ copy ty part svn digest, siLoadDone s = wakeJobs (grantCmds (loadEnded (bootLoaded
      (appendMeasure ty part j.imageId.toNat j.imageVer.toNat svn digest (loadCounted j copy s))))) := by
  simp only [siLoadDone, hj]
  rw [if_neg (by simp [hst, hn])]
  exact ⟨_, _, _, _, _, rfl⟩

/-- A load that is done counts, in SI_LOADS and in the version of each partition that it changed; the Ringmaster and the engines change only
where a command waits (R367, R370, R371, R451, R463). -/
theorem siLoadDone_parts {s t : State} {j : LoadJob} (hj : s.si.job = some j) (hst : fld s.si.stat 0 3 = 3) (hn : s.dm.next = none)
    (hb : s.dq.busy ≠ some .load) (hr : s.si.retryJudge = []) (hw : s.tr.waiting = []) (ht : t = siLoadDone s) :
    (∃ copy, t.si = (loadCounted j copy s).si) ∧ t.tr.mnext = s.tr.mnext + 1 ∧ (bootStage s = 8 ∨ bootStage s = 0xE4 → bootStage t = 9) ∧
      (s.rm.ready = [] → s.dm.cmds = [] → t.rm = s.rm ∧ t.dm = s.dm) ∧ Only [.si, .tr, .mg, .cv, .pp, .rm, .dm] s t := by
  obtain ⟨copy, ty, part, svn, digest, heq⟩ := siLoadDone_applied hj hst hn
  obtain ⟨hnext, hboot, hwait, honlyM⟩ := appendMeasure_parts ty part j.imageId.toNat j.imageVer.toNat svn digest (loadCounted j copy s)
  generalize appendMeasure ty part j.imageId.toNat j.imageVer.toNat svn digest (loadCounted j copy s) = m at *
  obtain ⟨hstage, hnextB, hwaitB, honlyB⟩ := bootLoaded_parts m
  have hfirst : Only [.si, .tr, .mg] s (bootLoaded m) :=
    (((setSi_only _ s).mono (by simp)).trans (honlyM.mono (by simp))).trans (honlyB.mono (by simp))
  have hsi : (bootLoaded m).si = (loadCounted j copy s).si := (honlyB.same .si (by decide)).trans (honlyM.same .si (by decide))
  rw [loadEnded_idle ((congrArg Dechel.busy (hfirst.same .dq (by decide))) ▸ hb) (by rw [hsi]; exact hr) ((hwaitB.trans hwait).trans hw)] at heq
  have hflows := reserveFlows_only (bootLoaded m)
  have hwake : Only [.rm, .dm] (reserveFlows (bootLoaded m)) t := by
    rw [ht, heq]
    exact (grantCmds_only _).trans ((wakeJobs_only _).mono (by simp))
  have hrest : Only [.cv, .pp, .rm, .dm] (bootLoaded m) t := (hflows.mono (by simp)).trans (hwake.mono (by simp))
  have htr : t.tr = (bootLoaded m).tr := hrest.same .tr (by decide)
  refine ⟨⟨copy, (hrest.same .si (by decide)).trans hsi⟩, ?_, fun h => ?_, fun hready hcmds => ?_,
    (hfirst.mono (by simp)).trans (hrest.mono (by simp))⟩
  · rw [htr, hnextB, hnext]
    rfl
  · rw [bootStage_congr htr]
    have hm : bootStage m = bootStage s := congrArg (fld · 8 8) hboot
    exact hstage (by rwa [hm])
  · have hrm : (reserveFlows (bootLoaded m)).rm = s.rm := (hflows.same .rm (by decide)).trans (hfirst.same .rm (by decide))
    have hdm : (reserveFlows (bootLoaded m)).dm = s.dm := (hflows.same .dm (by decide)).trans (hfirst.same .dm (by decide))
    rw [ht, heq, grantCmds_of_none (by rw [hdm, hcmds]), wakeJobs_of_none (by rw [hrm, hready])]
    exact ⟨hrm, hdm⟩

/-! ### The statement -/

/-- Settles O48: a write of SI_LOAD by `siLoadWrite_go` and its like, a refused image by `refuseLoad_parts`, SI_APPLY by `siApply_parts` and
SI_LOAD_DONE by `siLoadDone_parts`. -/
theorem imageLoads : Obligations.ImageLoads := by
  intro s hl
  refine ⟨fun w => ⟨fun hh hlock => ?host, fun r hm hs hr => ⟨fun hgo => ?stored, fun hgo hj => ?busy, fun hgo hj hw hsw => ?waits,
      fun hgo hj hw hsw hdam s' b hs' hb => ⟨fun hok => ?taken, fun check code sec item herr hbusy hre => ?refused⟩⟩⟩,
    fun h => (run_live hl _).trans (congrArg _ (siApply_early h)), fun j hj hst hd => ⟨_, run_live hl _, siApply_parts hj hst hd rfl⟩,
    fun h => (run_live hl _).trans (congrArg _ (siLoadDone_early h)), fun j hj hst hn hbusy hre hw => ⟨_, run_live hl _, ?done⟩⟩
  case host =>
    have hm : Made s w := ⟨.inr hlock, by simp [mgmtHolds, hh]⟩
    exact (run_live hl _).trans (congrArg _ ((whenRun_made hm _ _).trans (by rw [hh, siLoadWrite_host])))
  case stored =>
    subst hr
    exact (run_live hl _).trans (congrArg _ ((whenRun_made hm _ _).trans (siLoadWrite_stored hs hgo)))
  case busy => exact (run_live hl _).trans (congrArg _ ((whenRun_made hm _ _).trans (siLoadWrite_busy hs hgo hj)))
  case waits =>
    subst hr
    exact (run_live hl _).trans (congrArg _ ((whenRun_made hm _ _).trans ((siLoadWrite_go hs hgo hj hw).trans (if_pos hsw))))
  case taken =>
    subst hr hs' hb
    refine (run_live hl _).trans (congrArg _ ((whenRun_made hm _ _).trans ((siLoadWrite_go hs hgo hj hw).trans ((if_neg (by simp [hsw])).trans ?_))))
    rw [serveLoad_undamaged hdam]
    exact loadImage_sound hok
  case refused =>
    subst hr hs' hb
    refine ⟨_, (run_live hl _).trans (congrArg _ ((whenRun_made hm _ _).trans ((siLoadWrite_go hs hgo hj hw).trans ((if_neg (by simp [hsw])).trans
      ((serveLoad_undamaged hdam _).trans (loadImage_refused herr)))))), ?_⟩
    obtain ⟨⟨c, n, hsi, hc, hn⟩, hboot, honly⟩ := refuseLoad_parts (s := loadNamed (srcPut s.si.load w.data (enMask w.be)) s) rfl hbusy hre hw
    obtain ⟨hcount, hother⟩ := fld_counted (lo := 32) (lo' := 0) (by omega) (by omega) (by omega) s.si.loads
      (satAdd (BitVec.ofNat 32 (fld s.si.loads 32 32)) 1)
    refine ⟨by rw [hsi]; rfl, by rw [hsi]; exact hcount, by rw [hsi]; exact hother,
      fun h => by rw [hsi]; exact hc h, fun h => by rw [hsi]; exact hn h, hboot,
      honly.same .mem (by decide), ((setSi_only _ s).mono (by simp)).trans honly⟩
  case done =>
    obtain ⟨⟨copy, hsi⟩, hnext, hboot, hidle, honly⟩ := siLoadDone_parts hj hst hn hbusy hre hw rfl
    obtain ⟨hcount, -⟩ := fld_counted (lo := 0) (lo' := 32) (by omega) (by omega) (by omega) s.si.loads
      (satAdd (BitVec.ofNat 32 (fld s.si.loads 0 32)) 1)
    refine ⟨by rw [hsi]; rfl, by rw [hsi]; rfl, by rw [hsi]; rfl, by rw [hsi]; rfl, fun p hp => ?_, by rw [hsi]; exact hcount, hnext, hboot,
      honly.same .mem (by decide), hidle, honly⟩
    rw [hsi, loadCounted_part hp]

end Sys2Proof.Machine
end

section
/-! PROOFS. Captured lines of the CIS heads (R110, R111, R113, R119 to R125): the captures that a line ends, a line of a page or of a lost page, edge
detection, and the leading edge that starts a page. -/

namespace Sys2Proof.Machine

/-! ### A line is at hand -/

theorem setDoor_setDoor_self (d : Nat) (x y : Door) (s : State) : setDoor d x (setDoor d y s) = setDoor d x s := by
  simp only [setDoor, tabSet_tabSet]

/-- The captures of head `h` after trigger `g` are at an end, and nothing else of the scan front differs but the head's own door. -/
structure CapsTaken (h g : Nat) (s u : State) : Prop where
  doors : ∀ d, d ≠ h → Machine.door u d = Machine.door s d
  caps : u.sf.caps = s.sf.caps.filter (fun c => !(c.2.1 == h && c.1 == g))
  regs : u.sf.regs = s.sf.regs
  cnt : u.sf.cnt = s.sf.cnt
  frame : Only [.sf, .freeTick] s u

theorem CapsTaken.setDoor {h g : Nat} {s u : State} (hu : CapsTaken h g s u) (x : Door) : CapsTaken h g s (setDoor h x u) where
  doors d hd := (door_setDoor_ne hd _ _).trans (hu.doors d hd)
  caps := hu.caps
  regs := hu.regs
  cnt := hu.cnt
  frame := hu.frame.trans ((setDoor_only _ _ _).mono (by simp))

/-- The state in which a captured line is at hand (R110, R111). -/
def lineTaken (h g k : Nat) (mine : RawLine) (s : State) : State :=
  setDoor h { door s h with past := (mine :: (door s h).past).take 64 }
    { s with sf := { s.sf with caps := s.sf.caps.filter (fun c => !(c.2.1 == h && c.1 == g)) }, freeTick := s.freeTick + k }

theorem lineTaken_capsTaken (h g k : Nat) (mine : RawLine) (s : State) : CapsTaken h g s (lineTaken h g k mine s) where
  doors d hd := door_setDoor_ne hd _ _
  caps := rfl
  regs := rfl
  cnt := rfl
  frame p := by cases p <;> simp [Part.same, lineTaken]

theorem door_lineTaken (h g k : Nat) (mine : RawLine) (s : State) :
    door (lineTaken h g k mine s) h = { door s h with past := (mine :: (door s h).past).take 64 } := door_setDoor_self _ _ _

/-- The head's registers decide what is paper (R119). -/
theorem sfEdge_of_regs {s t : State} (hr : t.sf.regs = s.sf.regs) (h : Nat) : sfEdge t h = sfEdge s h := by rw [sfEdge, sfReg, hr]; rfl

theorem paperLine_of_regs {s t : State} (hr : t.sf.regs = s.sf.regs) (h : Nat) (l : RawLine) : paperLine t h l = paperLine s h l := by
  have hhead : sfHead t h = sfHead s h := by rw [sfHead, sfReg, hr]; rfl
  rw [paperLine, edgeSamples, sfEdge_of_regs hr, hhead]
  rfl

/-- Head `h` calibrates with this line: a calibration is in progress, or one is asked that may begin (R113). -/
def calReady (s : State) (h : Nat) : Bool :=
  let x := door s h
  x.calOn || (x.cal != 0 && x.page.isNone && !x.lost && !x.free && !(rawLeft s h))

theorem scanLine_none {s : State} {h : Nat} {planes : RawLine} (hc : openCaps s h = none ∨ doorEnabled s h = false ∨
    ∃ g tags, openCaps s h = some (g, tags) ∧ capturedLine s h tags planes = none) : scanLine h planes s = s := by
  rcases hc with hc | hc | ⟨g, tags, hc, hl⟩
  · simp only [scanLine, hc]
  · unfold scanLine
    split
    · rfl
    · split
      · rfl
      · rw [if_pos (by simp [hc])]
  · simp only [scanLine, hc, hl]

/-- A captured line goes to the calibration or, from the colour delay, on to its page (R110, R111, R113). -/
theorem scanLine_taken {s : State} {h g : Nat} {tags : List (BitVec 2)} {planes mine : RawLine} (hc : openCaps s h = some (g, tags))
    (hl : capturedLine s h tags planes = some mine) (hd : doorEnabled s h = true) :
    scanLine h planes s = if calReady s h then
        setDoor h { door (lineTaken h g (delayed s h (door s h).past mine).2 mine s) h with
          calOn := true
          calLines := if (door s h).calLines.length < 64 then (door s h).calLines ++ [mine] else (door s h).calLines }
          (lineTaken h g (delayed s h (door s h).past mine).2 mine s)
      else headLine h (delayed s h (door s h).past mine).1 (lineTaken h g (delayed s h (door s h).past mine).2 mine s) := by
  rw [scanLine, hc]
  dsimp only
  rw [hl]
  dsimp only
  refine (if_neg (by simp [hd])).trans ?_
  cases hr : calReady s h with
  | true =>
    refine (if_pos ((Bool.or_eq_true _ _).mp hr)).trans (Eq.trans ?_ (if_pos rfl).symm)
    rw [lineTaken, door_setDoor_self, setDoor_setDoor_self]
    rfl
  | false => exact (if_neg fun e => Bool.eq_false_iff.mp hr ((Bool.or_eq_true _ _).mpr e)).trans (if_neg Bool.false_ne_true).symm

/-! ### A line of a head that is not calibrating -/

/-- The state in which a line stands among the last 128 of its head (R119). -/
def preNoted (h : Nat) (l : RawLine) (s : State) : State := setDoor h { door s h with pre := (l :: (door s h).pre).take 128 } s

/-- What may end a page at a head after a line: TRAIL_RUN lines without paper, or the height limit (R119, R120). -/
def lineEnd (h n : Nat) (s : State) : State :=
  if n ≤ (door s h).nonRun then endScan h false s.now s else if atLimit s h then endScan h true s.now s else s

theorem lineEnd_mayEnd (h n : Nat) (s : State) : MayEnd h s (lineEnd h n s) := by
  unfold lineEnd
  split
  · exact endScan_mayEnd h false s.now s
  · split
    · exact endScan_mayEnd h true s.now s
    · exact MayEnd.refl h s

theorem endScan_caps (d : Nat) (cut : Bool) (t : BitVec 64) (s : State) : (endScan d cut t s).sf.caps = s.sf.caps := by
  cases hx : (door s d).page with
  | none => rw [endScan_of_no_page hx]; rfl
  | some pid =>
    obtain ⟨u, hu, hlog, -⟩ := endScan_of_page hx cut t
    have hsf : u.sf = s.sf := (hlog.same .sf (by decide)).trans ((modPage_only pid _ s).same .sf (by decide))
    rw [hu, ← hsf]
    rfl

theorem lineEnd_caps (h n : Nat) (s : State) : (lineEnd h n s).sf.caps = s.sf.caps := by
  unfold lineEnd
  split
  · exact endScan_caps _ _ _ _
  · split
    · exact endScan_caps _ _ _ _
    · rfl

/-- A page that ends, or not, leaves a door without a page (R17). -/
theorem lineEnd_page_none {h : Nat} {s : State} (hx : (door s h).page = none) (n : Nat) : (door (lineEnd h n s) h).page = none := by
  unfold lineEnd
  split
  · rw [door_endScan_self]; rfl
  · split
    · rw [door_endScan_self]; rfl
    · exact hx

/-- Edge detection of a line changes neither the page of the door nor its reservation (R119, R121, R122). -/
theorem edgeLine_keeps (s : State) (h : Nat) (l : RawLine) (n : Nat) (x : Door) :
    (edgeLine s h l n x).page = x.page ∧ (edgeLine s h l n x).free = x.free ∧ (edgeLine s h l n x).pre = x.pre := by
  unfold edgeLine
  split <;> exact ⟨rfl, rfl, rfl⟩

theorem foldl_edgeLine_keeps (s : State) (h : Nat) (ls : List (Nat × RawLine)) (x : Door) :
    (ls.foldl (fun x e => edgeLine s h e.2 e.1 x) x).page = x.page ∧ (ls.foldl (fun x e => edgeLine s h e.2 e.1 x) x).free = x.free ∧
      (ls.foldl (fun x e => edgeLine s h e.2 e.1 x) x).pre = x.pre := by
  induction ls generalizing x with
  | nil => exact ⟨rfl, rfl, rfl⟩
  | cons e ls ih =>
    obtain ⟨hpage, hfree, hpre⟩ := edgeLine_keeps s h e.2 e.1 x
    obtain ⟨hpage', hfree', hpre'⟩ := ih (edgeLine s h e.2 e.1 x)
    exact ⟨hpage'.trans hpage, hfree'.trans hfree, hpre'.trans hpre⟩

section
variable {s : State} {h : Nat} (l : RawLine)

/-- The state in which edge detection has seen a line of the page in progress, or of a lost page (R119, R121, R122). -/
def edgeNoted (h : Nat) (l : RawLine) (s : State) : State :=
  setDoor h (edgeLine (preNoted h l s) h l (door s h).count { door s h with pre := (l :: (door s h).pre).take 128 }) (preNoted h l s)

theorem edgeNoted_page : (door (edgeNoted h l s) h).page = (door s h).page := by
  rw [edgeNoted, door_setDoor_self, (edgeLine_keeps _ _ _ _ _).1]

theorem page?_edgeNoted (id : BitVec 32) : page? (edgeNoted h l s) id = page? s id :=
  (page?_congr (setDoor_pp _ _ _) id).trans (page?_congr (setDoor_pp _ _ _) id)

/-- A line while a page is in progress, or a lost one (R119, R120, R125). -/
theorem headLine_page (hp : (door s h).page.isSome ∨ (door s h).lost) :
    headLine h l s = lineEnd h (max 1 (fld (sfEdge s h) 0 5)) (addRaw h [l] (edgeNoted h l s)) :=
  if_pos hp

/-- A line after a page that the height limit ended: the rest of its sheet (R120). -/
theorem headLine_skip (hp : (door s h).page = none) (hl : (door s h).lost = false) (hs : (door s h).skip = true) : headLine h l s =
    setDoor h { door s h with
      pre := (l :: (door s h).pre).take 128
      nonRun := if paperLine (preNoted h l s) h l then 0 else (door s h).nonRun + 1
      skip := decide ((if paperLine (preNoted h l s) h l then 0 else (door s h).nonRun + 1) < max 1 (fld (sfEdge s h) 0 5))
      run := 0 } (preNoted h l s) :=
  (if_neg (by simp [hp, hl])).trans (if_pos hs)

/-- The head's door with a run of `n` paper lines before a page (R119). -/
def runNoted (h n : Nat) (l : RawLine) (s : State) : State :=
  setDoor h { door s h with
    pre := (l :: (door s h).pre).take 128
    run := n
    seen := (door s h).seen || ((door s h).free && paperLine (preNoted h l s) h l) } (preNoted h l s)

/-- A line before a page: the run of paper lines grows or ends, and from LEAD_RUN lines on a leading edge stands (R119). -/
theorem headLine_run {n : Nat} (hp : (door s h).page = none) (hl : (door s h).lost = false) (hs : (door s h).skip = false)
    (hn : n = if paperLine (preNoted h l s) h l then (door s h).run + 1 else 0) : headLine h l s =
    if max 1 (fld (sfEdge s h) 5 5) ≤ n then
      if atLimit (leadingEdge h n (runNoted h n l s)) h then
        endScan h true (leadingEdge h n (runNoted h n l s)).now (leadingEdge h n (runNoted h n l s))
      else leadingEdge h n (runNoted h n l s)
    else runNoted h n l s := by
  subst hn
  exact (if_neg (by simp [hp, hl])).trans (if_neg (by simp [hs]))

end

/-! ### A page starts with its leading edge -/

theorem admitPage_pages (q : Nat) (r : Queue) (cseq : BitVec 32) (prof : Nat) (b : Bool) (c : Claim) (t : Option (BitVec 64)) (v : Resv) (s : State) :
    ∃ p, (∀ id, page? (admitPage q r cseq prof b c t v s).2 id = if id = s.pp.nextPid then some p else page? s id) ∧
      p.id = s.pp.nextPid ∧ p.queue = q ∧ p.door = r.door ∧ p.cls = r.cls ∧ p.cseq = cseq ∧ p.raw = [] ∧ (r.door ≠ 0 → p.stage = .intake) :=
  ⟨_, fun id => by
    unfold admitPage
    exact (page?_congr (setQueue_pp _ _ _) _).trans (page?_setPage _ _ _), rfl, rfl, rfl, rfl, rfl, rfl, fun h => if_neg h⟩

/-- The end of a page leaves every other page as it is (R17). -/
theorem endScan_page_ne {d : Nat} {s : State} {pid id : BitVec 32} {p : Page} (hx : (door s d).page = some pid) (hp : page? s pid = some p)
    (hid : p.id = pid) (hne : id ≠ pid) (cut : Bool) (t : BitVec 64) : page? (endScan d cut t s) id = page? s id := by
  obtain ⟨u, hu, hframe, -⟩ := endScan_of_page hx cut t
  rw [hu, page?_congr (boundary_pp _ _), page?_congr (setDoor_pp _ _ _), page?_congr (hframe.same .pp (by decide)), modPage_of_some hp,
    page?_setPage, if_neg (by simpa [framed, hid] using hne)]

/-- Page `p` of queue `q` has started at door `d` with lines `ls`, on its reservation and under arming `a` (R13, R123). -/
structure Started (d q : Nat) (r : Queue) (a : Arming) (ls : List RawLine) (p : Page) (s t : State) : Prop where
  page : (door t d).page = some s.pp.nextPid
  free : (door t d).free = false
  pre : (door t d).pre = (door s d).pre
  doors : ∀ e, e ≠ d → door t e = door s e
  regs : t.sf.regs = s.sf.regs
  frame : Only [.sf, .dq, .pp] s t
  pages : ∀ id, page? t id = if id = s.pp.nextPid then some p else page? s id
  id : p.id = s.pp.nextPid
  queue : p.queue = q
  pdoor : p.door = r.door
  cls : p.cls = r.cls
  cseq : p.cseq = a.cseq
  raw : p.raw = ls
  stage : p.stage = .intake

theorem startPage_started {s : State} {d q : Nat} {r : Queue} {a : Arming} (hd : doorQueue s d = some (q, r))
    (ha : armOf s d (door s d).freeArm = some a) : ∃ p, Started d q r a [] p s (startPage d s) := by
  obtain ⟨x, claim, hx, hpage, hfree, hpre⟩ : ∃ x claim, startPage d s =
      setDoor d x (admitPage q r a.cseq a.profile a.first claim none (door s d).freeBytes s).2 ∧ x.page = some s.pp.nextPid ∧ x.free = false ∧
      x.pre = (door s d).pre := by
    simp only [startPage, hd, ha]
    exact ⟨_, _, rfl, rfl, rfl, rfl⟩
  have hadm := admitPage_only q r a.cseq a.profile a.first claim none (door s d).freeBytes s
  have hsf := hadm.same .sf (by decide)
  have hregs := congrArg ScanFront.regs (show _ = s.sf from hsf)
  obtain ⟨p, hp, hid, hq, hdoor, hcls, hseq, hraw, hstage⟩ := admitPage_pages q r a.cseq a.profile a.first claim none (door s d).freeBytes s
  rw [hx]
  exact ⟨p, { page := by simp [hpage], free := by simp [hfree], pre := by simp [hpre]
              doors := fun e he => by rw [door_setDoor_ne he, door_congr hsf]
              regs := hregs
              frame := (hadm.mono (by simp)).trans ((setDoor_only _ _ _).mono (by simp))
              pages := fun id => by rw [page?_congr (setDoor_pp _ _ _), hp]
              id := hid, queue := hq, pdoor := hdoor, cls := hcls, cseq := hseq, raw := hraw, stage := hstage (doorQueue_door hd) }⟩

section
variable {d q : Nat} {r : Queue} {a : Arming} {ls : List RawLine} {p : Page} {s t : State} (h : Started d q r a ls p s t)
include h

theorem Started.page? : Machine.page? t s.pp.nextPid = some p := by rw [h.pages, if_pos rfl]

theorem Started.setDoor {x : Door} (hp : x.page = (door t d).page) (hf : x.free = (door t d).free) (hpre : x.pre = (door t d).pre) :
    Started d q r a ls p s (setDoor d x t) :=
  { h with
    page := by rw [door_setDoor_self, hp, h.page]
    free := by rw [door_setDoor_self, hf, h.free]
    pre := by rw [door_setDoor_self, hpre, h.pre]
    doors := fun e he => by rw [door_setDoor_ne he, h.doors e he]
    frame := h.frame.trans ((setDoor_only _ _ _).mono (by simp))
    pages := fun id => by rw [page?_congr (setDoor_pp _ _ _), h.pages] }

/-- The lines that join the new page are its lines (R96). -/
theorem Started.addRaw (ls' : List RawLine) : Started d q r a (ls ++ ls') { p with raw := p.raw ++ ls' } s (addRaw d ls' t) := by
  rw [addRaw_of_page h.page h.page? h.stage]
  have hset : Started d q r a (ls ++ ls') { p with raw := p.raw ++ ls' } s (setPage { p with raw := p.raw ++ ls' } t) :=
    { h with
      frame := h.frame.trans (fun x => by cases x <;> simp [Part.same, setPage])
      pages := fun id => by
        rw [page?_setPage, h.pages, h.id]
        split <;> rfl
      raw := congrArg (· ++ ls') h.raw }
  exact hset.setDoor rfl rfl rfl

/-- The new page may end with its first lines (R120): it keeps them all the same. -/
theorem Started.ended {u : State} (hu : u = t ∨ ∃ cut at', u = endScan d cut at' t) :
    (∃ p', Machine.page? u s.pp.nextPid = some p' ∧ p'.queue = q ∧ p'.door = r.door ∧ p'.cls = r.cls ∧ p'.cseq = a.cseq ∧ p'.raw = ls) ∧
      (door u d).free = false ∧ (∀ id, id ≠ s.pp.nextPid → Machine.page? u id = Machine.page? s id) ∧ (∀ e, e ≠ d → door u e = door s e) ∧
      Only [.sf, .dq, .pp, .sn] s u := by
  obtain rfl | ⟨cut, at', rfl⟩ := hu
  · exact ⟨⟨p, h.page?, h.queue, h.pdoor, h.cls, h.cseq, h.raw⟩, h.free, fun id hid => by rw [h.pages, if_neg hid], h.doors,
      h.frame.mono (by simp)⟩
  · have hend := endScan_mayEnd d cut at' t
    obtain ⟨f, b, st, e, hp, -⟩ := hend.page _ p h.page h.page? h.id
    refine ⟨⟨_, hp, h.queue, h.pdoor, h.cls, h.cseq, h.raw⟩, hend.free.trans h.free, fun id hid => ?_,
      fun e he => (hend.doors e he).trans (h.doors e he),
      (h.frame.mono (by simp)).trans (hend.frame.mono (by simp))⟩
    rw [endScan_page_ne h.page h.page? h.id hid, h.pages, if_neg hid]

end

/-- The lines of a leading edge: those of its run and up to PREROLL lines before (R119). -/
def edgeLines (h n : Nat) (s : State) : List RawLine := ((door s h).pre.take (fld (sfEdge s h) 10 6 + n)).reverse

/-- A leading edge starts the page on the door's reservation, with the edge's lines (R119, R123). -/
theorem leadingEdge_started {h n q : Nat} {s : State} {r : Queue} {a : Arming} (hf : (door s h).free = true) (hd : doorQueue s h = some (q, r))
    (ha : armOf s h (door s h).freeArm = some a) : ∃ p, Started h q r a (edgeLines h n s) p s (leadingEdge h n s) := by
  obtain ⟨p, hp⟩ := startPage_started hd ha
  obtain ⟨x, hx, hpage, hfree, hpre⟩ : ∃ x, leadingEdge h n s = addRaw h (edgeLines h n (startPage h s)) (setDoor h x (startPage h s)) ∧
      x.page = (door (startPage h s) h).page ∧ x.free = (door (startPage h s) h).free ∧ x.pre = (door (startPage h s) h).pre := by
    simp only [leadingEdge, hf, if_true, hp.page]
    exact ⟨_, rfl, foldl_edgeLine_keeps _ _ _ _⟩
  have hlines : edgeLines h n (startPage h s) = edgeLines h n s := by rw [edgeLines, hp.pre, sfEdge_of_regs hp.regs]; rfl
  rw [hx, hlines]
  exact ⟨_, (hp.setDoor hpage hfree hpre).addRaw _⟩

/-- At a leading edge without a reservation the page is lost (R125). -/
theorem leadingEdge_lost {h n : Nat} {s : State} (hf : (door s h).free = false) (hp : (door s h).page = none) :
    leadingEdge h n s = startLost h s := by
  have hpage : (door (startLost h s) h).page = none := by rw [(startLost_parts h s).1]; exact hp
  simp only [leadingEdge, hf, Bool.false_eq_true, if_false, hpage]

/-! ### What a line leaves -/

section
variable {s u : State} {h g : Nat} (hu : CapsTaken h g s u) (l : RawLine)
include hu

theorem CapsTaken.preNoted : CapsTaken h g s (preNoted h l u) := hu.setDoor _

theorem CapsTaken.edgeNoted : CapsTaken h g s (edgeNoted h l u) := (hu.preNoted l).setDoor _

theorem CapsTaken.runNoted (n : Nat) : CapsTaken h g s (runNoted h n l u) := (hu.preNoted l).setDoor _

theorem paperLine_preNoted : paperLine (Machine.preNoted h l u) h l = paperLine s h l := paperLine_of_regs hu.regs h l

/-- The line joins the page in progress, which may end with it (R96, R119, R120). -/
theorem CapsTaken.joins {pid : BitVec 32} {p : Page} (hx : (door u h).page = some pid) (hp : page? u pid = some p) (hid : p.id = pid)
    (hst : p.stage = .intake) (n : Nat) : let t := lineEnd h n (addRaw h [l] u)
      t.sf.caps = s.sf.caps.filter (fun c => !(c.2.1 == h && c.1 == g)) ∧ (page? t pid).map (·.raw) = some (p.raw ++ [l]) ∧
      ((door t h).page = some pid ∨ (page? t pid).map (·.dataEnd) = some true) ∧
      (∀ q, queue? t q = queue? s q) ∧ (∀ d, d ≠ h → door t d = door s d) ∧ Only [.sf, .pp, .freeTick, .sn] s t := by
  dsimp only
  have hend := lineEnd_mayEnd h n (addRaw h [l] u)
  have hcaps := lineEnd_caps h n (addRaw h [l] u)
  have hjoin := addRaw_of_page hx hp hst [l]
  have hpage : page? (addRaw h [l] u) pid = some { p with raw := p.raw ++ [l] } := by
    rw [hjoin, page?_congr (setDoor_pp _ _ _), page?_setPage, if_pos hid.symm]
  have hset : Only [.pp] u (setPage { p with raw := p.raw ++ [l] } u) := fun x => by cases x <;> simp [Part.same, setPage]
  have hframe : Only [.sf, .pp, .freeTick, .sn] s (lineEnd h n (addRaw h [l] u)) := by
    refine Only.trans ?_ (hend.frame.mono (by simp))
    rw [hjoin]
    exact (hu.frame.mono (by simp)).trans ((hset.mono (by simp)).trans ((setDoor_only _ _ _).mono (by simp)))
  obtain ⟨f, b, a, e, hp', hdone⟩ := hend.page pid _ (by rw [door_addRaw, if_pos rfl, hx]) hpage hid
  refine ⟨?_, by rw [hp']; rfl, hdone.imp_right fun he => by rw [hp', he]; rfl,
    queue?_congr (congrArg Dechel.queues (hframe.same .dq (by decide))), fun d hd => ?_, hframe⟩
  · rw [hcaps, hjoin, ← hu.caps]
    rfl
  · rw [hend.doors d hd, door_addRaw, if_neg hd, hu.doors d hd]

/-- A line of a lost page is dropped (R125). -/
theorem CapsTaken.drops (hx : (door u h).page = none) (n : Nat) : let t := lineEnd h n (addRaw h [l] u)
    t.sf.caps = s.sf.caps.filter (fun c => !(c.2.1 == h && c.1 == g)) ∧ (door t h).page = none ∧
      (∀ d, d ≠ h → door t d = door s d) ∧ Only [.sf, .freeTick] s t := by
  dsimp only
  obtain ⟨y, hy, hyp⟩ : ∃ y, addRaw h [l] u = Machine.setDoor h y u ∧ y.page = none := ⟨_, addRaw_of_no_page hx _, hx⟩
  rw [hy]
  have hw := hu.setDoor y
  have hxw : (door (Machine.setDoor h y u) h).page = none := by rw [door_setDoor_self, hyp]
  have hend := lineEnd_mayEnd h n (Machine.setDoor h y u)
  exact ⟨(lineEnd_caps _ _ _).trans hw.caps, lineEnd_page_none hxw n, fun d hd => (hend.doors d hd).trans (hw.doors d hd),
    hw.frame.trans ((hend.idle hxw).mono (qs := [.sf, .freeTick]) (by simp))⟩

/-- A line of the rest of a sheet (R120). -/
theorem CapsTaken.skips (hp : (door u h).page = none) (hl : (door u h).lost = false) (hs : (door u h).skip = true) :
    (door (headLine h l u) h).page = none ∧
      (door (headLine h l u) h).nonRun = (if paperLine s h l then 0 else (door u h).nonRun + 1) ∧
      (door (headLine h l u) h).skip = decide ((door (headLine h l u) h).nonRun < max 1 (fld (sfEdge s h) 0 5)) ∧
      (∀ d, d ≠ h → door (headLine h l u) d = door s d) ∧ Only [.sf, .freeTick] s (headLine h l u) := by
  rw [headLine_skip l hp hl hs, paperLine_preNoted hu, sfEdge_of_regs hu.regs]
  have ht := (hu.preNoted l).setDoor { door u h with
      pre := (l :: (door u h).pre).take 128
      nonRun := if paperLine s h l then 0 else (door u h).nonRun + 1
      skip := decide ((if paperLine s h l then 0 else (door u h).nonRun + 1) < max 1 (fld (sfEdge s h) 0 5))
      run := 0 }
  refine ⟨?_, ?_, ?_, ht.doors, ht.frame⟩
  · rw [door_setDoor_self, hp]
  · rw [door_setDoor_self]
  · rw [door_setDoor_self]

theorem CapsTaken.run_eq {n : Nat} (hp : (door u h).page = none) (hl : (door u h).lost = false) (hs : (door u h).skip = false)
    (hn : n = if paperLine s h l then (door u h).run + 1 else 0) : headLine h l u =
    if max 1 (fld (sfEdge s h) 5 5) ≤ n then
      if atLimit (leadingEdge h n (Machine.runNoted h n l u)) h then
        endScan h true (leadingEdge h n (Machine.runNoted h n l u)).now (leadingEdge h n (Machine.runNoted h n l u))
      else leadingEdge h n (Machine.runNoted h n l u)
    else Machine.runNoted h n l u := by
  rw [← sfEdge_of_regs hu.regs]
  exact headLine_run l hp hl hs (by rw [paperLine_preNoted hu]; exact hn)

/-- A line before a page, its run below LEAD_RUN (R119). -/
theorem CapsTaken.runs {n : Nat} (hp : (door u h).page = none) (hl : (door u h).lost = false) (hs : (door u h).skip = false)
    (hn : n = if paperLine s h l then (door u h).run + 1 else 0) (hlt : n < max 1 (fld (sfEdge s h) 5 5)) :
    (headLine h l u).sf.caps = s.sf.caps.filter (fun c => !(c.2.1 == h && c.1 == g)) ∧ (door (headLine h l u) h).page = none ∧
      (door (headLine h l u) h).run = n ∧ (∀ d, d ≠ h → door (headLine h l u) d = door s d) ∧ Only [.sf, .freeTick] s (headLine h l u) := by
  rw [hu.run_eq l hp hl hs hn, if_neg (by omega)]
  have ht := hu.runNoted l n
  refine ⟨ht.caps, ?_, ?_, ht.doors, ht.frame⟩
  · rw [Machine.runNoted, door_setDoor_self, hp]
  · rw [Machine.runNoted, door_setDoor_self]

/-- A leading edge on the door's reservation starts the page, which may end with the edge's lines (R119, R120, R123). -/
theorem CapsTaken.starts {n q : Nat} {r : Queue} {a : Arming} (hp : (door u h).page = none) (hl : (door u h).lost = false)
    (hs : (door u h).skip = false) (hn : n = if paperLine s h l then (door u h).run + 1 else 0) (hle : max 1 (fld (sfEdge s h) 5 5) ≤ n)
    (hf : (door u h).free = true) (hq : doorQueue s h = some (q, r)) (ha : armOf u h (door u h).freeArm = some a) : let t := headLine h l u
      (∃ p, page? t s.pp.nextPid = some p ∧ p.queue = q ∧ p.door = r.door ∧ p.cls = r.cls ∧ p.cseq = a.cseq ∧
        p.raw = (((l :: (door u h).pre).take 128).take (fld (sfEdge s h) 10 6 + n)).reverse) ∧
      (door t h).free = false ∧ (∀ id, id ≠ s.pp.nextPid → page? t id = page? s id) ∧ (∀ d, d ≠ h → door t d = door s d) ∧
      Only [.sf, .dq, .pp, .freeTick, .sn] s t := by
  dsimp only
  rw [hu.run_eq l hp hl hs hn, if_pos hle]
  have hw := hu.runNoted l n
  have hdoor : door (Machine.runNoted h n l u) h = { door u h with
      pre := (l :: (door u h).pre).take 128
      run := n
      seen := (door u h).seen || ((door u h).free && paperLine (Machine.preNoted h l u) h l) } := door_setDoor_self _ _ _
  have hpp : (Machine.runNoted h n l u).pp = s.pp := hw.frame.same .pp (by decide)
  have hqw : doorQueue (Machine.runNoted h n l u) h = some (q, r) := by
    rw [doorQueue, show (Machine.runNoted h n l u).dq = s.dq from hw.frame.same .dq (by decide)]
    exact hq
  have haw : armOf (Machine.runNoted h n l u) h (door (Machine.runNoted h n l u) h).freeArm = some a := by
    rw [armOf, hdoor]
    exact ha
  obtain ⟨p, hstart⟩ := leadingEdge_started (n := n) (by rw [hdoor, hf]) hqw haw
  obtain ⟨hpage, hfree, hothers, hdoors, hframe⟩ := hstart.ended (u := if atLimit (leadingEdge h n (Machine.runNoted h n l u)) h = true then
      endScan h true (leadingEdge h n (Machine.runNoted h n l u)).now (leadingEdge h n (Machine.runNoted h n l u))
    else leadingEdge h n (Machine.runNoted h n l u)) (by
      split
      · exact .inr ⟨_, _, rfl⟩
      · exact .inl rfl)
  have hlines : edgeLines h n (Machine.runNoted h n l u) = (((l :: (door u h).pre).take 128).take (fld (sfEdge s h) 10 6 + n)).reverse := by
    rw [edgeLines, hdoor, sfEdge_of_regs hw.regs]
  rw [hpp, hlines] at hpage
  rw [hpp] at hothers
  exact ⟨hpage, hfree, fun id hid => (hothers id hid).trans (page?_congr hpp id), fun d hd => (hdoors d hd).trans (hw.doors d hd),
    (hw.frame.mono (by simp)).trans (hframe.mono (by simp))⟩

/-- A leading edge without a reservation is a lost page, counted and noted (R119, R125). -/
theorem CapsTaken.loses {n : Nat} (hp : (door u h).page = none) (hl : (door u h).lost = false) (hs : (door u h).skip = false)
    (hn : n = if paperLine s h l then (door u h).run + 1 else 0) (hle : max 1 (fld (sfEdge s h) 5 5) ≤ n) (hf : (door u h).free = false) :
    let t := headLine h l u;
      (door t h).lost = true ∧ t.sf.cnt = cntAdd s.sf.cnt 1 1 ∧ t.sn.eseq = s.sn.eseq + 1 ∧ (∀ d, d ≠ h → door t d = door s d) ∧
      Only [.sf, .freeTick, .sn] s t := by
  dsimp only
  have hw := hu.runNoted l n
  have hpage : (door (Machine.runNoted h n l u) h).page = none := by rw [Machine.runNoted, door_setDoor_self, hp]
  have hfree : (door (Machine.runNoted h n l u) h).free = false := by rw [Machine.runNoted, door_setDoor_self, hf]
  rw [hu.run_eq l hp hl hs hn, if_pos hle, leadingEdge_lost hfree hpage]
  obtain ⟨hself, hdoors, hcnt, heseq, hframe⟩ := startLost_parts h (Machine.runNoted h n l u)
  have hlimit : atLimit (startLost h (Machine.runNoted h n l u)) h = false := by simp only [atLimit, hself, hpage, Option.bind_none]
  rw [hlimit, if_neg Bool.false_ne_true]
  exact ⟨by rw [hself], by rw [hcnt, hw.cnt], by rw [heseq, show (Machine.runNoted h n l u).sn = s.sn from hw.frame.same .sn (by decide)],
    fun d hd => (hdoors d hd).trans (hw.doors d hd), (hw.frame.mono (by simp)).trans (hframe.mono (by simp))⟩

end

end Sys2Proof.Machine
end

section
/-! PROOFS. The registers of the CIS heads and their calibration (R112, R113, R114, R130, R131): a stored register, a calibration asked, and the shading
table that 64 calibration lines leave. -/

namespace Sys2Proof.Machine

/-! ### Registers that wait for a page boundary -/

theorem tabGet_tabDel {α : Type} (t : List (Nat × α)) (k j : Nat) (d : α) : tabGet (tabDel t k) j d = if j = k then d else tabGet t j d := by
  induction t with
  | nil => simp [tabDel, tabGet]
  | cons e r ih =>
    obtain ⟨i, v⟩ := e
    rw [tabDel] at ih ⊢
    by_cases hi : i = k
    · rw [List.filter_cons_of_neg (by simp [hi]), ih]
      by_cases hj : j = k
      · simp [hj]
      · simp [hj, tabGet, hi, Ne.symm hj]
    · rw [List.filter_cons_of_pos (by simp [hi])]
      by_cases hj : i = j
      · simp [hj, tabGet, hj ▸ hi]
      · simp only [tabGet, if_neg hj, ih]

/-- A written register waits for the door's page boundary, or is in force at once (R131). -/
theorem sfStore_cases (off : Nat) (d en : Word) (s : State) :
    sfStore off d en s = { s with sf := { s.sf with defer := tabSet s.sf.defer off (putBits (sfSeen s off) d (sfRw off) en) } } ∨
      sfStore off d en s = { s with sf := { s.sf with
        regs := tabSet s.sf.regs off (putBits (sfSeen s off) d (sfRw off) en)
        defer := tabDel s.sf.defer off } } :=
  ite_eq_or_eq _ _ _

/-- Either way it reads as written (R130, R131). -/
theorem sfSeen_sfStore (off : Nat) (d en : Word) (s : State) (o : Nat) :
    sfSeen (sfStore off d en s) o = if o = off then putBits (sfSeen s off) d (sfRw off) en else sfSeen s o := by
  obtain h | h := sfStore_cases off d en s <;> rw [h]
  · exact tabGet_tabSet _ _ _ _ _
  · simp only [sfSeen, sfReg, tabGet_tabDel, tabGet_tabSet]
    split <;> rfl

theorem sfStore_only (off : Nat) (d en : Word) (s : State) : Only [.sf] s (sfStore off d en s) := by
  obtain h | h := sfStore_cases off d en s <;> rw [h] <;> exact fun p => by cases p <;> simp [Part.same]

theorem door_sfStore (off : Nat) (d en : Word) (s : State) (e : Nat) : door (sfStore off d en s) e = door s e := by
  obtain h | h := sfStore_cases off d en s <;> rw [h] <;> rfl

/-- A head's register written with CAL asks for that calibration, unless one is asked (R113, R130). -/
theorem headWrite_asks {h n : Nat} {d en : Word} (hn : fld (d &&& en) 50 2 = n) (h12 : n = 1 ∨ n = 2) (s : State) :
    let t := headWrite h d en s;
    (door t h).cal = (if (door s h).cal = 0 then n else (door s h).cal) ∧ door t h = { door s h with cal := (door t h).cal } ∧
      (∀ o, sfSeen t o = sfSeen (sfStore (0x7C40 + h * 8) d en s) o) ∧ (∀ e, e ≠ h → door t e = door s e) ∧ Only [.sf] s t := by
  have hstore := sfStore_only (0x7C40 + h * 8) d en s
  have hdoor (e : Nat) : door (sfStore (0x7C40 + h * 8) d en s) e = door s e := door_sfStore _ _ _ _ _
  simp only [headWrite, hn, hdoor]
  by_cases hx : (door s h).cal = 0
  · rw [if_pos ⟨hx, h12⟩, if_pos hx]
    refine ⟨?_, ?_, fun _ => rfl, fun e he => ?_, hstore.trans (setDoor_only _ _ _)⟩
    · rw [door_setDoor_self]
    · rw [door_setDoor_self]
    · rw [door_setDoor_ne he, hdoor]
  · rw [if_neg (fun hc => hx hc.1), if_neg hx]
    exact ⟨by rw [hdoor], by rw [hdoor], fun _ => rfl, fun e _ => hdoor e, hstore⟩

/-! ### Bytes of the staged window -/

/-- A byte laid over a byte string that starts at `a` (R51). -/
def layByte (a w : Nat) (b : Byte) (bs : Bytes) : Bytes := if a ≤ w ∧ w < a + bs.length then bs.set (w - a) b else bs

/-- A byte laid over a string is laid over each part of it. -/
theorem layByte_slice (a w : Nat) (b : Byte) (o m : Nat) (bs : Bytes) :
    layByte (a + o) w b ((bs.drop o).take m) = ((layByte a w b bs).drop o).take m := by
  unfold layByte
  by_cases hin : a ≤ w ∧ w < a + bs.length
  · rw [if_pos hin, List.drop_set]
    by_cases hlo : w - a < o
    · rw [if_pos hlo, if_neg (by omega)]
    · rw [if_neg hlo, List.take_set]
      by_cases hm : w - a - o < m
      · rw [if_pos (by simp; omega), show w - (a + o) = w - a - o by omega]
      · rw [if_neg (by simp; omega), List.set_eq_of_length_le (by simp; omega)]
  · rw [if_neg hin, if_neg (by simp; omega)]

theorem layBytes_slice (a o m w : Nat) (cs : List (Nat × Byte)) (bs : Bytes) :
    cs.foldl (fun bs c => layByte (a + o) (w + c.1) c.2 bs) ((bs.drop o).take m) =
      ((cs.foldl (fun bs c => layByte a (w + c.1) c.2 bs) bs).drop o).take m :=
  List.foldl_hom (fun bs : Bytes => (bs.drop o).take m) (fun bs c => layByte_slice a (w + c.1) c.2 o m bs)

theorem overlay_slice (comb : List CombEntry) (a o m : Nat) (bs : Bytes) :
    overlay comb (a + o) ((bs.drop o).take m) = ((overlay comb a bs).drop o).take m :=
  List.foldl_hom (fun bs : Bytes => (bs.drop o).take m) (fun bs e => layBytes_slice a o m (e.block * 1024) e.bytes bs)

/-- A part of a range of the staged window. -/
theorem swBytes_slice (s : State) (a : Nat) {o m n : Nat} (h : o + m ≤ n) : ((swBytes s a n).drop o).take m = swBytes s (a + o) m := by
  rw [swBytes, ← overlay_slice, swBytes]
  refine congrArg _ (List.ext_getElem (by simp; omega) (fun i hi _ => ?_))
  simp [Nat.add_assoc]

theorem leNat_lt (bs : Bytes) : leNat bs < 256 ^ bs.length := by
  induction bs with
  | nil => simp [leNat]
  | cons b bs ih =>
    have := b.isLt
    rw [leNat, List.length_cons, Nat.pow_succ]
    omega

theorem length_swBytes_le (s : State) (a n : Nat) : (swBytes s a n).length ≤ n := by
  have hall := swBytes_slice s a (o := 0) (m := n) (n := n) (by omega)
  rw [List.drop_zero, Nat.add_zero] at hall
  rw [← hall]
  exact List.length_take_le _ _

theorem swNat_lt (s : State) (a : Nat) : swNat s a 2 < 65536 :=
  (leNat_lt _).trans_le (Nat.pow_le_pow_right (by decide) (length_swBytes_le s a 2))

/-- Entry `i` of a plane's shading table (R112). -/
theorem getElem_shadeTab (s : State) (h c n : Nat) {i : Nat} (hi : i < (shadeTab s h c n).length) : (shadeTab s h c n)[i] =
    (swNat s (fld (sfShade s h) 6 27 * 64 + c * n * 4 + 4 * i) 2, swNat s (fld (sfShade s h) 6 27 * 64 + c * n * 4 + 4 * i + 2) 2) := by
  have hin : i < n := by simpa [shadeTab] using hi
  simp only [shadeTab, List.getElem_map, List.getElem_range, leAt, List.drop_drop, swNat]
  rw [swBytes_slice s _ (by omega), swBytes_slice s _ (by omega)]
  rfl

/-! ### The shading table that a calibration leaves -/

/-- Sums of the samples of `rows`, position by position, on top of `acc` (R113). -/
def sampleSums (n : Nat) (rows : List (List (BitVec 16))) (acc : List Nat) : List Nat :=
  rows.foldl (fun acc r => (acc.zip (r ++ List.replicate (n - r.length) 0)).map (fun z => z.1 + z.2.toNat)) acc

theorem length_sampleSums {n : Nat} (rows : List (List (BitVec 16))) {acc : List Nat} (h : acc.length = n) : (sampleSums n rows acc).length = n := by
  induction rows generalizing acc with
  | nil => exact h
  | cons r rows ih => exact ih (by simp; omega)

/-- A line counts with its own sample, or with 0 beyond its end. -/
theorem getElem_sampleSums {n : Nat} (rows : List (List (BitVec 16))) {acc : List Nat} (h : acc.length = n) {i : Nat} (hi : i < n) :
    (sampleSums n rows acc)[i]'(by rwa [length_sampleSums rows h]) = acc[i] + (rows.map (fun r => (nth r i 0).toNat)).sum := by
  induction rows generalizing acc with
  | nil => simp [sampleSums]
  | cons r rows ih =>
    have hpad : (r ++ List.replicate (n - r.length) 0)[i]'(by simp; omega) = nth r i 0 := by
      rw [List.getElem_append, nth]
      split
      · next hr => rw [List.getElem?_eq_getElem hr]; rfl
      · next hr => rw [List.getElem?_eq_none (by omega)]; simp
    have hlen : ((acc.zip (r ++ List.replicate (n - r.length) 0)).map (fun z => z.1 + z.2.toNat)).length = n := by simp; omega
    refine (ih hlen).trans ?_
    rw [List.getElem_map, List.getElem_zip, hpad, List.map_cons, List.sum_cons, Nat.add_assoc]

/-- The entries of a plane after a calibration, each with whether its pixel is dead (R113, R114). -/
def calEntries (s : State) (h : Nat) (x : Door) (first : RawLine) (e : BitVec 2 × List (BitVec 16)) : List ((Nat × Nat) × Bool) :=
  ((sampleSums e.2.length (x.calLines.map (fun l => (tagOf l e.1).getD [])) (List.replicate e.2.length 0)).zip
    (shadeTab s h (planeNo first e.1) e.2.length)).map (fun z => calEntry x.cal (fld (sfHead s h) 0 16) z.1 z.2)

/-- The bytes of a shading entry (R112). -/
def entryBytes (z : (Nat × Nat) × Bool) : Bytes := leBytes 2 z.1.1 ++ leBytes 2 z.1.2

/-- A calibration writes one plane of the table and counts its dead pixels (R113, R114). -/
def calPlane (h : Nat) (x : Door) (first : RawLine) (s : State) (e : BitVec 2 × List (BitVec 16)) : State :=
  sfCount 3 ((calEntries s h x first e).filter (·.2)).length
    (swStore (fld (sfShade s h) 6 27 * 64 + planeNo first e.1 * e.2.length * 4) ((calEntries s h x first e).flatMap entryBytes) s)

theorem calibrationDone_idle {h : Nat} {s : State} (hc : (door s h).cal = 0 ∨ (door s h).calLines.length < 64) : calibrationDone h s = s := if_pos hc

/-- The state in which the table holds every plane of a calibration (R113). -/
def calStored (h : Nat) (s : State) : State :=
  (nth (door s h).calLines 0 []).foldl (calPlane h (door s h) (nth (door s h).calLines 0 [])) s

theorem calibrationDone_eq {h : Nat} {s : State} (hc : ¬ ((door s h).cal = 0 ∨ (door s h).calLines.length < 64)) : calibrationDone h s =
    setDoor h { door (calStored h s) h with cal := 0, calOn := false, calLines := [], run := 0 } (calStored h s) := if_neg hc

/-- Only the table in DRAM, the damage under it and the count of dead pixels differ. -/
structure Shaded (s t : State) : Prop where
  doors : ∀ e, door t e = door s e
  mem : t.mem = { s.mem with dram := t.mem.dram }
  frame : Only [.sf, .mem, .dm] s t

theorem Shaded.refl (s : State) : Shaded s s := ⟨fun _ => rfl, rfl, Only.refl _ _⟩

theorem Shaded.trans {s t u : State} (hst : Shaded s t) (htu : Shaded t u) : Shaded s u :=
  ⟨fun e => (htu.doors e).trans (hst.doors e), htu.mem.trans (by rw [hst.mem]), hst.frame.trans htu.frame⟩

theorem swStore_shaded (a : Nat) (bs : Bytes) (s : State) : Shaded s (swStore a bs s) := by
  unfold swStore
  split
  · exact ⟨fun _ => rfl, rfl, fun p => by cases p <;> simp [Part.same, setDram]⟩
  · exact Shaded.refl s

theorem sfCount_shaded (k n : Nat) (s : State) : Shaded s (sfCount k n s) := ⟨fun _ => rfl, rfl, (sfCount_only _ _ _).mono (by simp)⟩

theorem calPlane_shaded (h : Nat) (x : Door) (first : RawLine) (s : State) (e : BitVec 2 × List (BitVec 16)) : Shaded s (calPlane h x first s e) :=
  (swStore_shaded _ _ _).trans (sfCount_shaded _ _ _)

theorem calStored_shaded (h : Nat) (s : State) : Shaded s (calStored h s) := by
  suffices hall : ∀ (x : Door) (first l : RawLine) (s : State), Shaded s (l.foldl (calPlane h x first) s) from hall _ _ _ s
  intro x first l
  induction l with
  | nil => exact Shaded.refl
  | cons e l ih => exact fun s => (calPlane_shaded h x first s e).trans (ih _)

/-! ### The table of one colour -/

@[simp] theorem length_entryBytes (z : (Nat × Nat) × Bool) : (entryBytes z).length = 4 := by simp [entryBytes]

/-- The entry that a calibration gives a sample, as the table's 16-bit fields hold it (R113, R114). -/
theorem calEntry_stored (kind target sum : Nat) {dark gain : Nat} (hd : dark < 65536) (hg : gain < 65536) :
    ((calEntry kind target sum (dark, gain)).1.1 % 65536, (calEntry kind target sum (dark, gain)).1.2 % 65536) =
      if kind = 1 then (rneNat sum 64 % 65536, gain)
      else if rneNat sum 64 ≤ dark then (dark, 0) else (dark, min (rneNat (target * 4096) (rneNat sum 64 - dark)) 0xFFFF) := by
  simp only [calEntry]
  by_cases hk : kind = 1
  · rw [if_pos hk, if_pos hk, Nat.mod_eq_of_lt hg]
  · rw [if_neg hk, if_neg hk]
    by_cases hdead : rneNat sum 64 ≤ dark
    · rw [if_pos hdead, if_pos hdead]
      exact Prod.ext (Nat.mod_eq_of_lt hd) rfl
    · rw [if_neg hdead, if_neg hdead]
      exact Prod.ext (Nat.mod_eq_of_lt hd) (Nat.mod_eq_of_lt (by dsimp only; omega))

section
variable {s : State} {h : Nat} {tag : BitVec 2} {v : List (BitVec 16)}

theorem planeNo_single : planeNo [(tag, v)] tag = 0 := by simp [planeNo]

theorem length_calEntries (x : Door) : (calEntries s h x [(tag, v)] (tag, v)).length = v.length := by
  simp [calEntries, length_sampleSums, shadeTab]

theorem getElem_calEntries (x : Door) {i : Nat} (hi : i < v.length) :
    (calEntries s h x [(tag, v)] (tag, v))[i]'(by rwa [length_calEntries]) =
      calEntry x.cal (fld (sfHead s h) 0 16) ((x.calLines.map (fun z => (nth ((tagOf z tag).getD []) i 0).toNat)).sum)
        (swNat s (fld (sfShade s h) 6 27 * 64 + 4 * i) 2, swNat s (fld (sfShade s h) 6 27 * 64 + 4 * i + 2) 2) := by
  have hsum := getElem_sampleSums (x.calLines.map (fun l => (tagOf l tag).getD [])) (List.length_replicate (n := v.length) (a := 0)) hi
  simp only [calEntries, List.getElem_map, List.getElem_zip, hsum, getElem_shadeTab, planeNo_single]
  simp [List.map_map, Function.comp_def]

theorem length_entries (x : Door) : ((calEntries s h x [(tag, v)] (tag, v)).flatMap entryBytes).length = 4 * v.length := by
  simp [List.length_flatMap, length_calEntries, Nat.mul_comm]

theorem calPlane_dram {x : Door} (hback : backedRange s (fld (sfShade s h) 6 27 * 64) (4 * v.length) = true) :
    (calPlane h x [(tag, v)] s (tag, v)).mem.dram = Memory.writeBytes s.mem.dram (swDev s (fld (sfShade s h) 6 27 * 64))
      ((calEntries s h x [(tag, v)] (tag, v)).flatMap entryBytes) := by
  rw [calPlane, planeNo_single, Nat.zero_mul, Nat.zero_mul, Nat.add_zero, swStore, length_entries, if_pos hback]
  rfl

/-- The two fields of entry `i` in the stored bytes (R112). -/
theorem fields_of_entries (l : List ((Nat × Nat) × Bool)) {i : Nat} (hi : i < l.length) :
    leAt (l.flatMap entryBytes) (4 * i) 2 = l[i].1.1 % 65536 ∧ leAt (l.flatMap entryBytes) (4 * i + 2) 2 = l[i].1.2 % 65536 := by
  have hpiece := piece_of_flatMap length_entryBytes l hi
  have hlow : ((l.flatMap entryBytes).drop (4 * i)).take 2 = leBytes 2 l[i].1.1 := by
    simpa [List.take_take, entryBytes, List.take_append] using congrArg (List.take 2) hpiece
  have hhigh : ((l.flatMap entryBytes).drop (4 * i + 2)).take 2 = leBytes 2 l[i].1.2 := by
    simpa [List.drop_take, List.drop_drop, entryBytes, List.drop_append] using congrArg (List.drop 2) hpiece
  rw [leAt, leAt, hlow, hhigh, leNat_leBytes, leNat_leBytes]
  exact ⟨rfl, rfl⟩

variable (hone : nth (door s h).calLines 0 [] = [(tag, v)]) (hback : backedRange s (fld (sfShade s h) 6 27 * 64) (4 * v.length) = true)
include hone hback

/-- The table's backed bytes alone change, and each entry is the one that R113 gives its sample. -/
theorem calStored_table : SameBut s.mem.dram (calStored h s).mem.dram (swDev s (fld (sfShade s h) 6 27 * 64)) (4 * v.length) ∧
    ∀ i, i < v.length → ∀ mean, mean = rneNat (((door s h).calLines.map (fun z => (nth ((tagOf z tag).getD []) i 0).toNat)).sum) 64 →
      (Memory.readNat (calStored h s).mem.dram (swDev s (fld (sfShade s h) 6 27 * 64) + 4 * i) 2,
        Memory.readNat (calStored h s).mem.dram (swDev s (fld (sfShade s h) 6 27 * 64) + 4 * i + 2) 2) =
          (let dark := swNat s (fld (sfShade s h) 6 27 * 64 + 4 * i) 2
           if (door s h).cal = 1 then (mean % 65536, swNat s (fld (sfShade s h) 6 27 * 64 + 4 * i + 2) 2)
           else if mean ≤ dark then (dark, 0) else (dark, min (rneNat (fld (sfHead s h) 0 16 * 4096) (mean - dark)) 0xFFFF)) := by
  have hdram : (calStored h s).mem.dram = Memory.writeBytes s.mem.dram (swDev s (fld (sfShade s h) 6 27 * 64))
      ((calEntries s h (door s h) [(tag, v)] (tag, v)).flatMap entryBytes) := by
    rw [calStored, hone]
    exact calPlane_dram hback
  have hlen := length_entries (s := s) (h := h) (tag := tag) (v := v) (door s h)
  rw [hdram]
  refine ⟨fun k hk => Memory.read_writeBytes_of_not _ _ _ k (by rwa [hlen]), fun i hi mean hmean => ?_⟩
  have hi' : i < (calEntries s h (door s h) [(tag, v)] (tag, v)).length := by rwa [length_calEntries]
  obtain ⟨hlow, hhigh⟩ := fields_of_entries _ hi'
  rw [Nat.add_assoc _ (4 * i) 2, Memory.readNat_writeBytes _ _ _ (by omega), Memory.readNat_writeBytes _ _ _ (by omega), hlow, hhigh,
    getElem_calEntries _ hi, calEntry_stored _ _ _ (swNat_lt _ _) (swNat_lt _ _), hmean]

end

end Sys2Proof.Machine
end

section
/-! PROOFS. Where a captured line of a CIS head goes, and what a calibration of the head asks and leaves (R110 to R114, R119 to R125). -/

namespace Sys2Proof.Machine

/-- Settles O26: a captured line calibrates the head or, from the colour delay, joins its page, is dropped, or counts toward a leading edge
(`scanLine_taken` and the `CapsTaken` lemmas); a register written with CAL asks (`headWrite_asks`), and 64 lines write the table (`calStored_table`). -/
theorem captureAndCalibration : Obligations.CaptureAndCalibration := by
  intro s h x hl hx
  subst hx
  refine ⟨fun planes hc => ?idle, fun planes g tags mine l k run ready hc hline hd hdel hrun hready => ?line, fun w c n off hmem hmade hn hoff => ?asked,
    fun hc => ?early, fun hcal h64 => ?done⟩
  case idle => exact (run_live hl _).trans (congrArg _ (scanLine_none hc))
  case line =>
    obtain rfl : l = (delayed s h.toNat (door s h.toNat).past mine).1 := congrArg Prod.fst hdel
    obtain rfl : k = (delayed s h.toNat (door s h.toNat).past mine).2 := congrArg Prod.snd hdel
    have hu := lineTaken_capsTaken h.toNat g (delayed s h.toNat (door s h.toNat).past mine).2 mine s
    have hdoor := door_lineTaken h.toNat g (delayed s h.toNat (door s h.toNat).past mine).2 mine s
    have hexec : exec (.scanLine h planes) s = .next (scanLine h.toNat planes s) := run_live hl _
    replace hready : ready = calReady s h.toNat := hready
    rw [scanLine_taken hc hline hd, ← hready] at hexec
    generalize lineTaken h.toNat g (delayed s h.toNat (door s h.toNat).past mine).2 mine s = u at hu hdoor hexec
    generalize (delayed s h.toNat (door s h.toNat).past mine).1 = l at hrun hexec ⊢
    refine ⟨fun hr => ?calibrates, fun pid p hr hx hp hid hst => ?joins, fun hr hx hlost => ?drops, fun hr hx hlost hskip => ?skips,
      fun hr hx hlost hskip hlt => ?runs, fun q r a hr hx hlost hskip hle hfree hq ha => ?starts, fun hr hx hlost hskip hle hfree => ?loses⟩ <;>
      rw [hr] at hexec <;> refine ⟨_, hexec, ?_⟩
    case calibrates =>
      refine ⟨hu.caps, ?_, ?_, (hu.setDoor _).doors, (hu.setDoor _).frame⟩
      · rw [if_pos rfl, door_setDoor_self]
      · rw [if_pos rfl, door_setDoor_self]
    all_goals rw [if_neg Bool.false_ne_true]
    case joins =>
      rw [headLine_page l (.inl (by rw [hdoor, hx]; rfl))]
      exact (hu.edgeNoted l).joins l (by rw [edgeNoted_page, hdoor, hx])
        (by rw [page?_edgeNoted, page?_congr (hu.frame.same .pp (by decide)), hp]) hid hst _
    case drops =>
      rw [headLine_page l (.inr (by rw [hdoor, hlost]))]
      exact (hu.edgeNoted l).drops l (by rw [edgeNoted_page, hdoor, hx]) _
    case skips =>
      have hskips := hu.skips l (by rw [hdoor, hx]) (by rw [hdoor, hlost]) (by rw [hdoor, hskip])
      rw [hdoor] at hskips
      exact hskips
    case runs => exact hu.runs l (by rw [hdoor, hx]) (by rw [hdoor, hlost]) (by rw [hdoor, hskip]) (by rw [hdoor, hrun]) hlt
    case starts =>
      have hstarts := hu.starts l (by rw [hdoor, hx]) (by rw [hdoor, hlost]) (by rw [hdoor, hskip]) (by rw [hdoor, hrun]) hle (by rw [hdoor, hfree]) hq
        (by rw [armOf, hdoor]; exact ha)
      rw [hdoor] at hstarts
      exact hstarts
    case loses =>
      exact hu.loses l (by rw [hdoor, hx]) (by rw [hdoor, hlost]) (by rw [hdoor, hskip]) (by rw [hdoor, hrun]) hle (by rw [hdoor, hfree])
  case asked =>
    have hcase : (c = .calibrateDark h w ∧ n = 1) ∨ (c = .calibrateWhite h w ∧ n = 2) := by simpa using hmem
    have hexec : exec c s = .next (headWrite h.toNat w.data (enMask w.be) s) := by
      rw [← whenRun_made hmade (0x7C40 + h.toNat * 8) (headWrite h.toNat w.data (enMask w.be))]
      obtain ⟨rfl, -⟩ | ⟨rfl, -⟩ := hcase <;> exact run_live hl _
    have h12 : n = 1 ∨ n = 2 := hcase.imp And.right And.right
    obtain ⟨hcal, hself, hseen, hdoors, hframe⟩ := headWrite_asks (h := h.toNat) hn h12 s
    subst hoff
    refine ⟨_, hexec, hcal, hself, ?_, fun o ho => ?_, hdoors, hframe⟩
    · rw [hseen, sfSeen_sfStore, if_pos rfl]
    · rw [hseen, sfSeen_sfStore, if_neg ho]
  case early => exact (run_live hl _).trans (congrArg _ (calibrationDone_idle hc))
  case done =>
    have hsh := calStored_shaded h.toNat s
    have hexec := (run_live hl _).trans (congrArg _ (calibrationDone_eq (h := h.toNat) (s := s) (by omega)))
    refine ⟨_, hexec, ?_, ?_, ?_, fun d hdne => ?_, hsh.mem, hsh.frame.trans ((setDoor_only _ _ _).mono (by simp)), ?_⟩
    · rw [door_setDoor_self]
    · rw [door_setDoor_self]
    · rw [door_setDoor_self]
    · rw [door_setDoor_ne hdne, hsh.doors]
    · rintro tag v base i hone rfl hback hi
      obtain ⟨hsame, htab⟩ := calStored_table hone hback
      exact ⟨hsame, htab i hi⟩

end Sys2Proof.Machine
end

section
/-! PROOFS. Tiles and their operations (R207 to R213): what a write of one tile or token leaves readable, the issue of an operation, and changes that
touch nothing but one tile. -/

namespace Sys2Proof.Machine

/-! ### Tiles and tokens -/

theorem tile_congr {s t : State} (h : t.tl.tiles = s.tl.tiles) (k : Nat) : tile t k = tile s k := by rw [tile, h, tile]

@[simp] theorem tile_setTile_self (l : Nat) (x : Tile) (s : State) : tile (setTile l x s) l = x := tabGet_tabSet_self _ _ _ _

theorem tile_setTile_ne {l k : Nat} (h : k ≠ l) (x : Tile) (s : State) : tile (setTile l x s) k = tile s k := tabGet_tabSet_ne _ _ _ _ _ h

@[simp] theorem setTile_setTile (l : Nat) (x y : Tile) (s : State) : setTile l x (setTile l y s) = setTile l x s := by
  simp [setTile, tabSet_tabSet]

@[simp] theorem tile_modTile_self (l : Nat) (f : Tile → Tile) (s : State) : tile (modTile l f s) l = f (tile s l) := tile_setTile_self ..

theorem tok_congr {s t : State} (h : t.tl.toks = s.tl.toks) (k : Nat) : tok t k = tok s k := by rw [tok, h, tok]

@[simp] theorem tile_setTok (k l : Nat) (r : Tok) (s : State) : tile (setTok k r s) l = tile s l := rfl

@[simp] theorem tok_setTok_self (k : Nat) (r : Tok) (s : State) : tok (setTok k r s) k = r := tabGet_tabSet_self _ _ _ _

theorem tok_setTok_ne {k m : Nat} (h : m ≠ k) (r : Tok) (s : State) : tok (setTok k r s) m = tok s m := tabGet_tabSet_ne _ _ _ _ _ h

theorem setTl_only (x : Tiles) (s : State) : Only [.tl] s { s with tl := x } := fun p => by cases p <;> simp [Part.same]

theorem setTile_only (l : Nat) (x : Tile) (s : State) : Only [.tl] s (setTile l x s) := setTl_only _ s

theorem setTok_only (k : Nat) (r : Tok) (s : State) : Only [.tl] s (setTok k r s) := setTl_only _ s

/-! ### Entries of a table -/

theorem mem_tabSet {α : Type} {t : List (Nat × α)} {k : Nat} {v : α} {e : Nat × α} (h : e ∈ tabSet t k v) : e = (k, v) ∨ e ∈ t := by
  induction t with
  | nil => simpa [tabSet] using h
  | cons x r ih =>
    obtain ⟨i, w⟩ := x
    simp only [tabSet] at h
    split at h
    · rcases List.mem_cons.1 h with h | h
      · exact .inl h
      · exact .inr (List.mem_cons_of_mem _ h)
    · split at h
      · exact List.mem_cons.1 h
      · rcases List.mem_cons.1 h with h | h
        · exact .inr (h ▸ List.mem_cons_self)
        · exact (ih h).imp_right (List.mem_cons_of_mem _)

theorem tabGet_mem {α : Type} (t : List (Nat × α)) (k : Nat) (d : α) : tabGet t k d = d ∨ (k, tabGet t k d) ∈ t := by
  induction t with
  | nil => exact .inl rfl
  | cons x r ih =>
    obtain ⟨i, w⟩ := x
    by_cases h : i = k
    · subst h; simp [tabGet]
    · simpa [tabGet, h] using ih.imp_right .inr

/-- What holds of an idle tile and of every listed one holds of each tile. -/
theorem tile_of_all {P : Tile → Prop} (h0 : P Tile.init) {s : State} (h : ∀ e ∈ s.tl.tiles, P e.2) (l : Nat) : P (tile s l) := by
  rcases tabGet_mem s.tl.tiles l Tile.init with he | he
  · rw [tile, he]; exact h0
  · exact h _ he

theorem setTile_all {P : Tile → Prop} {s : State} (h : ∀ e ∈ s.tl.tiles, P e.2) {x : Tile} (hx : P x) (l : Nat) :
    ∀ e ∈ (setTile l x s).tl.tiles, P e.2 := fun e he => by
  rcases mem_tabSet he with rfl | he
  · exact hx
  · exact h e he

/-! ### The issue of an operation -/

/-- An operation that passed the checks acts in the state where its bundle begins (R210, R213). -/
theorem run_issue {ok : Bool} {s u : State} {o : Op} {l : Nat} {t : Tile} (hl : Live s) (h : OpAt ok s o l u t)
    (f : Nat → Tile → State → State) :
    run s (issue ok o f) = .next (f l t u) := by
  obtain ⟨hok, hissues, rfl, rfl, rfl⟩ := h
  rw [run_live hl, issue, hok, hissues]
  rfl

theorem OpAt.tile_lt {ok : Bool} {s u : State} {o : Op} {l : Nat} {t : Tile} (h : OpAt ok s o l u t) : l < 64 := by
  obtain ⟨-, -, rfl, -⟩ := h
  exact o.tile.isLt

theorem OpAt.tile_eq {ok : Bool} {s u : State} {o : Op} {l : Nat} {t : Tile} (h : OpAt ok s o l u t) : tile u l = t := h.2.2.2.2.symm

/-! ### Changes of one tile -/

/-- Nothing but tile `l` differs. -/
structure TileStep (l : Nat) (s t : State) : Prop where
  tl : t.tl = { s.tl with tiles := t.tl.tiles }
  others : ∀ k, k ≠ l → tile t k = tile s k
  only : Only [.tl] s t

theorem TileStep.refl (l : Nat) (s : State) : TileStep l s s := ⟨rfl, fun _ _ => rfl, .refl _ s⟩

theorem TileStep.trans {l : Nat} {s t u : State} (h : TileStep l s t) (k : TileStep l t u) : TileStep l s u where
  tl := by rw [k.tl, h.tl]
  others := fun m hm => (k.others m hm).trans (h.others m hm)
  only := h.only.trans k.only

theorem setTile_step (l : Nat) (x : Tile) (s : State) : TileStep l s (setTile l x s) :=
  ⟨rfl, fun _ hk => tile_setTile_ne hk x s, setTile_only l x s⟩

theorem modTile_step (l : Nat) (f : Tile → Tile) (s : State) : TileStep l s (modTile l f s) := setTile_step ..

theorem TileStep.toks {l : Nat} {s t : State} (h : TileStep l s t) (k : Nat) : tok t k = tok s k := tok_congr (by rw [h.tl]) k

theorem TileStep.mem {l : Nat} {s t : State} (h : TileStep l s t) : t.mem = s.mem := h.only.same .mem (by simp)

/-- A result that lands later changes what its tile has pending, no more (R211). -/
theorem lands_step (l : Nat) (o : Op) (n : Nat) (e : Effect) (s : State) : TileStep l s (lands l o n e s) := modTile_step ..

theorem tile_lands (l : Nat) (o : Op) (n : Nat) (e : Effect) (s : State) :
    tile (lands l o n e s) l = { tile s l with land := insLand ⟨(tile s l).cyc + n, (tile s l).cyc, o.slot.toNat, e⟩ (tile s l).land } :=
  tile_modTile_self ..

end Sys2Proof.Machine
end

section
/-! PROOFS. Vector operations on one operand, CVT and CUSTOM (R187, R217, R218, R248, R258). -/

namespace Sys2Proof.Machine

/-! ### Lists of lanes -/

theorem nth_eq_getElem {α : Type} {l : List α} {i : Nat} (d : α) (h : i < l.length) : nth l i d = l[i] := by simp [nth, h]

theorem nth_lane (v : Lanes) (k : Fin 64) : nth v.toList k.val 0 = v[k] := by
  rw [nth_eq_getElem 0 (by simp [k.isLt])]
  simp

theorem nth_map_range {α : Type} (f : Nat → α) {n k : Nat} (d : α) (h : k < n) : nth ((List.range n).map f) k d = f k := by
  rw [nth_eq_getElem d (by simp [h])]
  simp

/-- Some governed lane has a property: as the operations find it in their list of lanes, and lane by lane (R214). -/
theorem any_governed {β : Type} (m : BitVec 64) (f : Nat → β) (p : β → Bool) :
    ((((List.range 64).zip ((List.range 64).map f)).filter (fun e => m.getLsbD e.1)).any (fun e => p e.2)) = true ↔
      ∃ k : Fin 64, m.getLsbD k.val = true ∧ p (f k.val) = true := by
  have hzip : (List.range 64).zip ((List.range 64).map f) = (List.range 64).map (fun k => (k, f k)) := by
    rw [List.zip_map_right, List.zip_eq_zipWith, List.zipWith_self, List.map_map]
    rfl
  rw [hzip]
  simp only [List.any_filter, List.any_map, List.any_eq_true, List.mem_range, Function.comp_apply, Bool.and_eq_true]
  exact ⟨fun ⟨k, hk, h⟩ => ⟨⟨k, hk⟩, h⟩, fun ⟨k, h⟩ => ⟨k.val, k.isLt, h⟩⟩

/-! ### The statement -/

/-- Settles O32: each row is `vectorOp1` or issues its own body at the state of its bundle. -/
theorem vectorSingles : Obligations.VectorSingles := by
  rintro s o l u t a hl rfl
  refine ⟨fun h => ⟨fun c f hc => ?lane, fun c f hc => ?reduction⟩, fun h r hr => ?cvt, fun h => ?custom⟩
  case lane =>
    have hexec : exec c s = run s (vectorOp1 8 (·.map f) o) := by
      simp only [List.mem_cons, Prod.mk.injEq, List.not_mem_nil, or_false] at hc
      obtain ⟨rfl, rfl⟩ | ⟨rfl, rfl⟩ | ⟨rfl, rfl⟩ | ⟨rfl, rfl⟩ := hc <;> rfl
    exact ⟨_, hexec.trans (run_issue hl h _), fun k => by simp⟩
  case reduction =>
    have hexec : exec c s = run s (vectorOp1 6 (reduce f) o) := by
      simp only [List.mem_cons, Prod.mk.injEq, List.not_mem_nil, or_false] at hc
      obtain ⟨rfl, rfl⟩ | ⟨rfl, rfl⟩ := hc <;> rfl
    refine ⟨_, hexec.trans (run_issue hl h _), by simp [reduce], fun k hk => ?_⟩
    have hk0 : k.val ≠ 0 := fun h0 => hk (Fin.ext h0)
    rw [reduce, Fin.getElem_fin, Vector.getElem_ofFn, if_neg hk0]
  case cvt =>
    have hlane (k : Fin 64) : cvtLane (o.fieldOf 1 4) (nth (t.readV o.srcA).toList k.val 0) (nth (t.vectorB o).toList k.val 0) = r k := by
      rw [hr k, nth_lane, nth_lane]
    refine ⟨_, _, _, run_issue hl h _, fun k => ?_, ?_, ?_⟩
    · rw [Fin.getElem_fin, Vector.getElem_ofFn, nth_map_range _ _ k.isLt, hlane]
    · exact (any_governed _ _ (fun e : BitVec 32 × Bool × Bool => e.2.1)).trans (by simp only [hlane])
    · exact (any_governed _ _ (fun e : BitVec 32 × Bool × Bool => e.2.2)).trans (by simp only [hlane])
  case custom =>
    refine ⟨fun hm => (run_issue hl h _).trans ?_, fun m w ff hm hrun => (run_issue hl h _).trans ?_⟩
    · simp only [hm]
    · simp only [hm, hrun]

end Sys2Proof.Machine
end

section
/-! PROOFS. The matrix slots and the route slot of a tile (R219 to R223, R247, R255). -/

namespace Sys2Proof.Machine

/-- A fill that starts takes the place of a running fill of the same buffer; nothing else of the tile changes (R221). -/
theorem startFill_eq (l : Nat) (f : Fill) (s : State) :
    startFill l f s = setTile l { tile s l with fills := (tile s l).fills.filter (fun g => g.buf != f.buf) ++ [f] } s := rfl

theorem doMul_off {t : Tile} {o : Op} (h : t.off o = true) (l : Nat) (s : State) : doMul l o t s = s := by rw [doMul, if_pos h]

/-- A lane of a mask that one bit governs (R223). -/
theorem getLsbD_and_one_shift (m : BitVec 64) {k : Nat} (hk : k < 64) (i : Nat) :
    (m &&& ((1 <<< i : Nat) : BitVec 64)).getLsbD k = (m.getLsbD k && decide (k = i)) := by
  have hbit : ((1 <<< i : Nat) : BitVec 64).getLsbD k = decide (k = i) := by
    rw [BitVec.natCast_eq_ofNat, BitVec.getLsbD_ofNat, Nat.one_shiftLeft, Nat.testBit_two_pow]
    simp [hk, eq_comm]
  rw [BitVec.getLsbD_and, hbit]

/-- Settles O33: the multiply's sums are those of its own expression, a fill is `startFill`, and a suppressed row answers its bundle's state. -/
theorem matrixAndRoute : Obligations.MatrixAndRoute := by
  intro s o l u t hl
  refine ⟨fun h hoff hst x hx => ?mul, fun h hoff hst x y z st hx hy hst' hz => ?mulStilts, fun hoff => ?off, fun h hoff => ?wfill,
    fun h hoff => ?sfill, fun h => run_issue hl h _, fun h hoff => ?v2a, fun h => run_issue hl h _, fun h hoff k hk => ?v2s, fun h => ?s2v⟩
  case mul =>
    subst hx
    refine ⟨Vector.ofFn fun k => columnSum ?_ ?_ k.val, (run_issue hl h _).trans (congrArg _ ?_), fun k => ?sum⟩
    case sum => rw [Fin.getElem_fin, Vector.getElem_ofFn]
    · simp only [doMul, hoff, hst, Bool.false_eq_true, ↓reduceIte]
  case mulStilts =>
    subst hx hy hst' hz
    refine ⟨Vector.ofFn fun k => columnSum ?_ ?_ k.val, Vector.ofFn fun k => stiltsSum ?_ ?_ k.val, (run_issue hl h _).trans (congrArg _ ?_),
      fun k => ⟨?sum, ?stilts⟩⟩
    case sum => rw [Fin.getElem_fin, Vector.getElem_ofFn]
    case stilts => rw [Fin.getElem_fin, Vector.getElem_ofFn]
    · simp only [doMul, hoff, hst, Bool.false_eq_true, ↓reduceIte]
  case off =>
    refine ⟨fun h => (run_issue hl h _).trans ?_, fun h => (run_issue hl h _).trans ?_, fun h => (run_issue hl h _).trans ?_,
      fun h => (run_issue hl h _).trans ?_, fun h => (run_issue hl h _).trans ?_⟩
    · rw [doMul_off hoff]
    all_goals exact congrArg _ (if_pos hoff)
  case wfill =>
    refine ⟨_, (run_issue hl h _).trans (congrArg _ (if_neg (by simp [hoff]))),
      ⟨if o.flag 1 then 1 else 0, t.cyc, offAddr t o / 256 * 256, scalesOf (t.readV o.srcB), o.flag 4, false, false, []⟩,
      ?_, rfl, rfl, rfl, rfl, rfl, ?_⟩
    · rw [startFill_eq, tile_setTile_self, h.tile_eq]
    · rw [startFill_eq, tile_setTile_self, h.tile_eq]
  case sfill =>
    refine ⟨_, (run_issue hl h _).trans (congrArg _ (if_neg (by simp [hoff]))),
      ⟨2, t.cyc, offAddr t o / 256 * 256, [], false, false, false, []⟩, ?_, rfl, rfl, rfl, ?_⟩
    · rw [startFill_eq, tile_setTile_self, h.tile_eq]
    · rw [startFill_eq, tile_setTile_self, h.tile_eq]
  case v2a => exact (run_issue hl h _).trans (congrArg _ (if_neg (by simp [hoff])))
  case v2s =>
    refine (run_issue hl h _).trans (congrArg _ ((if_neg (by simp [hoff])).trans ?_))
    rw [← hk, nth_lane]
  case s2v =>
    refine ⟨_, _, run_issue hl h _, fun k => ?_, fun k hk => getLsbD_and_one_shift _ hk _⟩
    rw [Fin.getElem_fin, Vector.getElem_replicate]

end Sys2Proof.Machine
end

section
/-! PROOFS. A damaged word that is found may begin tests and remaps (R351, R352, R427 to R429): what every tile keeps then, and the power state of a
device that is not asleep. -/

namespace Sys2Proof.Machine

/-- The tiles themselves stay as they are, and a device that does not sleep keeps its power state: a remap only raises it out of SLEEP. -/
structure TilesKept (s t : State) : Prop where
  tiles : t.tl.tiles = s.tl.tiles
  pw : s.pw.mode ≠ modeSleep → t.pw = s.pw

theorem TilesKept.refl (s : State) : TilesKept s s := ⟨rfl, fun _ => rfl⟩

theorem TilesKept.trans {s t u : State} (h : TilesKept s t) (k : TilesKept t u) : TilesKept s u where
  tiles := k.tiles.trans h.tiles
  pw := fun hm => (k.pw (by rw [h.pw hm]; exact hm)).trans (h.pw hm)

/-- The same from a state that differs in neither. -/
theorem TilesKept.after {s t u : State} (k : TilesKept t u) (tiles : t.tl.tiles = s.tl.tiles) (pw : t.pw = s.pw) : TilesKept s u :=
  TilesKept.trans ⟨tiles, fun _ => pw⟩ k

theorem TilesKept.foldl {α : Type} {g : State → α → State} (hg : ∀ s x, TilesKept s (g s x)) (l : List α) (s : State) :
    TilesKept s (l.foldl g s) := by
  induction l generalizing s with
  | nil => exact .refl s
  | cons x l ih => exact (hg s x).trans (ih _)

theorem TilesKept.ite {c : Prop} [Decidable c] {s t u : State} (ht : TilesKept s t) (hu : TilesKept s u) : TilesKept s (if c then t else u) := by
  split
  · exact ht
  · exact hu

@[simp] theorem barker_tl (event sev : Nat) (r : EventRef) (s : State) : (barker event sev r s).tl = s.tl := by
  unfold barker
  split <;> rfl

@[simp] theorem barker_pw (event sev : Nat) (r : EventRef) (s : State) : (barker event sev r s).pw = s.pw := by
  unfold barker
  split <;> rfl

theorem barker_tilesKept (event sev : Nat) (r : EventRef) (s : State) : TilesKept s (barker event sev r s) :=
  ⟨by rw [barker_tl], fun _ => barker_pw ..⟩

theorem beginTest_tilesKept (u : Nat × Nat) (cover : Option Nat) (s : State) : TilesKept s (beginTest u cover s) := by
  unfold beginTest
  exact .ite ⟨rfl, fun _ => rfl⟩ ((barker_tilesKept ..).after rfl rfl)

theorem leaveSleep_awake {s : State} (h : s.pw.mode ≠ modeSleep) : leaveSleep s = s := if_neg h

theorem leaveSleep_tl (s : State) : (leaveSleep s).tl = s.tl := by
  unfold leaveSleep
  split <;> rfl

theorem startRemap_tilesKept (l : Nat) (old : Option Nat) (q : Nat) (s : State) : TilesKept s (startRemap l old q s) where
  tiles := show (leaveSleep s).tl.tiles = _ by rw [leaveSleep_tl]
  pw := fun h => show (leaveSleep s).pw = _ by rw [leaveSleep_awake h]

theorem vacate_tilesKept (l : Nat) (s : State) : TilesKept s (vacate l s) := by
  unfold vacate
  exact (barker_tilesKept ..).after rfl rfl

theorem tileOut_tilesKept (l : Nat) (u : Nat × Nat) (choice : Option Nat) (s : State) : TilesKept s (tileOut l u choice s) := by
  have hout (cover : Option Nat) : TilesKept s (beginTest u cover (setPhys (physOf s l) 2 s)) :=
    (beginTest_tilesKept ..).after rfl rfl
  simp only [tileOut]
  refine .ite (.refl s) (.ite ⟨rfl, fun _ => rfl⟩ ?_)
  split
  · exact (hout _).trans (startRemap_tilesKept ..)
  · exact .ite (.ite (.refl s) ⟨rfl, fun _ => rfl⟩) ((hout _).trans (vacate_tilesKept ..))

theorem coverError_tilesKept (u : Nat × Nat) (choice : Option Nat) (s : State) : TilesKept s (coverError u choice s) := by
  unfold coverError
  refine .ite (.refl s) (.ite (tileOut_tilesKept ..) (.ite ?_ (.refl s)))
  split
  · exact beginTest_tilesKept ..
  · exact .ite (.refl s) ⟨rfl, fun _ => rfl⟩

theorem unitError_tilesKept (u : Nat × Nat) (choice : Option Nat) (s : State) : TilesKept s (unitError u choice s) := by
  unfold unitError
  refine .ite (coverError_tilesKept ..) ?_
  split
  case h_2 =>
    refine .ite (.refl s) ?_
    split
    · exact (beginTest_tilesKept ..).after rfl rfl
    · exact .ite (.refl s) (tileOut_tilesKept ..)
  case h_1 => exact .ite (.refl s) (tileOut_tilesKept ..)
  case h_8 => exact .refl s
  all_goals exact beginTest_tilesKept ..

theorem startDue_tilesKept (s : State) : TilesKept s (startDue s) :=
  TilesKept.after (.foldl (fun _ _ => unitError_tilesKept ..) _ _) rfl rfl

theorem noteCe_tilesKept (u : Nat × Nat) (s : State) : TilesKept s (noteCe u s) := by
  unfold noteCe
  exact .ite ⟨rfl, fun _ => rfl⟩ (.refl s)

theorem foundDamage_tilesKept (d : Damage) (s : State) : TilesKept s (foundDamage d s) := by
  unfold foundDamage
  extract_lets byte _ _ u unit tested
  have hu : TilesKept s u := by
    simp only [u]
    split
    case h_4 => exact .ite ⟨rfl, fun _ => rfl⟩ (.refl s)
    all_goals exact ⟨rfl, fun _ => rfl⟩
  refine hu.trans (.ite ?_ ?_)
  · exact (barker_tilesKept ..).trans (.ite (unitError_tilesKept ..) (.refl _))
  · exact (TilesKept.ite ((noteCe_tilesKept ..).trans (startDue_tilesKept _)) (.refl u)).trans (.ite (.refl _) ⟨rfl, fun _ => rfl⟩)

/-- What a read finds changes no tile (R183, R352). -/
theorem readCheck_tilesKept (m : MemKind) (unit lo n : Nat) (s : State) : TilesKept s (readCheck m unit lo n s).2 :=
  .foldl (fun _ d => foundDamage_tilesKept d _) _ s

end Sys2Proof.Machine
end

section
/-! PROOFS. Load and store slots of a tile and its mesh port (R177 to R183, R222, R236): what a read of the scratchpad sees, what it meets, and a PUT
line's place in the port queue. -/

namespace Sys2Proof.Machine

/-! ### Undamaged reads -/

theorem damageIn_congr {s t : State} (h : t.dm = s.dm) (m : MemKind) (unit lo n : Nat) : damageIn t m unit lo n = damageIn s m unit lo n := by
  rw [damageIn, h, damageIn]

theorem readCheck_sound {m : MemKind} {unit lo n : Nat} {s : State} (h : damageIn s m unit lo n = []) : readCheck m unit lo n s = (false, s) := by
  simp [readCheck, h]

@[simp] theorem readFails_false (l : Nat) (s : State) : readFails l false s = s := rfl

/-- The bytes of tile space up to its end (R200). -/
theorem tsRead_eq_readBytes {a n : Nat} (h : a + n ≤ 2 ^ 28) (s : State) : tsRead s a n = Memory.readBytes s.mem.spad a n := by
  refine List.map_congr_left fun i hi => ?_
  rw [tsAddr, Nat.mod_eq_of_lt (by have := List.mem_range.1 hi; omega)]

/-! ### Transfers in flight -/

/-- The tile has a transfer into tile space in flight. -/
def Tile.fetching (t : Tile) : Bool := (t.xfers ++ t.sxfers).any (fun x => !x.out)

/-- What one tile adds to the transfers in flight. -/
theorem inbound_eq_nil {s : State} :
    inbound s = [] ↔ ∀ e ∈ s.tl.tiles, (e.2.cmd.bind (fun c => part? s c.part)).isSome = true → e.2.fetching = false := by
  simp only [inbound, List.flatMap_eq_nil_iff]
  refine forall₂_congr fun e _ => ?_
  cases e.2.cmd.bind (fun c => part? s c.part) with
  | none => simp
  | some pd => simp [Tile.fetching, List.filter_eq_nil_iff]

/-- Transfers in flight are none after a tile has changed in other respects. -/
theorem inbound_setTile {s : State} {l : Nat} {x : Tile} (h : inbound s = []) (hcmd : x.cmd = (tile s l).cmd)
    (hx : x.xfers = (tile s l).xfers) (hs : x.sxfers = (tile s l).sxfers) : inbound (setTile l x s) = [] := by
  rw [inbound_eq_nil] at h ⊢
  have hl : ((tile s l).cmd.bind (fun c => part? s c.part)).isSome = true → (tile s l).fetching = false :=
    tile_of_all (P := fun x => (x.cmd.bind (fun c => part? s c.part)).isSome = true → x.fetching = false) (by simp [Tile.init]) h l
  refine setTile_all (P := fun x => (x.cmd.bind (fun c => part? s c.part)).isSome = true → x.fetching = false) h ?_ l
  rw [hcmd, Tile.fetching, hx, hs]
  exact hl

theorem spadSeen_quiet {s : State} (h : inbound s = []) (l a n : Nat) : spadSeen l a n s = (tsRead s (l * 0x400000 + a) n, s) := by
  simp [spadSeen, h]

/-- An undamaged read of a scratchpad into which no transfer is in flight gives its bytes (R177, R182, R183). -/
theorem readSpad_sound {s : State} {l a n : Nat} (hd : damageIn s .spad l a n = []) (hi : inbound s = []) (hl : l < 64) (ha : a + n ≤ 2 ^ 22) :
    readSpad l a n s = (Memory.readBytes s.mem.spad (l * 0x400000 + a) n, s) := by
  rw [readSpad, readCheck_sound hd]
  dsimp only
  rw [readFails_false, spadSeen_quiet hi, tsRead_eq_readBytes (by omega)]

theorem inbound_useBank {s : State} (h : inbound s = []) (l a : Nat) : inbound (useBank l a s) = [] := inbound_setTile h rfl rfl rfl

/-- A line of the scratchpad stands whole within its 4 MiB (R222). -/
theorem offAddr_line (t : Tile) (o : Op) {n : Nat} (hn : n ∣ 2 ^ 22) : offAddr t o / n * n + n ≤ 2 ^ 22 := by
  obtain ⟨k, hk⟩ := hn
  have hlt : offAddr t o < n * k := hk ▸ BitVec.isLt _
  have : offAddr t o / n < k := Nat.div_lt_of_lt_mul hlt
  calc offAddr t o / n * n + n = (offAddr t o / n + 1) * n := by ring
    _ ≤ k * n := Nat.mul_le_mul_right n this
    _ = 2 ^ 22 := by rw [hk, Nat.mul_comm]

/-! ### The end of a freeze -/

theorem thaw_unfrozen {l : Nat} {s : State} (h : (tile s l).freeze = []) : thaw l s = s := by simp [thaw, h]

/-- What the one cause of a freeze waits for has room (R213). -/
theorem thaw_room {l : Nat} {s : State} {f : Freeze} {x : Tile} (h : (tile s l).freeze = [f]) (hx : (tile s l).thawOne f = (true, x)) :
    thaw l s = setTile l { x with freeze := [] } s := by
  simp [thaw, h, hx]

/-- A full lane, queue or port keeps its tile frozen (R213). -/
theorem thaw_full {l : Nat} {s : State} {f : Freeze} {x : Tile} (h : (tile s l).freeze = [f]) (hx : (tile s l).thawOne f = (false, x))
    (hf : f ≠ .fence) : thaw l s = setTile l { x with freeze := [f] } s := by
  simp [thaw, h, hx, hf]

/-! ### Post-increments -/

theorem postInc_step (l : Nat) (o : Op) (t : Tile) (s : State) : TileStep l s (postInc l o t s) := by
  unfold postInc
  dsimp only
  split
  · exact .refl l s
  · exact lands_step ..

/-- A post-increment changes what lands on its tile, no more (R222). -/
theorem tile_postInc (l : Nat) (o : Op) (t : Tile) (s : State) : ∃ p, tile (postInc l o t s) l = { tile s l with land := p } := by
  unfold postInc
  dsimp only
  split
  · exact ⟨_, rfl⟩
  · exact ⟨_, tile_lands ..⟩

theorem tile_putV (l : Nat) (o : Op) (n : Nat) (v : Lanes) (m : BitVec 64) (s : State) :
    ∃ p, tile (putV l o n v m s) l = { tile s l with land := p } := by
  unfold putV
  split
  · exact ⟨_, rfl⟩
  · exact ⟨_, tile_lands ..⟩

/-! ### Refused accesses -/

theorem barker_only (event sev : Nat) (r : EventRef) (s : State) : Only [.sn, .hp] s (barker event sev r s) := by
  unfold barker
  exact ((setSn_only _ s).mono (by simp)).trans (Only.ite ((alert_only 5 _).mono (by simp)) (.refl _ _))

/-- What a refusal of another partition's tiles counts and logs (R230). -/
theorem crossPart_parts (l part : Nat) (s : State) : (crossPart l part s).tl = { s.tl with xpart := satAdd s.tl.xpart 1, xpartAt := l } ∧
    Only [.tl, .sn, .hp] s (crossPart l part s) := by
  constructor
  · exact barker_tl ..
  · exact Only.trans (t := { s with tl := { s.tl with xpart := satAdd s.tl.xpart 1, xpartAt := l } }) ((setTl_only _ s).mono (by simp))
      ((barker_only _ _ _ _).mono (by simp))

/-! ### Failing reads and PUT lines -/

/-- A read that meets an uncorrectable word fails its tile's command (R183). -/
theorem readSpad_fails {s : State} {l a n : Nat} (hd : (damageIn s .spad l a n).any (·.ue) = true) :
    (tile (readSpad l a n s).2 l).cmd = (tile s l).cmd.map (fun c => { c with failed := true }) := by
  have hseen (u : State) : (spadSeen l a n u).2.tl = u.tl := by
    simp only [spadSeen]
    split <;> rfl
  have hue : (readCheck .spad l a n s).1 = true := hd
  have htile := tile_congr (readCheck_tilesKept .spad l a n s).tiles l
  simp only [readSpad, hue]
  rw [tile, hseen, ← tile, readFails, if_pos rfl, tile_modTile_self, htile]

/-- A PUT line joins the port queue; with more than 64 lines waiting the tile freezes (R236). -/
theorem thaw_put {l : Nat} {s : State} (h : (tile s l).freeze = []) (a : Nat) (v : Tile → Lanes) :
    thaw l (modTile l (fun t => { t with puts := t.puts ++ [.line a (v t)], freeze := t.freeze ++ [.port] }) s) =
      setTile l { tile s l with puts := (tile s l).puts ++ [.line a (v (tile s l))], freeze := if (tile s l).lines < 64 then [] else [.port] } s := by
  have hput : modTile l (fun t => { t with puts := t.puts ++ [.line a (v t)], freeze := t.freeze ++ [.port] }) s =
      setTile l { tile s l with puts := (tile s l).puts ++ [.line a (v (tile s l))], freeze := [.port] } s := by
    simp only [modTile, h, List.nil_append]
  have hlines (fs : List Freeze) : ({ tile s l with puts := (tile s l).puts ++ [.line a (v (tile s l))], freeze := fs } : Tile).lines =
      (tile s l).lines + 1 := by
    simp [Tile.lines]
  rw [hput]
  by_cases hroom : (tile s l).lines < 64
  · rw [thaw_room (f := .port) (by rw [tile_setTile_self])
      (by rw [tile_setTile_self, Tile.thawOne, hlines, decide_eq_true (by omega)]), if_pos hroom, setTile_setTile]
  · rw [thaw_full (f := .port) (by rw [tile_setTile_self])
      (by rw [tile_setTile_self, Tile.thawOne, hlines, decide_eq_false (by omega)]) (by simp), if_neg hroom, setTile_setTile]

/-! ### The statement -/

/-- Settles O34: an undamaged read is `readSpad_sound`, a post-increment the model's own, and PUT joins the port queue by `thaw_put`. -/
theorem loadsAndStores : Obligations.LoadsAndStores := by
  intro s o l u t hl
  refine ⟨fun inc hinc => ?_, fun h hcmd hue => ?damaged, fun h hoff => ?_, fun h hoff => ?_, fun h hoff => ?_⟩
  case damaged =>
    refine ⟨_, run_issue hl h _, ?_⟩
    have hfails := readSpad_fails (s := useBank l (offAddr t o / 256 * 256) u) hue
    rcases hread : readSpad l (offAddr t o / 256 * 256) 256 (useBank l (offAddr t o / 256 * 256) u) with ⟨b, v⟩
    rw [hread] at hfails
    obtain ⟨p, hp⟩ := tile_postInc l o t (putV l o 2 (bytesLanes b) (t.pred o) v)
    obtain ⟨p', hp'⟩ := tile_putV l o 2 (bytesLanes b) (t.pred o) v
    have hbank : (tile (useBank l (offAddr t o / 256 * 256) u) l).cmd = t.cmd := by rw [useBank, tile_modTile_self, h.tile_eq]
    dsimp only at hfails ⊢
    rw [hread, hp, hp', hfails, hbank]
    obtain ⟨c, hc⟩ := Option.isSome_iff_exists.1 hcmd
    rw [hc]
    rfl
  rotate_left
  · exact (run_issue hl h _).trans (congrArg _ (if_pos hoff))
  · exact (run_issue hl h _).trans (congrArg _ (if_pos hoff))
  · exact (run_issue hl h _).trans (congrArg _ (if_pos hoff))
  have hpost (v : State) : inc v = postInc l o t v := by rw [hinc]; rfl
  simp only [hpost]
  refine ⟨fun h a ha hd hi => ?ldv, fun h hoff n a w hn ha hd hi hw => ?lds, fun h a ha => ?stv, fun h hoff n a hn ha => ?sts,
    fun h hoff c pd a hc hpd ha => ?put⟩
  case ldv =>
    subst ha
    refine (run_issue hl h _).trans (congrArg _ ?_)
    dsimp only
    rw [readSpad_sound (by exact hd) (inbound_useBank hi _ _) h.tile_lt (offAddr_line t o (by decide))]
    rfl
  case lds =>
    subst hn ha hw
    refine (run_issue hl h _).trans (congrArg _ ((if_neg (by simp [hoff])).trans ?_))
    have hsize : accSize o ∣ 2 ^ 22 := pow_dvd_pow 2 (by have : o.fieldOf 1 2 < 4 := Nat.mod_lt _ (by decide); omega)
    dsimp only
    rw [readSpad_sound (by exact hd) (inbound_useBank hi _ _) h.tile_lt (offAddr_line t o hsize)]
    rfl
  case stv =>
    subst ha
    exact run_issue hl h _
  case sts =>
    subst hn ha
    exact (run_issue hl h _).trans (congrArg _ (if_neg (by simp [hoff])))
  case put =>
    subst ha
    have hbind : t.cmd.bind (fun c => (part? u c.part).map (fun pd => (c, pd))) = some (c, pd) := by simp [hc, hpd]
    have htile := h.tile_eq
    have hexec (b : Bool) (hb : tsInside pd (tsOperand t o) 256 = b) : exec (.put o) s = .next (postInc l o t (if b then
        thaw l (modTile l (fun t' => { t' with puts := t'.puts ++ [.line (tsOperand t o) (t'.readV o.srcB)], freeze := t'.freeze ++ [.port] }) u)
        else crossPart l c.part u)) := by
      refine (run_issue hl h _).trans (congrArg _ ((if_neg (by simp [hoff])).trans ?_))
      dsimp only
      rw [hbind]
      simp only [hb]
    refine ⟨fun hin hfr hlt => ?_, fun hin hfr hge => ?_, fun hin => ⟨_, hexec _ hin, ?_⟩⟩
    · rw [hexec _ hin, if_pos rfl, thaw_put (v := fun x => x.readV o.srcB) (by rw [htile, hfr]), htile, if_pos hlt, ← hfr]
    · rw [hexec _ hin, if_pos rfl, thaw_put (v := fun x => x.readV o.srcB) (by rw [htile, hfr]), htile, if_neg (by omega)]
    · obtain ⟨htl, honly⟩ := crossPart_parts l c.part u
      have hstep := postInc_step l o t (crossPart l c.part u)
      obtain ⟨p, hp⟩ := tile_postInc l o t (crossPart l c.part u)
      rw [if_neg (by simp)]
      refine ⟨?_, ?_, ?_, ?_, honly.trans (hstep.only.mono (by simp))⟩
      · rw [hstep.tl, htl]
      · rw [hstep.tl, htl]
      · rw [hp, tile, htl, ← htile]
        rfl
      · exact hstep.mem.trans (honly.same .mem (by simp))

end Sys2Proof.Machine
end

section
/-! PROOFS. Issue cycles (R211, R212): a pending register result lands in its cycle, and what cycles of a tile leave alone (R177, R180). -/

namespace Sys2Proof.Machine

/-! ### One pending result -/

section
variable {s : State} {l n : Nat}

/-- The issue cycle of a tile without fills: what is due lands, the rest waits (R211). -/
theorem endCycle_noFills (hf : (tile s l).fills = []) :
    endCycle l s = ((tile s l).land.filter (fun x => decide (x.at' ≤ (tile s l).cyc + 1))).foldl (fun s x => landOne l x.eff s)
      (setTile l { tile s l with cyc := (tile s l).cyc + 1, banks := [], fills := [],
                                 land := (tile s l).land.filter (fun x => decide ((tile s l).cyc + 1 < x.at')) } (countFreeze l s)) := by
  have hcount : tile (countFreeze l s) l = tile s l := tile_congr (by rw [countFreeze]) l
  simp only [endCycle, hf, List.foldl_nil, List.filter_nil, hcount]

/-- A tile that waits for one register result: it lands `n` cycles from now. -/
structure Awaits (s : State) (l n d : Nat) (v : BitVec 64) : Prop where
  fills : (tile s l).fills = []
  land : ∃ i slot, (tile s l).land = [⟨(tile s l).cyc + n, i, slot, .sreg d v⟩]

variable {d : Nat} {v : BitVec 64}

/-- A cycle before the last leaves the result pending and every register as it was. -/
theorem Awaits.wait (h : Awaits s l (n + 1) d v) (hn : 0 < n) :
    Awaits (passCycles l 1 s) l n d v ∧ (tile (passCycles l 1 s) l).s = (tile s l).s := by
  obtain ⟨i, slot, hland⟩ := h.land
  have hend : tile (endCycle l s) l = { tile s l with cyc := (tile s l).cyc + 1, banks := [], fills := [] } := by
    have hdue : (tile s l).land.filter (fun x => decide (x.at' ≤ (tile s l).cyc + 1)) = [] := by
      rw [hland]
      simp
      omega
    have hwait : (tile s l).land.filter (fun x => decide ((tile s l).cyc + 1 < x.at')) = (tile s l).land := by
      rw [hland]
      simp
      omega
    rw [endCycle_noFills h.fills, hdue, hwait, List.foldl_nil, tile_setTile_self]
  simp only [passCycles]
  refine ⟨⟨?_, i, slot, ?_⟩, ?_⟩
  · rw [tile_modTile_self, hend]
  · rw [tile_modTile_self, hend]
    simp only [hland, Nat.add_assoc, Nat.add_comm 1 n]
  · rw [tile_modTile_self, hend]

/-- In its last cycle the result lands. -/
theorem Awaits.lands (h : Awaits s l 1 d v) : (tile (passCycles l 1 s) l).s = tabSet (tile s l).s d v := by
  obtain ⟨i, slot, hland⟩ := h.land
  have hend : (tile (endCycle l s) l).s = tabSet (tile s l).s d v := by
    rw [endCycle_noFills h.fills, hland]
    simp [landOne]
  simp only [passCycles]
  rw [tile_modTile_self]
  exact hend

end

theorem passCycles_add (l m n : Nat) (s : State) : passCycles l (m + n) s = passCycles l n (passCycles l m s) := by
  induction m generalizing s with
  | zero => rw [Nat.zero_add]; rfl
  | succ m ih => rw [Nat.add_right_comm]; exact ih _

/-- Until it lands the register reads as old, then as the new value; no other register changes (R211). -/
theorem Awaits.passCycles {s : State} {l n d : Nat} {v : BitVec 64} (h : Awaits s l n d v) (hn : 1 ≤ n) {k : Nat} (hk : k ≤ n) :
    (tile (passCycles l k s) l).s = if k < n then (tile s l).s else tabSet (tile s l).s d v := by
  induction k generalizing s n with
  | zero => exact (if_pos (by omega)).symm
  | succ k ih =>
    rw [Nat.add_comm k 1, passCycles_add]
    obtain ⟨n, rfl⟩ := Nat.exists_eq_add_of_le' hn
    rcases Nat.eq_zero_or_pos n with rfl | hpos
    · obtain rfl : k = 0 := by omega
      rw [if_neg (by omega)]
      exact h.lands
    · obtain ⟨hw, hs⟩ := h.wait hpos
      rw [ih hw hpos (by omega), hs]
      simp only [show k < n ↔ 1 + k < n + 1 by omega]

/-! ### What cycles leave alone -/

/-- The tile sends nothing: no transfer out is in flight, and none waits for room. -/
def Tile.sendless (t : Tile) : Prop :=
  (∀ x ∈ t.xfers ++ t.sxfers, x.out = false) ∧ ∀ f ∈ t.freeze, ∀ x, f ≠ .lane x ∧ f ≠ .staging x

/-- No scratchpad word is damaged, and no transfer out of tile space is in flight or waits: a store mixes into none. -/
structure Still (s : State) : Prop where
  sound : ∀ d ∈ s.dm.damage, d.mem ≠ .spad
  kept : ∀ e ∈ s.tl.tiles, e.2.sendless

/-- Work of one tile's issue cycles: nothing but that tile, its own scratchpad, damage lists and the tiles' counters may differ (R177, R180). -/
structure OwnWork (l : Nat) (s t : State) : Prop where
  still : Still t
  others : ∀ m, m ≠ l → tile t m = tile s m
  toks : t.tl.toks = s.tl.toks
  mem : t.mem = { s.mem with spad := t.mem.spad }
  spad : SameBut s.mem.spad t.mem.spad (l * 0x400000) 0x400000
  frame : Only [.tl, .mem, .dm] s t

section
variable {l : Nat} {s : State}

theorem OwnWork.refl (h : Still s) : OwnWork l s s := ⟨h, fun _ _ => rfl, rfl, rfl, fun _ _ => rfl, .refl _ s⟩

theorem OwnWork.trans {t u : State} (h : OwnWork l s t) (k : OwnWork l t u) : OwnWork l s u where
  still := k.still
  others := fun m hm => (k.others m hm).trans (h.others m hm)
  toks := k.toks.trans h.toks
  mem := Eq.trans k.mem (congrArg (fun m : Mems => { m with spad := u.mem.spad }) h.mem)
  spad := fun a ha => (k.spad a ha).trans (h.spad a ha)
  frame := h.frame.trans k.frame

theorem OwnWork.foldl {α : Type} {g : State → α → State} (hg : ∀ s x, Still s → OwnWork l s (g s x)) (xs : List α) (h : Still s) :
    OwnWork l s (xs.foldl g s) := by
  induction xs generalizing s with
  | nil => exact .refl h
  | cons x xs ih =>
    have hx := hg s x h
    exact hx.trans (ih hx.still)

theorem OwnWork.thenFoldl {α : Type} {g : State → α → State} (hg : ∀ s x, Still s → OwnWork l s (g s x)) (xs : List α) {t : State}
    (h : OwnWork l s t) : OwnWork l s (xs.foldl g t) := h.trans (.foldl hg xs h.still)

/-- The same of a fold that carries a value besides the state. -/
theorem OwnWork.foldl_snd {α β : Type} {g : β × State → α → β × State} (hg : ∀ a x, Still a.2 → OwnWork l a.2 (g a x).2)
    (xs : List α) (b : β) (h : Still s) : OwnWork l s (xs.foldl g (b, s)).2 := by
  suffices hs : ∀ a : β × State, Still a.2 → OwnWork l a.2 (xs.foldl g a).2 from hs (b, s) h
  intro a ha
  induction xs generalizing a with
  | nil => exact .refl ha
  | cons x xs ih =>
    have hx := hg a x ha
    exact hx.trans (ih _ hx.still)

theorem OwnWork.ite {c : Prop} [Decidable c] {t u : State} (h : OwnWork l s t) (k : OwnWork l s u) : OwnWork l s (if c then t else u) := by
  split
  · exact h
  · exact k

/-- A tile that keeps its transfers and its freeze. -/
theorem OwnWork.setTile (h : Still s) {x : Tile} (hx : x.xfers = (tile s l).xfers) (hs : x.sxfers = (tile s l).sxfers)
    (hf : x.freeze = (tile s l).freeze) : OwnWork l s (setTile l x s) where
  still := by
    refine ⟨h.sound, setTile_all (P := Tile.sendless) h.kept ?_ l⟩
    rw [Tile.sendless, hx, hs, hf]
    exact tile_of_all (P := Tile.sendless) (by simp [Tile.sendless, Tile.init]) h.kept l
  others := fun _ hm => tile_setTile_ne hm x s
  toks := rfl
  mem := rfl
  spad := fun _ _ => rfl
  frame := (setTile_only l x s).mono (by simp)

theorem OwnWork.counts (h : Still s) {x : Tiles} (ht : x.tiles = s.tl.tiles) (hk : x.toks = s.tl.toks) : OwnWork l s { s with tl := x } where
  still := ⟨h.sound, by simpa only [ht] using h.kept⟩
  others := fun m _ => tile_congr ht m
  toks := hk
  mem := rfl
  spad := fun _ _ => rfl
  frame := (setTl_only x s).mono (by simp)

theorem raiseFlags_ownWork (h : Still s) (fs : List (NFlag × Bool)) : OwnWork l s (raiseFlags l fs s) := by
  refine .foldl (fun s f hs => ?_) fs h
  split
  · exact .counts hs rfl rfl
  · exact .refl hs

theorem mixWrites_still (h : Still s) (a n : Nat) : mixWrites a n s = s := by
  refine if_neg fun hany => ?_
  obtain ⟨e, he, hhit⟩ := List.any_eq_true.1 hany
  obtain ⟨hx, hf⟩ := h.kept e he
  have hreads (x : Xfer) (hm : x ∈ e.2.xfers ++ e.2.sxfers) : x.reads s.now.toNat a n = false := by simp [Xfer.reads, hx x hm]
  simp only [Bool.or_eq_true, List.any_eq_true] at hhit
  rcases hhit with (⟨x, hm, hr⟩ | ⟨x, hm, hr⟩) | ⟨f, hm, hr⟩
  · rw [hreads x (List.mem_append_left _ hm)] at hr
    cases hr
  · rw [hreads x (List.mem_append_right _ hm)] at hr
    cases hr
  · cases f with
    | lane x => exact (hf _ hm x).1 rfl
    | staging x => exact (hf _ hm x).2 rfl
    | _ => cases hr

theorem heal_ownWork (h : Still s) (lo n : Nat) : OwnWork l s (heal .spad l lo n s) where
  still := ⟨fun d hd => h.sound d (List.mem_filter.1 hd).1, h.kept⟩
  others := fun _ _ => rfl
  toks := rfl
  mem := rfl
  spad := fun _ _ => rfl
  frame := (heal_only .spad l lo n s).mono (by simp)

/-- Cells written within a tile's own 4 MiB. -/
theorem writeSpad_ownWork (h : Still s) {cells : List Host.Cell} (hc : ∀ c ∈ cells, l * 0x400000 ≤ c.1 ∧ c.1 < l * 0x400000 + 0x400000) :
    OwnWork l s (setSpad s (Memory.writeCells s.mem.spad cells)) where
  still := ⟨h.sound, h.kept⟩
  others := fun _ _ => rfl
  toks := rfl
  mem := rfl
  spad := fun k hk => Memory.read_writeCells_of_not (fun c hm he => hk (by rw [← he]; exact hc c hm)) _
  frame := fun p => by cases p <;> simp [Part.same]

theorem landOne_ownWork (h : Still s) (e : Effect) : OwnWork l s (landOne l e s) := by
  cases e with
  | sreg | areg | vreg | accw => exact .setTile h rfl rfl rfl
  | preg r v =>
    simp only [landOne]
    split
    · exact .refl h
    · exact .setTile h rfl rfl rfl
  | mul row p q c =>
    have hset := OwnWork.setTile (l := l) h
      (x := { tile s l with acc := tabSet (tile s l).acc row (mulLand (tabGet (tile s l).acc row zeros) p q c) }) rfl rfl rfl
    exact hset.trans (raiseFlags_ownWork hset.still _)
  | store a bs m =>
    have hw := writeSpad_ownWork (l := l) h
      (cells := (((List.range bs.length).zip bs).filter (fun c => m.getLsbD (if bs.length ≤ 8 then 0 else c.1 / 4))).map
        (fun c => (l * 0x400000 + (a + c.1) % 0x400000, c.2))) (fun c hc => by
          obtain ⟨x, -, rfl⟩ := List.mem_map.1 hc
          have := Nat.mod_lt (a + x.1) (y := 0x400000) (by decide)
          omega)
    have hheal (c : Prop) [Decidable c] := hw.trans (.ite (c := c) (heal_ownWork hw.still a bs.length) (.refl hw.still))
    simp only [landOne]
    rw [mixWrites_still (hheal _).still]
    exact hheal _

theorem tsCheck_still (h : Still s) (a n : Nat) : tsCheck a n s = (false, s) := by
  refine readCheck_sound (List.filter_eq_nil_iff.2 fun d hd => ?_)
  simp [h.sound d hd]

theorem fillStep_ownWork (h : Still s) (c : Nat) (f : Fill) : OwnWork l s (fillStep l c f s).2 := by
  unfold fillStep
  extract_lets at' line put i ln
  have hput (rows : List Nat) : OwnWork l s (put rows ln s).2 := by
    refine .foldl_snd (fun a i ha => ?_) rows f h
    have hflags := raiseFlags_ownWork (l := l) ha [(.sat, (weightRow f ln i).2.1 && !a.1.sat), (.nanIn, (weightRow f ln i).2.2 && !a.1.nan)]
    exact hflags.trans (.setTile hflags.still (by rfl) (by rfl) (by rfl))
  cases f.lineAt c
  all_goals
    simp only [tsCheck_still h, readFails_false]
    split
    · exact .refl h
    · split
      · split
        · refine .foldl (fun _ _ hs => .setTile hs ?_ ?_ ?_) _ h <;> rfl
        · exact .refl h
      · split
        · exact .refl h
        · exact hput _

/-- One cycle of all fills of a tile, with what each has left. -/
def fillsStep (l c : Nat) (fs : List Fill) (s : State) : List Fill × State :=
  fs.foldl (fun a f => (a.1 ++ [(fillStep l c f a.2).1], (fillStep l c f a.2).2)) ([], s)

theorem fillsStep_ownWork (h : Still s) (c : Nat) (fs : List Fill) : OwnWork l s (fillsStep l c fs s).2 := by
  unfold fillsStep
  refine .foldl_snd (fun _ f ha => ?_) fs [] h
  exact fillStep_ownWork ha c f

theorem endCycle_ownWork (h : Still s) : OwnWork l s (endCycle l s) := by
  have hcount : OwnWork l s (countFreeze l s) := .counts h rfl rfl
  unfold endCycle
  extract_lets t c u
  have hfills := hcount.trans (fillsStep_ownWork hcount.still c t.fills)
  change OwnWork l s (List.foldl _ (setTile l _ (fillsStep l c t.fills u).2) _)
  refine .thenFoldl (fun _ _ hs => landOne_ownWork hs _) _ (hfills.trans (.setTile hfills.still ?_ ?_ ?_)) <;> rfl

theorem passCycles_ownWork (h : Still s) (n : Nat) : OwnWork l s (Machine.passCycles l n s) := by
  induction n generalizing s with
  | zero => exact .refl h
  | succ n ih =>
    have hend := endCycle_ownWork (l := l) h
    have hpc := hend.trans (OwnWork.setTile (l := l) hend.still
      (x := { tile (endCycle l s) l with pc := (tile (endCycle l s) l).jump.getD ((tile (endCycle l s) l).pc + 1), jump := none }) rfl rfl rfl)
    exact hpc.trans (ih hpc.still)

end

/-! ### The statement -/

/-- Settles O38: `Awaits` steps to its landing, and cycles are work of their own tile. -/
theorem resultsLandOnTime : Obligations.ResultsLandOnTime := by
  refine ⟨fun s l n d i slot k v hn hf hland hk => ?_, fun s l k _ hd hk => ?_⟩
  · have hs := Awaits.passCycles ⟨hf, i, slot, hland⟩ hn hk
    simp only [Tile.sReg, hs]
    refine ⟨?_, fun r hr => ?_⟩
    · split
      · rfl
      · exact tabGet_tabSet_self _ _ _ _
    · split
      · rfl
      · exact tabGet_tabSet_ne _ _ _ _ _ hr
  · have hown := passCycles_ownWork (l := l) ⟨hd, hk⟩ k
    exact ⟨hown.others, hown.toks, hown.mem, hown.spad, hown.frame⟩

end Sys2Proof.Machine
end

section
/-! PROOFS. Sync tokens and waits (R192 to R196, R224, R225, R379, R418): what a count taken or added leaves, the waiters of a token, and each sync
operation's outcomes. -/

namespace Sys2Proof.Machine

/-! ### Counts -/

theorem count_taken {x : BitVec 32} {k : Nat} (h : k ≤ x.toNat) : (x - BitVec.ofNat 32 k).toNat = x.toNat - k := by
  have := x.isLt
  simp only [BitVec.toNat_sub, BitVec.toNat_ofNat]
  omega

theorem count_added {x : BitVec 32} {k : Nat} (h : x.toNat + k < 2 ^ 32) : (x + BitVec.ofNat 32 k).toNat = x.toNat + k := by
  simp only [BitVec.toNat_add, BitVec.toNat_ofNat]
  omega

/-! ### Tokens taken and added -/

theorem tokCheck_sound {l n : Nat} {s : State} (h : damageIn s .token 0 (8 * n) 8 = []) : tokCheck l n s = (false, s) := by
  simp [tokCheck, readCheck_sound h]

theorem noteTok_step (l t added taken : Nat) (s : State) : TileStep l s (noteTok l t added taken s) := modTile_step ..

/-- The uses that a tile notes of a token touch none of its causes of freezing, nor its port queue (R418). -/
theorem tile_noteTok (l t added taken : Nat) (s : State) : ∃ us, tile (noteTok l t added taken s) l = { tile s l with toks := us } :=
  ⟨_, tile_modTile_self ..⟩

/-- A WAIT takes its count and its job becomes the owner (R193). -/
theorem takeTok_parts {l n k : Nat} {c : TileCmd} {s : State} (hc : (tile s l).cmd = some c) (hk : k ≤ (tok s n).count.toNat) :
    (tok (takeTok l n k s) n).count.toNat = (tok s n).count.toNat - k ∧ (tok (takeTok l n k s) n).owner = ownerCode c.part c.slot ∧
      (tile (takeTok l n k s) l).freeze = (tile s l).freeze ∧ (∀ m, m ≠ n → tok (takeTok l n k s) m = tok s m) ∧
      Only [.tl] s (takeTok l n k s) := by
  have hnote := noteTok_step l n 0 k s
  obtain ⟨us, hus⟩ := tile_noteTok l n 0 k s
  have heq : takeTok l n k s = setTok n { tok s n with count := (tok s n).count - BitVec.ofNat 32 k, owner := ownerCode c.part c.slot, last := l }
      (noteTok l n 0 k s) := by
    simp only [takeTok, hc]
    rfl
  rw [heq]
  refine ⟨?_, ?_, ?_, fun m hm => ?_, hnote.only.trans (setTok_only _ _ _)⟩
  · rw [tok_setTok_self]
    exact count_taken hk
  · rw [tok_setTok_self]
  · rw [tile_setTok, hus]
  · rw [tok_setTok_ne hm, hnote.toks]

/-- A POST that does not overflow adds its count to its token alone (R193, R194). -/
theorem landPost_parts {who : BitVec 16} {n k : Nat} {s : State} (h : (tok s n).count.toNat + k < 2 ^ 32) :
    (tok (landPost who n k s) n).count.toNat = (tok s n).count.toNat + k ∧
      ((tok s n).owner ≠ who → (tok (landPost who n k s) n).owner = (tok s n).owner) ∧
      (∀ m, m ≠ n → tok (landPost who n k s) m = tok s m) ∧ (landPost who n k s).tl = { s.tl with toks := (landPost who n k s).tl.toks } ∧
      Only [.tl] s (landPost who n k s) := by
  have heq : landPost who n k s = setTok n { tok s n with
      count := (tok s n).count + BitVec.ofNat 32 k, owner := if (tok s n).owner = who then 0xFFFF else (tok s n).owner } s := if_neg (by omega)
  rw [heq]
  refine ⟨?_, fun ho => ?_, fun m hm => tok_setTok_ne hm _ s, rfl, setTok_only _ _ _⟩
  · rw [tok_setTok_self]
    exact count_added h
  · rw [tok_setTok_self]
    exact if_neg ho

theorem post_open {who : BitVec 16} {n k : Nat} {s : State} (h : tileHeld s (n / 256) = false) : post who n k s = landPost who n k s := by
  simp [post, h]

/-! ### Waiters -/

theorem waiters_eq_nil {s : State} {n : Nat} : waiters s n = [] ↔ ∀ e ∈ s.tl.tiles, ∀ k ord, .token n k ord ∉ e.2.freeze := by
  simp only [waiters, List.flatMap_eq_nil_iff, List.filterMap_eq_nil_iff]
  refine forall₂_congr fun e _ => ⟨fun h k ord hm => by simpa using h _ hm, fun h f hm => ?_⟩
  cases f with
  | token u k ord =>
    have hu : u ≠ n := fun hu => h k ord (hu ▸ hm)
    simp [hu]
  | _ => rfl

/-- A token has no waiter after a tile has lost causes of its freeze. -/
theorem waiters_setTile {s : State} {l n : Nat} {x : Tile} (h : waiters s n = []) (hx : ∀ k ord, .token n k ord ∉ x.freeze) :
    waiters (setTile l x s) n = [] :=
  waiters_eq_nil.2 (setTile_all (P := fun x => ∀ k ord, Freeze.token n k ord ∉ x.freeze) (waiters_eq_nil.1 h) hx l)

/-! ### WAIT -/

theorem tryWait_taken {l n k : Nat} {s : State} (hd : damageIn s .token 0 (8 * n) 8 = []) (hk : k ≤ (tok s n).count.toNat) (hw : waiters s n = []) :
    tryWait l n k s = takeTok l n k s := by
  simp [tryWait, tokCheck_sound hd, hk, hw]

theorem holderOf_congr {s t : State} {n : Nat} (ht : tok t n = tok s n) (hr : t.rm = s.rm) : holderOf t n = holderOf s n := by
  simp only [holderOf, job?, ht, hr]

theorem donate_none {l n : Nat} {s : State} (h : holderOf s n = none) : donate l n s = (.none, s) := by
  simp only [donate, h]
  cases cmdJob s l <;> rfl

/-- A WAIT that nobody's job can be asked to satisfy freezes its tile (R193, R379). -/
theorem tryWait_frozen {l n k : Nat} {s : State} (hd : damageIn s .token 0 (8 * n) 8 = []) (hk : (tok s n).count.toNat < k ∨ waiters s n ≠ [])
    (hh : holderOf s n = none) : tryWait l n k s =
      (let v := setTile l { tile s l with freeze := (tile s l).freeze ++ [.token n k s.tl.order] } s
       { v with tl := { v.tl with order := v.tl.order + 1 } }) := by
  have hno : ¬ (k ≤ (tok s n).count.toNat ∧ waiters s n = []) := by
    rintro ⟨h1, h2⟩
    exact hk.elim (fun h => by omega) (fun h => h h2)
  simp only [tryWait, tokCheck_sound hd, Bool.false_eq_true, ↓reduceIte, hno]
  rw [donate_none ((holderOf_congr (by rfl) (by rfl)).trans hh)]
  rfl

/-- The tile without its causes of freezing. -/
def unfreeze (l : Nat) (s : State) : State := setTile l { tile s l with freeze := [] } s

theorem tile_unfreeze (l : Nat) (s : State) : tile (unfreeze l s) l = { tile s l with freeze := [] } := tile_setTile_self ..

theorem unfreeze_only (l : Nat) (s : State) : Only [.tl] s (unfreeze l s) := setTile_only _ _ s

/-- A sole waiter whose count is there takes it and thaws (R193, R196). -/
theorem waitSatisfied_sole {l n k ord : Nat} {s : State} (hf : (tile s l).freeze = [.token n k ord]) (hw : waiters s n = [(l, k, ord)]) :
    waitSatisfied l s = if k ≤ (tok s n).count.toNat ∧ tileHeld s (n / 256) = false then takeTok l n k (unfreeze l s) else s := by
  have herase : modTile l (fun x => { x with freeze := x.freeze.erase (.token n k ord) }) s = unfreeze l s := by
    simp only [modTile, unfreeze, hf, List.erase_cons_head]
  simp only [waitSatisfied, hf, List.find?_cons_of_pos, hw, herase]
  by_cases hk : k ≤ (tok s n).count.toNat <;> simp [hk]

/-! ### POST -/

theorem dropHeld_only (k : Nat × Nat) (n : Nat) (s : State) : Only [.rm] s (dropHeld k n s) := modJob_only _ _ s

section
variable {l n k : Nat} {c : TileCmd} {s : State}

theorem postOp_sound (hc : (tile s l).cmd = some c) (hd : damageIn s .token 0 (8 * n) 8 = []) :
    postOp l n k s =
      if chainTok s c n || ownTok s l c n then
        if (tile s l).puts.isEmpty then post (ownerCode c.part c.slot) n k (noteTok l n k 0 (dropHeld (c.part, c.slot) n s))
        else setTile l { tile s l with puts := (tile s l).puts ++ [.post n k] } (dropHeld (c.part, c.slot) n s)
      else setTile l { tile s l with posts := (tile s l).posts ++ [(n, k)] } s := by
  unfold postOp
  rw [hc]
  dsimp only
  rw [tokCheck_sound hd]
  rfl

/-- A POST that nothing of its command waits for is kept for the commit (R418). -/
theorem postOp_kept (hc : (tile s l).cmd = some c) (hd : damageIn s .token 0 (8 * n) 8 = []) (hown : (chainTok s c n || ownTok s l c n) = false) :
    postOp l n k s = setTile l { tile s l with posts := (tile s l).posts ++ [(n, k)] } s := by
  rw [postOp_sound hc hd, hown, if_neg Bool.false_ne_true]

/-- A POST at once adds its count, as no line waits in the port queue (R193, R195). -/
theorem postOp_now (hc : (tile s l).cmd = some c) (hd : damageIn s .token 0 (8 * n) 8 = []) (hown : (chainTok s c n || ownTok s l c n) = true)
    (hp : (tile s l).puts = []) (hh : tileHeld s (n / 256) = false) :
    postOp l n k s = landPost (ownerCode c.part c.slot) n k (noteTok l n k 0 (dropHeld (c.part, c.slot) n s)) := by
  rw [postOp_sound hc hd, hown, if_pos rfl, if_pos (by simp [hp]), post_open (by exact hh)]

/-- Behind lines that wait a POST joins the port queue (R195). -/
theorem postOp_queued (hc : (tile s l).cmd = some c) (hd : damageIn s .token 0 (8 * n) 8 = []) (hown : (chainTok s c n || ownTok s l c n) = true)
    (hp : (tile s l).puts ≠ []) :
    postOp l n k s = setTile l { tile s l with puts := (tile s l).puts ++ [.post n k] } (dropHeld (c.part, c.slot) n s) := by
  rw [postOp_sound hc hd, hown, if_pos rfl, if_neg (by simpa using hp)]

end

/-! ### The sync fabric's answers -/

theorem fabricAnswer_wait {l n k : Nat} {s : State} (hf : (tile s l).freeze = [.askWait n k]) :
    fabricAnswer l s = if tileHeld s (n / 256) then s else tryWait l n k (unfreeze l s) := by
  simp only [fabricAnswer, unfreeze, hf, List.find?_cons_of_pos, List.erase_cons_head]

/-- A TEST of another tile's token is answered with its count, which lands in the next issue cycle (R225). -/
theorem fabricAnswer_test {l n d : Nat} {s : State} (hf : (tile s l).freeze = [.askTest n d]) (hh : tileHeld s (n / 256) = false)
    (hd : damageIn s .token 0 (8 * n) 8 = []) (hd0 : d ≠ 0xFF) :
    fabricAnswer l s = setTile l { tile s l with
      freeze := []
      land := insLand ⟨(tile s l).cyc + 1, (tile s l).cyc, 14, .sreg d ((tok s n).count.setWidth 64)⟩ (tile s l).land } s := by
  simp only [fabricAnswer, hf, List.find?_cons_of_pos, hh, tokCheck_sound hd, modTile, hd0, List.erase_cons_head,
    Bool.false_eq_true, or_self, ↓reduceIte]

theorem mem_insLand (x : Land) (ls : List Land) : x ∈ insLand x ls := by
  induction ls with
  | nil => exact List.mem_cons_self
  | cons y r ih =>
    rw [insLand]
    split
    · exact List.mem_cons_self
    · exact List.mem_cons_of_mem _ ih

/-! ### FENCE -/

/-- A FENCE on a tile that nothing else freezes waits only for what has left the tile (R224). -/
theorem thaw_fence {l : Nat} {t : Tile} {s : State} (h : t.freeze = []) :
    thaw l (setTile l { t with freeze := t.freeze ++ [.fence] } s) = setTile l { t with freeze := if t.quiet then [] else [.fence] } s := by
  have hquiet : ({ t with freeze := [.fence] } : Tile).quiet = t.quiet := rfl
  simp only [thaw, tile_setTile_self, h, List.nil_append, List.foldl_cons, List.foldl_nil, Tile.thawOne, setTile_setTile, hquiet]
  cases t.quiet <;> simp

/-! ### The statement -/

/-- Settles O36: a WAIT takes by `takeTok_parts` or freezes by `tryWait_frozen`, a POST has the three outcomes of `postOp_sound`, and the answers to a
frozen tile are local waits and reads. -/
theorem tokensAndWaits : Obligations.TokensAndWaits := by
  intro s hl
  refine ⟨fun o l u t c n k hc hn hk hk0 hoff hd => ?ops, fun o l u t h hnone => ?none, fun o l u t hoff => ?off, fun o l u t hoff => ?tests,
    fun l c n k ord hc hf hw => ?granted, fun l c n k hc hf hd => ?answeredWait, fun l n d hf hd0 hd hh => ?answeredTest⟩
  case ops =>
    have hno : ¬ (t.off o = true ∨ tokCount t o = 0) := by
      rw [hoff, ← hk]
      simpa using hk0
    have hwait (h : OpAt (tokOk o) s o l u t) : exec (.wait o) s =
        .next (if n / 256 = l then tryWait l n k u else setTile l { t with freeze := t.freeze ++ [.askWait n k] } u) := by
      subst hn hk
      exact (run_issue hl h _).trans (congrArg _ (if_neg hno))
    have hpost (h : OpAt (tokOk o) s o l u t) : exec (.post o) s = .next (postOp l n k u) := by
      subst hn hk
      exact (run_issue hl h _).trans (congrArg _ (if_neg hno))
    refine ⟨fun h hloc hle hw => ?_, fun h hloc hlt hh => ?_, fun h hfar => ?_, fun h hch hown => ?_, fun h hown hp hh hsum => ?_,
      fun h hown hp => ?_⟩ <;> have ht := h.tile_eq
    · obtain ⟨hcount, howner, hfr, hothers, honly⟩ := takeTok_parts (l := l) (by rw [ht, hc]) hle
      refine ⟨_, (hwait h).trans (congrArg _ ((if_pos hloc).trans (tryWait_taken hd hle hw))), hcount, howner, by rw [hfr, ht], hothers,
        honly.same .mem (by simp), honly⟩
    · rw [hwait h, if_pos hloc, tryWait_frozen hd hlt hh, ht]
    · rw [hwait h, if_neg hfar]
    · rw [hpost h, postOp_kept (by rw [ht, hc]) hd (by rw [hch, hown]; rfl), ht]
    · have hu := noteTok_step l n k 0 (dropHeld (c.part, c.slot) n u)
      have htoks (m : Nat) : tok (noteTok l n k 0 (dropHeld (c.part, c.slot) n u)) m = tok u m := hu.toks m
      have honly : Only [.tl, .rm] u (noteTok l n k 0 (dropHeld (c.part, c.slot) n u)) :=
        ((dropHeld_only _ _ _).mono (by simp)).trans (hu.only.mono (by simp))
      obtain ⟨hcount, -, hothers, -, hland⟩ := landPost_parts (who := ownerCode c.part c.slot) (n := n) (k := k) (by rw [htoks]; exact hsum)
      have hframe := honly.trans (hland.mono (by simp))
      refine ⟨_, (hpost h).trans (congrArg _ (postOp_now (by rw [ht, hc]) hd hown (by rw [ht, hp]) hh)), by rw [hcount, htoks],
        fun m hm => by rw [hothers m hm, htoks], hframe.same .mem (by simp), hframe⟩
    · have hframe := ((dropHeld_only (c.part, c.slot) n u).mono (by simp)).trans ((setTile_only l { t with puts := t.puts ++ [.post n k] }
        (dropHeld (c.part, c.slot) n u)).mono (qs := [.tl, .rm]) (by simp))
      refine ⟨_, (hpost h).trans (congrArg _ (postOp_queued (by rw [ht, hc]) hd hown (by rw [ht]; exact hp))), ?_, fun m => rfl, rfl, ?_⟩
      · rw [ht, tile_setTile_self]
      · rw [ht]
        exact hframe
  case none =>
    exact ⟨(run_issue hl h _).trans (congrArg _ (if_pos hnone)), (run_issue hl h _).trans (congrArg _ (if_pos hnone))⟩
  case off =>
    exact ⟨fun h => (run_issue hl h _).trans (congrArg _ (if_pos hoff)), fun h => (run_issue hl h _).trans (congrArg _ (if_pos hoff))⟩
  case tests =>
    have hno : ¬ t.off o = true := by simp [hoff]
    refine ⟨fun h hloc hd => ?_, fun h hfar => ?_, fun h hf hq => ?_, fun h hf hq => ?_⟩
    · refine (run_issue hl h _).trans (congrArg _ ((if_neg hno).trans ((if_pos hloc).trans ?_)))
      dsimp only
      rw [tokNum, tokCheck_sound hd]
      rfl
    · exact (run_issue hl h _).trans (congrArg _ ((if_neg hno).trans (if_neg hfar)))
    · refine (run_issue hl h _).trans (congrArg _ ((if_neg hno).trans ((thaw_fence hf).trans ?_)))
      rw [hq, if_pos rfl, ← hf]
    · refine (run_issue hl h _).trans (congrArg _ ((if_neg hno).trans ((thaw_fence hf).trans ?_)))
      rw [hq, if_neg Bool.false_ne_true]
  case granted =>
    have hexec : exec (.waitSatisfied l) s = .next (waitSatisfied l.toNat s) := run_live hl _
    have hsole := hexec.trans (congrArg _ (waitSatisfied_sole hf hw))
    refine ⟨fun hle hh => ?_, fun hlt => hsole.trans (congrArg _ (if_neg (by omega)))⟩
    obtain ⟨hcount, howner, hfr, hothers, honly⟩ :=
      takeTok_parts (n := n) (k := k) (s := unfreeze l.toNat s) (c := c) (by rwa [tile_unfreeze]) hle
    refine ⟨_, hsole.trans (congrArg _ (if_pos ⟨hle, hh⟩)), hcount, howner, by rw [hfr, tile_unfreeze], hothers,
      (unfreeze_only _ s).trans honly⟩
  case answeredWait =>
    have hexec : exec (.syncFabricAnswer l) s = .next (fabricAnswer l.toNat s) := run_live hl _
    refine ⟨fun hh => hexec.trans (congrArg _ ((fabricAnswer_wait hf).trans (if_pos hh))), fun hh hle hw => ?_⟩
    have hw' : waiters (unfreeze l.toNat s) n = [] := waiters_setTile hw (by simp)
    obtain ⟨hcount, howner, hfr, -, honly⟩ :=
      takeTok_parts (n := n) (k := k) (s := unfreeze l.toNat s) (c := c) (by rwa [tile_unfreeze]) hle
    refine ⟨_, hexec.trans (congrArg _ ?_), hcount, howner, by rw [hfr, tile_unfreeze], (unfreeze_only _ s).trans honly⟩
    rw [fabricAnswer_wait hf, hh, if_neg Bool.false_ne_true, tryWait_taken (s := unfreeze l.toNat s) hd hle hw']
  case answeredTest =>
    refine ⟨_, (run_live hl _).trans (congrArg _ (fabricAnswer_test hf hh hd hd0)), by rw [tile_setTile_self], ?_, setTile_only _ _ s⟩
    rw [tile_setTile_self]
    exact ⟨_, mem_insLand _ _, rfl, rfl⟩

end Sys2Proof.Machine
end

section
/-! PROOFS. Transfers between the scratchpads and DRAM or staging, and arriving lines (R195, R199, R202, R230 to R236): cells written at an indexed
address, what a write into tile space leaves of every tile, and a transfer's start. -/

namespace Sys2Proof.Machine

/-! ### Bytes at indexed addresses -/

section
variable {f : Nat → Nat} {bs : Bytes} (m : Memory)

theorem read_indexedCells (hf : ∀ i j, i < bs.length → j < bs.length → f i = f j → i = j) {i : Nat} (hi : i < bs.length) :
    Memory.read (Memory.writeCells m (((List.range bs.length).zip bs).map (fun c => (f c.1, c.2)))) (f i) = bs[i] := by
  have hdiff : (((List.range bs.length).zip bs).map (fun c => (f c.1, c.2))).Pairwise (fun a b => a.1 ≠ b.1) := by
    refine List.pairwise_iff_getElem.2 fun a b ha hb hab heq => ?_
    simp only [List.length_map, List.length_zip, List.length_range, Nat.min_self] at ha hb
    simp only [List.getElem_map, List.getElem_zip, List.getElem_range] at heq
    exact absurd (hf a b ha hb heq) (by omega)
  refine Memory.read_writeCells_of_mem hdiff (c := (f i, bs[i])) (List.mem_map.2 ⟨(i, bs[i]), ?_, rfl⟩) m
  exact List.mem_iff_getElem.2 ⟨i, by simpa using hi, by simp⟩

/-- Bytes written at different addresses are read back. -/
theorem map_read_indexedCells (hf : ∀ i j, i < bs.length → j < bs.length → f i = f j → i = j) :
    (List.range bs.length).map (fun i =>
      Memory.read (Memory.writeCells m (((List.range bs.length).zip bs).map (fun c => (f c.1, c.2)))) (f i)) = bs := by
  refine List.ext_getElem (by simp) fun i h _ => ?_
  have hi : i < bs.length := by simpa using h
  rw [List.getElem_map, List.getElem_range]
  exact read_indexedCells m hf hi

theorem read_indexedCells_of_not {k : Nat} (hk : ∀ i < bs.length, f i ≠ k) :
    Memory.read (Memory.writeCells m (((List.range bs.length).zip bs).map (fun c => (f c.1, c.2)))) k = Memory.read m k := by
  refine Memory.read_writeCells_of_not (fun c hc => ?_) m
  obtain ⟨x, hx, rfl⟩ := List.mem_map.1 hc
  exact hk x.1 (List.mem_range.1 (List.of_mem_zip hx).1)

end

/-! ### Transfers out that a write mixes into -/

/-- A tile after a write into tile space: bytes of transfers out of the written range may mix, all else stands (R199). -/
structure Mixed (x y : Tile) : Prop where
  rest : y = { x with xfers := y.xfers, sxfers := y.sxfers, freeze := y.freeze }
  xfers : y.xfers.length = x.xfers.length
  sxfers : y.sxfers.length = x.sxfers.length
  fetches : ∀ f ∈ x.xfers, f.out = false → f ∈ y.xfers
  unfrozen : x.freeze = [] → y.freeze = []

theorem Mixed.refl (x : Tile) : Mixed x x := ⟨rfl, rfl, rfl, fun _ h _ => h, id⟩

theorem Mixed.puts {x y : Tile} (h : Mixed x y) : y.puts = x.puts := by rw [h.rest]

theorem tabGet_map {α : Type} {R : α → α → Prop} {g : Nat × α → α} (d : α) (hd : R d d) {t : List (Nat × α)}
    (hg : ∀ e, R e.2 (g e)) (k : Nat) :
    R (tabGet t k d) (tabGet (t.map (fun e => (e.1, g e))) k d) := by
  induction t with
  | nil => exact hd
  | cons e r ih =>
    simp only [List.map_cons, tabGet]
    split
    · exact hg e
    · exact ih

theorem mix_inbound {x : Xfer} (h : x.out = false) (s : State) (a n seed : Nat) : x.mix s a n seed = x := by
  simp [Xfer.mix, Xfer.reads, h]

/-- A member that a change of a list by position leaves alone stays a member. -/
theorem mem_map_indexed {α : Type} {x : α} {xs : List α} (hx : x ∈ xs) {g : Nat × α → α} (hg : ∀ i, g (i, x) = x) :
    x ∈ ((List.range xs.length).zip xs).map g := by
  obtain ⟨i, hi, rfl⟩ := List.mem_iff_getElem.1 hx
  exact List.mem_map.2 ⟨(i, xs[i]), List.mem_iff_getElem.2 ⟨i, by simpa using hi, by simp⟩, hg i⟩

theorem mixWrites_tiles (a n : Nat) (s : State) :
    ∃ g : Nat × Tile → Tile, (mixWrites a n s).tl.tiles = s.tl.tiles.map (fun e => (e.1, g e)) ∧ ∀ e, Mixed e.2 (g e) := by
  unfold mixWrites
  extract_lets hit frozen mixed thawed
  split
  · refine ⟨_, rfl, fun e => ⟨rfl, ?_, ?_, fun f hm ho => mem_map_indexed hm fun i => mix_inbound ho .., fun h => ?_⟩⟩
    · simp [mixed]
    · simp [mixed]
    · rw [h, List.map_nil]
  · exact ⟨Prod.snd, by simp, fun e => .refl _⟩

theorem tile_mixWrites (a n l : Nat) (s : State) : Mixed (tile s l) (tile (mixWrites a n s) l) := by
  obtain ⟨g, hg, hmixed⟩ := mixWrites_tiles a n s
  rw [tile, tile, hg]
  exact tabGet_map Tile.init (.refl _) hmixed l

theorem mixWrites_only (a n : Nat) (s : State) : Only [.tl, .freeTick] s (mixWrites a n s) := by
  unfold mixWrites
  extract_lets hit frozen mixed thawed
  exact .ite (fun p => by cases p <;> simp [Part.same]) (.refl _ s)

/-! ### Writes into tile space -/

/-- Bytes stored in tile space, before they mix into transfers out of it. -/
def tsStored (a : Nat) (bs : Bytes) (s : State) : State :=
  heal .spad (tsAddr a / 0x400000) (tsAddr a % 0x400000) bs.length
    (setSpad s (Memory.writeCells s.mem.spad (((List.range bs.length).zip bs).map (fun c => (tsAddr (a + c.1), c.2)))))

theorem tsWrite_eq (a : Nat) (bs : Bytes) (s : State) : tsWrite a bs s = mixWrites a bs.length (tsStored a bs s) := rfl

theorem tsStored_only (a : Nat) (bs : Bytes) (s : State) : Only [.mem, .dm] s (tsStored a bs s) :=
  Only.trans (t := setSpad s _) (fun p => by cases p <;> simp [Part.same]) ((heal_only _ _ _ _ _).mono (by simp))

/-- The bytes stand at their address in tile space, and no other byte of any memory has changed; tiles differ by what mixes alone. -/
structure SpadWritten (a : Nat) (bs : Bytes) (s t : State) : Prop where
  bytes : Memory.readBytes t.mem.spad a bs.length = bs
  others : SameBut s.mem.spad t.mem.spad a bs.length
  mem : t.mem = { s.mem with spad := t.mem.spad }
  only : Only [.tl, .mem, .dm, .freeTick] s t

theorem tsWrite_written {a : Nat} {bs : Bytes} (h : a + bs.length ≤ 2 ^ 28) (s : State) : SpadWritten a bs s (tsWrite a bs s) := by
  have hmix := mixWrites_only a bs.length (tsStored a bs s)
  have hmem : (tsWrite a bs s).mem =
      { s.mem with spad := Memory.writeCells s.mem.spad (((List.range bs.length).zip bs).map (fun c => (tsAddr (a + c.1), c.2))) } :=
    hmix.same .mem (by simp)
  have haddr (i : Nat) (hi : i < bs.length) : tsAddr (a + i) = a + i := Nat.mod_eq_of_lt (by omega)
  refine ⟨?_, fun k hk => ?_, ?_, ?_⟩
  · rw [hmem]
    refine (List.map_congr_left fun i hi => ?_).trans
      (map_read_indexedCells (f := fun i => tsAddr (a + i)) (bs := bs) s.mem.spad fun i j hi hj heq => ?_)
    · rw [haddr i (List.mem_range.1 hi)]
    · simp only [haddr i hi, haddr j hj] at heq
      omega
  · rw [hmem]
    refine read_indexedCells_of_not (f := fun i => tsAddr (a + i)) s.mem.spad fun i hi heq => hk ?_
    simp only [haddr i hi] at heq
    omega
  · rw [hmem]
  · exact ((tsStored_only a bs s).mono (by simp)).trans (hmix.mono (by simp))

theorem tile_tsWrite (a : Nat) (bs : Bytes) (l : Nat) (s : State) : Mixed (tile s l) (tile (tsWrite a bs s) l) :=
  tile_mixWrites a bs.length l (tsStored a bs s)

theorem SpadWritten.trans {a : Nat} {bs : Bytes} {s t u : State} (h : SpadWritten a bs s t) {l : Nat} (k : TileStep l t u) :
    SpadWritten a bs s u where
  bytes := by rw [k.mem, h.bytes]
  others := by rw [k.mem]; exact h.others
  mem := by rw [k.mem]; exact h.mem
  only := h.only.trans (k.only.mono (by simp))

theorem SpadWritten.after {a : Nat} {bs : Bytes} {s t u : State} (k : SpadWritten a bs t u) {l : Nat} (h : TileStep l s t) :
    SpadWritten a bs s u where
  bytes := k.bytes
  others := by rw [← h.mem]; exact k.others
  mem := by rw [← h.mem]; exact k.mem
  only := (h.only.mono (by simp)).trans k.only

/-! ### Writes into a staging window -/

theorem stgAddr_injOn {pd : PartDef} {depot off n : Nat} (hn : n ≤ (if depot = 0 then pd.stgSize.1 else pd.stgSize.2) * 0x10000) {i j : Nat}
    (hi : i < n) (hj : j < n) (h : stgAddr pd depot (off + i) = stgAddr pd depot (off + j)) : i = j := by
  have hmod (m : Nat) (hm : n ≤ m) (h : (off + i) % m = (off + j) % m) : i = j :=
    Nat.ModEq.eq_of_lt_of_lt (Nat.ModEq.add_left_cancel' off h) (by omega) (by omega)
  by_cases hd : depot = 0
  all_goals
    simp only [stgAddr, hd, ↓reduceIte] at h hn
    exact hmod _ (by omega) (Nat.add_left_cancel h)

/-- A write of no more bytes than the window holds is read back from it (R235). -/
theorem stgWinWrite_parts {pd : PartDef} {depot off : Nat} {bs : Bytes} (hstg : hasStg pd depot = true)
    (hn : bs.length ≤ (if depot = 0 then pd.stgSize.1 else pd.stgSize.2) * 0x10000) (s : State) :
    stgWinRead (stgWinWrite pd depot off bs s) pd depot off bs.length = bs ∧ (stgWinWrite pd depot off bs s).mem.spad = s.mem.spad ∧
      (stgWinWrite pd depot off bs s).tl = s.tl ∧ Only [.mem, .dm] s (stgWinWrite pd depot off bs s) := by
  have hread : stg (stgWinWrite pd depot off bs s) depot =
      Memory.writeCells (stg s depot) (((List.range bs.length).zip bs).map (fun c => (stgAddr pd depot (off + c.1), c.2))) := by
    rw [stgWinWrite, if_pos hstg]
    by_cases hd : depot = 0 <;> simp [stg, setStg, setStg0, setStg1, hd]
  have hset (m : Memory) : (setStg s depot m).mem.spad = s.mem.spad ∧ (setStg s depot m).tl = s.tl ∧ Only [.mem, .dm] s (setStg s depot m) := by
    unfold setStg
    split <;> exact ⟨rfl, rfl, fun p => by cases p <;> simp [Part.same, setStg0, setStg1]⟩
  refine ⟨?_, ?_⟩
  · rw [stgWinRead, if_pos hstg, hread]
    exact map_read_indexedCells _ fun i j hi hj h => stgAddr_injOn hn hi hj h
  · rw [stgWinWrite, if_pos hstg]
    obtain ⟨hspad, htl, honly⟩ := hset
      (Memory.writeCells (stg s depot) (((List.range bs.length).zip bs).map (fun c => (stgAddr pd depot (off + c.1), c.2))))
    exact ⟨hspad, htl, honly.trans ((heal_only _ _ _ _ _).mono (by simp))⟩

theorem stgWinRead_congr {s t : State} (h : t.mem = s.mem) (pd : PartDef) (depot off n : Nat) :
    stgWinRead t pd depot off n = stgWinRead s pd depot off n := by
  rw [stgWinRead, stgWinRead, stg, stg, h]

/-! ### Transfers start -/

theorem tsOperand_lt (t : Tile) (o : Op) : tsOperand t o < 2 ^ 28 := by
  have := ((t.readA o.srcA).setWidth 28 + o.imm.setWidth 28).isLt
  rw [tsOperand]
  omega

section
variable {l : Nat} {x : Xfer} {s : State} {c : TileCmd} {pd : PartDef}

/-- The transfer with the bytes of its source. -/
def Xfer.sourced (x : Xfer) (s : State) : Xfer := { x with data := if x.out then tsRead s x.addr x.len else [] }

/-- The tile that issues a transfer, with the staging range that its command writes (R235). -/
def issuer (staging : Bool) (x : Xfer) (c : TileCmd) (pd : PartDef) (t : Tile) : Tile :=
  { t with cmd := some { c with stgOut := c.stgOut ++ if staging ∧ x.out then [(x.depot, stgAddr pd x.depot x.off, x.len)] else [] } }

/-- A transfer from an undamaged source waits for its queue, where it has room or not (R230, R233, R235). -/
theorem startXfer_inside {staging : Bool} (hc : (tile s l).cmd = some c) (hpd : part? s c.part = some pd) (hin : tsInside pd x.addr x.len = true)
    (ha : x.addr < 2 ^ 28) (hd : x.out = true → damageIn s .spad (x.addr / 0x400000) (x.addr % 0x400000) x.len = []) (hf : (tile s l).freeze = []) :
    startXfer l staging x s = thaw l (setTile l { issuer staging x c pd (tile s l) with
      freeze := [if staging then .staging (x.sourced s) else .lane (x.sourced s)] } s) := by
  have hcheck (y : Tile) : (if x.out then tsCheck x.addr x.len (setTile l y s) else (false, setTile l y s)) = (false, setTile l y s) := by
    split
    case isTrue ho =>
      rw [tsCheck, tsAddr, Nat.mod_eq_of_lt ha]
      exact readCheck_sound (hd ho)
    case isFalse => rfl
  unfold startXfer
  dsimp only
  rw [hc]
  dsimp only [Option.bind_some]
  rw [hpd]
  dsimp only [Option.map_some]
  rw [hin, if_neg (by simp), hcheck, hf]
  rfl

/-- A transfer of another partition's tiles is refused (R230). -/
theorem startXfer_outside {staging : Bool} (hc : (tile s l).cmd = some c) (hpd : part? s c.part = some pd) (hin : tsInside pd x.addr x.len = false)
    (hk : x.tok = none) : startXfer l staging x s = crossPart l c.part s := by
  unfold startXfer
  dsimp only
  rw [hc]
  dsimp only [Option.bind_some]
  rw [hpd]
  dsimp only [Option.map_some]
  rw [hin, if_pos (by simp), hk]
  rfl

theorem thaw_lane {t : Tile} {s : State} : thaw l (setTile l { t with freeze := [.lane x] } s) =
    setTile l (if (t.xfers.filter (fun y => y.lane == x.lane)).length < 8 then { t with xfers := t.xfers ++ [x], freeze := [] }
      else { t with freeze := [.lane x] }) s := by
  split
  case isTrue h =>
    rw [thaw_room (f := .lane x) (x := { t with xfers := t.xfers ++ [x], freeze := [.lane x] }) (by rw [tile_setTile_self])
      (by rw [tile_setTile_self]; exact if_pos h), setTile_setTile]
  case isFalse h =>
    rw [thaw_full (f := .lane x) (x := { t with freeze := [.lane x] }) (by rw [tile_setTile_self])
      (by rw [tile_setTile_self]; exact if_neg h) (by simp), setTile_setTile]

theorem thaw_staging {t : Tile} {s : State} : thaw l (setTile l { t with freeze := [.staging x] } s) =
    setTile l (if t.sxfers.length < 2 then { t with sxfers := t.sxfers ++ [x], freeze := [] } else { t with freeze := [.staging x] }) s := by
  split
  case isTrue h =>
    rw [thaw_room (f := .staging x) (x := { t with sxfers := t.sxfers ++ [x], freeze := [.staging x] }) (by rw [tile_setTile_self])
      (by rw [tile_setTile_self]; exact if_pos h), setTile_setTile]
  case isFalse h =>
    rw [thaw_full (f := .staging x) (x := { t with freeze := [.staging x] }) (by rw [tile_setTile_self])
      (by rw [tile_setTile_self]; exact if_neg h) (by simp), setTile_setTile]

end

/-- The post-increment after a change of the operation's tile. -/
theorem tile_postInc_setTile (l : Nat) (o : Op) (t x : Tile) (s : State) :
    (∃ p, tile (postInc l o t (setTile l x s)) l = { x with land := p }) ∧ Only [.tl] s (postInc l o t (setTile l x s)) := by
  obtain ⟨p, hp⟩ := tile_postInc l o t (setTile l x s)
  exact ⟨⟨p, by rw [hp, tile_setTile_self]⟩, (setTile_only l x s).trans (postInc_step ..).only⟩

/-- A refused transfer is counted and nothing of it starts, post-increment apart (R222, R230). -/
theorem postInc_crossPart (l part : Nat) (o : Op) (t : Tile) (s : State) :
    (postInc l o t (crossPart l part s)).tl.xpart = satAdd s.tl.xpart 1 ∧ (postInc l o t (crossPart l part s)).tl.xpartAt = l ∧
      (∃ p, tile (postInc l o t (crossPart l part s)) l = { tile s l with land := p }) ∧
      (postInc l o t (crossPart l part s)).mem = s.mem ∧ Only [.tl, .sn, .hp] s (postInc l o t (crossPart l part s)) := by
  obtain ⟨htl, honly⟩ := crossPart_parts l part s
  have hstep := postInc_step l o t (crossPart l part s)
  obtain ⟨p, hp⟩ := tile_postInc l o t (crossPart l part s)
  refine ⟨?_, ?_, ⟨p, ?_⟩, hstep.mem.trans (honly.same .mem (by simp)), honly.trans (hstep.only.mono (by simp))⟩
  · rw [hstep.tl, htl]
  · rw [hstep.tl, htl]
  · rw [hp, tile, htl, ← tile]

/-! ### Lines that arrive -/

/-- Nothing follows the posts at the head of the port queue, as there are none. -/
theorem flushPosts_lines {l n : Nat} {s : State} (h : (tile s l).puts = [] ∨ ∃ a v r, (tile s l).puts = .line a v :: r) :
    flushPosts l n s = s := by
  cases n with
  | zero => rfl
  | succ n =>
    rcases h with h | ⟨a, v, r, h⟩ <;> simp only [flushPosts, h]

theorem thaw_step (l : Nat) (s : State) : TileStep l s (thaw l s) := by
  unfold thaw
  dsimp only
  split
  · exact .refl l s
  · exact setTile_step ..

theorem thawOne_puts (f : Freeze) (t : Tile) : (t.thawOne f).2.puts = t.puts := by
  unfold Tile.thawOne
  split
  · split <;> rfl
  · split <;> rfl
  · rfl
  · rfl

/-- The port queue does not change when its tile thaws. -/
theorem tile_thaw_puts (l : Nat) (s : State) : (tile (thaw l s) l).puts = (tile s l).puts := by
  have hfold (fs : List Freeze) (a : List Freeze × Tile) : (fs.foldl (fun (a : List Freeze × Tile) f =>
      let x := a.2.thawOne f; (if x.1 then a.1 else a.1 ++ [f], x.2)) a).2.puts = a.2.puts := by
    induction fs generalizing a with
    | nil => rfl
    | cons f fs ih => exact (ih _).trans (thawOne_puts f a.2)
  unfold thaw
  dsimp only
  split
  · rfl
  · rw [tile_setTile_self]
    exact hfold _ ([], tile s l)

end Sys2Proof.Machine
end

section
/-! PROOFS. The transfers of XFER and SXFER (R230 to R235): what starts, what is refused, and what a done transfer or an arrived line leaves. -/

namespace Sys2Proof.Machine

/-! ### Transfers that start -/

/-- The transfers that XFER and SXFER describe (R230, R234). -/
def laneXfer (l : Nat) (o : Op) (t : Tile) (s : State) : Xfer :=
  ⟨o.fieldOf 1 3, o.flag 0, tsOperand t o, (t.readS o.srcB).toNat / 1024 * 1024, o.fieldOf 4 5 * 1024, 0,
    if o.flag 9 then some (l * 256 + o.fieldOf 10 8) else none, [], s.now, none⟩

def stagingXfer (l : Nat) (o : Op) (t : Tile) (s : State) : Xfer :=
  ⟨8, o.flag 0, tsOperand t o, (t.readS o.srcB).toNat / 256 * 256, o.fieldOf 2 5 * 256, o.fieldOf 1 1,
    if o.flag 7 then some (l * 256 + o.fieldOf 8 8) else none, [], s.now, none⟩

section
variable {s u : State} {o : Op} {l : Nat} {t : Tile} {c : TileCmd} {pd : PartDef} {x : Xfer}

theorem exec_xfer (hl : Live s) (h : OpAt (xferOk o) s o l u t) (hoff : t.off o = false) :
    exec (.xfer o) s = .next (postInc l o t (startXfer l false (laneXfer l o t u) u)) :=
  (run_issue hl h _).trans (congrArg _ (if_neg (by simp [hoff])))

theorem exec_sxfer (hl : Live s) (h : OpAt (sxferOk o) s o l u t) (hoff : t.off o = false) :
    exec (.sxfer o) s = .next (postInc l o t (startXfer l true (stagingXfer l o t u) u)) :=
  (run_issue hl h _).trans (congrArg _ (if_neg (by simp [hoff])))

/-- A transfer of its own partition's tiles goes to its lane, or waits there (R230, R233). -/
theorem startXfer_lane (hc : (tile s l).cmd = some c) (hpd : part? s c.part = some pd) (hin : tsInside pd x.addr x.len = true)
    (ha : x.addr < 2 ^ 28) (hd : x.out = true → damageIn s .spad (x.addr / 0x400000) (x.addr % 0x400000) x.len = []) (hf : (tile s l).freeze = []) :
    ∃ y, startXfer l false x s = setTile l y s ∧ y.cmd = (tile s l).cmd ∧
      (((tile s l).xfers.filter (fun y => y.lane == x.lane)).length < 8 → y.xfers = (tile s l).xfers ++ [x.sourced s] ∧ y.freeze = []) ∧
      (8 ≤ ((tile s l).xfers.filter (fun y => y.lane == x.lane)).length → y.xfers = (tile s l).xfers ∧ y.freeze = [.lane (x.sourced s)]) := by
  have hcmd : (issuer false x c pd (tile s l)).cmd = (tile s l).cmd := by simp [issuer, hc]
  refine ⟨_, (startXfer_inside hc hpd hin ha hd hf).trans thaw_lane, ?_, fun hroom => ?_, fun hfull => ?_⟩
  · refine Eq.trans ?_ hcmd
    split <;> rfl
  · rw [if_pos (by exact hroom)]
    exact ⟨rfl, rfl⟩
  · rw [if_neg (by exact Nat.not_lt.2 hfull)]
    exact ⟨rfl, rfl⟩

/-- The same of staging's queue (R234, R235). -/
theorem startXfer_staging (hc : (tile s l).cmd = some c) (hpd : part? s c.part = some pd) (hin : tsInside pd x.addr x.len = true)
    (ha : x.addr < 2 ^ 28) (hd : x.out = true → damageIn s .spad (x.addr / 0x400000) (x.addr % 0x400000) x.len = []) (hf : (tile s l).freeze = []) :
    ∃ y, startXfer l true x s = setTile l y s ∧
      ((tile s l).sxfers.length < 2 → y.sxfers = (tile s l).sxfers ++ [x.sourced s] ∧ y.freeze = []) ∧
      (2 ≤ (tile s l).sxfers.length → y.sxfers = (tile s l).sxfers ∧ y.freeze = [.staging (x.sourced s)]) := by
  refine ⟨_, (startXfer_inside hc hpd hin ha hd hf).trans thaw_staging, fun hroom => ?_, fun hfull => ?_⟩
  · rw [if_pos (by exact hroom)]
    exact ⟨rfl, rfl⟩
  · rw [if_neg (by exact Nat.not_lt.2 hfull)]
    exact ⟨rfl, rfl⟩

end

/-! ### Transfers that are done -/

theorem stgWinRead_length (s : State) (pd : PartDef) (depot off n : Nat) : (stgWinRead s pd depot off n).length = n := by
  unfold stgWinRead
  split <;> simp

theorem laneBytes_length (v : Lanes) : (laneBytes v).length = 256 := by
  simp [laneBytes, List.length_flatMap, length_leBytes]

section
variable {s : State} {l : Nat} {x : Xfer}

theorem xferDone_eq {lane : Nat} {at' : BitVec 64} (hx : (tile s l).xfers.find? (fun x => x.lane == lane) = some x) (hs : x.slotAt = some at') :
    xferDone l lane s = if s.now.toNat < at'.toNat + (if x.out then 16 else 0) ∨ (¬ x.out ∧ ¬ tsOpen s x.addr x.len) then s
      else thaw l (xferPost l x.tok (modTile l (fun t => { t with xfers := t.xfers.erase x }) (if x.out then s else tsWrite x.addr x.data s))) := by
  simp only [xferDone, hx, hs]

/-- A transfer in has written its bytes when it is gone from its lane (R231, R233). -/
theorem xferDone_in {lane : Nat} {at' : BitVec 64} (hx : (tile s l).xfers.find? (fun x => x.lane == lane) = some x) (hs : x.slotAt = some at')
    (ho : x.out = false) (hk : x.tok = none) (hspan : x.addr + x.data.length ≤ 2 ^ 28) (hf : (tile s l).freeze = [])
    (hat : at'.toNat ≤ s.now.toNat) (hopen : tsOpen s x.addr x.len = true) :
    SpadWritten x.addr x.data s (xferDone l lane s) ∧ (tile (xferDone l lane s) l).xfers.length + 1 = (tile s l).xfers.length := by
  have hmixed := tile_tsWrite x.addr x.data l s
  have hmem := hmixed.fetches x (List.mem_of_find?_eq_some hx) ho
  have heq : xferDone l lane s = modTile l (fun t => { t with xfers := t.xfers.erase x }) (tsWrite x.addr x.data s) := by
    rw [xferDone_eq hx hs, hk, ho, if_neg (by simp [hopen, hat])]
    exact thaw_unfrozen ((congrArg Tile.freeze (tile_modTile_self ..)).trans (hmixed.unfrozen hf))
  rw [heq]
  refine ⟨(tsWrite_written hspan s).trans (modTile_step ..), ?_⟩
  rw [tile_modTile_self, ← hmixed.xfers, List.length_erase_of_mem hmem]
  exact Nat.sub_add_cancel (List.length_pos_of_mem hmem)

/-- A transfer out moves no byte when it is done; its token is posted (R195, R233). -/
theorem xferDone_out {lane k : Nat} {at' : BitVec 64} (hx : (tile s l).xfers.find? (fun x => x.lane == lane) = some x) (hs : x.slotAt = some at')
    (ho : x.out = true) (hk : x.tok = some k) (howner : (tok s k).owner ≠ depotPoster) (hh : tileHeld s (k / 256) = false)
    (hsum : (tok s k).count.toNat + 1 < 2 ^ 32) (hf : (tile s l).freeze = []) (hat : at'.toNat + 16 ≤ s.now.toNat) :
    (tile (xferDone l lane s) l).xfers = (tile s l).xfers.erase x ∧ (tok (xferDone l lane s) k).count.toNat = (tok s k).count.toNat + 1 ∧
      (tok (xferDone l lane s) k).owner = (tok s k).owner ∧ (∀ m, m ≠ k → tok (xferDone l lane s) m = tok s m) ∧
      Only [.tl] s (xferDone l lane s) := by
  have hstep := (modTile_step l (fun t => { t with xfers := t.xfers.erase x }) s).trans (noteTok_step l k 1 0 _)
  obtain ⟨us, hus⟩ := tile_noteTok l k 1 0 (modTile l (fun t => { t with xfers := t.xfers.erase x }) s)
  rw [tile_modTile_self] at hus
  generalize hv : noteTok l k 1 0 (modTile l (fun t => { t with xfers := t.xfers.erase x }) s) = v at hstep hus
  obtain ⟨hcount, hown, hothers, htl, honly⟩ := landPost_parts (who := depotPoster) (n := k) (k := 1) (s := v) (by rw [hstep.toks]; exact hsum)
  have htile : tile (landPost depotPoster k 1 v) l = tile v l := tile_congr (by rw [htl]) l
  have heq : xferDone l lane s = landPost depotPoster k 1 v := by
    rw [xferDone_eq hx hs, hk, ho, if_neg (by simp [hat])]
    refine (congrArg (thaw l) ?_).trans (thaw_unfrozen ?_)
    · rw [if_pos rfl, xferPost, hv]
      exact post_open (by rw [← hv]; exact hh)
    · rw [htile, hus]
      exact hf
  rw [heq, htile, hus]
  refine ⟨rfl, by rw [hcount, hstep.toks], ?_, fun m hm => by rw [hothers m hm, hstep.toks], hstep.only.trans honly⟩
  rw [hown (by rw [hstep.toks]; exact howner), hstep.toks]

theorem sxferDone_eq {i : Nat} {c : TileCmd} {pd : PartDef} (hx : (tile s l).sxfers[i]? = some x) (hc : (tile s l).cmd = some c)
    (hpd : part? s c.part = some pd) (hk : x.tok = none)
    (hd : x.out = false → damageIn s (if x.depot = 0 then .stg0 else .stg1) 0 (stgAddr pd x.depot x.off) x.len = []) :
    sxferDone l i s = if ¬ x.out ∧ ¬ tsOpen s x.addr x.len then s
      else thaw l (modTile l (fun t => { t with sxfers := t.sxfers.eraseIdx i }) (if x.out then stgWinWrite pd x.depot x.off x.data s
        else tsWrite x.addr (stgWinRead s pd x.depot x.off x.len) s)) := by
  have hbind : (tile s l).cmd.bind (fun c => part? s c.part) = some pd := by rw [hc, Option.bind_some, hpd]
  have hnone (v : State) : xferPost l none v = v := rfl
  cases ho : x.out
  · simp only [sxferDone, hx, hbind, hk, hnone, ho, stgCheck, readCheck_sound (hd ho), readFails_false]
  · simp only [sxferDone, hx, hbind, hk, hnone, ho, ↓reduceIte]

theorem sxferDone_in {i : Nat} {c : TileCmd} {pd : PartDef} (hx : (tile s l).sxfers[i]? = some x) (hc : (tile s l).cmd = some c)
    (hpd : part? s c.part = some pd) (hk : x.tok = none) (hf : (tile s l).freeze = []) (ho : x.out = false) (hspan : x.addr + x.len ≤ 2 ^ 28)
    (hd : damageIn s (if x.depot = 0 then .stg0 else .stg1) 0 (stgAddr pd x.depot x.off) x.len = []) (hopen : tsOpen s x.addr x.len = true) :
    SpadWritten x.addr (stgWinRead s pd x.depot x.off x.len) s (sxferDone l i s) ∧
      (tile (sxferDone l i s) l).sxfers.length + 1 = (tile s l).sxfers.length := by
  have hlen : (stgWinRead s pd x.depot x.off x.len).length = x.len := stgWinRead_length ..
  have hmixed := tile_tsWrite x.addr (stgWinRead s pd x.depot x.off x.len) l s
  have heq : sxferDone l i s = modTile l (fun t => { t with sxfers := t.sxfers.eraseIdx i })
      (tsWrite x.addr (stgWinRead s pd x.depot x.off x.len) s) := by
    rw [sxferDone_eq hx hc hpd hk fun _ => hd, ho, if_neg (by simp [hopen])]
    exact thaw_unfrozen ((congrArg Tile.freeze (tile_modTile_self ..)).trans (hmixed.unfrozen hf))
  have hi : i < (tile s l).sxfers.length := (List.getElem?_eq_some_iff.1 hx).1
  rw [heq]
  refine ⟨(tsWrite_written (by rw [hlen]; exact hspan) s).trans (modTile_step ..), ?_⟩
  rw [tile_modTile_self, ← hmixed.sxfers, List.length_eraseIdx_of_lt (by rw [hmixed.sxfers]; exact hi), hmixed.sxfers]
  omega

theorem sxferDone_out {i : Nat} {c : TileCmd} {pd : PartDef} (hx : (tile s l).sxfers[i]? = some x) (hc : (tile s l).cmd = some c)
    (hpd : part? s c.part = some pd) (hk : x.tok = none) (hf : (tile s l).freeze = []) (ho : x.out = true) (hstg : hasStg pd x.depot = true)
    (hspan : x.data.length ≤ (if x.depot = 0 then pd.stgSize.1 else pd.stgSize.2) * 0x10000) :
    stgWinRead (sxferDone l i s) pd x.depot x.off x.data.length = x.data ∧ (sxferDone l i s).mem.spad = s.mem.spad ∧
      (tile (sxferDone l i s) l).sxfers = (tile s l).sxfers.eraseIdx i ∧ Only [.tl, .mem, .dm] s (sxferDone l i s) := by
  obtain ⟨hread, hspad, htl, honly⟩ := stgWinWrite_parts (off := x.off) hstg hspan s
  have htile : tile (stgWinWrite pd x.depot x.off x.data s) l = tile s l := tile_congr (by rw [htl]) l
  have hstep := modTile_step l (fun t => { t with sxfers := t.sxfers.eraseIdx i }) (stgWinWrite pd x.depot x.off x.data s)
  have heq : sxferDone l i s = modTile l (fun t => { t with sxfers := t.sxfers.eraseIdx i }) (stgWinWrite pd x.depot x.off x.data s) := by
    rw [sxferDone_eq hx hc hpd hk (by simp [ho]), ho, if_neg (by simp)]
    refine thaw_unfrozen ((congrArg Tile.freeze (tile_modTile_self ..)).trans ?_)
    rw [if_pos rfl, htile]
    exact hf
  rw [heq]
  refine ⟨by rw [stgWinRead_congr hstep.mem, hread], by rw [hstep.mem, hspad], by rw [tile_modTile_self, htile],
    (honly.mono (by simp)).trans (hstep.only.mono (by simp))⟩

end

/-- A line that arrives stands at its address and is out of the port queue (R236). -/
theorem putArrival_line {l a : Nat} {v : Lanes} {rest : List PutItem} {s : State} (hputs : (tile s l).puts = .line a v :: rest)
    (hrest : rest = [] ∨ ∃ b w r, rest = .line b w :: r) (ha : a + 256 ≤ 2 ^ 28) (hh : tileHeld s (a / 0x400000) = false) :
    SpadWritten a (laneBytes v) s (putArrival l s) ∧ (tile (putArrival l s) l).puts = rest := by
  have hset := setTile_step l { tile s l with puts := rest } s
  have hlen : (laneBytes v).length = 256 := laneBytes_length v
  have hmixed := tile_tsWrite a (laneBytes v) l (setTile l { tile s l with puts := rest } s)
  rw [tile_setTile_self] at hmixed
  have heq : putArrival l s = thaw l (tsWrite a (laneBytes v) (setTile l { tile s l with puts := rest } s)) := by
    unfold putArrival
    dsimp only
    rw [hputs]
    dsimp only
    rw [hh, if_neg (by simp)]
    exact congrArg (thaw l) (flushPosts_lines (by rw [hmixed.puts]; exact hrest))
  rw [heq]
  refine ⟨((tsWrite_written (by rw [hlen]; exact ha) _).after hset).trans (thaw_step l _), ?_⟩
  rw [tile_thaw_puts, hmixed.puts]

/-! ### The statement -/

/-- Settles O35: a transfer that starts goes by `startXfer_lane` or `startXfer_staging`; what is done writes by `tsWrite_written` or
`stgWinWrite_parts`. -/
theorem transfersMove : Obligations.TransfersMove := by
  intro s hl
  refine ⟨fun o l u t c pd hc hpd hf hoff => ?starts, fun o l u t hoff => ?off, fun l lane x hx => ?lanes,
    fun l i x c pd hx hc hpd hk hf => ?staging, fun l a v rest hputs hrest ha => ?lines⟩
  case starts =>
    refine ⟨fun h hin hd x hx => ?_, fun h hin hd x hx => ?_, fun h hin hk => ?_, fun h hin hk => ?_⟩ <;> obtain rfl := h.tile_eq
    · obtain ⟨y, hy, hcmd, hroom, hfull⟩ := startXfer_lane (x := laneXfer l o (tile u l) u) hc hpd hin (tsOperand_lt _ o) hd hf
      have hx' : x = (laneXfer l o (tile u l) u).sourced u := hx
      obtain ⟨⟨p, hp⟩, honly⟩ := tile_postInc_setTile l o (tile u l) y u
      have hexec := (exec_xfer hl h hoff).trans (by rw [hy])
      refine ⟨fun hlt => ⟨_, hexec, ?_⟩, fun hge => ⟨_, hexec, ?_⟩⟩ <;> dsimp only <;> rw [hp, hx']
      · obtain ⟨hxs, hfr⟩ := hroom hlt
        exact ⟨hxs, hfr, hcmd, honly⟩
      · obtain ⟨hxs, hfr⟩ := hfull hge
        exact ⟨hxs, hfr, hcmd, honly⟩
    · obtain ⟨y, hy, hroom, hfull⟩ := startXfer_staging (x := stagingXfer l o (tile u l) u) hc hpd hin (tsOperand_lt _ o) hd hf
      have hx' : x = (stagingXfer l o (tile u l) u).sourced u := hx
      obtain ⟨⟨p, hp⟩, honly⟩ := tile_postInc_setTile l o (tile u l) y u
      have hexec := (exec_sxfer hl h hoff).trans (by rw [hy])
      refine ⟨fun hlt => ⟨_, hexec, ?_⟩, fun hge => ⟨_, hexec, ?_⟩⟩ <;> dsimp only <;> rw [hp, hx']
      · obtain ⟨hxs, hfr⟩ := hroom hlt
        exact ⟨hxs, hfr, honly⟩
      · obtain ⟨hxs, hfr⟩ := hfull hge
        exact ⟨hxs, hfr, honly⟩
    · obtain ⟨hcount, hat, ⟨p, hp⟩, hmem, honly⟩ := postInc_crossPart l c.part o (tile u l) u
      refine ⟨_, (exec_xfer hl h hoff).trans (congrArg _ (congrArg _ (startXfer_outside hc hpd hin (by simp [laneXfer, hk])))), ?_⟩
      exact ⟨hcount, hat, by rw [hp], hmem, honly⟩
    · obtain ⟨hcount, hat, ⟨p, hp⟩, hmem, honly⟩ := postInc_crossPart l c.part o (tile u l) u
      refine ⟨_, (exec_sxfer hl h hoff).trans (congrArg _ (congrArg _ (startXfer_outside hc hpd hin (by simp [stagingXfer, hk])))), ?_⟩
      exact ⟨hcount, hat, by rw [hp], hmem, honly⟩
  case off =>
    exact ⟨fun h => (run_issue hl h _).trans (congrArg _ (if_pos hoff)), fun h => (run_issue hl h _).trans (congrArg _ (if_pos hoff))⟩
  case lanes =>
    have hexec : exec (.xferDone l lane) s = .next (xferDone l.toNat lane.toNat s) := run_live hl _
    refine ⟨fun hs => hexec.trans (congrArg _ ?_), fun at' hs => ⟨fun hwait => hexec.trans (congrArg _ ?_),
      fun ho hk hspan hlen hf hat hopen => ?_,
      fun k ho hk howner hh hsum hf hat => ⟨_, hexec, xferDone_out hx hs ho hk howner hh hsum hf hat⟩⟩⟩
    · simp only [xferDone, hx, hs]
    · rw [xferDone_eq hx hs]
      exact if_pos (by simpa using hwait)
    · obtain ⟨hw, hcount⟩ := xferDone_in hx hs ho hk (by rw [hlen]; exact hspan) hf hat hopen
      rw [← hlen]
      exact ⟨_, hexec, hw.bytes, hw.others, hcount, hw.mem, hw.only⟩
  case staging =>
    have hexec : exec (.sxferDone l i) s = .next (sxferDone l.toNat i s) := run_live hl _
    refine ⟨fun ho hspan hd => ⟨fun hclosed => hexec.trans (congrArg _ ?_), fun hopen => ?_⟩, fun ho hstg hlen hspan => ?_⟩
    · rw [sxferDone_eq hx hc hpd hk fun _ => hd, ho, if_pos (by simp [hclosed])]
    · obtain ⟨hw, hcount⟩ := sxferDone_in hx hc hpd hk hf ho hspan hd hopen
      have hlen : (stgWinRead s pd x.depot x.off x.len).length = x.len := stgWinRead_length ..
      obtain ⟨hbytes, hothers, hmem, honly⟩ := hw
      rw [hlen] at hbytes hothers
      exact ⟨_, hexec, hbytes, hothers, hcount, hmem, honly⟩
    · rw [← hlen] at hspan ⊢
      exact ⟨_, hexec, sxferDone_out hx hc hpd hk hf ho hstg hspan⟩
  case lines =>
    have hexec : exec (.putArrival l) s = .next (putArrival l.toNat s) := run_live hl _
    refine ⟨fun hh => hexec.trans (congrArg _ ?_), fun hh => ?_⟩
    · simp only [putArrival, hputs, hh, ↓reduceIte]
    · obtain ⟨⟨hbytes, hothers, hmem, honly⟩, hgone⟩ := putArrival_line hputs hrest ha hh
      rw [laneBytes_length] at hbytes hothers
      exact ⟨_, hexec, hbytes, hgone, hothers, hmem, honly⟩

end Sys2Proof.Machine
end

section
/-! PROOFS. Jobs that wake (R374, R375): what stays of the run order when ready jobs join their rings. -/

namespace Sys2Proof.Machine

/-- What waking jobs keep: the commands that wait, every job up to its debit and credits, and without donations the turn of each tile that has one. -/
structure Woken (s t : State) : Prop where
  ready : t.rm.ready = s.rm.ready
  donations : s.rm.donations = [] → t.rm.donations = []
  turn : s.rm.donations = [] → ∀ l, (sched s l).run.isSome = true → (sched t l).run = (sched s l).run ∧ (sched t l).sw = (sched s l).sw
  job : ∀ k j, job? s k = some j → ∃ d c w, job? t k = some { j with debit := d, credits := c, want := w }

section
variable {s t u : State} {l : Nat}

theorem Woken.refl (s : State) : Woken s s := ⟨rfl, id, fun _ _ _ => ⟨rfl, rfl⟩, fun _ j h => ⟨j.debit, j.credits, j.want, h⟩⟩

theorem Woken.trans (h : Woken s t) (k : Woken t u) : Woken s u where
  ready := k.ready.trans h.ready
  donations := fun hd => k.donations (h.donations hd)
  turn := fun hd m hm => by
    obtain ⟨hrun, hsw⟩ := h.turn hd m hm
    obtain ⟨hrun', hsw'⟩ := k.turn (h.donations hd) m (by rw [hrun]; exact hm)
    exact ⟨hrun'.trans hrun, hsw'.trans hsw⟩
  job := fun key j hj => by
    obtain ⟨d, c, w, h1⟩ := h.job key j hj
    obtain ⟨d', c', w', h2⟩ := k.job key _ h1
    exact ⟨d', c', w', h2⟩

theorem Woken.ite {c : Prop} [Decidable c] (ht : Woken s t) (hu : Woken s u) : Woken s (if c then t else u) := by
  split
  · exact ht
  · exact hu

theorem sched_setSched (l m : Nat) (x : TileSched) (s : State) : sched (setSched l x s) m = if m = l then x else sched s m :=
  tabGet_tabSet _ _ _ _ _

/-- A tile's run order changes where nobody has the turn, or keeps the turn. -/
theorem setSched_woken {x : TileSched} (h : s.rm.donations = [] → (sched s l).run = none ∨ (x.run = (sched s l).run ∧ x.sw = (sched s l).sw)) :
    Woken s (setSched l x s) where
  ready := rfl
  donations := id
  turn := fun hd m hm => by
    rw [sched_setSched]
    split
    case isTrue heq =>
      subst heq
      rcases h hd with hnone | hkept
      · rw [hnone] at hm
        cases hm
      · exact hkept
    case isFalse => exact ⟨rfl, rfl⟩
  job := fun _ j hj => ⟨j.debit, j.credits, j.want, hj⟩

theorem job?_modJob {k : Nat × Nat} {f : Job → Job} (hf : ∀ j, (f j).key = j.key) (m : Nat × Nat) (s : State) :
    job? (modJob k f s) m = (job? s m).map (fun j => if j.key = k then f j else j) := by
  have hkey : ((fun j : Job => j.key == m) ∘ fun j => if j.key = k then f j else j) = fun j => j.key == m := funext fun j => by
    simp only [Function.comp]
    split
    · rw [hf]
    · rfl
  rw [job?, modJob, List.find?_map, hkey, job?]

theorem modJob_woken (k : Nat × Nat) (s : State) (d c w : Job → Nat) :
    Woken s (modJob k (fun j => { j with debit := d j, credits := c j, want := w j }) s) where
  ready := rfl
  donations := id
  turn := fun _ _ _ => ⟨rfl, rfl⟩
  job := fun m j hj => by
    have hmod := job?_modJob (k := k) (f := fun j => { j with debit := d j, credits := c j, want := w j }) (fun _ => rfl) m s
    rw [hj, Option.map_some] at hmod
    split at hmod
    · exact ⟨_, _, _, hmod⟩
    · exact ⟨j.debit, j.credits, j.want, hmod⟩

theorem countPreempt_woken (k : Nat × Nat) (s : State) : Woken s (countPreempt k s) := by
  unfold countPreempt
  split
  · exact ⟨rfl, id, fun _ _ _ => ⟨rfl, rfl⟩, fun _ j h => ⟨j.debit, j.credits, j.want, h⟩⟩
  · exact .refl s

/-- A job takes a turn that nobody has. -/
theorem takeTurn_woken {k : Nat × Nat} (h : s.rm.donations = [] → (sched s l).run = none) : Woken s (takeTurn l k s) := by
  unfold takeTurn
  extract_lets x donated len v
  have hv : Woken s v := .ite (.refl s) (modJob_woken k s (fun _ => 0) (·.credits) (·.want))
  have hrun : v.rm.donations = [] → (sched v l).run = none := fun hd => by
    have hsched : sched v l = sched s l := by simp only [v]; split <;> rfl
    have hdon : v.rm.donations = s.rm.donations := by simp only [v]; split <;> rfl
    rw [hsched]
    exact h (hdon ▸ hd)
  split
  · exact hv.trans (setSched_woken fun hd => .inl (hrun hd))
  · split
    · exact hv.trans (setSched_woken fun hd => .inl (hrun hd))
    · extract_lets w w'
      have hw : Woken v w := .ite (countPreempt_woken ..) (.refl v)
      have hcount (o : Nat × Nat) (y : State) : (countPreempt o y).rm.donations = y.rm.donations ∧ sched (countPreempt o y) l = sched y l := by
        unfold countPreempt
        split <;> exact ⟨rfl, rfl⟩
      have hrun' : w.rm.donations = [] → (sched w l).run = none := by
        simp only [w]
        split
        · rw [(hcount _ v).1, (hcount _ v).2]
          exact hrun
        · exact hrun
      exact ((hv.trans hw).trans (setSched_woken fun hd => .inl (hrun' hd))).trans
        ((modJob_woken _ _ (·.debit) (fun _ => 0) (fun j => j.want + j.credits)).trans
          (modJob_woken _ _ (·.debit) (fun j => j.credits + j.want) (fun _ => 0)))

/-- The turn passes on where nobody has it. -/
theorem nextTurn_woken {n : Nat} (h : s.rm.donations = [] → (sched s l).run = none) : Woken s (nextTurn l n s) := by
  induction n generalizing s with
  | zero => exact .refl s
  | succ n ih =>
    have hset (ring : List (Nat × Nat)) : Woken s (setSched l { sched s l with ring := ring } s) := setSched_woken fun _ => .inr ⟨rfl, rfl⟩
    have hrun (ring : List (Nat × Nat)) : s.rm.donations = [] → (sched (setSched l { sched s l with ring := ring } s) l).run = none := fun hd => by
      rw [sched_setSched, if_pos rfl]
      exact h hd
    rw [nextTurn]
    split
    · exact setSched_woken fun hd => .inl (h hd)
    · split
      · exact (hset _).trans (ih (hrun _))
      · exact .ite (((hset _).trans (modJob_woken _ _ (fun j => j.debit - sliceOf s _) (·.credits) (·.want))).trans (ih (hrun _)))
          ((hset _).trans (takeTurn_woken (hrun _)))

theorem startDonation_woken (l : Nat) (s : State) : Woken s (startDonation l s) := by
  by_cases hd : s.rm.donations = []
  · have hid : startDonation l s = s := by simp [startDonation, hd]
    rw [hid]
    exact .refl s
  · unfold startDonation
    extract_lets x
    split
    · exact .refl s
    · split
      · exact .refl s
      · rename_i d _
        extract_lets v ring ring'
        have hne : v.rm.donations ≠ [] := by simpa [v] using hd
        have hv : Woken s v := ⟨rfl, fun h => absurd h hd, fun h => absurd h hd, fun _ j h => ⟨j.debit, j.credits, j.want, h⟩⟩
        exact .ite hv ((hv.trans (setSched_woken fun h => absurd h hne)).trans (takeTurn_woken fun h => absurd h hne))

theorem joinRing_woken (k : Nat × Nat) (l : Nat) (s : State) : Woken s (joinRing k l s) := by
  unfold joinRing
  extract_lets x v w
  have hv : Woken s v := .ite (.refl s) (setSched_woken fun _ => .inr ⟨rfl, rfl⟩)
  refine (hv.trans (startDonation_woken l v)).trans ?_
  split
  case isTrue h => exact nextTurn_woken fun _ => Option.isNone_iff_eq_none.1 h
  case isFalse => exact .refl _

theorem wakeJobs_woken (s : State) : Woken s (wakeJobs s) := by
  refine List.foldlRecOn (motive := Woken s) _ _ (.refl s) fun t ht e _ => ht.trans ?_
  split
  · exact .ite (joinRing_woken ..) (.refl t)
  · exact .refl t

end

end Sys2Proof.Machine
end

section
/-! PROOFS. DISPATCH (R175, R374): the registers a command starts with, what the start of a command changes, and whether its job has the turn. -/

namespace Sys2Proof.Machine

/-! ### First registers -/

/-- Nonzero entries of a list by their places: a register not listed reads as zero. -/
theorem tabGet_nonzero (w : List (BitVec 64)) (a i : Nat) :
    tabGet (((List.range' a w.length).zip w).filter (fun e => e.2 != 0)) i 0 = if a ≤ i then nth w (i - a) 0 else 0 := by
  induction w generalizing a with
  | nil => simp [tabGet, nth]
  | cons x w ih =>
    have hcons : tabGet (((List.range' a (x :: w).length).zip (x :: w)).filter (fun e => e.2 != 0)) i 0 =
        if i = a then x else if a + 1 ≤ i then nth w (i - (a + 1)) 0 else 0 := by
      rw [List.length_cons, List.range'_succ, List.zip_cons_cons, List.filter_cons]
      by_cases hx : x = 0
      · rw [if_neg (by simp [hx]), ih]
        by_cases hi : i = a
        · rw [if_pos hi, if_neg (by omega), hx]
        · rw [if_neg hi]
      · rw [if_pos (by simpa using hx), ← ih]
        simp only [tabGet, eq_comm]
    rw [hcons]
    rcases Nat.lt_trichotomy i a with h | rfl | h
    · rw [if_neg (by omega), if_neg (by omega), if_neg (by omega)]
    · rw [if_pos rfl, if_pos (Nat.le_refl _), Nat.sub_self]
      rfl
    · rw [if_neg (by omega), if_pos (Nat.succ_le_of_lt h), if_pos (by omega), show i - a = i - (a + 1) + 1 by omega]
      rfl

section
variable {s : State} {r : DispatchReq} {j : Job} {keeps : Bool}

theorem length_argWords (r : DispatchReq) (keeps parity : Bool) : (argWords r keeps parity).length = 14 := by
  unfold argWords
  split <;> simp

/-- The argument words, with the commit parity in bit 63 of the last when the routine keeps state (R175). -/
theorem nth_argWords (r : DispatchReq) (keeps parity : Bool) (i : Nat) : nth (argWords r keeps parity) i 0 =
    if keeps = true ∧ i = 13 then setFld (nth ((List.range 14).map (fun i => nth r.args i 0)) 13 0) 63 1 (if parity then 1 else 0)
    else nth ((List.range 14).map (fun i => nth r.args i 0)) i 0 := by
  unfold argWords
  cases keeps
  · simp
  · simp only [↓reduceIte, true_and, nth]
    by_cases hi : i = 13
    · subst hi
      simp
    · rw [List.getElem?_set_ne (by omega), if_neg hi]

/-- Registers S0 to S15 of a starting command, and no other (R175). -/
theorem tabGet_firstRegs (i : Nat) : tabGet (firstRegs s r j keeps) i 0 =
    nth (argWords r keeps j.parity ++ [place r.tile.toNat 0 6 ||| place r.part.toNat 8 4 ||| place j.slot 16 12, s.now]) i 0 := by
  have hregs := tabGet_nonzero (argWords r keeps j.parity ++ [place r.tile.toNat 0 6 ||| place r.part.toNat 8 4 ||| place j.slot 16 12, s.now]) 0 i
  rw [List.length_append, length_argWords, if_pos (Nat.zero_le i), Nat.sub_zero] at hregs
  rw [← hregs, firstRegs, List.range_eq_range']
  rfl

theorem firstRegs_args {i : Nat} (hi : i < 14) : tabGet (firstRegs s r j keeps) i 0 = nth (argWords r keeps j.parity) i 0 := by
  rw [tabGet_firstRegs, nth, List.getElem?_append_left (by rw [length_argWords]; exact hi), nth]

theorem firstRegs_place : tabGet (firstRegs s r j keeps) 14 0 = (place r.tile.toNat 0 6 ||| place r.part.toNat 8 4 ||| place j.slot 16 12) := by
  rw [tabGet_firstRegs, nth, List.getElem?_append_right (by rw [length_argWords]), length_argWords]
  rfl

theorem firstRegs_time : tabGet (firstRegs s r j keeps) 15 0 = s.now := by
  rw [tabGet_firstRegs, nth, List.getElem?_append_right (by rw [length_argWords]; decide), length_argWords]
  rfl

theorem firstRegs_unset {i : Nat} (hi : 16 ≤ i) : tabGet (firstRegs s r j keeps) i 0 = 0 := by
  rw [tabGet_firstRegs, nth, List.getElem?_eq_none (by rw [List.length_append, length_argWords]; exact hi)]
  rfl

end

/-! ### The start of a command -/

/-- The command that a request starts. -/
def launchCmd (r : DispatchReq) (j : Job) (runs : Nat) (s : State) : TileCmd where
  part := j.part
  slot := j.slot
  queue := j.queue
  decoder := j.decoder
  stage := j.stage
  routine := r.routine.toNat
  args := r.args
  pages := r.pages
  runs := runs + 1
  arrived := s.now
  bound := ((routineOf s.si.conf j.part r.routine.toNat).map (·.d)).getD 0
  ended := false
  failed := false
  tokBad := false
  group := ((j.queue.bind (fun q => queue? s q)).map (·.cls)).bind
    (fun c => chainOf s j.part c r.tile.toNat (((routineOf s.si.conf j.part r.routine.toNat).map (·.toks)).getD []))
  req := r
  stgOut := []

/-- The state in which the command's tile is set: its request waits no more, its job has its tokens, its batch and chain are noted. -/
def launchSet (r : DispatchReq) (j : Job) (runs : Nat) (s : State) : State :=
  let u := batchSent r j.key (restoreHeld j.key { s with rm := { s.rm with ready := s.rm.ready.filter (fun e => e.1 != r) } })
  match (launchCmd r j runs s).group with | some g => joinGroup g r (runs + 1) u | none => u

/-- The tile on which the command starts (R175). -/
def launchTile (r : DispatchReq) (j : Job) (runs : Nat) (s : State) : Tile :=
  { Tile.init with
    cmd := some (launchCmd r j runs s)
    pc := ((routineOf s.si.conf j.part r.routine.toNat).map (·.entry)).getD 0
    s := firstRegs s r j (((routineOf s.si.conf j.part r.routine.toNat).map (·.bspad)).getD 0 != 0)
    acc := (tile s r.tile.toNat).acc
    shadow := (tile s r.tile.toNat).shadow }

section
variable {r : DispatchReq} {j : Job} {runs : Nat} {s : State}

theorem restoreHeld_only (k : Nat × Nat) (s : State) : Only [.tl] s (restoreHeld k s) :=
  Only.foldl (fun t _ => Only.ite (setTok_only _ _ t) (.refl _ t)) _ s

theorem restoreHeld_tiles (k : Nat × Nat) (s : State) : (restoreHeld k s).tl.tiles = s.tl.tiles :=
  List.foldlRecOn (motive := fun t : State => t.tl.tiles = s.tl.tiles) _ _ rfl fun _ ht _ _ => by
    dsimp only
    split <;> exact ht

theorem batchSent_only (r : DispatchReq) (k : Nat × Nat) (s : State) : Only [.pp] s (batchSent r k s) := by
  unfold batchSent
  exact .ite (fun p => by cases p <;> simp [Part.same]) (.refl _ s)

theorem joinGroup_only (g : Nat) (r : DispatchReq) (runs : Nat) (s : State) : Only [.rm] s (joinGroup g r runs s) := by
  unfold joinGroup
  split <;> exact setRm_only _ s

theorem joinGroup_ready (g : Nat) (r : DispatchReq) (runs : Nat) (s : State) : (joinGroup g r runs s).rm.ready = s.rm.ready := by
  unfold joinGroup
  split <;> rfl

/-- What is noted of a command before it starts touches no tile. -/
theorem launchSet_parts (r : DispatchReq) (j : Job) (runs : Nat) (s : State) :
    (launchSet r j runs s).rm.ready = s.rm.ready.filter (fun e => e.1 != r) ∧ (launchSet r j runs s).tl.tiles = s.tl.tiles ∧
      Only [.rm, .tl, .pp] s (launchSet r j runs s) := by
  have hheld := restoreHeld_only j.key { s with rm := { s.rm with ready := s.rm.ready.filter (fun e => e.1 != r) } }
  have hsent := batchSent_only r j.key (restoreHeld j.key { s with rm := { s.rm with ready := s.rm.ready.filter (fun e => e.1 != r) } })
  have hframe := (((setRm_only { s.rm with ready := s.rm.ready.filter (fun e => e.1 != r) } s).mono (by simp)).trans
    (hheld.mono (qs := [.rm, .tl, .pp]) (by simp))).trans (hsent.mono (by simp))
  have hready := congrArg Ringmaster.ready ((hsent.same .rm (by simp)).trans (hheld.same .rm (by simp)))
  have htiles := (congrArg Tiles.tiles (hsent.same .tl (by simp))).trans (restoreHeld_tiles j.key _)
  unfold launchSet
  dsimp only
  split
  · exact ⟨(joinGroup_ready ..).trans hready, (congrArg Tiles.tiles ((joinGroup_only _ _ _ _).same .tl (by simp))).trans htiles,
      hframe.trans ((joinGroup_only _ _ _ _).mono (by simp))⟩
  · exact ⟨hready, htiles, hframe⟩

theorem launch_eq (r : DispatchReq) (j : Job) (runs : Nat) (s : State) : launch r j runs s =
    let x := routineOf s.si.conf j.part r.routine.toNat
    let c := readCheck .instr r.tile.toNat (256 * (x.map (·.entry)).getD 0) (256 * (x.map (·.nb)).getD 0)
      (setTile r.tile.toNat (launchTile r j runs s) (launchSet r j runs s))
    readFails r.tile.toNat c.1 c.2 := by
  obtain ⟨-, htiles, honly⟩ := launchSet_parts r j runs s
  have hnow : (launchSet r j runs s).now = s.now := honly.same .now (by simp)
  have htile : tile (launchSet r j runs s) r.tile.toNat = tile s r.tile.toNat := tile_congr htiles _
  have hlaunch : launchTile r j runs s = { Tile.init with
      cmd := some { launchCmd r j runs s with arrived := (launchSet r j runs s).now }
      pc := ((routineOf s.si.conf j.part r.routine.toNat).map (·.entry)).getD 0
      s := firstRegs (launchSet r j runs s) r j (((routineOf s.si.conf j.part r.routine.toNat).map (·.bspad)).getD 0 != 0)
      acc := (tile (launchSet r j runs s) r.tile.toNat).acc
      shadow := (tile (launchSet r j runs s) r.tile.toNat).shadow } := by
    simp only [launchTile, firstRegs, hnow, htile]
    rfl
  rw [hlaunch]
  rfl

/-- A bundle of the command's routine is damaged beyond correction. -/
def launchDamaged (r : DispatchReq) (j : Job) (s : State) : Bool :=
  (damageIn s .instr r.tile.toNat (256 * ((routineOf s.si.conf j.part r.routine.toNat).map (·.entry)).getD 0)
    (256 * ((routineOf s.si.conf j.part r.routine.toNat).map (·.nb)).getD 0)).any (·.ue)

/-- What the start of a command leaves: its tile set, its failure when its routine is damaged, and the request off the list (R175, R374). -/
structure Launched (r : DispatchReq) (j : Job) (runs : Nat) (s t : State) : Prop where
  tile : tile t r.tile.toNat = { launchTile r j runs s with cmd := some { launchCmd r j runs s with failed := launchDamaged r j s } }
  others : ∀ k, k ≠ r.tile.toNat → Machine.tile t k = Machine.tile s k
  ready : t.rm.ready = s.rm.ready.filter (fun e => e.1 != r)
  only : Only [.rm, .tl, .dm, .sn, .hp, .pp] s t

theorem Only.drop {ps qs : List Part} {s t : State} (h : Only ps s t) {q : Part} (hps : ∀ p ∈ ps, p = q ∨ p ∈ qs)
    (hq : q.same s t) : Only qs s t := fun p => by
  rcases h p with hp | hp
  · rcases hps p hp with rfl | hp
    · exact .inr hq
    · exact .inl hp
  · exact .inr hp

theorem readFails_step (l : Nat) (ue : Bool) (s : State) : TileStep l s (readFails l ue s) := by
  unfold readFails
  split
  · exact modTile_step ..
  · exact .refl l s

theorem tile_readFails (l : Nat) (ue : Bool) (s : State) : tile (readFails l ue s) l = if ue then
    { tile s l with cmd := (tile s l).cmd.map (fun c => { c with failed := true }) } else tile s l := by
  unfold readFails
  split
  · rw [tile_modTile_self]
  · rfl

theorem launch_launched (hm : s.pw.mode ≠ modeSleep) : Launched r j runs s (launch r j runs s) := by
  obtain ⟨hready, htiles, honly⟩ := launchSet_parts r j runs s
  have heq := launch_eq r j runs s
  have hset := setTile_step r.tile.toNat (launchTile r j runs s) (launchSet r j runs s)
  have htile := tile_setTile_self r.tile.toNat (launchTile r j runs s) (launchSet r j runs s)
  have hdamaged : launchDamaged r j s = (readCheck .instr r.tile.toNat (256 * ((routineOf s.si.conf j.part r.routine.toNat).map (·.entry)).getD 0)
      (256 * ((routineOf s.si.conf j.part r.routine.toNat).map (·.nb)).getD 0)
      (setTile r.tile.toNat (launchTile r j runs s) (launchSet r j runs s))).1 := by
    rw [launchDamaged, ← damageIn_congr (honly.same .dm (by simp))]
    rfl
  dsimp only at heq
  rw [← hdamaged] at heq
  generalize setTile r.tile.toNat (launchTile r j runs s) (launchSet r j runs s) = w at hset htile heq
  generalize 256 * ((routineOf s.si.conf j.part r.routine.toNat).map (·.entry)).getD 0 = a at heq
  generalize 256 * ((routineOf s.si.conf j.part r.routine.toNat).map (·.nb)).getD 0 = n at heq
  have hframe : Only [.rm, .tl, .pp] s w := honly.trans (hset.only.mono (by simp))
  have hpw : w.pw = s.pw := hframe.same .pw (by simp)
  have hkept := readCheck_tilesKept .instr r.tile.toNat a n w
  have hmet := (readCheck_met .instr r.tile.toNat a n w).only
  have hread : Only [.hp, .dm, .sn, .tl] w (readCheck .instr r.tile.toNat a n w).2 :=
    hmet.drop (q := .pw) (by simp) (hkept.pw (by rw [hpw]; exact hm))
  have hfails := readFails_step r.tile.toNat (launchDamaged r j s) (readCheck .instr r.tile.toNat a n w).2
  rw [heq]
  refine ⟨?_, fun k hk => ?_, ?_, ((hframe.mono (by simp)).trans (hread.mono (by simp))).trans (hfails.only.mono (by simp))⟩
  · rw [tile_readFails, tile_congr hkept.tiles, htile]
    cases launchDamaged r j s <;> rfl
  · rw [hfails.others k hk, tile_congr hkept.tiles, hset.others k hk, tile_congr htiles]
  · rw [hfails.only.same .rm (by simp), hread.same .rm (by simp), hset.only.same .rm (by simp), hready]

end

end Sys2Proof.Machine
end

section
/-! PROOFS. DISPATCH and OPERATOR_COMMAND (R174, R175, R262 to R264, R374, R375): a command that waits, one that starts, and an operator
command that is refused. -/

namespace Sys2Proof.Machine

/-! ### Whether a job's command may start -/

/-- The request is on the list of commands that wait. -/
def listed (r : DispatchReq) (s : State) : State :=
  if (s.rm.ready.find? (fun e => e.1 == r)).isSome then s else { s with rm := { s.rm with ready := s.rm.ready ++ [(r, 0)] } }

section
variable {r : DispatchReq} {j j' : Job} {s u : State}

theorem listed_woken (r : DispatchReq) (s : State) : s.rm.donations = (listed r s).rm.donations ∧ (∀ l, sched (listed r s) l = sched s l) ∧
    (∀ k, job? (listed r s) k = job? s k) ∧ Only [.rm] s (listed r s) := by
  unfold listed
  split
  · exact ⟨rfl, fun _ => rfl, fun _ => rfl, .refl _ s⟩
  · exact ⟨rfl, fun _ => rfl, fun _ => rfl, setRm_only _ s⟩

theorem mem_listed (e : DispatchReq × Nat) (he : e.1 ≠ r) : e ∈ (listed r s).rm.ready ↔ e ∈ s.rm.ready := by
  unfold listed
  split
  · rfl
  · have hne : e ≠ (r, 0) := fun h => he (by rw [h])
    simp [hne]

theorem inputsIn_congr {s t : State} (hsi : t.si = s.si) (hpp : t.pp = s.pp) (r : DispatchReq) : inputsIn t r = inputsIn s r := by
  simp only [inputsIn, applying, draining, page?, hsi, hpp]

/-- A job's command may start where its job keeps the turn, all else being as it was. -/
theorem mayLaunch_congr (hrm : Only [.rm] s u) (hkey : j'.key = j.key) (hrun : (sched u r.tile.toNat).run = (sched s r.tile.toNat).run)
    (hsw : (sched u r.tile.toNat).sw = (sched s r.tile.toNat).sw) : mayLaunch u r j' = mayLaunch s r j := by
  have htl : u.tl = s.tl := hrm.same .tl (by simp)
  have hpw : u.pw = s.pw := hrm.same .pw (by simp)
  simp only [mayLaunch, hkey, hrun, hsw, tile, tileHeld, htl, hpw, inputsIn_congr (hrm.same .si (by simp)) (hrm.same .pp (by simp))]

theorem run_of_mayLaunch (h : mayLaunch s r j = true) : (sched s r.tile.toNat).run = some j.key := by
  simp only [mayLaunch, Bool.and_eq_true, beq_iff_eq] at h
  exact h.1.1.1.1.1.1

theorem mayLaunch_busy (h : (tile s r.tile.toNat).cmd.isSome = true) : mayLaunch s r j = false := by
  have hno : (tile s r.tile.toNat).cmd.isNone = false := by rw [← Option.not_isSome, h]; rfl
  simp only [mayLaunch, hno, Bool.and_false, Bool.false_and]

/-! ### DISPATCH -/

/-- The state in which DISPATCH looks whose turn it is: the device awake, the request listed, ready jobs in their rings. -/
def awaken (r : DispatchReq) (s : State) : State := wakeJobs (leaveSleep (listed r s))

theorem awaken_awake (hm : s.pw.mode ≠ modeSleep) (r : DispatchReq) : awaken r s = wakeJobs (listed r s) :=
  congrArg wakeJobs (leaveSleep_awake (by rw [(listed_woken r s).2.2.2.same .pw (by simp)]; exact hm))

theorem dispatch_eq (hj : jobFor s r = some j) : dispatch r s =
    match job? (awaken r s) j.key with
    | some j =>
      if mayLaunch (awaken r s) r j then launch r j (((s.rm.ready.find? (fun e => e.1 == r)).map (·.2)).getD 0) (awaken r s) else awaken r s
    | none => awaken r s := by
  simp only [dispatch, hj]
  rfl

/-- A ready command of the job whose turn it is starts (R374, R375). -/
theorem dispatch_starts (hj : jobFor s r = some j) (hjob : job? s j.key = some j) (hm : s.pw.mode ≠ modeSleep) (hmay : mayLaunch s r j = true)
    (hd : s.rm.donations = []) :
    ∃ d c w, dispatch r s = launch r { j with debit := d, credits := c, want := w } (((s.rm.ready.find? (fun e => e.1 == r)).map (·.2)).getD 0)
      (wakeJobs (listed r s)) := by
  obtain ⟨hdon, hsched, hjobs, honly⟩ := listed_woken r s
  have hwoken := wakeJobs_woken (listed r s)
  obtain ⟨d, c, w, hjob'⟩ := hwoken.job j.key j (by rw [hjobs, hjob])
  obtain ⟨hrun, hsw⟩ := hwoken.turn (by rw [← hdon, hd]) r.tile.toNat (by rw [hsched, run_of_mayLaunch hmay]; rfl)
  refine ⟨d, c, w, ?_⟩
  rw [dispatch_eq hj, awaken_awake hm, hjob']
  refine if_pos ((mayLaunch_congr (honly.trans (wakeJobs_only _)) rfl ?_ ?_).trans hmay)
  · rw [hrun, hsched]
  · rw [hsw, hsched]

/-- While another command runs on the tile, the request waits (R374). -/
theorem dispatch_waits (hj : jobFor s r = some j) (hm : s.pw.mode ≠ modeSleep) (hbusy : (tile s r.tile.toNat).cmd.isSome = true) :
    dispatch r s = wakeJobs (listed r s) := by
  have htl : (wakeJobs (listed r s)).tl = s.tl := ((listed_woken r s).2.2.2.trans (wakeJobs_only _)).same .tl (by simp)
  rw [dispatch_eq hj, awaken_awake hm]
  split
  · rw [mayLaunch_busy (by rw [tile, htl]; exact hbusy), if_neg Bool.false_ne_true]
  · rfl

end

/-! ### Pages that end -/

/-- What the end of pages leaves alone: of the Ringmaster only the commands that wait change, and those only go. -/
structure PagesEnded (s t : State) : Prop where
  rm : t.rm = { s.rm with ready := t.rm.ready }
  ready : ∀ e ∈ t.rm.ready, e ∈ s.rm.ready
  only : Only [.pp, .dq, .kv, .mem, .rm, .dm] s t

section
variable {s t u : State} {pid : BitVec 32} {p : Page} {code : Nat}

theorem PagesEnded.refl (s : State) : PagesEnded s s := ⟨rfl, fun _ h => h, .refl _ s⟩

theorem PagesEnded.trans (h : PagesEnded s t) (k : PagesEnded t u) : PagesEnded s u where
  rm := k.rm.trans (by rw [h.rm])
  ready := fun e he => h.ready e (k.ready e he)
  only := h.only.trans k.only

theorem PagesEnded.of_only {ps : List Part} (h : Only ps s t) (hps : ∀ p ∈ ps, p ∈ ([.pp, .dq, .kv, .mem, .dm] : List Part)) :
    PagesEnded s t := by
  have hrm : t.rm = s.rm := h.same .rm fun hm => by simpa using hps _ hm
  exact ⟨by rw [hrm], fun e he => by rwa [hrm] at he, h.mono fun p hp => by have := hps p hp; revert this; simp; tauto⟩

theorem giveOrOwe_only (pid : BitVec 32) (n : Nat) (s : State) : Only [.pp] s (giveOrOwe pid n s) := by
  unfold giveOrOwe
  exact .ite (.refl _ s) (.ite (fun q => by cases q <;> simp [Part.same]) (r2give_only _ _))

theorem freeSeqs_only (s : State) : Only [.kv, .mem] s (freeSeqs s) := ((setKv_only _ s).mono (by simp)).trans (dropTabs_only _ _)

/-- The page of a record that says no lost input ends: nothing of the Safety net counts. -/
theorem pageDone_eq {recs : List Rec} (hp : page? s pid = some p) (hr : ∀ r ∈ recs, r.status.toNat ≠ cInputLost) :
    pageDone pid recs s = freeSeqs (modItem p.queue pid (fun i => { i with recs := recs })
      (setPage { p with stage := .output, resvBuf := 0, resvPrep := 0, bgStripes := 0 } (giveOrOwe pid (p.resvBuf + p.resvPrep) s))) := by
  have hlost : (recs.filter (fun r => r.status.toNat == cInputLost)).length = 0 := by
    rw [List.length_eq_zero_iff, List.filter_eq_nil_iff]
    exact fun r hm => by simpa using hr r hm
  simp only [pageDone, hp, hlost, ↓reduceIte]

theorem dropRows_only (pid : BitVec 32) (s : State) : Only [.pp, .kv] s (dropRows pid s) := fun q => by cases q <;> simp [Part.same, dropRows]

theorem pruneReady_ended (s : State) : PagesEnded s (pruneReady s) :=
  ⟨rfl, fun _ he => (List.mem_filter.1 he).1, fun q => by cases q <;> simp [Part.same, pruneReady]⟩

theorem endPage_eq (hp : page? s pid = some p) (ho : p.stage ≠ .output) (hr : p.stage ≠ .released) (hcode : code ≠ cInputLost) :
    endPage pid code s = pruneReady (pageDone pid [pageRec pid p.cseq (p.door != 0) code] (dropRows pid s)) := by
  simp only [endPage, hp, ho, hr, hcode, or_self, ↓reduceIte]

theorem pageRec_status (hcode : code < 256) (hlost : code ≠ cInputLost) (pid cseq : BitVec 32) (nocmd : Bool) :
    (pageRec pid cseq nocmd code).status.toNat ≠ cInputLost := by
  rw [pageRec, BitVec.toNat_ofNat, Nat.mod_eq_of_lt hcode]
  exact hlost

theorem endPage_ended (hcode : code < 256) (hlost : code ≠ cInputLost) (pid : BitVec 32) (s : State) : PagesEnded s (endPage pid code s) := by
  cases hp : page? s pid with
  | none =>
    simp only [endPage, hp]
    exact .refl s
  | some p =>
    by_cases hstage : p.stage = .output ∨ p.stage = .released
    · simp only [endPage, hp, hstage, ↓reduceIte]
      exact .refl s
    · obtain ⟨ho, hr⟩ := not_or.1 hstage
      have hp' : page? (dropRows pid s) pid = some p := hp
      rw [endPage_eq hp ho hr hlost, pageDone_eq hp' (by simpa using pageRec_status hcode hlost pid p.cseq (p.door != 0))]
      refine PagesEnded.trans (.of_only (ps := [.pp, .dq, .kv, .mem]) ?_ (by simp)) (pruneReady_ended _)
      exact (((((dropRows_only pid s).mono (by simp)).trans ((giveOrOwe_only _ _ _).mono (by simp))).trans
        ((setPage_only _ _).mono (by simp))).trans ((modQueue_only _ _ _).mono (by simp))).trans ((freeSeqs_only _).mono (by simp))

/-- An ended page stands in output with the record of its end (R160). -/
theorem endPage_parts (hcode : code < 256) (hlost : code ≠ cInputLost) (hp : page? s pid = some p) (hid : p.id = pid) (ho : p.stage ≠ .output)
    (hr : p.stage ≠ .released) {q : Queue} (hq : queue? s p.queue = some q) :
    (page? (endPage pid code s) pid).map (·.stage) = some .output ∧
      queue? (endPage pid code s) p.queue = some { q with items := q.items.map (fun i => if i.page = some pid then
        { i with recs := [pageRec pid p.cseq (p.door != 0) code] } else i) } := by
  have hp' : page? (dropRows pid s) pid = some p := hp
  rw [endPage_eq hp ho hr hlost, pageDone_eq hp' (by simpa using pageRec_status hcode hlost pid p.cseq (p.door != 0))]
  set v := setPage { p with stage := .output, resvBuf := 0, resvPrep := 0, bgStripes := 0 }
    (giveOrOwe pid (p.resvBuf + p.resvPrep) (dropRows pid s)) with hv
  set w := modItem p.queue pid (fun i => { i with recs := [pageRec pid p.cseq (p.door != 0) code] }) v with hw
  have hfree := freeSeqs_only w
  constructor
  · have hpages : page? (pruneReady (freeSeqs w)) pid = page? v pid := by
      have hpp : (freeSeqs w).pp = v.pp := (hfree.same .pp (by simp)).trans ((modQueue_only _ _ v).same .pp (by simp))
      exact (show _ = page? (freeSeqs w) pid from rfl).trans (page?_congr hpp pid)
    rw [hpages, hv, page?_setPage, if_pos hid.symm]
    rfl
  · have hqueues : queue? v p.queue = some q := by
      rw [← hq]
      refine queue?_congr ?_ _
      exact congrArg _ ((giveOrOwe_only _ _ (dropRows pid s)).same .dq (by simp))
    have h1 : queue? (pruneReady (freeSeqs w)) p.queue = queue? w p.queue := queue?_congr (congrArg _ (hfree.same .dq (by simp))) _
    rw [h1, hw, modItem, queue?_modQueue, if_pos rfl, hqueues]
    rfl

end

/-! ### OPERATOR_COMMAND -/

/-- A refused operator command names one of three faults of its descriptor (R263). -/
theorem operCheck_cases (a : List Word) : operCheck a = 0 ∨ operCheck a = cVersion ∨ operCheck a = cReserved ∨ operCheck a = cDimLimit := by
  unfold operCheck
  dsimp only
  split
  · exact .inr (.inl rfl)
  · split
    · exact .inr (.inr (.inl rfl))
    · repeat' split
      all_goals simp

theorem operCheck_bounds (a : List Word) : operCheck a < 256 ∧ operCheck a ≠ cInputLost := by
  rcases operCheck_cases a with h | h | h | h <;> rw [h] <;> decide

/-- A refused operator command ends its pages with the code and logs its event (R263, R264). -/
theorem operatorFail_parts {code : Nat} (hcode : code < 256) (hlost : code ≠ cInputLost) (pages : List (BitVec 32)) (part : Nat) (s : State) :
    ∃ v, PagesEnded s v ∧ v = pages.foldl (fun s p => endPage p code s) s ∧
      operatorFail pages part code s = barker 0x0301 1 { status := code, part := part } v :=
  ⟨_, List.foldlRecOn (motive := PagesEnded s) _ _ (.refl s) (fun _ ht _ _ => ht.trans (endPage_ended hcode hlost _ _)), rfl, rfl⟩

/-- The log entry of an event that names a status and a partition. -/
theorem barker_log (event sev code part : Nat) (s : State) :
    tabGet (barker event sev { status := code, part := part } s).sn.log s.sn.head.toNat [] =
      [s.now, place event 0 16 ||| place sev 16 2 ||| place code 24 8 ||| place part 32 4 ||| place 0xFFFF 48 16, place s.sn.eseq.toNat 0 32, 0] := by
  have hlog : (barker event sev { status := code, part := part } s).sn.log = tabSet s.sn.log s.sn.head.toNat
      [s.now, place event 0 16 ||| place sev 16 2 ||| place code 24 8 ||| place part 32 4 ||| place 0xFFFF 48 16,
        place s.sn.eseq.toNat 0 32 ||| place 0 32 24 ||| place 0 56 8, 0] := by
    unfold barker
    split <;> rfl
  rw [hlog, tabGet_tabSet_self]
  simp [place]

/-! ### The statement -/

/-- Settles O39: a ready command starts by `dispatch_starts` and `launch_launched`, waits by `dispatch_waits`, and a refused operator command ends its
pages by `operatorFail_parts`. -/
theorem dispatchReachesItsTile : Obligations.DispatchReachesItsTile := by
  intro s r hl hmode
  have hm : s.pw.mode ≠ modeSleep := by rw [hmode]; decide
  have hexec : exec (.dispatch r) s = .next (dispatch r s) := run_live hl _
  refine ⟨fun hj => ?nobody, fun j l hj hjob hlt => ⟨fun hmay hd x w hx hw => ?starts, fun hbusy hnew => ?waits⟩, fun desc o ho => ?operator⟩
  case nobody =>
    rw [hexec, dispatch, hj]
  case starts =>
    subst hlt hx hw
    obtain ⟨d, q, w, heq⟩ := dispatch_starts hj hjob hm hmay hd
    have honly := (listed_woken r s).2.2.2.trans (wakeJobs_only (listed r s))
    have hready := (wakeJobs_woken (listed r s)).ready
    generalize wakeJobs (listed r s) = u at heq honly hready
    have hsi : u.si = s.si := honly.same .si (by simp)
    have hnow : u.now = s.now := honly.same .now (by simp)
    have htl : u.tl = s.tl := honly.same .tl (by simp)
    have hdm : u.dm = s.dm := honly.same .dm (by simp)
    have hpw : u.pw = s.pw := honly.same .pw (by simp)
    obtain ⟨htile, hothers, hlist, hframe⟩ := launch_launched (r := r) (j := { j with debit := d, credits := q, want := w })
      (runs := ((s.rm.ready.find? (fun e => e.1 == r)).map (·.2)).getD 0) (s := u) (by rw [hpw]; exact hm)
    refine ⟨_, hexec.trans (congrArg _ heq), ?_⟩
    dsimp only
    rw [htile]
    refine ⟨⟨_, rfl, rfl, rfl, rfl, rfl, rfl, rfl, rfl, rfl, hnow, rfl, rfl, ?_, ?_, rfl⟩, ?_, rfl, fun i hi => ?_, ?_,
      firstRegs_place, firstRegs_time.trans hnow, fun i hi => firstRegs_unset hi, rfl, rfl, rfl, ?_, fun k hk => ?_, fun e => ?_, ?_, ?_⟩
    · simp only [launchDamaged, hsi, damageIn, hdm]
    · simp only [launchCmd, hsi]
    · simp only [launchTile, hsi]
    · refine (firstRegs_args (by omega)).trans ((nth_argWords ..).trans (if_neg (by omega)))
    · refine (firstRegs_args (by omega)).trans ((nth_argWords ..).trans ?_)
      rw [hsi]
      dsimp only
      generalize ((routineOf s.si.conf j.part r.routine.toNat).map (·.bspad)).getD 0 = b
      by_cases hb : b = 0 <;> simp [hb]
    · simp only [launchTile, tile, htl]
    · rw [hothers k hk, tile, htl, ← tile]
    · rw [hlist, hready, List.mem_filter]
      by_cases he : e.1 = r
      · simp [he]
      · simp [he, mem_listed e he]
    · exact (hframe.same .mem (by simp)).trans (honly.same .mem (by simp))
    · exact (honly.mono (by simp)).trans hframe
  case waits =>
    subst hlt
    have hlisted : listed r s = { s with rm := { s.rm with ready := s.rm.ready ++ [(r, 0)] } } :=
      if_neg (by simpa using fun n he => hnew (r, n) he rfl)
    have honly := (listed_woken r s).2.2.2.trans (wakeJobs_only _)
    refine ⟨_, hexec.trans (congrArg _ (dispatch_waits hj hm hbusy)), ?_, honly.same .tl (by simp), honly⟩
    rw [(wakeJobs_woken _).ready, hlisted]
  case operator =>
    have hoper : exec (.operatorCommand r desc) s = .next (operatorCommand o s) := by rw [ho]; exact run_live hl _
    have hargs : o.args = desc := by rw [ho]
    have hpart : o.part = r.part := by rw [ho]
    have hpages : o.pages = r.pages := by rw [ho]
    refine ⟨fun hj => ?_, fun j hj => ⟨fun hok hform => ?_, fun hok hform u hu => ?_, fun hbad => ?_⟩⟩
    · rw [hoper, operatorCommand, hj]
    · rw [hoper, operatorCommand, hj, hargs]
      simp [hok, hform]
    · refine ⟨dispatch o u, hoper.trans ?_, ?_⟩
      · subst hu
        simp only [operatorCommand, hj, hargs, hok, hform, hpart, ne_eq, not_true_eq_false, ↓reduceIte]
      · exact run_live (by rw [hu]; exact hl) _
    · obtain ⟨hcode, hlost⟩ := operCheck_bounds desc
      obtain ⟨v, hended, hv, hfail⟩ := operatorFail_parts hcode hlost r.pages r.part.toNat (completed 0 r.part.toNat (operCheck desc) s)
      have hexec' : exec (.operatorCommand r desc) s = .next (barker 0x0301 1 { status := operCheck desc, part := r.part.toNat } v) := by
        rw [hoper, ← hfail]
        simp only [operatorCommand, hj, hargs, hpart, hpages, hbad, ne_eq, not_false_eq_true, ↓reduceIte]
      have hsn : v.sn = s.sn := hended.only.same .sn (by simp)
      have hnow : v.now = s.now := hended.only.same .now (by simp)
      have hnote := barker_noted_only (sev := 1) (by decide) 0x0301 { status := operCheck desc, part := r.part.toNat } v
      have hlog := barker_log 0x0301 1 (operCheck desc) r.part.toNat v
      rw [hsn, hnow] at hlog
      refine ⟨_, hexec', ?_, ?_, ?_, ?_, ?_, ?_, hlog, fun hnil => ?_, fun pid p q hpage hp hid hout hrel hq => ?_⟩
      · exact (hnote.same .tl (by simp)).trans (hended.only.same .tl (by simp))
      · rw [hnote.same .rm (by simp), hended.rm]
        rfl
      · rw [hnote.same .rm (by simp), hended.rm]
        rfl
      · rw [hnote.same .rm (by simp)]
        exact hended.ready
      · rw [hnote.same .rm (by simp), hended.rm]
        dsimp only [completed]
        rw [Nat.mul_zero, Nat.zero_add, tabGet_tabSet_self]
      · rw [barker_eseq, hsn]
      · have hframe : Only [.rm, .sn] s v := by
          rw [hv, hnil, List.foldl_nil]
          exact (setRm_only _ s).mono (by simp)
        exact hframe.trans (hnote.mono (by simp))
      · rw [hpage, List.foldl_cons, List.foldl_nil] at hv
        obtain ⟨hstage, hitems⟩ := endPage_parts (s := completed 0 r.part.toNat (operCheck desc) s) hcode hlost hp hid hout hrel hq
        rw [← hv] at hstage hitems
        rw [page?_congr (hnote.same .pp (by simp)), queue?_congr (congrArg _ (hnote.same .dq (by simp)))]
        exact ⟨hstage, hitems⟩

end Sys2Proof.Machine
end

section
/-! PROOFS. A failed command after its fourth run (R295, R425): the pages it serves end, and the tables of their sequences go back to staging. -/

namespace Sys2Proof.Machine

/-- A command of job 0 of partition 0 that has run four times for page 0. -/
def spentCommand : TileCmd :=
  { part := 0, slot := 0, queue := none, decoder := none, stage := 2, routine := 0, args := [], pages := [0], runs := 4, arrived := 0, bound := 0,
    ended := false, failed := false, tokBad := false, group := none, req := ⟨63, 0, none, none, 2, 0, [], [0]⟩, stgOut := [] }

/-- A live device whose tile 63 runs that command, and whose page 0 has a sequence that is done; its page table 0 lists page 7. -/
def spent : State :=
  { State.reset with
    pp := { State.reset.pp with pages := [(0, rawPage 0 none)] }
    kv := { State.reset.kv with seqs := [(0, { SeqEntry.init with st := .done })], tabs := [(0, { ents := [(0, 7)], walk := 0, old := false })] }
    tl := { State.reset.tl with tiles := [(63, { Tile.init with cmd := some spentCommand })] } }

/-- The failure blamed on sync token 0. -/
def spentReport : FailReport := { tile := 63, unit := ⟨7, 0⟩, cause := 0, spare := none }

theorem spent_live : Live spent := by decide

/-- The table's slot in staging, written when its last sequence is freed. -/
theorem commandFail_spent_stg0 : Memory.read (commandFail spentReport spent).mem.stg0 (tabAddr 0) = 7 := by decide +kernel

/-- Refutes O51: when the command of `spent` fails after its fourth run its page ends, the page's sequence is freed, and the sequence's table is
written back to its slot in staging. The statement keeps every memory after any failure, also of a command that serves pages. -/
theorem not_failedCommandsAndRemaps : ¬ Obligations.FailedCommandsAndRemaps := by
  intro h
  obtain ⟨hfail, -⟩ := h spent spent_live
  obtain ⟨t, ht, -, -, -, -, -, -, hmem⟩ := hfail spentReport spentCommand { Tile.init with cmd := some spentCommand } 63 rfl rfl rfl rfl rfl
    (by decide) (by decide) rfl rfl rfl rfl rfl rfl rfl (by decide) _ rfl
  have hexec : exec (.commandFail spentReport) spent = .next (commandFail spentReport spent) := run_live spent_live _
  obtain rfl : commandFail spentReport spent = t := Host.Outcome.next.inj (hexec.symm.trans ht)
  have hwritten := commandFail_spent_stg0
  rw [hmem] at hwritten
  exact absurd hwritten (by decide)

end Sys2Proof.Machine
end

section
/-! PROOFS. Scalar and address slots of a tile (R207, R214 to R216, R241): an operation that issues under its predicate, and the values of shifts,
comparisons and WRAP. -/

namespace Sys2Proof.Machine

/-! ### An operation under its predicate -/

section
variable {ok : Bool} {s u : State} {o : Op} {l : Nat} {t : Tile}

/-- An operation that fails the checks, or whose tile does not issue, changes nothing (R210, R213). -/
theorem run_unissued (hl : Live s) (h : ok = false ∨ issues s o = false) (f : Nat → Tile → State → State) : run s (issue ok o f) = .next s := by
  have hno : (ok && issues s o) = false := by rcases h with h | h <;> simp [h]
  rw [run_live hl, issue, hno, if_neg Bool.false_ne_true]

theorem run_scalarOp' (hl : Live s) (h : OpAt ok s o l u t) (hoff : t.off o = false) (f : Nat → Tile → State → State) :
    run s (scalarOp' ok o f) = .next (f l t u) :=
  (run_issue hl h _).trans (congrArg _ (if_neg (by simp [hoff])))

/-- Suppressed, an operation lets its cycles pass, no more (R214). -/
theorem run_scalarOp'_off (hl : Live s) (h : OpAt ok s o l u t) (hoff : t.off o = true) (f : Nat → Tile → State → State) :
    run s (scalarOp' ok o f) = .next u :=
  (run_issue hl h _).trans (congrArg _ (if_pos hoff))

end

/-- The operations of two scalar operands are of one form, with a latency and a function each. -/
theorem scalarOp_eq (n : Nat) (f : BitVec 64 → BitVec 64 → BitVec 64) (o : Op) :
    scalarOp n f o = scalarOp' (o.ok rowScalar) o (fun l t => putS l o n (f (t.readS o.srcA) (t.scalarB o))) := rfl

/-! ### Values -/

/-- From 64 on an arithmetic shift leaves the sign alone (R215). -/
theorem sarValue_eq (a b : BitVec 64) :
    sarValue a b = if 64 ≤ b.toNat % 128 then a.sshiftRight 63 else a.sshiftRight (b.toNat % 128) := by
  rw [sarValue, shamt]
  split
  · rw [Nat.min_eq_left (by omega)]
  · rw [Nat.min_eq_right (by omega)]

/-- Bit `i` of WRAP's result is the sum's among the low bits and the A register's above them (R216). -/
theorem getLsbD_wrapValue (a : BitVec 48) (imm : BitVec 64) (bits i : Nat) :
    (wrapValue a imm bits).getLsbD i = if i < bits then (a + imm.setWidth 48).getLsbD i else a.getLsbD i := by
  have hmask : (BitVec.ofNat 48 (2 ^ bits - 1)).getLsbD i = (decide (i < 48) && decide (i < bits)) := by
    rw [BitVec.getLsbD_ofNat, Nat.testBit_two_pow_sub_one]
  rw [wrapValue, BitVec.getLsbD_or, BitVec.getLsbD_and, BitVec.getLsbD_and, BitVec.getLsbD_not, hmask]
  by_cases hi : i < 48
  · by_cases hb : i < bits <;> simp [hi, hb]
  · simp [BitVec.getLsbD_of_ge _ _ (Nat.le_of_not_lt hi)]

theorem wrapValue_mod (a : BitVec 48) (imm : BitVec 64) (bits : Nat) :
    (wrapValue a imm bits).toNat % 2 ^ bits = (a + imm.setWidth 48).toNat % 2 ^ bits := by
  refine Nat.eq_of_testBit_eq fun i => ?_
  simp only [Nat.testBit_mod_two_pow, BitVec.testBit_toNat, getLsbD_wrapValue]
  by_cases hb : i < bits <;> simp [hb]

/-! ### The statements -/

/-- Settles O29: each row is `scalarOp` with its own function, and a shift by b[6:0] is `sarValue_eq` and its like. -/
theorem scalarArithmetic : Obligations.ScalarArithmetic := by
  intro s o hl
  refine ⟨?issued, fun hno c hc => ?kept⟩
  case issued =>
    rintro l u t a b h rfl rfl c n v hc
    obtain ⟨f, hexec, rfl⟩ : ∃ f, exec c s = run s (scalarOp n f o) ∧ v = f (t.readS o.srcA) (t.scalarB o) := by
      rw [← sarValue_eq] at hc
      simp only [List.mem_cons, Prod.mk.injEq, List.not_mem_nil, or_false] at hc
      obtain ⟨rfl, rfl, rfl⟩ | ⟨rfl, rfl, rfl⟩ | ⟨rfl, rfl, rfl⟩ | ⟨rfl, rfl, rfl⟩ | ⟨rfl, rfl, rfl⟩ | ⟨rfl, rfl, rfl⟩ | ⟨rfl, rfl, rfl⟩ |
        ⟨rfl, rfl, rfl⟩ | ⟨rfl, rfl, rfl⟩ | ⟨rfl, rfl, rfl⟩ | ⟨rfl, rfl, rfl⟩ := hc <;> exact ⟨_, rfl, rfl⟩
    rw [hexec, scalarOp_eq]
    refine ⟨fun hoff hdst => ?lands, fun hnone => ?nothing⟩
    case lands => rw [run_scalarOp' hl h hoff, putS, if_neg hdst]
    case nothing =>
      by_cases hoff : t.off o = true
      · exact run_scalarOp'_off hl h hoff _
      · rw [run_scalarOp' hl h (by simpa using hoff), putS, if_pos (hnone.resolve_left hoff)]
  case kept =>
    obtain ⟨n, f, hexec⟩ : ∃ n f, exec c s = run s (scalarOp n f o) := by
      simp only [List.mem_cons, List.not_mem_nil, or_false] at hc
      obtain rfl | rfl | rfl | rfl | rfl | rfl | rfl | rfl | rfl | rfl | rfl := hc <;> exact ⟨_, _, rfl⟩
    exact hexec.trans (run_unissued hl hno _)

/-- Settles O30: each row is `scalarOp'` with its own value; CMP's conditions are those of `scalarCmp`, WRAP's bits `getLsbD_wrapValue`. -/
theorem scalarMovesAndAddresses : Obligations.ScalarMovesAndAddresses := by
  intro s o l u t hl
  refine ⟨fun h hoff => run_scalarOp' hl h hoff _, fun h hoff n p hp hn => ?cmp, fun h hoff => run_scalarOp' hl h hoff _,
    fun h hoff => ⟨run_scalarOp' hl h hoff _, run_scalarOp' hl h hoff _⟩, fun h hoff => run_scalarOp' hl h hoff _, fun h hoff => ?adda,
    fun h hoff => run_scalarOp' hl h hoff _, fun h hoff => run_scalarOp' hl h hoff _, fun h hoff => ?wrap⟩
  case cmp =>
    have hcond : scalarCmp (o.fieldOf 1 4) (t.readS o.srcA) (t.scalarB o) = true ↔ p := by
      simp only [List.mem_cons, Prod.mk.injEq, List.not_mem_nil, or_false] at hp
      rw [hn]
      obtain ⟨rfl, rfl⟩ | ⟨rfl, rfl⟩ | ⟨rfl, rfl⟩ | ⟨rfl, rfl⟩ | ⟨rfl, rfl⟩ | ⟨rfl, rfl⟩ | ⟨rfl, rfl⟩ | ⟨rfl, rfl⟩ := hp <;> simp [scalarCmp]
    have hexec : exec (.cmp o) s = .next (putP l o 1 (if scalarCmp (o.fieldOf 1 4) (t.readS o.srcA) (t.scalarB o) then ~~~ 0 else 0) u) :=
      run_scalarOp' hl h hoff _
    exact ⟨fun h1 => by rw [hexec, if_pos (hcond.2 h1)], fun h0 => by rw [hexec, if_neg (mt hcond.1 h0)]⟩
  case adda =>
    have hexec : exec (.adda o) s = .next (putA l o 1 (t.readA o.srcA + t.addrB o) u) := run_scalarOp' hl h hoff _
    refine ⟨fun hi => ?_, fun hi hs => ?_, fun hi ha => ?_⟩
    · rw [hexec, Tile.addrB, if_pos hi]
    · rw [hexec, Tile.addrB, if_neg (by simp [hi]), if_pos hs]
    · rw [hexec, Tile.addrB, if_neg (by simp [hi]), if_neg (by omega)]
  case wrap =>
    refine ⟨_, run_scalarOp' hl h hoff _, fun i hi => ?_, wrapValue_mod _ _ _⟩
    rw [getLsbD_wrapValue, if_neg (by omega)]

end Sys2Proof.Machine
end

section
/-! PROOFS. Vector slots of two and three operands (R214, R217, R256): the lanes of their results. -/

namespace Sys2Proof.Machine

theorem getElem_lanes2 (f : BitVec 32 → BitVec 32 → BitVec 32) (a b : Lanes) (k : Fin 64) : (lanes2 f a b)[k] = f a[k] b[k] := by
  simp [lanes2]

theorem getElem_lshLanes (v : Lanes) (n : Int) (k : Fin 64) :
    (lshLanes v n)[k] = if 0 ≤ (k.val : Int) + n ∧ (k.val : Int) + n < 64 then nth v.toList ((k.val : Int) + n).toNat 0 else 0 := by
  rw [lshLanes, Fin.getElem_fin, Vector.getElem_ofFn]

/-- The bits of a number that a list of lanes sets one by one. -/
theorem testBit_sumOfBits (p : Nat → Bool) (n k : Nat) :
    ((List.range n).foldl (fun (m : Nat) k => if p k then m + 2 ^ k else m) 0).testBit k = (decide (k < n) && p k) := by
  suffices h : ∀ m, m = (List.range n).foldl (fun (m : Nat) k => if p k then m + 2 ^ k else m) 0 →
      m < 2 ^ n ∧ m.testBit k = (decide (k < n) && p k) from (h _ rfl).2
  induction n with
  | zero => rintro _ rfl; simp
  | succ n ih =>
    obtain ⟨hlt, hbit⟩ := ih _ rfl
    rintro _ rfl
    rw [List.range_succ, List.foldl_append, List.foldl_cons, List.foldl_nil]
    generalize (List.range n).foldl (fun (m : Nat) k => if p k then m + 2 ^ k else m) 0 = m at hlt hbit
    have hnext : (if p n then m + 2 ^ n else m) = 2 ^ n * (p n).toNat + m := by cases p n <;> simp [Nat.add_comm]
    refine ⟨?_, ?_⟩
    · rw [Nat.pow_succ]
      split <;> omega
    · rw [hnext, Nat.testBit_two_pow_mul_add _ hlt]
      by_cases hk : k < n
      · simp [hk, hbit, Nat.lt_succ_of_lt hk]
      · obtain ⟨d, rfl⟩ := Nat.exists_eq_add_of_le (Nat.le_of_not_lt hk)
        rw [if_neg hk, Nat.add_sub_cancel_left, Nat.testBit_bool_toNat]
        cases d <;> simp

/-- Settles O31: each row puts one vector, whose lanes its own expression gives; the bits of FCMP are `testBit_sumOfBits`. -/
theorem vectorLanes : Obligations.VectorLanes := by
  rintro s o l u t a b hl rfl rfl
  refine ⟨fun h => ⟨fun c n f hc => ?two, ?perm⟩, fun h => ?fma, fun h => ?vsh, fun h => ?vsel, fun h => ?lsh, fun h hoff => ?fcmp,
    fun h hoff => (run_issue hl h _).trans (congrArg _ (if_pos hoff))⟩
  case two =>
    have hexec : exec c s = run s (vectorOp n f o) := by
      simp only [List.mem_cons, Prod.mk.injEq, List.not_mem_nil, or_false] at hc
      obtain ⟨rfl, rfl, rfl⟩ | ⟨rfl, rfl, rfl⟩ | ⟨rfl, rfl, rfl⟩ | ⟨rfl, rfl, rfl⟩ | ⟨rfl, rfl, rfl⟩ | ⟨rfl, rfl, rfl⟩ | ⟨rfl, rfl, rfl⟩ |
        ⟨rfl, rfl, rfl⟩ | ⟨rfl, rfl, rfl⟩ | ⟨rfl, rfl, rfl⟩ := hc <;> rfl
    exact ⟨_, hexec.trans (run_issue hl h _), fun k => getElem_lanes2 ..⟩
  case perm =>
    refine ⟨_, run_issue hl h _, fun k j hj => ?_⟩
    rw [Fin.getElem_fin, Vector.getElem_ofFn]
    exact (congrArg (nth _ · 0) hj.symm).trans (nth_lane _ j)
  case fma =>
    refine ⟨_, run_issue hl h _, fun k => ?_⟩
    rw [Fin.getElem_fin, Vector.getElem_ofFn]
  case vsh =>
    refine ⟨_, run_issue hl h _, fun k => ⟨fun hm => ?_, fun hm => ?_, fun hm => ?_⟩⟩ <;> rw [getElem_lanes2, hm] <;> rfl
  case vsel =>
    refine ⟨_, run_issue hl h _, fun k => ?_⟩
    rw [blend, Fin.getElem_fin, Vector.getElem_ofFn]
  case lsh =>
    refine ⟨_, run_issue hl h _, fun k j hj => ?_, fun k hk => ?_⟩
    · rw [getElem_lshLanes, if_pos (by omega), ← hj, Int.toNat_natCast, nth_lane]
    · rw [getElem_lshLanes, if_neg (by omega)]
  case fcmp =>
    refine ⟨_, (run_issue hl h _).trans (congrArg _ (if_neg (by simp [hoff]))), fun k => ?_⟩
    rw [BitVec.getLsbD_ofNat, testBit_sumOfBits, nth_lane, nth_lane]
    simp [k.isLt]

end Sys2Proof.Machine
end

section
/-! PROOFS. The control slot of a tile (R226 to R229). -/

namespace Sys2Proof.Machine

section
variable {l : Nat} {t : Tile} {o : Op} {s : State}

/-- LOOP schedules its counter less one (R228). -/
def loopCounted (l : Nat) (t : Tile) (o : Op) (s : State) : State := lands l o 1 (.sreg o.srcA.toNat (t.readS o.srcA - 1)) s

/-- LOOP branches and counts the branch (R228). -/
theorem loopOp_branches (ha : o.srcA ≠ 0xFF) (hc : t.readS o.srcA - 1 ≠ 0) (hn : tabGet t.loops t.pc 0 < o.imm.toNat / 65536 % 65536) :
    loopOp l t o s = modTile l (fun x => { x with jump := some (o.imm.toNat % 1024), loops := tabSet x.loops x.pc (tabGet t.loops t.pc 0 + 1) })
      (loopCounted l t o s) := by
  simp only [loopOp, if_neg ha]
  exact if_pos ⟨hc, hn⟩

/-- The count of a LOOP that does not branch starts again (R228). -/
def loopLeft (l : Nat) (t : Tile) (o : Op) (s : State) : State :=
  modTile l (fun x => { x with loops := tabDel x.loops x.pc }) (loopCounted l t o s)

theorem loopOp_ends (ha : o.srcA ≠ 0xFF) (hc : t.readS o.srcA - 1 = 0) : loopOp l t o s = loopLeft l t o s := by
  simp only [loopOp, if_neg ha]
  rw [if_neg (fun h => h.1 hc), if_neg (not_not_intro hc)]
  rfl

/-- A LOOP at its bound is clamped: counted with its tile, and logged (R228). -/
theorem loopOp_clamps (ha : o.srcA ≠ 0xFF) (hc : t.readS o.srcA - 1 ≠ 0) (hn : o.imm.toNat / 65536 % 65536 ≤ tabGet t.loops t.pc 0) :
    loopOp l t o s = barker 0x0303 1
      { part := (t.cmd.map (·.part)).getD 0, uclass := 0x01, unit := l, detail := o.imm.toNat / 65536 % 65536 }
      { loopLeft l t o s with tl := { (loopLeft l t o s).tl with clamp := satAdd (loopLeft l t o s).tl.clamp 1, clampAt := l } } := by
  simp only [loopOp, if_neg ha]
  rw [if_neg (by omega), if_pos hc]
  rfl

theorem loopLeft_step : TileStep l s (loopLeft l t o s) := (lands_step ..).trans (modTile_step ..)

theorem tile_loopLeft : tile (loopLeft l t o s) l = { tile s l with
    loops := tabDel (tile s l).loops (tile s l).pc
    land := insLand ⟨(tile s l).cyc + 1, (tile s l).cyc, o.slot.toNat, .sreg o.srcA.toNat (t.readS o.srcA - 1)⟩ (tile s l).land } := by
  rw [loopLeft, loopCounted, tile_modTile_self, tile_lands]

end

/-- Settles O37: J and END are one write of their tile, and LOOP has the three outcomes of `loopOp_branches`, `loopOp_ends` and `loopOp_clamps`. -/
theorem controlFlow : Obligations.ControlFlow := by
  intro s o l u t hl
  refine ⟨fun h hoff => (run_issue hl h _).trans (congrArg _ (if_neg (by simp [hoff]))), fun h hoff ha c n bound hc hn hb => ?loop,
    fun h hoff c hc => ?done, fun hoff => ?off⟩
  case loop =>
    subst hc hn hb
    have hexec : exec (.tileLoop o) s = .next (loopOp l t o u) := (run_issue hl h _).trans (congrArg _ (if_neg (by simp [hoff])))
    have htile := h.tile_eq
    refine ⟨fun hc hn => ⟨_, hexec, ?branches⟩, fun hc => ⟨_, hexec, ?ends⟩, fun hc hn => ⟨_, hexec, ?clamps⟩⟩
    case branches =>
      have hstep : TileStep l u (loopOp l t o u) := loopOp_branches ha hc hn ▸ (lands_step ..).trans (modTile_step ..)
      refine ⟨?_, ?_, ?_, hstep.tl, hstep.only⟩ <;> rw [loopOp_branches ha hc hn, tile_modTile_self, loopCounted, tile_lands, htile]
    case ends =>
      rw [loopOp_ends ha hc]
      refine ⟨?_, ?_, ?_, loopLeft_step.tl, loopLeft_step.only⟩ <;> rw [tile_loopLeft, htile]
    case clamps =>
      have hleft : TileStep l u (loopLeft l t o u) := loopLeft_step
      have hclamp := loopOp_clamps (l := l) (s := u) ha hc hn
      have htl : (loopOp l t o u).tl = { (loopLeft l t o u).tl with clamp := satAdd u.tl.clamp 1, clampAt := l } := by
        rw [hclamp, barker_tl, hleft.tl]
      have honly : Only [.tl, .sn] u (loopOp l t o u) := by
        rw [hclamp]
        exact ((hleft.only.trans (setTl_only _ _)).mono (by simp)).trans ((barker_noted_only (by decide) _ _ _).mono (by simp))
      refine ⟨?_, ?_, by rw [htl], by rw [htl], ?_, honly.same .mem (by simp), honly⟩
      · rw [tile_congr (s := loopLeft l t o u) (by rw [htl]), tile_loopLeft, htile]
      · rw [tile_congr (s := loopLeft l t o u) (by rw [htl]), tile_loopLeft, htile]
      · rw [hclamp, barker_eseq]
        exact congrArg (· + 1) (congrArg Safety.eseq (hleft.only.same .sn (by simp)))
  case done =>
    refine (run_issue hl h _).trans (congrArg _ ((if_neg (by simp [hoff])).trans ?_))
    rw [hc]
    rfl
  case off =>
    exact ⟨fun h => (run_issue hl h _).trans (congrArg _ (if_pos hoff)), fun h => (run_issue hl h _).trans (congrArg _ (if_pos hoff)),
      fun h => (run_issue hl h _).trans (congrArg _ (if_pos hoff))⟩

end Sys2Proof.Machine
end

section
/-! PROOFS. A commit whose report does not fit its command (R365, R413): it changes nothing, also for a member of a chain. -/

namespace Sys2Proof.Machine

theorem commandCommit_unfit {l : Nat} {c : TileCmd} {out : StageOut} {s : State} (hc : (tile s l).cmd = some c) (h : outFits c out = false) :
    commandCommit l out s = s := by
  simp [commandCommit, hc, h]

/-- A structuring command of chain 0 on tile 63 that has ended; it serves page 0. -/
def endedMember : TileCmd :=
  { part := 0, slot := 0, queue := none, decoder := none, stage := 5, routine := 0, args := [], pages := [0], runs := 1, arrived := 0, bound := 0,
    ended := true, failed := false, tokBad := false, group := some 0, req := ⟨63, 0, none, none, 5, 0, [], [0]⟩, stgOut := [] }

/-- A chain from tile 63 to tile 62. -/
def memberChain : ChainRoute := { part := 0, cls := 0, prod := 63, cons := 62, inTok := 1, freeTok := 2, ringB := 0, kh := 1 }

/-- A live device with that chain, whose tile 63 has ended that command. -/
def misreported : State :=
  { State.reset with
    si := { State.reset.si with conf := { ImgConf.none with chains := [memberChain] } }
    tl := { State.reset.tl with tiles := [(63, { Tile.init with cmd := some endedMember })] } }

theorem misreported_live : Live misreported := by decide

/-- Refutes O40: the structuring command of `misreported`, a member of a chain that is not its consumer, reports a stripe of the intake. Such a report does
not fit it, so nothing is committed (`commandCommit_unfit`) and the command stays on its tile. The clause on members of a chain, which frees the tile,
leaves out that the report fits. -/
theorem not_commandCommits : ¬ Obligations.CommandCommits := by
  intro h
  obtain ⟨-, hcommand⟩ := h misreported 63 (.intakeStripe 0) misreported_live
  obtain ⟨-, hcommit⟩ := hcommand endedMember { Tile.init with cmd := some endedMember } rfl rfl
  obtain ⟨-, hmember⟩ := hcommit rfl rfl rfl rfl rfl rfl rfl (fun _ he => by cases he) (by simp [misreported, Tile.init]) rfl rfl rfl
  obtain ⟨t, ht, hfree, -⟩ := hmember 0 memberChain rfl rfl (by decide) rfl
  have hexec : exec (.commandCommit 63 (.intakeStripe 0)) misreported = .next misreported :=
    (run_live misreported_live _).trans (congrArg _ (commandCommit_unfit (c := endedMember) rfl rfl))
  obtain rfl : misreported = t := Host.Outcome.next.inj (hexec.symm.trans ht)
  cases hfree

end Sys2Proof.Machine
end

section
/-! PROOFS. A scrub step of the combining buffer that finds an uncorrectable word (R45, R424): the entry is dropped, and the queue that owns its
addresses faults. -/

namespace Sys2Proof.Machine

/-- A live device whose combining buffer holds an entry for the first block of the staged window. The address belongs to queue 7, which is open. Line 0
of the buffer holds an uncorrectable word, and the scrub of aperture and combining buffer has come to that line. -/
def struckEntry : State :=
  { State.reset with
    hp := { State.reset.hp with comb := [{ block := 0x8000, slot := 0, bytes := [], units := 1 }], ext := [(0, 0x0007800002000200)] }
    dq := { State.reset.dq with queues := [(7, rawQueue)] }
    dm := { State.reset.dm with damage := [⟨.combining, 0, 0, true⟩], scrub := [(4, 131072)] } }

theorem struckEntry_live : Live struckEntry := by decide

theorem struckEntry_open : qstate struckEntry 7 = .opened := by decide

/-- The loss of the entry faults the queue. -/
theorem struckEntry_faults : qstate (scrubStep .combining [] struckEntry) 7 = .creditViol := by decide +kernel

/-- Refutes O47: the scrub step of `struckEntry` finds an uncorrectable word in an entry of the combining buffer and drops it whole (R424), which is a fault
of the queue that owns the address: queue 7 goes from OPEN to CREDIT_VIOL. The statement keeps the queues at every scrub step. -/
theorem not_calendarAndScrub : ¬ Obligations.CalendarAndScrub := by
  intro h
  obtain ⟨-, -, -, -, -, -, hscrub, -⟩ := h struckEntry struckEntry_live
  obtain ⟨-, hstep⟩ := hscrub .combining 131072 (by decide)
  obtain ⟨t, ht, -, -, -, -, -, -, honly⟩ := hstep (by decide) (by decide)
  have hexec : exec (.scrubStep .combining []) struckEntry = .next (scrubStep .combining [] struckEntry) := run_live struckEntry_live _
  obtain rfl : scrubStep .combining [] struckEntry = t := Host.Outcome.next.inj (hexec.symm.trans ht)
  have hdq : (scrubStep .combining [] struckEntry).dq = struckEntry.dq := honly.same .dq (by decide)
  have hkept : qstate (scrubStep .combining [] struckEntry) 7 = qstate struckEntry 7 := qstate_congr (by rw [queue?, hdq, queue?])
  rw [struckEntry_faults, struckEntry_open] at hkept
  cases hkept

end Sys2Proof.Machine
end

section
/-! PROOFS. A grant of a preparation pair where the page table lists the page that waits under a number beyond 32 bits (R13, R384): the table's keys are
naturals, and two of them that differ by 2 ^ 32 are one page id. -/

namespace Sys2Proof.Machine

theorem exec_grantPair {s : State} (hl : Live s) {e : BitVec 4} (he : e.toNat < 4) :
    exec (.sharedEngineGrant e) s = .next (grantPair e.toNat s) :=
  (run_live hl _).trans (congrArg _ (if_pos he))

/-- A live device with one partition, whose page table lists page 1, which waits for a preparation pair, under 2 ^ 32 + 1. -/
def wrappedKey : State :=
  { misfiled with pp := { misfiled.pp with pages := [(2 ^ 32 + 1, rawPage 1 none)] } }

theorem wrappedKey_live : Live wrappedKey := by decide

/-- Taken as a page id the key is the page's own id. -/
theorem wrappedKey_ids : ∀ y ∈ wrappedKey.pp.pages, y.2.id = (y.1 : BitVec 32) := by decide

theorem wrappedKey_pairless : pairless wrappedKey = [rawPage 1 none] := rfl

/-- The cycle of pair 0 picks partition 0, whose page waits. -/
theorem wrappedKey_picks : grantPick wrappedKey 0 ((pairless wrappedKey).map (·.part)) = some (0, { engine wrappedKey 0 with pos := 1 }) := by
  decide +kernel

/-- Page 1 cannot be found under its number, so the pair's grant leaves it as it stands. -/
theorem wrappedKey_missed : page? (grantPair 0 wrappedKey) 1 = none := by decide +kernel

/-- Refutes O42: in `wrappedKey` pair 0 picks the partition of page 1, which stands under 2 ^ 32 + 1, and the grant does not find it under 1. The statement
asks that each page's id is its key cast to 32 bits, which holds here; that the page takes the pair would need the key to be the id's value (`Filed`). -/
theorem not_countsAndGrants : ¬ Obligations.CountsAndGrants := by
  intro h
  obtain ⟨-, -, -, hgrant, -⟩ := h wrappedKey wrappedKey_live
  obtain ⟨-, hpair, -⟩ := hgrant 0
  obtain ⟨t, ht, -, -, ⟨o, ho, -, htaken, -⟩, -⟩ :=
    hpair _ _ (by decide) (by decide) wrappedKey_picks wrappedKey_ids (List.pairwise_singleton _ _)
  obtain rfl : grantPair 0 wrappedKey = t := Host.Outcome.next.inj ((exec_grantPair wrappedKey_live (e := 0) (by decide)).symm.trans ht)
  obtain rfl : o = rawPage 1 none := List.mem_singleton.1 (wrappedKey_pairless ▸ ho)
  rw [show (rawPage 1 none).id = 1 from rfl, wrappedKey_missed] at htaken
  cases htaken

end Sys2Proof.Machine
end

section
/-! PROOFS. Codec and hauler commands (R384, R385): which command an idle engine takes, and what is left when a command is over. -/

namespace Sys2Proof.Machine

/-! ### Grants -/

/-- The command waits for an engine that can run it, and no load writes its partition (R367, R384). -/
def engineMayTake (s : State) (e : Nat) (c : EngineCmd) : Bool := c.engine.isNone && c.fits e && !(applying s c.part)

/-- A command apart from the engine that runs it. -/
def EngineCmd.ungranted (c : EngineCmd) : EngineCmd := { c with engine := none }

/-- After grants the same commands stand in the same order, and what ran runs on. -/
structure Granted (s t : State) : Prop where
  commands : t.dm.cmds.map EngineCmd.ungranted = s.dm.cmds.map EngineCmd.ungranted
  running : ∀ c ∈ s.dm.cmds, c.engine.isSome = true → c ∈ t.dm.cmds
  dm : t.dm = { s.dm with cmds := t.dm.cmds }

section
variable {s t u : State} {e : Nat}

theorem Granted.refl (s : State) : Granted s s := ⟨rfl, fun _ h _ => h, rfl⟩

theorem Granted.trans (h : Granted s t) (k : Granted t u) : Granted s u where
  commands := k.commands.trans h.commands
  running := fun c hc hr => k.running c (h.running c hc hr) hr
  dm := k.dm.trans (by rw [h.dm])

theorem Granted.length (h : Granted s t) : t.dm.cmds.length = s.dm.cmds.length := by
  simpa using congrArg List.length h.commands

/-- The state after engine `e`, now `x`, takes the oldest command of partition `p` that it may take. -/
def takeOldest (e p : Nat) (x : Engine) (s : State) : State :=
  setEngine e x { s with dm := { s.dm with
    cmds := s.dm.cmds.modify (s.dm.cmds.findIdx (fun c => engineMayTake s e c && c.part == p)) (fun c => { c with engine := some e }) } }

theorem engineMayTake_running {c : EngineCmd} (h : c.engine.isSome = true) : engineMayTake s e c = false := by
  simp [engineMayTake, Option.isSome_iff_ne_none.1 h]

theorem grantCmd_busy {c : EngineCmd} (hc : c ∈ s.dm.cmds) (h : c.engine = some e) : grantCmd e s = s :=
  if_pos (List.any_eq_true.2 ⟨c, hc, by simp [h]⟩)

/-- An idle engine takes what its cycle picks, if it picks (R384). -/
theorem grantCmd_idle (h : ∀ c ∈ s.dm.cmds, c.engine ≠ some e) :
    grantCmd e s = match grantPick s e ((s.dm.cmds.filter (engineMayTake s e)).map (·.part)) with
      | none => s
      | some (p, x) => takeOldest e p x s := by
  have hidle : ¬ s.dm.cmds.any (fun c => c.engine == some e) = true := by simpa using h
  rw [grantCmd, if_neg hidle]
  rfl

/-- The command that a grant turns into a running one did not run. -/
theorem takeOldest_granted (e p : Nat) (x : Engine) (s : State) : Granted s (takeOldest e p x s) where
  commands := by
    refine List.ext_getElem? fun i => ?_
    simp only [takeOldest, setEngine_dm, List.getElem?_map, List.getElem?_modify]
    cases s.dm.cmds[i]? with
    | none => rfl
    | some c => dsimp only [Option.map_eq_map, Option.map_some]; split <;> rfl
  running := fun c hc hr => by
    obtain ⟨i, hi, rfl⟩ := List.mem_iff_getElem.1 hc
    have hne : s.dm.cmds.findIdx (fun c => engineMayTake s e c && c.part == p) ≠ i := by
      intro heq
      simpa [engineMayTake_running hr] using ((List.findIdx_eq hi).1 heq).1
    refine List.mem_iff_getElem?.2 ⟨i, ?_⟩
    simp only [takeOldest, setEngine_dm, List.getElem?_modify, hne, ↓reduceIte, List.getElem?_eq_getElem hi]
    rfl
  dm := rfl

theorem grantCmd_granted (e : Nat) (s : State) : Granted s (grantCmd e s) := by
  by_cases hidle : ∀ c ∈ s.dm.cmds, c.engine ≠ some e
  · rw [grantCmd_idle hidle]
    split
    · exact .refl s
    · exact takeOldest_granted _ _ _ s
  · push Not at hidle
    obtain ⟨c, hc, hrun⟩ := hidle
    rw [grantCmd_busy hc hrun]
    exact .refl s

theorem foldl_grantCmd_granted (es : List Nat) (s : State) : Granted s (es.foldl (fun s e => grantCmd e s) s) :=
  List.foldlRecOn (motive := Granted s) _ _ (.refl s) fun _ h e _ => h.trans (grantCmd_granted e _)

theorem grantCmds_granted (s : State) : Granted s (grantCmds s) := foldl_grantCmd_granted _ s

/-- The one partition with a waiting command is picked, if it has a share (R384). -/
theorem grantPick_sole {p : Nat} {pd : PartDef} (hp : p < 16) (hpd : part? s p = some pd) (hshare : pd.share ≠ 0) (e : Nat) :
    ∃ x, grantPick s e [p] = some (p, x) := by
  set may := fun q => [p].contains q && decide (((part? s q).map (·.share)).getD 0 ≠ 0) with hmay
  have hsole (q : Nat) (h : may q = true) : q = p := by simp only [hmay, Bool.and_eq_true] at h; simpa using h.1
  have hmayp : may p = true := by simp [hmay, hpd, hshare]
  unfold grantPick
  dsimp only
  simp only [← hmay]
  split
  next q hq =>
    obtain ⟨o, -, ho⟩ := Option.bind_eq_some_iff.1 hq
    by_cases hq' : may o = true
    · rw [if_pos hq', Option.some.injEq] at ho
      exact ⟨_, by rw [← ho, hsole o hq']⟩
    · rw [if_neg hq'] at ho
      cases ho
  next =>
    have hturn : p ∈ (List.range 16).map (fun i => ((engine s e).lastRr + 1 + i) % 16) :=
      List.mem_map.2 ⟨(p + 16 - ((engine s e).lastRr + 1) % 16) % 16, List.mem_range.2 (by omega), by omega⟩
    cases hfind : ((List.range 16).map (fun i => ((engine s e).lastRr + 1 + i) % 16)).find? may with
    | none => exact absurd hmayp (by simpa using List.find?_eq_none.1 hfind p hturn)
    | some q => exact ⟨_, by rw [hsole q (List.find?_some hfind)]⟩

section
variable {l : List EngineCmd} {n : EngineCmd} {pd : PartDef} (hcmds : s.dm.cmds = l ++ [n]) (hl : ∀ c ∈ l, c.engine.isSome = true)
  (hn : n.engine = none) (hpd : part? s n.part = some pd) (hshare : pd.share ≠ 0) (hp : n.part < 16) (happ : applying s n.part = false)
include hcmds hl

theorem filter_engineMayTake : s.dm.cmds.filter (engineMayTake s e) = if engineMayTake s e n = true then [n] else [] := by
  have hrest : l.filter (engineMayTake s e) = [] :=
    List.filter_eq_nil_iff.2 fun c hc => by simp [engineMayTake_running (hl c hc)]
  rw [hcmds, List.filter_append, hrest, List.nil_append, List.filter_singleton]
  cases engineMayTake s e n <;> rfl

theorem grantCmd_passes (h : ¬ (n.fits e = true ∧ ∀ c ∈ l, c.engine ≠ some e)) : grantCmd e s = s := by
  by_cases hidle : ∀ c ∈ s.dm.cmds, c.engine ≠ some e
  · have hfit : n.fits e ≠ true := fun hf => h ⟨hf, fun c hc => hidle c (by rw [hcmds]; simp [hc])⟩
    rw [grantCmd_idle hidle, filter_engineMayTake hcmds hl, if_neg (by simp [engineMayTake, hfit]), List.map_nil, grantPick_nil]
  · push Not at hidle
    obtain ⟨c, hc, hrun⟩ := hidle
    exact grantCmd_busy hc hrun

include hn hpd hshare hp happ

/-- The one command that waits is taken by an idle engine of its depot (R384). -/
theorem grantCmd_takes (hfit : n.fits e = true) (hidle : ∀ c ∈ l, c.engine ≠ some e) :
    { n with engine := some e } ∈ (grantCmd e s).dm.cmds := by
  have hmay : engineMayTake s e n = true := by simp [engineMayTake, hn, hfit, happ]
  obtain ⟨x, hx⟩ := grantPick_sole hp hpd hshare e
  have hall : ∀ c ∈ s.dm.cmds, c.engine ≠ some e := by
    rw [hcmds]
    simpa [or_imp, forall_and, hn] using hidle
  have hat : s.dm.cmds.findIdx (fun c => engineMayTake s e c && c.part == n.part) = l.length := by
    rw [hcmds, List.findIdx_append, List.findIdx_eq_length_of_false, if_neg (lt_irrefl _)]
    · simp [hmay]
    · exact fun c hc => by simp [engineMayTake_running (hl c hc)]
  rw [grantCmd_idle hall, filter_engineMayTake hcmds hl, if_pos hmay, List.map_singleton, hx]
  refine List.mem_iff_getElem?.2 ⟨l.length, ?_⟩
  dsimp only [takeOldest, setEngine_dm]
  rw [hat]
  simp [hcmds]

/-- The one command that waits runs, once every engine in turn has been granted and one that fits it was idle (R385). -/
theorem foldl_grantCmd_takes {es : List Nat} (hes : ∃ e ∈ es, n.fits e = true ∧ ∀ c ∈ l, c.engine ≠ some e) :
    ∃ e, n.fits e = true ∧ { n with engine := some e } ∈ (es.foldl (fun s e => grantCmd e s) s).dm.cmds := by
  induction es with
  | nil => simp at hes
  | cons a es ih =>
    rw [List.foldl_cons]
    by_cases ha : n.fits a = true ∧ ∀ c ∈ l, c.engine ≠ some a
    · exact ⟨a, ha.1, (foldl_grantCmd_granted es _).running _ (grantCmd_takes hcmds hl hn hpd hshare hp happ ha.1 ha.2) rfl⟩
    · rw [grantCmd_passes hcmds hl ha]
      refine ih ?_
      obtain ⟨e, he, hfree⟩ := hes
      rcases List.mem_cons.1 he with rfl | he
      · exact absurd hfree ha
      · exact ⟨e, he, hfree⟩

end

/-! ### A command is taken -/

/-- The state with other codec and hauler commands. -/
def setCmds (cs : List EngineCmd) (s : State) : State := { s with dm := { s.dm with cmds := cs } }

theorem setCmds_only (cs : List EngineCmd) (s : State) : Only [.dm] s (setCmds cs s) := fun p => by cases p <;> simp [Part.same, setCmds]

theorem addCmd_eq (n : EngineCmd) (s : State) : addCmd n s = grantCmds (setCmds (s.dm.cmds ++ [n]) s) := rfl

theorem engineFree_eq (x : EngineCmd) (s : State) : engineFree x s = startAttends (grantCmds (setCmds (s.dm.cmds.erase x) s)) := rfl

/-- A command in order joins the others behind them (R384). -/
theorem addCmd_parts (n : EngineCmd) (s : State) :
    (addCmd n s).dm.cmds.map EngineCmd.ungranted = (s.dm.cmds ++ [n]).map EngineCmd.ungranted ∧
      (∀ c ∈ s.dm.cmds, c.engine.isSome = true → c ∈ (addCmd n s).dm.cmds) ∧ Only [.dm, .rm] s (addCmd n s) := by
  have hgrant := grantCmds_granted (setCmds (s.dm.cmds ++ [n]) s)
  have honly := grantCmds_only (setCmds (s.dm.cmds ++ [n]) s)
  rw [addCmd_eq]
  exact ⟨hgrant.commands, fun c hc hr => hgrant.running c (List.mem_append_left _ hc) hr,
    ((setCmds_only _ s).mono (by simp)).trans (honly.mono (by simp))⟩

/-- It starts at once on an idle engine of its depot, when none waits before it (R385). -/
theorem addCmd_starts {n : EngineCmd} {pd : PartDef} (hn : n.engine = none) (hp : n.part < 16) (hpd : part? s n.part = some pd)
    (hshare : pd.share ≠ 0) (happ : applying s n.part = false) (hruns : ∀ c ∈ s.dm.cmds, c.engine.isSome = true)
    (hfree : ∃ e, e < 16 ∧ 6 ≤ e ∧ n.fits e = true ∧ ∀ c ∈ s.dm.cmds, c.engine ≠ some e) :
    ∃ e, n.fits e = true ∧ { n with engine := some e } ∈ (addCmd n s).dm.cmds := by
  obtain ⟨e, hhi, hlo, hfit, hidle⟩ := hfree
  rw [addCmd_eq, grantCmds]
  exact foldl_grantCmd_takes (s := setCmds (s.dm.cmds ++ [n]) s) rfl hruns hn hpd hshare hp happ
    ⟨e, List.mem_map.2 ⟨e - 6, List.mem_range.2 (by omega), by omega⟩, hfit, hidle⟩

/-! ### A command is over -/

/-- What the end of an engine command leaves: it alone is gone, and engines and walkers may have gone on to others (R304, R384). -/
structure CmdOver (s t : State) : Prop where
  dm : t.dm = { s.dm with cmds := t.dm.cmds }
  length : t.dm.cmds.length + 1 = s.dm.cmds.length
  only : Only [.dm, .rm, .tl, .sn, .kv] s t

theorem CmdOver.mem (h : CmdOver s t) : t.mem = s.mem := h.only.same .mem (by simp)

theorem startBlock_only (depot : Nat) (s : State) : Only [.kv, .rm] s (startBlock depot s) := by
  unfold startBlock
  dsimp only
  split
  · exact .refl _ s
  · split
    · exact .refl _ s
    · split
      · exact .refl _ s
      · exact fun p => by cases p <;> simp [Part.same, putAttend]

/-- Where every attend has blocks left none commits at once: walkers take blocks, no more. -/
theorem startAttends_only (h : ∀ a ∈ s.kv.attends, a.left ≠ (0, 0)) : Only [.kv, .rm] s (startAttends s) := by
  have hnone : s.kv.attends.filter (fun a => a.left == (0, 0) && !(attHeld s a)) = [] :=
    List.filter_eq_nil_iff.2 fun a ha => by simp [h a ha]
  simp only [startAttends, hnone, List.foldl_nil]
  exact (startBlock_only 0 s).trans (startBlock_only 1 _)

theorem landPost_only (who : BitVec 16) (n k : Nat) (s : State) : Only [.tl, .sn] s (landPost who n k s) := by
  unfold landPost
  dsimp only
  split
  · exact (((setTok_only _ _ s).trans (setTl_only _ _)).mono (by simp)).trans ((barker_noted_only (sev := 1) (by decide) _ _ _).mono (by simp))
  · exact (setTok_only _ _ s).mono (by simp)

theorem enginePost_only (w : Word) (s : State) : Only [.tl, .sn] s (enginePost w s) := by
  unfold enginePost post
  exact .ite (.ite ((setTl_only _ s).mono (by simp)) (landPost_only _ _ _ s)) (.refl _ s)

theorem completed_only (kind part code : Nat) (s : State) : Only [.rm] s (completed kind part code s) := setRm_only _ s

section
variable {x : EngineCmd} (hx : x ∈ s.dm.cmds) (hatt : ∀ a ∈ s.kv.attends, a.left ≠ (0, 0))
include hatt

/-- What starts when an engine is free: grants of the commands that are left, and blocks of attends. -/
theorem engineFree_parts (x : EngineCmd) : Granted (setCmds (s.dm.cmds.erase x) s) (engineFree x s) ∧ Only [.dm, .rm, .kv] s (engineFree x s) := by
  have hgrant := grantCmds_granted (setCmds (s.dm.cmds.erase x) s)
  have honly := grantCmds_only (setCmds (s.dm.cmds.erase x) s)
  rw [engineFree_eq]
  generalize grantCmds (setCmds (s.dm.cmds.erase x) s) = u at hgrant honly
  have hkv : u.kv = s.kv := honly.same .kv (by simp)
  have hstart := startAttends_only (s := u) (by rwa [hkv])
  have hdm : (startAttends u).dm = u.dm := hstart.same .dm (by simp)
  exact ⟨⟨by rw [hdm, hgrant.commands], by rw [hdm]; exact hgrant.running, by rw [hdm]; exact hgrant.dm⟩,
    (((setCmds_only _ s).mono (by simp)).trans (honly.mono (by simp))).trans (hstart.mono (by simp))⟩

include hx

theorem engineFree_over : CmdOver s (engineFree x s) := by
  obtain ⟨hgrant, honly⟩ := engineFree_parts hatt x
  have hlen : (engineFree x s).dm.cmds.length = (s.dm.cmds.erase x).length := hgrant.length
  refine ⟨hgrant.dm, ?_, honly.mono (by simp)⟩
  rw [hlen, List.length_erase_of_mem hx, Nat.sub_add_cancel (List.length_pos_of_mem hx)]

/-- A command that is done posts its token and is gone (R287, R347). -/
theorem engineDone_over (kind code : Nat) (w : Word) : CmdOver s (completed kind x.part code (engineFree x (enginePost w s))) := by
  have hpost := enginePost_only w s
  have hdm : (enginePost w s).dm = s.dm := hpost.same .dm (by simp)
  have hfree := engineFree_over (s := enginePost w s) (by rwa [hdm]) (by rwa [hpost.same .kv (by simp)])
  generalize enginePost w s = u at *
  generalize engineFree x u = v at *
  obtain ⟨hd, hlen, honly⟩ := hfree
  rw [hdm] at hd hlen
  exact ⟨hd, hlen, ((hpost.mono (by simp)).trans honly).trans ((completed_only _ _ _ v).mono (by simp))⟩

end

section
variable {x : EngineCmd} {e : Nat} (hx : s.dm.cmds.find? (fun c => c.engine == some e) = some x)
include hx

theorem engine_of_find : x.engine = some e := by simpa using List.find?_some hx

/-- What a command leaves whose work stands in `u`: its token is posted and it is gone. -/
theorem engineDone_from (hcmds : u.dm.cmds = s.dm.cmds) (honly : Only [.mem, .dm] s u) (hatt : ∀ a ∈ s.kv.attends, a.left ≠ (0, 0))
    {kind code : Nat} {w : Word} (ht : t = completed kind x.part code (engineFree x (enginePost w u))) :
    t.mem = u.mem ∧ t.dm.cmds.length + 1 = s.dm.cmds.length ∧ t.dm = { u.dm with cmds := t.dm.cmds } ∧
      Only [.mem, .dm, .rm, .tl, .sn, .kv] s t := by
  have hover : CmdOver u t := by
    rw [ht]
    exact engineDone_over (by rw [hcmds]; exact List.mem_of_find?_eq_some hx) (by rwa [honly.same .kv (by simp)]) kind code w
  exact ⟨hover.mem, by rw [hover.length, hcmds], hover.dm, (honly.mono (by simp)).trans (hover.only.mono (by simp))⟩

end
end

end Sys2Proof.Machine
end

section
/-! PROOFS. Haulers (R230, R347, R348): a range that does not wrap in a window, and what a copy or a fill leaves in it. -/

namespace Sys2Proof.Machine

/-! ### Ranges that do not wrap -/

/-- Address in its memory of the first byte of a partition's window, the DRAM window (kind 0) or the staging window of a depot (R230). -/
def windowBase (s : State) (pd : PartDef) (kind depot : Nat) : Nat :=
  if kind = 0 then regionBase s 4 + pd.dramBase * 0x100000 else (if depot = 0 then pd.stgBase.1 else pd.stgBase.2) * 0x10000

/-- Its size in bytes. -/
def windowSize (pd : PartDef) (kind depot : Nat) : Nat :=
  if kind = 0 then pd.dramSize * 0x100000 else (if depot = 0 then pd.stgSize.1 else pd.stgSize.2) * 0x10000

theorem pieces_empty (base n f off o : Nat) : pieces base n f off o 0 = [] := by cases f <;> simp [pieces]

/-- A range within a window is one piece. -/
theorem windowPieces_inside {pd : PartDef} {kind depot off len : Nat} (hlen : 0 < len) (h : off + len ≤ windowSize pd kind depot) (s : State) :
    windowPieces s pd kind depot off len = [(0, windowBase s pd kind depot + off, len)] := by
  have hpieces (base n f : Nat) (hn : off + len ≤ n) : pieces base n (f + 1) off 0 len = [(0, base + off, len)] := by
    have hne : ¬ (len = 0 ∨ n = 0) := by omega
    rw [pieces, if_neg hne]
    simp only [Nat.mod_eq_of_lt (show off < n by omega), Nat.min_eq_left (show len ≤ n - off by omega), Nat.sub_self, pieces_empty]
  exact hpieces _ _ _ h

theorem windowPieces_none (s : State) (pd : PartDef) (kind depot off : Nat) : windowPieces s pd kind depot off 0 = [] := pieces_empty _ _ _ _ _

theorem windowCheck_sound {pd : PartDef} {kind depot off len : Nat} {s : State} (h : s.dm.damage = []) :
    windowCheck pd kind depot off len s = (false, s) := by
  refine List.foldlRecOn (motive := (· = (false, s))) _ _ rfl fun b hb p _ => ?_
  simp only [hb, readCheck_undamaged h, Bool.or_self]

theorem Memory.read_slice {m : Memory} {a n i : Nat} (hi : i < n) : Memory.read (Memory.slice m a n) i = Memory.read m (a + i) := by
  induction m with
  | nil => rfl
  | cons c m ih =>
    obtain ⟨k, b⟩ := c
    by_cases hk : a ≤ k ∧ k < a + n
    · have hcons : Memory.slice ((k, b) :: m) a n = (k - a, b) :: Memory.slice m a n := by simp [Memory.slice, hk]
      simp only [hcons, Memory.read, ih, show k - a = i ↔ k = a + i by omega]
    · have hskip : Memory.slice ((k, b) :: m) a n = Memory.slice m a n := by simp [Memory.slice, hk]
      rw [hskip, ih, Memory.read, if_neg (by omega)]

/-- The bytes of a range of a window, counted from its start. -/
theorem read_windowSlice {pd : PartDef} {kind depot off len i : Nat} (hi : i < len) (h : off + len ≤ windowSize pd kind depot) (s : State) :
    Memory.read (windowSlice s pd kind depot off len) i = Memory.read (memOf s kind depot) (windowBase s pd kind depot + off + i) := by
  simp only [windowSlice, windowPieces_inside (show 0 < len by omega) h, List.flatMap_cons, List.flatMap_nil, List.append_nil, Nat.add_zero,
    List.map_id']
  exact Memory.read_slice hi

theorem memOf_setMemOf (s : State) (kind depot : Nat) (m : Memory) : memOf (setMemOf s kind depot m) kind depot = m := by
  unfold memOf setMemOf stg setStg
  split
  · rfl
  · split <;> rfl

theorem memOf_congr {s t : State} (h : t.mem = s.mem) (kind depot : Nat) : memOf t kind depot = memOf s kind depot := by
  rw [memOf, memOf, stg, stg, h]

theorem setMemOf_only (s : State) (kind depot : Nat) (m : Memory) : Only [.mem] s (setMemOf s kind depot m) :=
  .ite (fun p => by cases p <;> simp [Part.same]) (setStg_only _ _ s)

section
variable (pd : PartDef) (kind depot off len : Nat) (sl : Memory) (s : State)

/-- A slice stored in a window leaves every command as it is. -/
theorem windowBlit_parts : (windowBlit pd kind depot off len sl s).dm.cmds = s.dm.cmds ∧
    Only [.mem, .dm] s (windowBlit pd kind depot off len sl s) := by
  refine List.foldlRecOn (motive := fun t => t.dm.cmds = s.dm.cmds ∧ Only [.mem, .dm] s t) _ _ ⟨rfl, .refl _ s⟩ fun t ht p _ => ?_
  obtain ⟨hcmds, honly⟩ := ht
  have hset := setMemOf_only t kind depot (Memory.blit (memOf t kind depot) p.2.1 p.2.2 (Memory.slice sl p.1 p.2.2))
  have hdm : (setMemOf t kind depot (Memory.blit (memOf t kind depot) p.2.1 p.2.2 (Memory.slice sl p.1 p.2.2))).dm = t.dm := hset.same .dm (by simp)
  generalize setMemOf t kind depot (Memory.blit (memOf t kind depot) p.2.1 p.2.2 (Memory.slice sl p.1 p.2.2)) = u at hset hdm ⊢
  exact ⟨(congrArg _ hdm).trans hcmds, (honly.trans (hset.mono (by simp))).trans ((heal_only _ _ _ _ u).mono (by simp))⟩

variable {pd kind depot off len}

/-- Within a window the slice stands in its range and every other byte of the memory is as before. -/
theorem read_windowBlit (h : off + len ≤ windowSize pd kind depot) (k : Nat) :
    Memory.read (memOf (windowBlit pd kind depot off len sl s) kind depot) k =
      if windowBase s pd kind depot + off ≤ k ∧ k < windowBase s pd kind depot + off + len then
        Memory.read sl (k - (windowBase s pd kind depot + off))
      else Memory.read (memOf s kind depot) k := by
  rcases Nat.eq_zero_or_pos len with rfl | hlen
  · rw [if_neg (by omega), windowBlit, windowPieces_none, List.foldl_nil]
  · rw [windowBlit, windowPieces_inside hlen h, List.foldl_cons, List.foldl_nil, memOf_congr (heal_mem _ _ _ _ _), memOf_setMemOf, Memory.read_blit]
    split
    · rw [Memory.read_slice_zero, if_pos (by omega)]
    · rfl

end

/-! ### Haulers -/

/-- The bytes that a hauler command moves: its source's, or its pattern over and over (R347). -/
def haulerSlice (s : State) (pd : PartDef) (x : EngineCmd) : Memory :=
  if fld (nth x.words 0 0) 0 1 = 0 then windowSlice s pd (hSrcT x) x.depot (fld (nth x.words 1 0) 0 48) (hLen x)
  else if nth x.words 4 0 = 0 then []
  else Memory.cells 0 ((List.range (hLen x / 8)).flatMap (fun _ => leBytes 8 (nth x.words 4 0).toNat))

/-- Byte `i` of a pattern of `c` bytes, repeated. -/
theorem getD_repeat {pat : Bytes} {c n i : Nat} (hc : pat.length = c) (hi : i < c * n) :
    ((List.range n).flatMap (fun _ => pat)).getD i 0 = nth pat (i % c) 0 := by
  have hpos : 0 < c := Nat.pos_of_ne_zero (by rintro rfl; simp at hi)
  have hpiece := piece_of_flatMap (g := fun _ : Nat => pat) (fun _ => hc) (List.range n) (i := i / c)
    (by rw [List.length_range]; exact Nat.div_lt_of_lt_mul hi)
  have hmod : i % c < c := Nat.mod_lt _ hpos
  conv_rhs => rw [← hpiece]
  rw [nth, List.getElem?_take_of_lt hmod, List.getElem?_drop, Nat.div_add_mod, List.getD_eq_getElem?_getD]

section
variable {s : State} {pd : PartDef} {x : EngineCmd}

theorem read_haulerSlice {i : Nat} (hi : i < hLen x) (h8 : hLen x % 8 = 0)
    (hsrc : fld (nth x.words 1 0) 0 48 + hLen x ≤ windowSize pd (hSrcT x) x.depot) :
    Memory.read (haulerSlice s pd x) i =
      if fld (nth x.words 0 0) 0 1 = 0 then
        Memory.read (memOf s (hSrcT x) x.depot) (windowBase s pd (hSrcT x) x.depot + fld (nth x.words 1 0) 0 48 + i)
      else nth (leBytes 8 (nth x.words 4 0).toNat) (i % 8) 0 := by
  unfold haulerSlice
  split
  · exact read_windowSlice hi hsrc s
  · split
    next hzero =>
      have hbytes : leBytes 8 (0 : Word).toNat = List.replicate 8 0 := by decide
      rw [hzero, hbytes, nth, List.getElem?_replicate, if_pos (by omega)]
      rfl
    next =>
      have hlen : ((List.range (hLen x / 8)).flatMap (fun _ => leBytes 8 (nth x.words 4 0).toNat)).length = hLen x := by
        simp [List.length_flatMap]
        omega
      rw [Memory.read_cells, hlen, if_pos (by omega), Nat.sub_zero, getD_repeat (length_leBytes 8 _) (by omega)]

/-- A hauler command that meets no damage stores its bytes, posts its token and is gone (R347, R348). -/
theorem haulerDone_eq {idx : Nat} (hx : s.dm.cmds.find? (fun c => c.engine == some (8 + idx)) = some x) (hpd : part? s x.part = some pd)
    (hsound : s.dm.damage = []) :
    haulerDone idx s = completed 2 x.part cOk (engineFree x (enginePost (nth x.words 5 0)
      (windowBlit pd (hDstT x) x.depot (fld (nth x.words 2 0) 0 48) (hLen x) (haulerSlice s pd x) s))) := by
  simp only [haulerDone, hx, hpd, windowCheck_sound hsound, ite_self, Bool.false_eq_true, ↓reduceIte]
  rfl

/-- What a hauler command leaves whose ranges do not wrap. -/
theorem haulerDone_parts {idx : Nat} (hx : s.dm.cmds.find? (fun c => c.engine == some (8 + idx)) = some x) (hpd : part? s x.part = some pd)
    (hsound : s.dm.damage = []) (hatt : ∀ a ∈ s.kv.attends, a.left ≠ (0, 0)) (h8 : hLen x % 8 = 0)
    (hsrc : fld (nth x.words 1 0) 0 48 + hLen x ≤ windowSize pd (hSrcT x) x.depot)
    (hdst : fld (nth x.words 2 0) 0 48 + hLen x ≤ windowSize pd (hDstT x) x.depot) :
    (∀ i < hLen x, Memory.read (memOf (haulerDone idx s) (hDstT x) x.depot) (windowBase s pd (hDstT x) x.depot + fld (nth x.words 2 0) 0 48 + i) =
      if fld (nth x.words 0 0) 0 1 = 0 then
        Memory.read (memOf s (hSrcT x) x.depot) (windowBase s pd (hSrcT x) x.depot + fld (nth x.words 1 0) 0 48 + i)
      else nth (leBytes 8 (nth x.words 4 0).toNat) (i % 8) 0) ∧
    SameBut (memOf s (hDstT x) x.depot) (memOf (haulerDone idx s) (hDstT x) x.depot)
      (windowBase s pd (hDstT x) x.depot + fld (nth x.words 2 0) 0 48) (hLen x) ∧
    (haulerDone idx s).dm.cmds.length + 1 = s.dm.cmds.length ∧ Only [.mem, .dm, .rm, .tl, .sn, .kv] s (haulerDone idx s) := by
  obtain ⟨hcmds, hblit⟩ := windowBlit_parts pd (hDstT x) x.depot (fld (nth x.words 2 0) 0 48) (hLen x) (haulerSlice s pd x) s
  have hread := read_windowBlit (haulerSlice s pd x) s hdst
  obtain ⟨hmem, hlen, -, hframe⟩ := engineDone_from hx hcmds hblit hatt (haulerDone_eq hx hpd hsound)
  rw [memOf_congr hmem]
  refine ⟨fun i hi => ?_, fun k hk => ?_, hlen, hframe⟩
  · rw [hread, if_pos (by omega), Nat.add_sub_cancel_left, read_haulerSlice hi h8 hsrc]
  · rw [hread, if_neg hk]

end

end Sys2Proof.Machine
end

section
/-! PROOFS. The ZR64 codec (R264, R283 to R288): rows packed, rows unpacked, and a row that fails its checks. -/

namespace Sys2Proof.Machine

/-! ### Counters -/

theorem satAdd_zero (c : BitVec 32) : satAdd c 0 = c := by
  have := c.isLt
  rw [satAdd, if_neg (by omega), Nat.add_zero, BitVec.ofNat_toNat, BitVec.setWidth_eq]

theorem toNat_satAdd (c : BitVec 32) (n : Nat) : (satAdd c n).toNat = min (c.toNat + n) (2 ^ 32 - 1) := by
  unfold satAdd
  split
  · rw [BitVec.toNat_ofNat]
    omega
  · rw [BitVec.toNat_ofNat, Nat.mod_eq_of_lt (by omega)]
    omega

/-- A counter that stops at its end counts several events as it counts them one by one. -/
theorem satAdd_satAdd (c : BitVec 32) (m n : Nat) : satAdd (satAdd c m) n = satAdd c (m + n) :=
  BitVec.eq_of_toNat_eq (by simp only [toNat_satAdd]; omega)

/-! ### Packing -/

section
variable {s : State} {pd : PartDef} {x : EngineCmd}

theorem zrCount_only (k n : Nat) (s : State) : Only [.dm] s (zrCount k n s) := fun p => by cases p <;> simp [Part.same, zrCount]

theorem dramWinWrite_frame (pd : PartDef) (off : Nat) (bs : Bytes) (s : State) : (dramWinWrite pd off bs s).dm.cmds = s.dm.cmds ∧
    (dramWinWrite pd off bs s).dm.zrCnt = s.dm.zrCnt ∧ Only [.mem, .dm] s (dramWinWrite pd off bs s) := by
  unfold dramWinWrite
  split
  · exact ⟨rfl, rfl, .refl _ s⟩
  · exact ⟨rfl, rfl, fun p => by cases p <;> simp [Part.same]⟩

/-- What `n` packed rows leave beside their bytes: `n` rows more counted (R288). -/
structure RowsPacked (n : Nat) (s t : State) : Prop where
  cmds : t.dm.cmds = s.dm.cmds
  count : tabGet t.dm.zrCnt 0 0 = satAdd (tabGet s.dm.zrCnt 0 0) n
  only : Only [.mem, .dm] s t

/-- The bytes of a row and its absent lanes, from its plain lines in staging (R284). -/
def zrPacked (x : EngineCmd) (pd : PartDef) (k : Nat) (s : State) : Bytes × Nat :=
  zrPackRow (zForm x) (zRow0 x + k) (zCblk x) ((List.range (zW x)).map (fun i =>
    ((stgWinRead s pd x.depot (zStg x + k * zW x * 256) (zW x * 256)).drop (256 * i)).take 256))

theorem packRow_eq (x : EngineCmd) (pd : PartDef) (k : Nat) (s : State) :
    packRow x pd k s = zrCount 0 1 (zrAbsent (zrPacked x pd k s).2 (dramWinWrite pd (zrAt s x (zRow0 x + k)) (zrPacked x pd k s).1 s)) := rfl

theorem packRow_mem (x : EngineCmd) (pd : PartDef) (k : Nat) (s : State) :
    (packRow x pd k s).mem = (dramWinWrite pd (zrAt s x (zRow0 x + k)) (zrPacked x pd k s).1 s).mem := rfl

theorem packRow_packed (x : EngineCmd) (pd : PartDef) (k : Nat) (s : State) : RowsPacked 1 s (packRow x pd k s) := by
  obtain ⟨hcmds, hcnt, honly⟩ := dramWinWrite_frame pd (zrAt s x (zRow0 x + k)) (zrPacked x pd k s).1 s
  rw [packRow_eq]
  generalize dramWinWrite pd (zrAt s x (zRow0 x + k)) (zrPacked x pd k s).1 s = u at *
  refine ⟨hcmds, ?_, honly.trans fun p => by cases p <;> simp [Part.same, zrAbsent, zrCount]⟩
  simp only [zrAbsent, zrCount, cntAdd, tabGet_tabSet_self, tabGet_tabSet_ne _ 3 0 _ _ (by decide), hcnt]

theorem packRows_packed (x : EngineCmd) (pd : PartDef) (n : Nat) (s : State) :
    RowsPacked n s ((List.range n).foldl (fun s k => packRow x pd k s) s) := by
  induction n with
  | zero => exact ⟨rfl, (satAdd_zero _).symm, .refl _ s⟩
  | succ n ih =>
    rw [List.range_succ, List.foldl_append, List.foldl_cons, List.foldl_nil]
    have hrow := packRow_packed x pd n ((List.range n).foldl (fun s k => packRow x pd k s) s)
    exact ⟨hrow.cmds.trans ih.cmds, by rw [hrow.count, ih.count, satAdd_satAdd], ih.only.trans hrow.only⟩

theorem unpackTouch_sound {s : State} {pd : PartDef} {x : EngineCmd} (hsound : s.dm.damage = []) : unpackTouch x pd s = (false, s) := by
  refine List.foldlRecOn (motive := (· = (false, s))) _ _ rfl fun b hb k _ => ?_
  simp only [hb, dramCheck, readCheck_undamaged hsound, ite_self, Bool.or_self]

theorem stgWinWrite_frame (pd : PartDef) (depot off : Nat) (bs : Bytes) (s : State) : (stgWinWrite pd depot off bs s).dm.cmds = s.dm.cmds ∧
    (stgWinWrite pd depot off bs s).dm.zrCnt = s.dm.zrCnt ∧ Only [.mem, .dm] s (stgWinWrite pd depot off bs s) := by
  unfold stgWinWrite
  split
  · have hset := setStg_only depot (Memory.writeCells (stg s depot)
      (((List.range bs.length).zip bs).map (fun c => (stgAddr pd depot (off + c.1), c.2)))) s
    generalize setStg s depot _ = u at hset ⊢
    have hdm : u.dm = s.dm := hset.same .dm (by simp)
    have hcmds : u.dm.cmds = s.dm.cmds := congrArg _ hdm
    have hcnt : u.dm.zrCnt = s.dm.zrCnt := congrArg _ hdm
    exact ⟨hcmds, hcnt, (hset.mono (by simp)).trans ((heal_only _ _ _ _ u).mono (by simp))⟩
  · exact ⟨rfl, rfl, .refl _ s⟩

/-- DM_ZR_LAST where row `k` of a command fails its checks at block `b` (R288). -/
def zrFault (x : EngineCmd) (k b : Nat) : Word :=
  place b 48 16 ||| place (zRow0 x + k) 32 16 ||| place (zCblk x) 22 10 ||| place x.part 18 4 ||| place x.depot 17 1

/-- The state in which row `k` of a command is known to fail its checks at block `b` (R286, R288). -/
def rowMissed (x : EngineCmd) (k b : Nat) (s : State) : State :=
  snCount 0 1 (zrCount 2 1 { s with dm := { s.dm with zrLast := zrFault x k b } })

section
variable {idx : Nat} (hx : s.dm.cmds.find? (fun c => c.engine == some (6 + idx)) = some x) (hpd : part? s x.part = some pd)
  (hsound : s.dm.damage = []) (hatt : ∀ a ∈ s.kv.attends, a.left ≠ (0, 0))
include hx hpd hsound

theorem codecDone_pack (hop : fld (nth x.words 0 0) 0 1 = 0) :
    codecDone idx s = completed 1 x.part cOk (engineFree x (enginePost (nth x.words 3 0)
      ((List.range (zRows x)).foldl (fun s k => packRow x pd k s) s))) := by
  simp only [codecDone, hx, hpd, windowCheck_sound hsound, hop, Bool.false_eq_true, ↓reduceIte]

theorem codecDone_unpack (hop : fld (nth x.words 0 0) 0 1 = 1) {ls : List Bytes} (hrows : unpackRows x pd s (zRows x) 0 [] = .inr ls) :
    codecDone idx s = completed 1 x.part cOk (engineFree x (enginePost (nth x.words 3 0)
      (zrCount 1 (zRows x) (stgWinWrite pd x.depot (zStg x) (ls.flatMap id) s)))) := by
  simp only [codecDone, hx, hpd, unpackTouch_sound hsound, hop, hrows, Bool.false_eq_true, one_ne_zero, ↓reduceIte]

/-- A row that fails its checks is reported and counted, and ends the command's pages (R286, R288). -/
theorem codecDone_mismatch (hop : fld (nth x.words 0 0) 0 1 = 1) {k b : Nat} (hrows : unpackRows x pd s (zRows x) 0 [] = .inl (k, b)) :
    codecDone idx s = completed 1 x.part cZrMismatch (engineFree x (operatorFail x.pages x.part cZrMismatch (rowMissed x k b s))) := by
  simp only [codecDone, hx, hpd, unpackTouch_sound hsound, hop, hrows, Bool.false_eq_true, one_ne_zero, ↓reduceIte]
  rfl

include hatt

theorem codecDone_pack_parts (hop : fld (nth x.words 0 0) 0 1 = 0) :
    (codecDone idx s).mem = ((List.range (zRows x)).foldl (fun s k => packRow x pd k s) s).mem ∧
      tabGet (codecDone idx s).dm.zrCnt 0 0 = satAdd (tabGet s.dm.zrCnt 0 0) (zRows x) ∧
      (codecDone idx s).dm.cmds.length + 1 = s.dm.cmds.length ∧ Only [.mem, .dm, .rm, .tl, .sn, .kv] s (codecDone idx s) := by
  obtain ⟨hcmds, hcnt, honly⟩ := packRows_packed x pd (zRows x) s
  obtain ⟨hmem, hlen, hdm, hframe⟩ := engineDone_from hx hcmds honly hatt (codecDone_pack hx hpd hsound hop)
  exact ⟨hmem, by rw [hdm, hcnt], hlen, hframe⟩

theorem codecDone_unpack_parts (hop : fld (nth x.words 0 0) 0 1 = 1) {ls : List Bytes} (hrows : unpackRows x pd s (zRows x) 0 [] = .inr ls) :
    (codecDone idx s).mem = (stgWinWrite pd x.depot (zStg x) (ls.flatMap id) s).mem ∧
      tabGet (codecDone idx s).dm.zrCnt 1 0 = satAdd (tabGet s.dm.zrCnt 1 0) (zRows x) ∧
      (codecDone idx s).dm.cmds.length + 1 = s.dm.cmds.length ∧ Only [.mem, .dm, .rm, .tl, .sn, .kv] s (codecDone idx s) := by
  obtain ⟨hcmds, hcnt, honly⟩ := stgWinWrite_frame pd x.depot (zStg x) (ls.flatMap id) s
  obtain ⟨hmem, hlen, hdm, hframe⟩ := engineDone_from hx (u := zrCount 1 (zRows x) _) hcmds
    (honly.trans ((zrCount_only _ _ _).mono (by simp))) hatt (codecDone_unpack hx hpd hsound hop hrows)
  exact ⟨hmem, by rw [hdm, ← hcnt]; exact tabGet_tabSet_self .., hlen, hframe⟩

end
end

/-! ### Pages that a failed command ends -/

/-- What the end of pages leaves of the engines' work (R264): commands that run stay, attends stay, and of the memories only staging may change. -/
structure WorkKept (s t : State) : Prop where
  dm : t.dm = { s.dm with cmds := t.dm.cmds }
  running : ∀ c ∈ s.dm.cmds, c.engine.isSome = true → c ∈ t.dm.cmds
  fewer : t.dm.cmds.length ≤ s.dm.cmds.length
  attends : t.kv.attends = s.kv.attends
  mem : t.mem = { s.mem with stg0 := t.mem.stg0, stg1 := t.mem.stg1 }

section
variable {s t u : State}

theorem WorkKept.refl (s : State) : WorkKept s s := ⟨rfl, fun _ h _ => h, le_rfl, rfl, rfl⟩

theorem WorkKept.trans (h : WorkKept s t) (k : WorkKept t u) : WorkKept s u where
  dm := k.dm.trans (by rw [h.dm])
  running := fun c hc hr => k.running c (h.running c hc hr) hr
  fewer := k.fewer.trans h.fewer
  attends := k.attends.trans h.attends
  mem := k.mem.trans (by rw [h.mem])

theorem WorkKept.of_only {ps : List Part} (h : Only ps s t) (hdm : .dm ∉ ps) (hkv : .kv ∉ ps) (hmem : .mem ∉ ps) : WorkKept s t := by
  have hd : t.dm = s.dm := h.same .dm hdm
  have hk : t.kv = s.kv := h.same .kv hkv
  have hm : t.mem = s.mem := h.same .mem hmem
  exact ⟨by rw [hd], fun c hc _ => by rwa [hd], by rw [hd], by rw [hk], by rw [hm]⟩

theorem setStg_kept (s : State) (depot : Nat) (m : Memory) : WorkKept s (setStg s depot m) := by
  unfold setStg
  split <;> exact ⟨rfl, fun _ h _ => h, le_rfl, rfl, rfl⟩

theorem dropTabs_kept (gone : List Nat) (s : State) : WorkKept s (dropTabs gone s) := by
  unfold dropTabs
  refine WorkKept.trans (List.foldlRecOn (motive := WorkKept s) _ _ (.refl s) fun u hu t _ => hu.trans ?_) ⟨rfl, fun _ h _ => h, le_rfl, rfl, rfl⟩
  split
  · exact setStg_kept u _ _
  · exact .refl u

theorem freeSeqs_kept (s : State) : WorkKept s (freeSeqs s) := by
  unfold freeSeqs
  refine WorkKept.trans ?_ (dropTabs_kept _ _)
  exact ⟨rfl, fun _ h _ => h, le_rfl, rfl, rfl⟩

theorem dropRows_kept (pid : BitVec 32) (s : State) : WorkKept s (dropRows pid s) := ⟨rfl, fun _ h _ => h, le_rfl, rfl, rfl⟩

/-- Of the engines' commands only such as wait are dropped with their pages (R264). -/
theorem pruneReady_kept (s : State) : WorkKept s (pruneReady s) :=
  ⟨rfl, fun _ hc hr => List.mem_filter.2 ⟨hc, by simp [hr]⟩, List.length_filter_le _ _, rfl, rfl⟩

theorem endPage_kept {code : Nat} (hcode : code < 256) (hlost : code ≠ cInputLost) (pid : BitVec 32) (s : State) :
    WorkKept s (endPage pid code s) := by
  cases hp : page? s pid with
  | none =>
    simp only [endPage, hp]
    exact .refl s
  | some p =>
    by_cases hstage : p.stage = .output ∨ p.stage = .released
    · simp only [endPage, hp, hstage, ↓reduceIte]
      exact .refl s
    · obtain ⟨ho, hr⟩ := not_or.1 hstage
      have hp' : page? (dropRows pid s) pid = some p := hp
      rw [endPage_eq hp ho hr hlost, pageDone_eq hp' (by simpa using pageRec_status hcode hlost pid p.cseq (p.door != 0))]
      refine WorkKept.trans ((dropRows_kept pid s).trans (WorkKept.trans (.of_only (ps := [.pp, .dq]) ?_ (by simp) (by simp) (by simp))
        (freeSeqs_kept _))) (pruneReady_kept _)
      exact (((giveOrOwe_only _ _ _).mono (by simp)).trans ((setPage_only _ _).mono (by simp))).trans ((modQueue_only _ _ _).mono (by simp))

/-- A codec command that fails ends its pages and logs its event (R264). -/
theorem operatorFail_kept (pages : List (BitVec 32)) (part : Nat) (s : State) : WorkKept s (operatorFail pages part cZrMismatch s) ∧
    Only [.sn, .pp, .dq, .kv, .mem, .rm, .dm] s (operatorFail pages part cZrMismatch s) ∧
    (pages = [] → (operatorFail pages part cZrMismatch s).mem = s.mem) := by
  have hwork : WorkKept s (pages.foldl (fun s p => endPage p cZrMismatch s) s) :=
    List.foldlRecOn (motive := WorkKept s) _ _ (.refl s) fun _ h p _ => h.trans (endPage_kept (by decide) (by decide) p _)
  obtain ⟨v, hended, hv, hfail⟩ := operatorFail_parts (code := cZrMismatch) (by decide) (by decide) pages part s
  rw [← hv] at hwork
  have hlog := barker_noted_only (sev := 1) (by decide) 0x0301 { status := cZrMismatch, part := part } v
  rw [hfail]
  generalize barker 0x0301 1 { status := cZrMismatch, part := part } v = t at hlog ⊢
  refine ⟨hwork.trans (.of_only hlog (by simp) (by simp) (by simp)), (hended.only.mono (by simp)).trans (hlog.mono (by simp)), fun hnil => ?_⟩
  rw [hnil] at hv
  exact (hlog.same .mem (by simp)).trans (congrArg _ hv)

section
variable {pd : PartDef} {x : EngineCmd}

theorem rowMissed_only (x : EngineCmd) (k b : Nat) (s : State) : Only [.dm, .sn] s (rowMissed x k b s) := fun p => by
  cases p <;> simp [Part.same, rowMissed, zrCount]

/-- A row that fails is named and counted, and of the memories only the staging of ended pages' tables changes (R286, R288). -/
theorem codecDone_mismatch_parts {idx : Nat} (hx : s.dm.cmds.find? (fun c => c.engine == some (6 + idx)) = some x) (hpd : part? s x.part = some pd)
    (hsound : s.dm.damage = []) (hatt : ∀ a ∈ s.kv.attends, a.left ≠ (0, 0)) (hop : fld (nth x.words 0 0) 0 1 = 1) {k b : Nat}
    (hrows : unpackRows x pd s (zRows x) 0 [] = .inl (k, b)) :
    (codecDone idx s).dm.zrLast = zrFault x k b ∧ tabGet (codecDone idx s).dm.zrCnt 2 0 = satAdd (tabGet s.dm.zrCnt 2 0) 1 ∧
      (codecDone idx s).dm.cmds.length < s.dm.cmds.length ∧
      (codecDone idx s).mem = { s.mem with stg0 := (codecDone idx s).mem.stg0, stg1 := (codecDone idx s).mem.stg1 } ∧
      (x.pages = [] → (codecDone idx s).mem = s.mem) ∧ Only [.dm, .rm, .sn, .pp, .dq, .kv, .mem] s (codecDone idx s) := by
  have hmiss := rowMissed_only x k b s
  have hlast : (rowMissed x k b s).dm.zrLast = zrFault x k b := rfl
  have hcnt : tabGet (rowMissed x k b s).dm.zrCnt 2 0 = satAdd (tabGet s.dm.zrCnt 2 0) 1 := tabGet_tabSet_self ..
  have hcmds : (rowMissed x k b s).dm.cmds = s.dm.cmds := rfl
  rw [codecDone_mismatch hx hpd hsound hop hrows]
  generalize rowMissed x k b s = u at hmiss hlast hcnt hcmds ⊢
  obtain ⟨hwork, honly, hnil⟩ := operatorFail_kept x.pages x.part u
  generalize operatorFail x.pages x.part cZrMismatch u = v at hwork honly hnil ⊢
  have hmem : x ∈ v.dm.cmds := hwork.running x (by rw [hcmds]; exact List.mem_of_find?_eq_some hx)
    (by simp only [engine_of_find hx, Option.isSome_some])
  have hatt' : ∀ a ∈ v.kv.attends, a.left ≠ (0, 0) := by rwa [hwork.attends, hmiss.same .kv (by simp)]
  have hover := engineFree_over hmem hatt'
  have hfree := (engineFree_parts hatt' x).2
  have hend := completed_only 1 x.part cZrMismatch (engineFree x v)
  generalize engineFree x v = w at hover hfree hend ⊢
  have hdm : (completed 1 x.part cZrMismatch w).dm = w.dm := hend.same .dm (by simp)
  have hkeep : (completed 1 x.part cZrMismatch w).mem = v.mem := (hend.same .mem (by simp)).trans (hfree.same .mem (by simp))
  have hmem' : u.mem = s.mem := hmiss.same .mem (by simp)
  rw [hdm, hkeep]
  refine ⟨by rw [hover.dm, hwork.dm, hlast], by rw [hover.dm, hwork.dm, hcnt], ?_, by rw [hwork.mem, hmem'], fun h => (hnil h).trans hmem', ?_⟩
  · have hlen := hover.length
    have hfew := hwork.fewer
    rw [hcmds] at hfew
    omega
  · exact (((hmiss.mono (by simp)).trans (honly.mono (by simp))).trans (hfree.mono (by simp))).trans (hend.mono (by simp))

end
end

/-! ### The statement -/

/-- The rows that take a command: the command that joins, its OP or DIR, what refuses it, and the kind under which it completes (R287, R347). -/
def engineRows (p : BitVec 4) (ws : List Word) (pages : List (BitVec 32)) : List (Instr × EngineCmd × Nat × Nat × Nat) :=
  [(.haulerCopy p ws, ⟨true, none, p.toNat, [], ws, 1⟩, 0, haulerCode ws, 2),
    (.haulerFill p ws, ⟨true, none, p.toNat, [], ws, 1⟩, 1, haulerCode ws, 2),
    (.codecPack p pages ws, ⟨false, none, p.toNat, pages, ws, 1⟩, 0, codecCode ws, 1),
    (.codecUnpack p pages ws, ⟨false, none, p.toNat, pages, ws, 1⟩, 1, codecCode ws, 1)]

/-- A row takes its command if that is its own and names a partition: it is refused, or joins. -/
theorem exec_engineRow {s : State} (hl : Live s) {p : BitVec 4} {ws : List Word} {pages : List (BitVec 32)} {c : Instr} {n : EngineCmd}
    {op code kind : Nat} (h : (c, n, op, code, kind) ∈ engineRows p ws pages) :
    n.engine = none ∧ n.part = p.toNat ∧ exec c s = .next (if fld (nth ws 0 0) 0 1 ≠ op ∨ (part? s p.toNat).isNone then s
      else if code ≠ 0 then (if kind = 2 then completed 2 p.toNat code s else operatorFail pages p.toNat code (completed 1 p.toNat code s))
      else addCmd n s) := by
  simp only [engineRows, List.mem_cons, List.not_mem_nil, or_false, Prod.mk.injEq] at h
  rcases h with ⟨rfl, rfl, rfl, rfl, rfl⟩ | ⟨rfl, rfl, rfl, rfl, rfl⟩ | ⟨rfl, rfl, rfl, rfl, rfl⟩ | ⟨rfl, rfl, rfl, rfl, rfl⟩
  all_goals exact ⟨rfl, rfl, run_live hl _⟩

theorem find_engine_none {s : State} {e : Nat} (h : ∀ x ∈ s.dm.cmds, x.engine ≠ some e) :
    s.dm.cmds.find? (fun c => c.engine == some e) = none :=
  List.find?_eq_none.2 fun x hx => by simpa using h x hx

/-- Settles O46: a command joins and starts by `addCmd_parts` and `addCmd_starts`; a hauler's bytes are in place by `haulerDone_parts`, and a codec's
rows by `codecDone_pack_parts` and `codecDone_unpack_parts`; a row that fails is reported by `codecDone_mismatch_parts`. -/
theorem haulersAndCodecs : Obligations.HaulersAndCodecs := by
  intro s p ws pages hl
  have hhauler (idx : Nat) : exec (.haulerDone idx) s = .next (haulerDone idx s) := run_live hl _
  have hcodec (idx : Nat) : exec (.codecDone idx) s = .next (codecDone idx s) := run_live hl _
  refine ⟨fun c n op code kind hc => ?taken, fun idx => ⟨fun hidle => ?_, fun hidle => ?_⟩, fun idx x pd hsound hatt hpd =>
    ⟨fun B N src dst hx hB hN hsrc hdst h8 hfrom hto => ?hauler, fun hx =>
      ⟨fun hop => ?pack, fun hop ls hrows => ?unpack, fun hop k b hrows => ?missed⟩⟩⟩
  case taken =>
    obtain ⟨hfree, hpart, hexec⟩ := exec_engineRow hl hc
    refine ⟨fun hno => ?_, fun pd hop hpd => ⟨fun hbad => ?_, fun hok => ?_⟩⟩
    · rw [hexec, if_pos (by simpa using hno)]
    · rw [hexec, if_neg (not_or.2 ⟨not_not.2 hop, by simp [hpd]⟩), if_pos hbad]
    · have hstart (hshare : pd.share ≠ 0) (happ : applying s p.toNat = false) :=
        addCmd_starts hfree (by rw [hpart]; exact p.isLt) (by rwa [hpart]) hshare (by rwa [hpart])
      obtain ⟨hall, hrun, honly⟩ := addCmd_parts n s
      rw [if_neg (not_or.2 ⟨not_not.2 hop, by simp [hpd]⟩), if_neg (not_not.2 hok)] at hexec
      generalize addCmd n s = t at hexec hall hrun honly hstart
      exact ⟨t, hexec, hall, hrun, hstart, honly⟩
  · rw [hhauler, haulerDone, find_engine_none hidle]
  · rw [hcodec, codecDone, find_engine_none hidle]
  case hauler =>
    subst hB hN hsrc hdst
    exact ⟨_, hhauler idx, haulerDone_parts hx hpd hsound hatt h8 hfrom hto⟩
  case pack =>
    obtain ⟨hmem, hcnt, hlen, honly⟩ := codecDone_pack_parts hx hpd hsound hatt hop
    refine ⟨_, hcodec idx, hmem, fun hone row n hrow => ?_, hcnt, hlen, honly⟩
    have hpacked : zrPacked x pd 0 s = (row, n) := by simp only [zrPacked, Nat.zero_mul, Nat.add_zero, hrow]
    rw [hmem, hone, List.range_one, List.foldl_cons, List.foldl_nil, packRow_mem, hpacked, Nat.add_zero]
  case unpack => exact ⟨_, hcodec idx, codecDone_unpack_parts hx hpd hsound hatt hop hrows⟩
  case missed => exact ⟨_, hcodec idx, codecDone_mismatch_parts hx hpd hsound hatt hop hrows⟩

end Sys2Proof.Machine
end
